-- ==== Sys2Proof/Word.lean ====
section
/-!
DEFINITION. The words of the DVS-24: bytes, 64-bit words, tags (R60) and tagged words (R54), and the
sparse, key-sorted store of which the state is built.
-/

namespace Sys2Proof

/-- A byte of memory. -/
abbrev Byte := BitVec 8

/-- A 64-bit register or memory word. -/
abbrev W64 := BitVec 64

/-- A word's tag (R60): 0 RAW, 1 INT, 2 FLT, 3 PTR, 4 DESC, 5 KEYH, 6 STAT, 7 CODE, 8 to 14 reserved,
15 POISON. -/
abbrev Tag := BitVec 4

/-- A 64-bit value with the 4-bit tag that moves with it (R54). -/
structure TWord where
  v : W64
  t : Tag
deriving DecidableEq, Repr

/-- A sparse store: pairs of a number and a value, the numbers strictly rising. -/
abbrev Store (α : Type) := List (Nat × α)

end Sys2Proof
end

