-- ==== Sys2Proof/Syntax.lean ====
section
/-!
DEFINITION. The commands of the module: one constructor of `Instr` for each row of the opcode table.
The rows that are instructions name the physical engine that issues them and the operand fields of their
format; the rows that are events name what the outside world or the passing of time brings with them.
-/

namespace Sys2Proof

/-- The operand fields of format S (R71): MODE, OPND and the extension word of MODE 7 (R72). -/
structure SOp where
  mode : BitVec 3
  opnd : BitVec 20
  ext  : BitVec 32
deriving DecidableEq, Repr

/-- The operand fields of format B (R71): condition or index select, and signed word displacement. -/
structure BOp where
  sel  : BitVec 4
  disp : BitVec 22
deriving DecidableEq, Repr

/-- The operand field and the register number or function code of format Y (R80). -/
structure YOp where
  opf : BitVec 11
  fn  : BitVec 12
deriving DecidableEq, Repr

/-- The operand fields of format VR (R161); `sc` is FN[6], the S bit. -/
structure VR where
  vd : BitVec 5
  va : BitVec 5
  vb : BitVec 5
  vm : Bool
  ms : BitVec 3
  sc : Bool
deriving DecidableEq, Repr

/-- The operand fields of format VM (R161). -/
structure VM where
  vd   : BitVec 5
  base : Bool
  nf   : BitVec 2
  vi   : BitVec 5
  vm   : Bool
  ms   : BitVec 3
  fn   : BitVec 6
deriving DecidableEq, Repr

/-- The operand fields of format T (R228); `low` is bits [3:0]. -/
structure TOp where
  td   : BitVec 4
  ta   : BitVec 4
  tb   : BitVec 4
  ad   : BitVec 2
  h    : Bool
  hs   : Bool
  p    : Bool
  base : Bool
  low  : BitVec 4
deriving DecidableEq, Repr

/-- The operand fields of an atomic instruction (R446); `low` is bits [5:0]. -/
structure AOp where
  base : BitVec 2
  disp : BitVec 9
  line : Bool
  ret  : Bool
  low  : BitVec 6
deriving DecidableEq, Repr

/-- What a cache's read finds (R360): the line, the level in an engine (0 L1 instruction, 1 L1 data, 2 engine cache),
what is wrong (1 correctable data, 2 uncorrectable data, 3 address-tag parity, 4 correctable state, 5 uncorrectable
state with the tag parity good, 6 uncorrectable state and tag parity), and the 64-bit word or 32-byte sector of a data
error. -/
structure CacheErr where
  line  : Nat
  level : BitVec 2
  what  : BitVec 3
  word  : BitVec 4
deriving DecidableEq, Repr

/-- The source of a prefetch candidate (R386, R387): a stream, a software descriptor, or the address of an operand row of
the memory-streamed pass in flight. -/
inductive PfSrc where
  | stream (i : Nat)
  | desc (i : Nat)
  | pass (va : W64)
deriving DecidableEq, Repr


/-- A transaction as it arrives at a port (R492, R493): the header's fields, the bytes of its slots after the header without
the seal slot, the counter of its seal slot and whether its seal verifies. Two fields have no place in the header's
layout: whether an `xadd` element operand is an integer, and the logical engine that sent a message. -/
structure NetTxn where
  opc    : Byte
  kdom   : Byte
  dst    : BitVec 12
  src    : BitVec 12
  tid    : BitVec 16
  len    : BitVec 4
  nidx   : BitVec 4
  sealed : Bool
  rsv    : BitVec 6
  hops   : BitVec 2
  aux    : BitVec 7
  addr   : BitVec 48
  slots  : List Byte
  ctr    : W64
  tagOk  : Bool
  isInt  : Bool
  srcEng : BitVec 7
deriving DecidableEq, Repr

/-- A flit as it arrives at a port (R473 to R476): whether its CRC and its tag are valid, its header, the slot directory,
the bytes of slots 1 to 14. -/
structure NetFlit where
  crcOk : Bool
  tagOk : Bool
  hdr   : BitVec 32
  dir   : BitVec 56
  slots : List Byte
deriving DecidableEq, Repr

/-- What the check of a partner's identity chain finds (R489): the root it ends in (none: no trusted root; 0 the Haldoft
root; n the switch root of subindex n) and the SHA-384 digest of the partner's DeviceID key. -/
structure CertFacts where
  root   : Option (BitVec 4)
  digest : List Byte
deriving DecidableEq, Repr

/-- A configuration write of the host (R555, R562): MSI-X Enable, Bus Master Enable, VF Enable, or log2 of the BAR2 size. -/
inductive CfgReq where
  | msixEnable (b : Bool)
  | busMaster (b : Bool)
  | vfEnable (b : Bool)
  | bar2Size (n : BitVec 6)
deriving DecidableEq, Repr

/-- A TDISP request (R568): LOCK_INTERFACE with the stream it binds, START_INTERFACE, STOP_INTERFACE. -/
inductive TdispReq where
  | lock (stream : Fin 5)
  | start
  | stop
deriving DecidableEq, Repr

/-- An arbiter (R578): the output of a router of a die (stop, direction N, E, S, W, local), a pier's ingress, the egress of
a Span end of a die, a port's agent stage, a port's requester stage, PCIe egress. -/
inductive ArbInst where
  | router (d : Fin 4) (stop : Fin 32) (out : Fin 5)
  | pier (p : Fin 128)
  | span (d : Fin 4) (k : Fin 3)
  | agent (p : Fin 32)
  | queues (p : Fin 32)
  | pcie
deriving DecidableEq, Repr

/-- A request presented to an arbiter in a cycle (R571, R572): its input, its urgency class, the beats of the transfer. -/
structure ArbReq where
  input : BitVec 7
  cls   : BitVec 2
  beats : BitVec 12
deriving DecidableEq, Repr

/-- A regulator's report (R600, R601): mean current in units of 10 mA, mean voltage in mV. -/
structure RailRep where
  cur  : BitVec 32
  volt : BitVec 16
deriving DecidableEq, Repr

/-- A resource that a retirement trigger names (R627): a physical engine, a way of a pier, a row of a stack (local
pseudo-channel, bank, row), a pseudo-channel of a stack, a whole stack. -/
inductive RetRes where
  | engine (p : Fin 104)
  | way (p : Fin 128) (k : Fin 16)
  | row (h : Fin 24) (pc : Fin 64) (bank : Fin 16) (row : Nat)
  | pc (h : Fin 24) (pc : Fin 64)
  | stack (h : Fin 24)
deriving DecidableEq, Repr

/-- What the environment decides of a write to the persistent store (R684, R640): the slots whose record cannot be
written; the slot during whose record a reset strikes, where one does; and for a write that starts an activation, the
slots whose copy of the bank Keystone finds valid. -/
structure StoreOut where
  fails : BitVec 3
  cut   : Option (Fin 3)
  valid : BitVec 3
deriving DecidableEq, Repr

/-- A path to the dictionary (R668). -/
inductive DictPath where
  | host
  | monitor
  | tray
  | mgmt
deriving DecidableEq, Repr

/-- A path on which a segmented transfer can be open (R671, R677, R679). -/
inductive SegPath where
  | host
  | monitor
  | gatemi
  | node (n : BitVec 12)
deriving DecidableEq, Repr

/-- A mailbox window (R669). -/
inductive MbWin where
  | host
  | monitor
deriving DecidableEq, Repr

/-- An event object (R678): `ovf` is a subindex of the counter-overflow summary. -/
inductive EvSrc where
  | link
  | avail
  | power
  | firmware
  | store
  | ovf (k : Fin 10)
deriving DecidableEq, Repr

/-- A CAN FD frame as it arrives (R674): its base identifier and its data. -/
structure CanFrame where
  id    : BitVec 11
  bytes : List Byte
deriving DecidableEq, Repr

/-- How steps 3 to 9 of start-up turn out (R695, R700): the dies whose supervisor and Keystone pass, and whose regulators,
piers and Span links do; the store slots that cannot be read; the valid copies of each firmware bank; the stacks and
pseudo-channels that fail training; ENTRY and the code of the monitor image (R698). -/
structure PowerUp where
  supOk  : BitVec 4
  unitOk : BitVec 4
  unread : BitVec 3
  bankA  : BitVec 3
  bankB  : BitVec 3
  hbmStacks : List (Fin 24)
  pcs    : List (Fin 24 × Fin 64)
  entry  : BitVec 32
  code   : List Byte
deriving DecidableEq, Repr

/-- The commands of the module, one per row of the opcode table, in the table's order. -/
inductive Instr where
  /-- `LD` (R81): Load a 64-bit operand into ACC with its tag. -/
  | ld (e : Fin 104) (o : SOp)
  /-- `LDB` (R81): Load a byte into ACC, zero-extended, tag INT. -/
  | ldb (e : Fin 104) (o : SOp)
  /-- `LDBS` (R81): Load a byte into ACC, sign-extended, tag INT. -/
  | ldbs (e : Fin 104) (o : SOp)
  /-- `LDH` (R81): Load 16 bits into ACC, zero-extended, tag INT. -/
  | ldh (e : Fin 104) (o : SOp)
  /-- `LDHS` (R81): Load 16 bits into ACC, sign-extended, tag INT. -/
  | ldhs (e : Fin 104) (o : SOp)
  /-- `LDW` (R81): Load 32 bits into ACC, zero-extended, tag INT. -/
  | ldw (e : Fin 104) (o : SOp)
  /-- `LDWS` (R81): Load 32 bits into ACC, sign-extended, tag INT. -/
  | ldws (e : Fin 104) (o : SOp)
  /-- `ST` (R81): Store ACC with its tag to memory. -/
  | st (e : Fin 104) (o : SOp)
  /-- `STB` (R81): Store the low 8 bits of ACC. -/
  | stb (e : Fin 104) (o : SOp)
  /-- `STH` (R81): Store the low 16 bits of ACC. -/
  | sth (e : Fin 104) (o : SOp)
  /-- `STW` (R81): Store the low 32 bits of ACC. -/
  | stw (e : Fin 104) (o : SOp)
  /-- `LD_IX0` (R81): Load an operand into IX0. -/
  | ldIx0 (e : Fin 104) (o : SOp)
  /-- `LD_IX1` (R81): Load an operand into IX1. -/
  | ldIx1 (e : Fin 104) (o : SOp)
  /-- `ST_IX0` (R81): Store IX0 with its tag to memory. -/
  | stIx0 (e : Fin 104) (o : SOp)
  /-- `ST_IX1` (R81): Store IX1 with its tag to memory. -/
  | stIx1 (e : Fin 104) (o : SOp)
  /-- `LEA_IX0` (R81): Place the effective address in IX0 with tag PTR. -/
  | leaIx0 (e : Fin 104) (o : SOp)
  /-- `LEA_IX1` (R81): Place the effective address in IX1 with tag PTR. -/
  | leaIx1 (e : Fin 104) (o : SOp)
  /-- `LEA` (R81): Place the effective address in ACC with tag PTR. -/
  | lea (e : Fin 104) (o : SOp)
  /-- `LD_SP` (R81): Load the current stack pointer from an operand. -/
  | ldSp (e : Fin 104) (o : SOp)
  /-- `PUSH` (R81): Decrement SP by 8 and store ACC there. -/
  | push (e : Fin 104) (o : SOp)
  /-- `POP` (R81): Load ACC from SP and increment SP by 8. -/
  | pop (e : Fin 104) (o : SOp)
  /-- `PUSH_IX0` (R81): Push IX0 on the current stack. -/
  | pushIx0 (e : Fin 104) (o : SOp)
  /-- `POP_IX0` (R81): Pop the top of stack into IX0. -/
  | popIx0 (e : Fin 104) (o : SOp)
  /-- `PUSH_IX1` (R81): Push IX1 on the current stack. -/
  | pushIx1 (e : Fin 104) (o : SOp)
  /-- `POP_IX1` (R81): Pop the top of stack into IX1. -/
  | popIx1 (e : Fin 104) (o : SOp)
  /-- `ALLOC` (R81): Lower SP by an immediate multiple of 8. -/
  | alloc (e : Fin 104) (o : SOp)
  /-- `FREE` (R81): Raise SP by an immediate multiple of 8. -/
  | free (e : Fin 104) (o : SOp)
  /-- `ADD` (R81): Add the operand to ACC and set ZNCV. -/
  | add (e : Fin 104) (o : SOp)
  /-- `ADC` (R81): Add the operand and carry to ACC and set ZNCV. -/
  | adc (e : Fin 104) (o : SOp)
  /-- `SUB` (R81): Subtract the operand from ACC and set ZNCV. -/
  | sub (e : Fin 104) (o : SOp)
  /-- `SBB` (R81): Subtract the operand and borrow from ACC and set ZNCV. -/
  | sbb (e : Fin 104) (o : SOp)
  /-- `CMP` (R81): Set ZNCV from ACC minus the operand. -/
  | cmp (e : Fin 104) (o : SOp)
  /-- `AND` (R81): Bitwise AND into ACC, setting ZN. -/
  | and (e : Fin 104) (o : SOp)
  /-- `OR` (R81): Bitwise OR into ACC, setting ZN. -/
  | or (e : Fin 104) (o : SOp)
  /-- `XOR` (R81): Bitwise XOR into ACC, setting ZN. -/
  | xor (e : Fin 104) (o : SOp)
  /-- `TST` (R81): Set ZN from ACC AND the operand. -/
  | tst (e : Fin 104) (o : SOp)
  /-- `SHL` (R81): Shift ACC left by op[5:0]. -/
  | shl (e : Fin 104) (o : SOp)
  /-- `SHR` (R81): Shift ACC right logically by op[5:0]. -/
  | shr (e : Fin 104) (o : SOp)
  /-- `SAR` (R81): Shift ACC right arithmetically by op[5:0]. -/
  | sar (e : Fin 104) (o : SOp)
  /-- `ROL` (R81): Rotate ACC left by op[5:0]. -/
  | rol (e : Fin 104) (o : SOp)
  /-- `ROR` (R81): Rotate ACC right by op[5:0]. -/
  | ror (e : Fin 104) (o : SOp)
  /-- `NEG` (R81): Negate ACC and set ZNCV. -/
  | neg (e : Fin 104) (o : SOp)
  /-- `NOT` (R81): Complement ACC and set ZN. -/
  | not (e : Fin 104) (o : SOp)
  /-- `CLZ` (R81): Count leading zeros of ACC. -/
  | clz (e : Fin 104) (o : SOp)
  /-- `CTZ` (R81): Count trailing zeros of ACC. -/
  | ctz (e : Fin 104) (o : SOp)
  /-- `POPC` (R81): Count the one bits of ACC. -/
  | popc (e : Fin 104) (o : SOp)
  /-- `BSWAP` (R81): Reverse the byte order of ACC. -/
  | bswap (e : Fin 104) (o : SOp)
  /-- `ADDX_IX0` (R81): Add the operand to IX0 and set ZNCV. -/
  | addxIx0 (e : Fin 104) (o : SOp)
  /-- `ADDX_IX1` (R81): Add the operand to IX1 and set ZNCV. -/
  | addxIx1 (e : Fin 104) (o : SOp)
  /-- `CMPX_IX0` (R81): Set ZNCV from IX0 minus the operand. -/
  | cmpxIx0 (e : Fin 104) (o : SOp)
  /-- `CMPX_IX1` (R81): Set ZNCV from IX1 minus the operand. -/
  | cmpxIx1 (e : Fin 104) (o : SOp)
  /-- `MUL` (R87): Start a signed 128-bit multiply of ACC by the operand, delivered later into PRH:PRL. -/
  | mul (e : Fin 104) (o : SOp)
  /-- `MULU` (R87): Start an unsigned 128-bit multiply, delivered later into PRH:PRL. -/
  | mulu (e : Fin 104) (o : SOp)
  /-- `DIV` (R88): Start a signed truncating divide, delivered later into QUO and REM. -/
  | div (e : Fin 104) (o : SOp)
  /-- `DIVU` (R88): Start an unsigned truncating divide, delivered later into QUO and REM. -/
  | divu (e : Fin 104) (o : SOp)
  /-- `MUL_DELIVERY` (R87): A pending product is written into PRL and PRH at the end of cycle t + 3. -/
  | mulDelivery (e : Fin 104) (tie : Bool)
  /-- `DIV_DELIVERY` (R88): A pending quotient and remainder are written at the end of cycle t + 23. -/
  | divDelivery (e : Fin 104) (tie : Bool)
  /-- `FADD` (R85): Binary64 addition of ACC and the operand. -/
  | fadd (e : Fin 104) (o : SOp)
  /-- `FSUB` (R85): Binary64 subtraction. -/
  | fsub (e : Fin 104) (o : SOp)
  /-- `FMUL` (R85): Binary64 multiplication. -/
  | fmul (e : Fin 104) (o : SOp)
  /-- `FDIV` (R85): Binary64 division. -/
  | fdiv (e : Fin 104) (o : SOp)
  /-- `FCMP` (R81): Compare ACC with the operand in binary64 and set flags. -/
  | fcmp (e : Fin 104) (o : SOp)
  /-- `FCVT_IF` (R85): Convert ACC from integer to binary64. -/
  | fcvtIf (e : Fin 104) (o : SOp)
  /-- `FCVT_FI` (R85): Convert ACC from binary64 to integer, truncating and saturating. -/
  | fcvtFi (e : Fin 104) (o : SOp)
  /-- `FSQRT` (R85): Square root of ACC in binary64. -/
  | fsqrt (e : Fin 104) (o : SOp)
  /-- `GTAG` (R81): Read the tag of the operand into ACC. -/
  | gtag (e : Fin 104) (o : SOp)
  /-- `STAG` (R64): Set the tag of ACC to an immediate tag. -/
  | stag (e : Fin 104) (o : SOp)
  /-- `CHK` (R64): Raise a tag fault unless ACC carries the immediate tag. -/
  | chk (e : Fin 104) (o : SOp)
  /-- `SETF` (R81): Copy ACC[3:0] into the flags of ST. -/
  | setf (e : Fin 104) (o : SOp)
  /-- `BCC` (R86): Branch to PC + 4 × DISP when the condition COND holds. -/
  | bcc (e : Fin 104) (o : BOp)
  /-- `JMP` (R82): Jump to the effective address or register value. -/
  | jmp (e : Fin 104) (o : SOp)
  /-- `CALL` (R82): Push the return address tagged CODE and jump. -/
  | call (e : Fin 104) (o : SOp)
  /-- `RET` (R81): Pop a CODE word into PC. -/
  | ret (e : Fin 104) (o : SOp)
  /-- `LOOP` (R86): Decrement an index register and branch if nonzero. -/
  | loop (e : Fin 104) (o : BOp)
  /-- `NOP` (R81): Do nothing for one cycle. -/
  | nop (e : Fin 104) (o : SOp)
  /-- `RDCYC` (R81): Read CYCLE into ACC. -/
  | rdcyc (e : Fin 104) (o : SOp)
  /-- `RDINST` (R81): Read INSTRET into ACC. -/
  | rdinst (e : Fin 104) (o : SOp)
  /-- `PAUSE` (R81): Stop issue for 32 cycles or until an interrupt. -/
  | pause (e : Fin 104) (o : SOp)
  /-- `PAUSE_EXPIRE` (R81): The 32-cycle pause ends and issue resumes. -/
  | pauseExpire (e : Fin 104)
  /-- `SREAD` (R99): Read a system register into ACC with tag INT, after the privilege check. -/
  | sread (e : Fin 104) (o : YOp)
  /-- `SWRITE` (R101): Write ACC to a system register that has no row of its own. -/
  | swrite (e : Fin 104) (o : YOp)
  /-- `SSET` (R101): Set the named RW or W1S bits of a system register. -/
  | sset (e : Fin 104) (o : YOp)
  /-- `SCLR` (R101): Clear the named RW or W1C bits of a system register. -/
  | sclr (e : Fin 104) (o : YOp)
  /-- `FCSR_WRITE` (R104): Write FCSR, raising ILLEGAL for a reserved rounding mode. -/
  | fcsrWrite (e : Fin 104) (f : BitVec 11)
  /-- `SVC` (R134): Raise an SVC exception with the service number. -/
  | svc (e : Fin 104) (o : YOp)
  /-- `MON` (R134): Raise a MON exception at level 0 with the service number. -/
  | mon (e : Fin 104) (o : YOp)
  /-- `RTE` (R131): Check and restore the 12-word frame at SP and return. -/
  | rte (e : Fin 104) (o : YOp)
  /-- `EI` (R134): Set ST.IE. -/
  | ei (e : Fin 104) (o : YOp)
  /-- `DI` (R134): Clear ST.IE. -/
  | di (e : Fin 104) (o : YOp)
  /-- `INTERRUPT_TAKE` (R136): A pending, enabled and takeable interrupt source is taken between instructions with exception entry. -/
  | interruptTake (e : Fin 104) (elapsed : BitVec 13)
  /-- `TIMER_MON` (R135): TIME reaches TIMECMP_MON and source 0 becomes pending. -/
  | timerMon (e : Fin 104)
  /-- `TIMER_SUP` (R135): TIME reaches TIMECMP_SUP and source 1 becomes pending. -/
  | timerSup (e : Fin 104)
  /-- `LATE_ERR_APPEND` (R141): An error response to a retired store appends an entry to LATE_ERR or counts a drop. -/
  | lateErrAppend (e : Fin 104) (idx : Nat) (status : Byte)
  /-- `STORE_PERFORMED` (R395): A store leaving the store buffer is performed at its target. -/
  | storePerformed (e : Fin 104) (idx : Nat)
  /-- `FENCE` (R396): Order earlier accesses of PRED before later accesses of SUCC. -/
  | fence (e : Fin 104) (f : BitVec 23)
  /-- `FENCE_S` (R145): Wait for the store buffer to drain and check the late-error queue. -/
  | fenceS (e : Fin 104) (f : BitVec 23)
  /-- `FENCE_S_DRAINED` (R145): The store buffer becomes empty under a waiting FENCE.S, which completes or raises LATE_STORE. -/
  | fenceSDrained (e : Fin 104)
  /-- `LD_AQ` (R400): Acquire load of a 64-bit word into ACC. -/
  | ldAq (e : Fin 104) (f : BitVec 23)
  /-- `ST_RL` (R400): Release store of ACC. -/
  | stRl (e : Fin 104) (f : BitVec 23)
  /-- `VSETVL` (R165): Set VTYPE from the operand and VL from ACC. -/
  | vsetvl (e : Fin 104) (o : SOp)
  /-- `VSETVLMAX` (R165): Set VTYPE from the operand and VL to VLMAX. -/
  | vsetvlmax (e : Fin 104) (o : SOp)
  /-- `VTYPE_WRITE` (R153): Write VTYPE, raising ILLEGAL for reserved values and clamping VL. -/
  | vtypeWrite (e : Fin 104) (f : BitVec 11)
  /-- `VL_WRITE` (R152): Write VL, storing at most VLMAX. -/
  | vlWrite (e : Fin 104) (f : BitVec 11)
  /-- `MWIN_DATA` (R157): Access one 64-bit word of a mask register and advance WORD when AUTO is set. -/
  | mwinData (e : Fin 104) (k : BitVec 2) (f : BitVec 11)
  /-- `VADD` (R166): Element-wise integer add. -/
  | vadd (e : Fin 104) (o : VR)
  /-- `VSUB` (R166): Element-wise integer subtract. -/
  | vsub (e : Fin 104) (o : VR)
  /-- `VMUL` (R166): Element-wise low product. -/
  | vmul (e : Fin 104) (o : VR)
  /-- `VMULH` (R166): Element-wise signed high product. -/
  | vmulh (e : Fin 104) (o : VR)
  /-- `VMULHU` (R166): Element-wise unsigned high product. -/
  | vmulhu (e : Fin 104) (o : VR)
  /-- `VDIV` (R167): Element-wise signed quotient. -/
  | vdiv (e : Fin 104) (o : VR)
  /-- `VDIVU` (R167): Element-wise unsigned quotient. -/
  | vdivu (e : Fin 104) (o : VR)
  /-- `VREM` (R167): Element-wise signed remainder. -/
  | vrem (e : Fin 104) (o : VR)
  /-- `VREMU` (R167): Element-wise unsigned remainder. -/
  | vremu (e : Fin 104) (o : VR)
  /-- `VMIN` (R166): Element-wise signed minimum. -/
  | vmin (e : Fin 104) (o : VR)
  /-- `VMINU` (R166): Element-wise unsigned minimum. -/
  | vminu (e : Fin 104) (o : VR)
  /-- `VMAX` (R166): Element-wise signed maximum. -/
  | vmax (e : Fin 104) (o : VR)
  /-- `VMAXU` (R166): Element-wise unsigned maximum. -/
  | vmaxu (e : Fin 104) (o : VR)
  /-- `VAND` (R166): Element-wise AND. -/
  | vand (e : Fin 104) (o : VR)
  /-- `VOR` (R166): Element-wise OR. -/
  | vor (e : Fin 104) (o : VR)
  /-- `VXOR` (R166): Element-wise XOR. -/
  | vxor (e : Fin 104) (o : VR)
  /-- `VSLL` (R166): Element-wise logical left shift. -/
  | vsll (e : Fin 104) (o : VR)
  /-- `VSRL` (R166): Element-wise logical right shift. -/
  | vsrl (e : Fin 104) (o : VR)
  /-- `VSRA` (R166): Element-wise arithmetic right shift. -/
  | vsra (e : Fin 104) (o : VR)
  /-- `VSADD` (R166): Element-wise signed saturating add. -/
  | vsadd (e : Fin 104) (o : VR)
  /-- `VSADDU` (R166): Element-wise unsigned saturating add. -/
  | vsaddu (e : Fin 104) (o : VR)
  /-- `VSSUB` (R166): Element-wise signed saturating subtract. -/
  | vssub (e : Fin 104) (o : VR)
  /-- `VSSUBU` (R166): Element-wise unsigned saturating subtract. -/
  | vssubu (e : Fin 104) (o : VR)
  /-- `VFADD` (R168): Element-wise floating-point add. -/
  | vfadd (e : Fin 104) (o : VR)
  /-- `VFSUB` (R168): Element-wise floating-point subtract. -/
  | vfsub (e : Fin 104) (o : VR)
  /-- `VFMUL` (R168): Element-wise floating-point multiply. -/
  | vfmul (e : Fin 104) (o : VR)
  /-- `VFDIV` (R168): Element-wise floating-point divide. -/
  | vfdiv (e : Fin 104) (o : VR)
  /-- `VFSQRT` (R168): Element-wise square root. -/
  | vfsqrt (e : Fin 104) (o : VR)
  /-- `VFMIN` (R168): Element-wise minimumNumber. -/
  | vfmin (e : Fin 104) (o : VR)
  /-- `VFMAX` (R168): Element-wise maximumNumber. -/
  | vfmax (e : Fin 104) (o : VR)
  /-- `VFABS` (R168): Element-wise absolute value. -/
  | vfabs (e : Fin 104) (o : VR)
  /-- `VFNEG` (R168): Element-wise sign inversion. -/
  | vfneg (e : Fin 104) (o : VR)
  /-- `VFMACC` (R170): d := a × b + d, floating point. -/
  | vfmacc (e : Fin 104) (o : VR)
  /-- `VFNMACC` (R170): d := −(a × b) − d, floating point. -/
  | vfnmacc (e : Fin 104) (o : VR)
  /-- `VFMSAC` (R170): d := a × b − d, floating point. -/
  | vfmsac (e : Fin 104) (o : VR)
  /-- `VFNMSAC` (R170): d := −(a × b) + d, floating point. -/
  | vfnmsac (e : Fin 104) (o : VR)
  /-- `VMACC` (R170): d := a × b + d, integer. -/
  | vmacc (e : Fin 104) (o : VR)
  /-- `VNMSAC` (R170): d := d − a × b, integer. -/
  | vnmsac (e : Fin 104) (o : VR)
  /-- `VMSEQ` (R171): Mask bit set where a = b, integer. -/
  | vmseq (e : Fin 104) (o : VR)
  /-- `VMSNE` (R171): Mask bit set where a ≠ b, integer. -/
  | vmsne (e : Fin 104) (o : VR)
  /-- `VMSLT` (R171): Mask bit set where a < b, signed. -/
  | vmslt (e : Fin 104) (o : VR)
  /-- `VMSLE` (R171): Mask bit set where a ≤ b, signed. -/
  | vmsle (e : Fin 104) (o : VR)
  /-- `VMSLTU` (R171): Mask bit set where a < b, unsigned. -/
  | vmsltu (e : Fin 104) (o : VR)
  /-- `VMSLEU` (R171): Mask bit set where a ≤ b, unsigned. -/
  | vmsleu (e : Fin 104) (o : VR)
  /-- `VMSGT` (R171): Mask bit set where a > b, signed. -/
  | vmsgt (e : Fin 104) (o : VR)
  /-- `VMSGTU` (R171): Mask bit set where a > b, unsigned. -/
  | vmsgtu (e : Fin 104) (o : VR)
  /-- `VMFEQ` (R171): Mask bit set where a = b, floating point. -/
  | vmfeq (e : Fin 104) (o : VR)
  /-- `VMFNE` (R171): Mask bit set where not (a = b), floating point. -/
  | vmfne (e : Fin 104) (o : VR)
  /-- `VMFLT` (R171): Mask bit set where a < b, floating point. -/
  | vmflt (e : Fin 104) (o : VR)
  /-- `VMFLE` (R171): Mask bit set where a ≤ b, floating point. -/
  | vmfle (e : Fin 104) (o : VR)
  /-- `VMFUNORD` (R171): Mask bit set where a or b is NaN. -/
  | vmfunord (e : Fin 104) (o : VR)
  /-- `MAND` (R172): Mask AND. -/
  | mand (e : Fin 104) (o : VR)
  /-- `MOR` (R172): Mask OR. -/
  | mor (e : Fin 104) (o : VR)
  /-- `MXOR` (R172): Mask XOR. -/
  | mxor (e : Fin 104) (o : VR)
  /-- `MANDN` (R172): Mask AND NOT. -/
  | mandn (e : Fin 104) (o : VR)
  /-- `MNOT` (R172): Mask complement. -/
  | mnot (e : Fin 104) (o : VR)
  /-- `MPOPC` (R172): Count the set mask bits below VL into ACC. -/
  | mpopc (e : Fin 104) (o : VR)
  /-- `MFIRST` (R172): Find the lowest set mask bit below VL into ACC. -/
  | mfirst (e : Fin 104) (o : VR)
  /-- `MSET` (R172): Set mask bits to ones. -/
  | mset (e : Fin 104) (o : VR)
  /-- `MCLR` (R172): Set mask bits to zeros. -/
  | mclr (e : Fin 104) (o : VR)
  /-- `VBCAST` (R173): Broadcast the scalar in ACC to active elements. -/
  | vbcast (e : Fin 104) (o : VR)
  /-- `VEXT` (R173): Extract element IX0 into ACC, sign-extended. -/
  | vext (e : Fin 104) (o : VR)
  /-- `VEXTU` (R173): Extract element IX0 into ACC, zero-extended. -/
  | vextu (e : Fin 104) (o : VR)
  /-- `VINS` (R173): Insert the scalar in ACC at element IX0. -/
  | vins (e : Fin 104) (o : VR)
  /-- `VMV` (R173): Copy active elements. -/
  | vmv (e : Fin 104) (o : VR)
  /-- `VSLIDEUP` (R173): Slide elements up by ACC. -/
  | vslideup (e : Fin 104) (o : VR)
  /-- `VSLIDEDOWN` (R173): Slide elements down by ACC. -/
  | vslidedown (e : Fin 104) (o : VR)
  /-- `VRGATHER` (R173): Gather elements by index vector. -/
  | vrgather (e : Fin 104) (o : VR)
  /-- `VCOMPRESS` (R173): Pack active elements and return their count in ACC. -/
  | vcompress (e : Fin 104) (o : VR)
  /-- `VIOTA` (R173): Write the prefix count of a mask. -/
  | viota (e : Fin 104) (o : VR)
  /-- `VID` (R173): Write element indices. -/
  | vid (e : Fin 104) (o : VR)
  /-- `VCVT_W` (R175): Widen a packed narrow format to ETYPE. -/
  | vcvtW (e : Fin 104) (o : VR) (ty : BitVec 4)
  /-- `VCVT_N` (R175): Narrow ETYPE to a packed narrow format. -/
  | vcvtN (e : Fin 104) (o : VR) (ty : BitVec 4)
  /-- `VCVT_IF` (R175): Convert signed integers to floating point. -/
  | vcvtIf (e : Fin 104) (o : VR) (ty : BitVec 4)
  /-- `VCVT_FI` (R175): Convert floating point to integers, truncating and saturating. -/
  | vcvtFi (e : Fin 104) (o : VR) (ty : BitVec 4)
  /-- `VCVT_FF` (R175): Convert between floating-point ETYPEs. -/
  | vcvtFf (e : Fin 104) (o : VR) (ty : BitVec 4)
  /-- `VL` (R176): Unit-stride vector load. -/
  | vl (e : Fin 104) (o : VM)
  /-- `VLS` (R176): Strided vector load. -/
  | vls (e : Fin 104) (o : VM)
  /-- `VLX` (R176): Indexed vector gather. -/
  | vlx (e : Fin 104) (o : VM)
  /-- `VLSEG` (R179): Unit-stride structure load. -/
  | vlseg (e : Fin 104) (o : VM)
  /-- `VLSSEG` (R179): Strided structure load. -/
  | vlsseg (e : Fin 104) (o : VM)
  /-- `VLR` (R176): Whole-register load. -/
  | vlr (e : Fin 104) (o : VM)
  /-- `VLM` (R176): Whole-mask load. -/
  | vlm (e : Fin 104) (o : VM)
  /-- `VS` (R176): Unit-stride vector store. -/
  | vs (e : Fin 104) (o : VM)
  /-- `VSS` (R176): Strided vector store. -/
  | vss (e : Fin 104) (o : VM)
  /-- `VSX` (R184): Indexed vector scatter. -/
  | vsx (e : Fin 104) (o : VM)
  /-- `VSSEG` (R179): Unit-stride structure store. -/
  | vsseg (e : Fin 104) (o : VM)
  /-- `VSSSEG` (R179): Strided structure store. -/
  | vssseg (e : Fin 104) (o : VM)
  /-- `VSR` (R176): Whole-register store. -/
  | vsr (e : Fin 104) (o : VM)
  /-- `VSM` (R176): Whole-mask store. -/
  | vsm (e : Fin 104) (o : VM)
  /-- `VREDSUM` (R192): Tree sum reduction. -/
  | vredsum (e : Fin 104) (o : VR)
  /-- `VREDSUMU` (R194): Unsigned integer sum reduction. -/
  | vredsumu (e : Fin 104) (o : VR)
  /-- `VREDOSUM` (R194): Ordered floating-point sum reduction. -/
  | vredosum (e : Fin 104) (o : VR)
  /-- `VREDSSQ` (R194): Tree sum-of-squares reduction. -/
  | vredssq (e : Fin 104) (o : VR)
  /-- `VREDMIN` (R194): Signed or floating-point minimum reduction. -/
  | vredmin (e : Fin 104) (o : VR)
  /-- `VREDMAX` (R194): Signed or floating-point maximum reduction. -/
  | vredmax (e : Fin 104) (o : VR)
  /-- `VREDMINU` (R194): Unsigned minimum reduction. -/
  | vredminu (e : Fin 104) (o : VR)
  /-- `VREDMAXU` (R194): Unsigned maximum reduction. -/
  | vredmaxu (e : Fin 104) (o : VR)
  /-- `VREDAND` (R194): AND reduction. -/
  | vredand (e : Fin 104) (o : VR)
  /-- `VREDOR` (R194): OR reduction. -/
  | vredor (e : Fin 104) (o : VR)
  /-- `VREDXOR` (R194): XOR reduction. -/
  | vredxor (e : Fin 104) (o : VR)
  /-- `VSTAT` (R198): Form a statistics triple over a group by Welford merges. -/
  | vstat (e : Fin 104) (o : VR)
  /-- `VSTATM` (R198): Merge two statistics triples. -/
  | vstatm (e : Fin 104) (o : VR)
  /-- `VTOPK` (R311): Write the K top-ranked expert records of each token segment. -/
  | vtopk (e : Fin 104) (o : VR)
  /-- `VDISPATCH` (R314): Assign top-k records to expert or overflow rows with atomics on the expert table. -/
  | vdispatch (e : Fin 104) (o : VR)
  /-- `VSCATROWS` (R317): Copy token rows out to their dispatched rows. -/
  | vscatrows (e : Fin 104) (o : VR)
  /-- `VGATHROWS` (R317): Copy dispatched rows back to token order. -/
  | vgathrows (e : Fin 104) (o : VR)
  /-- `ROUTE_CFG_WRITE` (R307): Write ROUTE_CFG, raising ILLEGAL for out-of-range values. -/
  | routeCfgWrite (e : Fin 104) (f : BitVec 11)
  /-- `ROUTE_ROWS_WRITE` (R308): Write ROUTE_ROWS, raising ILLEGAL for invalid sizes. -/
  | routeRowsWrite (e : Fin 104) (f : BitVec 11)
  /-- `TS_WRITE` (R204): Write a tile shape descriptor, raising ILLEGAL for invalid shapes. -/
  | tsWrite (e : Fin 104) (n : BitVec 4) (f : BitVec 11)
  /-- `AS_WRITE` (R206): Write an accumulator shape, raising ILLEGAL above 128. -/
  | asWrite (e : Fin 104) (n : BitVec 2) (f : BitVec 11)
  /-- `TRND_WRITE` (R266): Write TRND, raising ILLEGAL for RM 3. -/
  | trndWrite (e : Fin 104) (f : BitVec 11)
  /-- `TLD` (R229): Load tile rows from memory into the spare slot. -/
  | tld (e : Fin 104) (o : TOp)
  /-- `TLD_LAST` (R229): Load tile rows and mark the lines as last use. -/
  | tldLast (e : Fin 104) (o : TOp)
  /-- `TST_TILE` (R232): Store tile rows to memory once oldest and checked. -/
  | tstTile (e : Fin 104) (o : TOp)
  /-- `TLDA` (R233): Load an accumulator image into a shadow slot. -/
  | tlda (e : Fin 104) (o : TOp)
  /-- `TSTA` (R233): Store an accumulator image. -/
  | tsta (e : Fin 104) (o : TOp)
  /-- `TZERO` (R229): Zero a tile. -/
  | tzero (e : Fin 104) (o : TOp)
  /-- `TMOV` (R229): Copy a tile and its shape. -/
  | tmov (e : Fin 104) (o : TOp)
  /-- `TZACC` (R229): Zero an accumulator. -/
  | tzacc (e : Fin 104) (o : TOp)
  /-- `TCVT` (R279): Convert accumulator rows into a tile format. -/
  | tcvt (e : Fin 104) (o : TOp)
  /-- `TSTF` (R279): Store accumulator rows as FP32. -/
  | tstf (e : Fin 104) (o : TOp)
  /-- `TMMA` (R222): Register-form multiply-accumulate chunk. -/
  | tmma (e : Fin 104) (o : TOp)
  /-- `TMMAZ` (R222): Zero-initialising register-form multiply. -/
  | tmmaz (e : Fin 104) (o : TOp)
  /-- `TMMAK` (R236): K-loop pass streamed from a descriptor. -/
  | tmmak (e : Fin 104) (o : TOp)
  /-- `TMMAKZ` (R236): Zero-initialising K-loop pass. -/
  | tmmakz (e : Fin 104) (o : TOp)
  /-- `TCONV` (R238): Convolution pass from a descriptor. -/
  | tconv (e : Fin 104) (o : TOp)
  /-- `TCONVZ` (R238): Zero-initialising convolution pass. -/
  | tconvz (e : Fin 104) (o : TOp)
  /-- `TMMAP` (R297): Multiply with predicates, bitmap and zero-skip. -/
  | tmmap (e : Fin 104) (o : TOp)
  /-- `TMMAPZ` (R297): Zero-initialising predicated multiply. -/
  | tmmapz (e : Fin 104) (o : TOp)
  /-- `TMMAS` (R293): Multiply with a 2:4 structured-sparse stationary operand. -/
  | tmmas (e : Fin 104) (o : TOp)
  /-- `TMMASZ` (R293): Zero-initialising 2:4 sparse multiply. -/
  | tmmasz (e : Fin 104) (o : TOp)
  /-- `TMMAQ` (R293): Multiply with a 1:4 structured-sparse stationary operand. -/
  | tmmaq (e : Fin 104) (o : TOp)
  /-- `TMMAQZ` (R293): Zero-initialising 1:4 sparse multiply. -/
  | tmmaqz (e : Fin 104) (o : TOp)
  /-- `TMMAKS` (R303): Sparse K-loop pass from a KIND 3 descriptor. -/
  | tmmaks (e : Fin 104) (o : TOp)
  /-- `TMMAKSZ` (R303): Zero-initialising sparse K-loop pass. -/
  | tmmaksz (e : Fin 104) (o : TOp)
  /-- `TILE_COMMIT` (R215): A complete tile instruction that is oldest commits by remapping and updates amax. -/
  | tileCommit (e : Fin 104)
  /-- `TILE_WAIT_EXPIRE` (R246): An interrupt wait on a near-complete pass exceeds 4096 cycles and the pass is discarded. -/
  | tileWaitExpire (e : Fin 104) (elapsed : BitVec 13)
  /-- `TGSUB` (R323): Submit a matrix-vector request to the batch gatherer and return a status. -/
  | tgsub (e : Fin 104) (o : TOp)
  /-- `BG_EVALUATE` (R325): Every 10 ns or at an accepted request the gatherer evaluates queues and launches batches. -/
  | bgEvaluate (d : Fin 4)
  /-- `BG_BLOCK_DONE` (R326): The last pass of a block commits on a leased half and its outputs are written out. -/
  | bgBlockDone (e : Fin 104)
  /-- `BG_COMPLETION_WORD` (R328): All Y writes of a request complete and its completion word is written. -/
  | bgCompletionWord (d : Fin 4) (k : Nat)
  /-- `BG_HALF_ERR` (R329): A machine check on a leased half withdraws it and reruns the block elsewhere. -/
  | bgHalfErr (e : Fin 104)
  /-- `BG_CTL_WRITE` (R321): Write BG_CTL.ENABLE, disabling withdraws pending requests. -/
  | bgCtlWrite (d : Fin 4) (v : W64)
  /-- `TILE_LEASE_WRITE` (R243): Write TILE_LEASE, taking effect at the next task start. -/
  | tileLeaseWrite (e : Fin 104) (v : W64)
  /-- `AMO_ADD_W` (R456): Memory-side 32-bit integer add, element or line form. -/
  | amoAddW (e : Fin 104) (o : AOp)
  /-- `AMO_ADD_D` (R456): Memory-side 64-bit integer add. -/
  | amoAddD (e : Fin 104) (o : AOp)
  /-- `AMO_CAS_W` (R456): Memory-side 32-bit compare and swap. -/
  | amoCasW (e : Fin 104) (o : AOp)
  /-- `AMO_CAS_D` (R456): Memory-side 64-bit compare and swap. -/
  | amoCasD (e : Fin 104) (o : AOp)
  /-- `AMO_MIN_D` (R456): Memory-side signed minimum. -/
  | amoMinD (e : Fin 104) (o : AOp)
  /-- `AMO_MAX_D` (R456): Memory-side signed maximum. -/
  | amoMaxD (e : Fin 104) (o : AOp)
  /-- `AMO_MINU_D` (R456): Memory-side unsigned minimum. -/
  | amoMinuD (e : Fin 104) (o : AOp)
  /-- `AMO_MAXU_D` (R456): Memory-side unsigned maximum. -/
  | amoMaxuD (e : Fin 104) (o : AOp)
  /-- `AMO_FADD_S` (R456): Memory-side FP32 add. -/
  | amoFaddS (e : Fin 104) (o : AOp)
  /-- `AMO_FADD_B` (R456): Memory-side BF16 add. -/
  | amoFaddB (e : Fin 104) (o : AOp)
  /-- `AMO_FMIN_S` (R456): Memory-side FP32 minimumNumber. -/
  | amoFminS (e : Fin 104) (o : AOp)
  /-- `AMO_FMAX_S` (R456): Memory-side FP32 maximumNumber. -/
  | amoFmaxS (e : Fin 104) (o : AOp)
  /-- `AMO_XADD` (R458): Convert into EXA128 and add exactly at the pier. -/
  | amoXadd (e : Fin 104) (o : AOp)
  /-- `AMO_XADDX` (R456): Add EXA128 source lanes exactly. -/
  | amoXaddx (e : Fin 104) (o : AOp)
  /-- `AMO_SMERGE` (R456): Merge statistics triples at the pier. -/
  | amoSmerge (e : Fin 104) (o : AOp)
  /-- `PIER_ATOMIC` (R442): A pier's atomic unit recalls the line and performs an arriving atomic. -/
  | pierAtomic (e : Fin 104) (idx : Nat)
  /-- `ATOMIC_RESPONSE` (R451): A returning atomic's response arrives and its value or error is delivered. -/
  | atomicResponse (e : Fin 104)
  /-- `KDRESET` (R520): Erase and renew a key domain, or activate a FREE one. -/
  | kdreset (e : Fin 104) (o : YOp)
  /-- `KHLOAD` (R517): Import a transport key blob and store a key handle. -/
  | khload (e : Fin 104) (o : YOp)
  /-- `KHDROP` (R516): Destroy the slot named by a key handle. -/
  | khdrop (e : Fin 104) (o : YOp)
  /-- `KHINFO` (R516): Report whether a key handle is current. -/
  | khinfo (e : Fin 104) (o : YOp)
  /-- `KDFREE` (R520): Erase a key domain and leave it FREE. -/
  | kdfree (e : Fin 104) (o : YOp)
  /-- `TNEXT` (R547): Start the next task of the logical engine's queue. -/
  | tnext (e : Fin 104) (o : YOp)
  /-- `TDONE` (R548): Write the current task's completion word and optionally send its vector. -/
  | tdone (e : Fin 104) (o : YOp)
  /-- `DBELL` (R546): Ring a channel or task-queue doorbell from an engine. -/
  | dbell (e : Fin 104) (o : YOp)
  /-- `MSEND` (R549): Send a 64-byte message to a logical engine. -/
  | msend (e : Fin 104) (o : YOp)
  /-- `MRECV` (R549): Pop the oldest message into memory and return its record. -/
  | mrecv (e : Fin 104) (o : YOp)
  /-- `STEPMARK` (R650): Set the step of the random stream and record the engine's Tail mark. -/
  | stepmark (e : Fin 104) (o : YOp)
  /-- `SPEC_BEGIN` (R403): Begin a speculation at level 2. -/
  | specBegin (e : Fin 104) (f : BitVec 11)
  /-- `SPEC_COMMIT` (R407): Commit the W lines of a speculation. -/
  | specCommit (e : Fin 104) (f : BitVec 11)
  /-- `SPEC_DISCARD` (R408): Invalidate every W line of a speculation. -/
  | specDiscard (e : Fin 104) (f : BitVec 11)
  /-- `CLEAN` (R353): Write an M line back to its home pier. -/
  | clean (e : Fin 104) (f : BitVec 11)
  /-- `FLUSH` (R353): Write back and invalidate a line in this engine. -/
  | flush (e : Fin 104) (f : BitVec 11)
  /-- `INVAL_N` (R353): Invalidate every N line of the engine. -/
  | invalN (e : Fin 104) (f : BitVec 11)
  /-- `ISYNC` (R354): Discard the L1 instruction cache and fetched instructions. -/
  | isync (e : Fin 104) (f : BitVec 11)
  /-- `ZERO` (R353): Obtain a line in M and set it to zero. -/
  | zero (e : Fin 104) (f : BitVec 11)
  /-- `TLB_INV_ALL` (R435): Remove every translation entry of every context in the scope. -/
  | tlbInvAll (e : Fin 104) (f : BitVec 11)
  /-- `TLB_INV_CTX` (R435): Remove every entry of one context in the scope. -/
  | tlbInvCtx (e : Fin 104) (f : BitVec 11)
  /-- `TLB_INV_ADDRESS` (R435): Remove the entries of one context that translate an address. -/
  | tlbInvAddress (e : Fin 104) (f : BitVec 11)
  /-- `TLB_INV_WALK` (R435): Remove walk-cache entries of one context. -/
  | tlbInvWalk (e : Fin 104) (f : BitVec 11)
  /-- `TRANS_CTX_WRITE` (R425): Write TRANS_CTX after checking the context match. -/
  | transCtxWrite (e : Fin 104) (f : BitVec 11)
  /-- `TABLE_WALK` (R434): A TLB miss walks the context entry and page tables and fills a TLB. -/
  | tableWalk (e : Fin 104) (va : W64) (k : Fin 3)
  /-- `PF_CTL_WRITE` (R391): Write PF_CTL, raising ILLEGAL for invalid DIST. -/
  | pfCtlWrite (e : Fin 104) (f : BitVec 11)
  /-- `PF_TDESC` (R392): Start a software prefetch descriptor. -/
  | pfTdesc (e : Fin 104) (f : BitVec 11)
  /-- `PREFETCH_ISSUE` (R388): A trained stream or descriptor prefetcher issues an admitted prefetch. -/
  | prefetchIssue (e : Fin 104) (src : PfSrc)
  /-- `STREAM_FREE` (R386): A stream with no demand access for 4096 cycles is freed. -/
  | streamFree (e : Fin 104) (i : Nat)
  /-- `ENGINE_CACHE_FILL` (R343): A miss fills the engine cache under its class way mask. -/
  | engineCacheFill (e : Fin 104) (idx : Nat) (err : Option CacheErr)
  /-- `EC_VICTIM_ACK` (R356): The home pier acknowledges a dirty victim's write-back and the miss request is sent. -/
  | ecVictimAck (e : Fin 104) (idx : Nat)
  /-- `PIER_ALLOCATE` (R344): A pier allocates a line for a class and partition. -/
  | pierAllocate (p : Fin 128) (idx : Nat)
  /-- `PIER_VICTIM_COMPLETE` (R357): The stack reports a dirty pier victim written and the pier proceeds. -/
  | pierVictimComplete (p : Fin 128) (idx : Nat)
  /-- `PIER_SCRUB` (R365): Every 2 ms a pier reads one set and handles what it finds. -/
  | pierScrub (p : Fin 128) (err : Option CacheErr)
  /-- `WAY_RETIRE` (R369): Setting a RET bit starts retirement of a pier way. -/
  | wayRetire (p : Fin 128) (way : Fin 16)
  /-- `WAY_RETIRE_DONE` (R369): Every set is treated and BUSY clears. -/
  | wayRetireDone (p : Fin 128)
  /-- `HBM_REQUEST` (R375): A request reaches a pseudo-channel front end and takes a slot or waits. -/
  | hbmRequest (req : Byte) (off : BitVec 41) (write : Bool)
  /-- `BANK_ACCESS_START` (R378): The front end starts the next bank access by rank. -/
  | bankAccessStart (g : Fin 1536)
  /-- `BANK_ACCESS_DONE` (R380): A bank access transfers its line and frees its slot. -/
  | bankAccessDone (g : Fin 1536) (bank : Fin 16)
  /-- `AGE_PROMOTE` (R377): A request reaches age 4 µs and is promoted. -/
  | agePromote (g : Fin 1536)
  /-- `REFRESH` (R381): A bank is refreshed under JEDEC timing. -/
  | refresh (g : Fin 1536) (bank : Fin 16)
  /-- `CAL_WINDOW_START` (R382): A channel's 32 ms recalibration window opens. -/
  | calWindowStart (h : Fin 24) (c : Fin 32)
  /-- `CAL_WINDOW_END` (R382): A calibration window ends and held bank accesses may start. -/
  | calWindowEnd (h : Fin 24) (c : Fin 32)
  /-- `ROW_SPARE` (R630): A row trigger copies a row into a spare row. -/
  | rowSpare (h : Fin 24) (pc : Fin 64) (bank : Fin 16) (row : Nat)
  /-- `PC_RETIRE` (R631): A pseudo-channel trigger starts its copy into the reserve. -/
  | pcRetire (h : Fin 24) (pc : Fin 64)
  /-- `PC_RETIRE_DONE` (R631): The pseudo-channel copy completes and it powers down. -/
  | pcRetireDone (h : Fin 24) (bad : List (BitVec 41))
  /-- `LANE_ROTATION_START` (R469): TIME reaches a lane's slot and the transmitter sends ROT PREP. -/
  | laneRotationStart (p : Fin 32) (k : Fin 8) (block : BitVec 32)
  /-- `ROT_PREP` (R469): The receiver takes a rotation announcement. -/
  | rotPrep (p : Fin 32) (k : Fin 8) (block : BitVec 32) (good : Bool)
  /-- `ROT_ACK` (R469): The transmitter learns the receiver now uses lane 8. -/
  | rotAck (p : Fin 32)
  /-- `ROT_READY` (R469): The transmitter learns the lane is recalibrated and sends ROT RETURN. -/
  | rotReady (p : Fin 32) (block : BitVec 32)
  /-- `ROT_RETURN` (R469): The receiver returns to the lane at block B′ + 1. -/
  | rotReturn (p : Fin 32)
  /-- `ROT_ABORT` (R470): The transmitter learns the rotation failed. -/
  | rotAbort (p : Fin 32)
  /-- `LANE_CALIBRATION_DONE` (R469): A lane's recalibration ends, successfully or not. -/
  | laneCalibrationDone (p : Fin 32) (good : Bool)
  /-- `LANE_FAIL` (R471): A lane fails and its logical lane stays on the spare, or the port retrains at half width. -/
  | laneFail (p : Fin 32) (lane : Fin 9) (rx : Bool)
  /-- `DATA_FLIT` (R477): A DATA flit is received and accepted or discarded with a NAK. -/
  | dataFlit (p : Fin 32) (f : NetFlit)
  /-- `CTL_FLIT` (R479): A CTL flit is received and its control slots are taken. -/
  | ctlFlit (p : Fin 32) (f : NetFlit)
  /-- `CREDIT` (R481): A CREDIT slot updates the cumulative freed-slot counts. -/
  | credit (p : Fin 32) (counts : BitVec 96)
  /-- `NAK` (R478): A NAK makes the transmitter replay from the named index. -/
  | nak (p : Fin 32) (idx : W64)
  /-- `NAK_TIMEOUT` (R477): 2 µs pass without the expected flit and a NAK may be sent again. -/
  | nakTimeout (p : Fin 32)
  /-- `REPLAY_TIMEOUT` (R478): No ACK progress for 2 µs causes a replay from the oldest unacknowledged flit. -/
  | replayTimeout (p : Fin 32)
  /-- `PAUSE_SLOT` (R503): A PAUSE slot pauses or resumes traffic toward its sender. -/
  | pauseSlot (p : Fin 32) (on : Bool)
  /-- `HS` (R488): A handshake fragment is received. -/
  | hs (p : Fin 32) (kind : Byte) (num : BitVec 16) (b : BitVec 96)
  /-- `HELLO` (R484): The partner's HELLO is received and the generation chosen. -/
  | hello (p : Fin 32) (b : List Byte)
  /-- `CERT` (R489): The partner's identity chain is received and checked. -/
  | cert (p : Fin 32) (c : CertFacts)
  /-- `KEM_EK` (R488): The responder receives the ML-KEM encapsulation key. -/
  | kemEk (p : Fin 32) (good : Bool)
  /-- `KEM_CT` (R488): The initiator receives the ML-KEM ciphertext. -/
  | kemCt (p : Fin 32) (good : Bool)
  /-- `SIG` (R489): The partner's transcript signature is received and verified. -/
  | sig (p : Fin 32) (good : Bool)
  /-- `FIRST_ENCRYPTED_FLIT` (R488): The partner's first valid encrypted CTL flit takes the port UP. -/
  | firstEncryptedFlit (p : Fin 32) (tagOk : Bool)
  /-- `LNK_ENABLE` (R482): Writing LNK_CTL.ENABLE trains the port or takes it to DISABLED. -/
  | lnkEnable (p : Fin 32) (on : Bool)
  /-- `RETRAIN` (R505): Writing LNK_CTL.RETRAIN takes an UP port into RETRAIN. -/
  | retrain (p : Fin 32)
  /-- `LANE_TRAIN_LOCKED` (R482): Enough lanes lock and deskew and the port enters NEGOTIATE. -/
  | laneTrainLocked (p : Fin 32) (rx tx : BitVec 9)
  /-- `LANE_TRAIN_TIMEOUT` (R482): LANE_TRAIN lasts 10 ms and the port goes DOWN. -/
  | laneTrainTimeout (p : Fin 32)
  /-- `NEGOTIATE_TIMEOUT` (R482): NEGOTIATE lasts 5 ms and the port goes DOWN with REASON 10. -/
  | negotiateTimeout (p : Fin 32)
  /-- `RETRAIN_TIMEOUT` (R482): RETRAIN lasts 12 µs and the port goes DOWN with REASON 3. -/
  | retrainTimeout (p : Fin 32)
  /-- `TRAINING_BLOCK` (R482): A training block carrying a session value is received. -/
  | trainingBlock (p : Fin 32) (session : W64)
  /-- `DOWN_RETRY` (R482): 100 ms after DOWN the port returns to LANE_TRAIN. -/
  | downRetry (p : Fin 32)
  /-- `REFUSED_RETRY` (R482): 10 s after REFUSED the port returns to LANE_TRAIN. -/
  | refusedRetry (p : Fin 32)
  /-- `SILENCE_TIMEOUT` (R501): 20 µs without a valid flit takes the port DOWN with REASON 1. -/
  | silenceTimeout (p : Fin 32)
  /-- `REKEY` (R491): Every 24 hours of UP time the handshake key exchange runs again. -/
  | rekey (p : Fin 32)
  /-- `RD` (R499): A remote read arrives at its target, is grant-checked and answered with RSPD. -/
  | rd (p : Fin 32) (t : NetTxn)
  /-- `WR` (R499): A remote write arrives, is checked and performed. -/
  | wr (p : Fin 32) (t : NetTxn)
  /-- `WRM` (R499): A masked 64-byte write arrives and is performed. -/
  | wrm (p : Fin 32) (t : NetTxn)
  /-- `ATOM` (R460): A remote element atomic arrives and is performed. -/
  | atom (p : Fin 32) (t : NetTxn)
  /-- `ATOML` (R460): A remote line atomic arrives and is performed. -/
  | atoml (p : Fin 32) (t : NetTxn)
  /-- `MSG` (R549): A message arrives and is delivered to the target engine's queue. -/
  | msg (p : Fin 32) (t : NetTxn)
  /-- `MGMT` (R679): A MGMT body arrives for the module supervisor. -/
  | mgmt (p : Fin 32) (t : NetTxn) (o : StoreOut)
  /-- `RSPD` (R494): A data response arrives and completes its request. -/
  | rspd (p : Fin 32) (t : NetTxn)
  /-- `CMP_TRANSACTION` (R494): A completion arrives and completes its request. -/
  | cmpTransaction (p : Fin 32) (t : NetTxn)
  /-- `TRANSACTION_TIMEOUT` (R495): No response within 100 µs completes the transaction with STATUS 4. -/
  | transactionTimeout (tid : BitVec 16)
  /-- `PAIR_KEY_EXCHANGE` (R497): Module supervisors establish an end-to-end seal key in MGMT messages. -/
  | pairKeyExchange (node : BitVec 12) (ok : Bool)
  /-- `PAIR_KEY_TIMEOUT` (R497): A transaction waits 20 ms for its pair key and completes with STATUS 2. -/
  | pairKeyTimeout (node : BitVec 12)
  /-- `LNK_VCBUF_WRITE` (R506): Write the receive-buffer allocation, discarding invalid values. -/
  | lnkVcbufWrite (p : Fin 32) (v : W64)
  /-- `TAIL` (R528): A channel doorbell with CMD 0 accepts a new TAIL. -/
  | tail (f : Fin 65) (ch : BitVec 12) (v : BitVec 16)
  /-- `START` (R523): Load, check and start a channel entry. -/
  | start (f : Fin 65) (ch : BitVec 12)
  /-- `STOP` (R524): Stop a channel. -/
  | stop (f : Fin 65) (ch : BitVec 12)
  /-- `RELOAD` (R523): Reload a channel entry without starting it. -/
  | reload (f : Fin 65) (ch : BitVec 12)
  /-- `DCONS` (R528): Return destination buffers by advancing DCONS. -/
  | dcons (f : Fin 65) (ch : BitVec 12) (v : BitVec 16)
  /-- `DB_TASK` (R528): Write a new tail of a task queue. -/
  | dbTask (f : Fin 65) (l : BitVec 7) (v : BitVec 16)
  /-- `TQ_CFG_WRITE` (R544): Write a task queue's configuration, discarding an invalid LOG2. -/
  | tqCfgWrite (l : Fin 96) (v : W64)
  /-- `COPY_DESCRIPTOR` (R534): A channel processes a COPY descriptor, skewed or plain. -/
  | copyDescriptor (ch : BitVec 12)
  /-- `INGEST_DESCRIPTOR` (R538): A channel reads, decrypts and verifies an ingest chunk. -/
  | ingestDescriptor (ch : BitVec 12)
  /-- `INGEST_DEST_TAKE` (R538): Destination ring room appears and the chunk is decompressed and fingerprinted. -/
  | ingestDestTake (ch : BitVec 12)
  /-- `EGRESS_DESCRIPTOR` (R541): A channel encrypts plain-side data into an egress chunk. -/
  | egressDescriptor (ch : BitVec 12)
  /-- `DESCRIPTOR_COMPLETION` (R530): A descriptor ends and its completion record, word 4 and notification are written. -/
  | descriptorCompletion (ch : BitVec 12)
  /-- `BAR0_WRITE` (R41): A host write to a BAR0 register that has no row of its own, with alignment checks. -/
  | bar0Write (f : Fin 65) (off : BitVec 27) (l : List Byte) (tee : Bool)
  /-- `BAR2_READ` (R559): A host read through the device memory window. -/
  | bar2Read (o : BitVec 40) (n : BitVec 13)
  /-- `BAR2_WRITE` (R559): A host write through the device memory window. -/
  | bar2Write (o : BitVec 40) (l : List Byte)
  /-- `MSIX_UNMASK` (R562): Unmasking a vector sends its pending message. -/
  | msixUnmask (f : Fin 65) (v : Byte)
  /-- `LINK_DOWN` (R569): Surprise-down, hot reset or PERST_N resets the PCIe functions. -/
  | linkDown (perst : Bool)
  /-- `LINK_UP` (R553): The PCIe link trains to its rate and width. -/
  | linkUp (speed : BitVec 3) (width : BitVec 5)
  /-- `PF_FLR` (R569): Function-level reset of the physical function. -/
  | pfFlr
  /-- `VF_FLR` (R569): Function-level reset of a virtual function. -/
  | vfFlr (v : Fin 64)
  /-- `GET_VERSION` (R564): SPDM version request. -/
  | getVersion (f : Fin 65)
  /-- `GET_CAPABILITIES` (R564): SPDM capabilities request. -/
  | getCapabilities (f : Fin 65)
  /-- `NEGOTIATE_ALGORITHMS` (R564): SPDM algorithm negotiation. -/
  | negotiateAlgorithms (f : Fin 65) (common : Bool)
  /-- `GET_DIGESTS` (R564): SPDM certificate digests request. -/
  | getDigests (f : Fin 65)
  /-- `GET_CERTIFICATE` (R565): SPDM certificate chain request. -/
  | getCertificate (f : Fin 65) (slot : BitVec 4)
  /-- `CHALLENGE` (R564): SPDM challenge. -/
  | challenge (f : Fin 65) (slot : BitVec 4)
  /-- `GET_MEASUREMENTS` (R566): Return measurement blocks 1 to 5. -/
  | getMeasurements (f : Fin 65) (idx : Byte)
  /-- `KEY_EXCHANGE` (R564): SPDM session key exchange. -/
  | keyExchange (f : Fin 65) (good : Bool)
  /-- `FINISH` (R564): SPDM session finish. -/
  | finish (f : Fin 65) (good : Bool)
  /-- `END_SESSION` (R564): End an SPDM session. -/
  | endSession (f : Fin 65)
  /-- `KEY_UPDATE` (R564): Update SPDM session keys. -/
  | keyUpdate (f : Fin 65)
  /-- `HEARTBEAT` (R564): SPDM session heartbeat. -/
  | heartbeat (f : Fin 65)
  /-- `SET_IMPORT_KEY` (R567): Derive a key domain's import key on a tenant's secure session. -/
  | setImportKey (v : Fin 64) (k : Byte) (wellFormed : Bool)
  /-- `IDE_KM` (R568): Program IDE stream keys over a PF session. -/
  | ideKm (stream : Fin 5) (set : Bool)
  /-- `TDISP` (R568): A TDISP request changes a virtual function's TDI state. -/
  | tdisp (v : Fin 64) (r : TdispReq)
  /-- `IDE_ERR` (R568): An IDE stream fails integrity and bound TDIs enter ERROR. -/
  | ideErr (stream : Fin 5)
  /-- `DEBUG_UNLOCK` (R596): Grant a debug unlock on a DVS-24-48D, erasing tenant domains first. -/
  | debugUnlock (good : Bool)
  /-- `ARB_GRANT` (R573): An arbiter grants a requester by class and policy, ending or pre-empting a grant. -/
  | arbGrant (i : ArbInst) (rs : List ArbReq)
  /-- `PERT_SEL_WRITE` (R592): Write a perturbation entry, disabling it on an invalid combination. -/
  | pertSelWrite (d : Fin 4) (i : Fin 32) (v : W64)
  /-- `ARB_BURST_WRITE` (R584): Write burst limits, applying to later grants. -/
  | arbBurstWrite (d : Fin 4) (v : W64)
  /-- `EGR_LOST_MAX_CLEAR` (R584): Writing CLEAR sets EGR_LOST_MAX.MAX to 0. -/
  | egrLostMaxClear (d : Fin 4)
  /-- `REFCLK_LOSS` (R590): REFCLK is missing 1 µs or a PLL loses lock and clocks hold over. -/
  | refclkLoss
  /-- `REFCLK_RETURN` (R590): REFCLK returns within 10 ms and the loops relock. -/
  | refclkReturn
  /-- `REFCLK_HOLDOVER_EXPIRE` (R590): Holdover passes 10 ms and compute clocks and ports stop. -/
  | refclkHoldoverExpire
  /-- `INPUT_LOCKOUT` (R597): Under- or overvoltage for 2 µs turns every regulator off. -/
  | inputLockout
  /-- `INPUT_QUALIFIED` (R597): V_in holds in range 10 ms and power-up begins. -/
  | inputQualified
  /-- `RAIL_SAMPLE` (R600): Every 50 µs each regulator reports voltage, current and power. -/
  | railSample (inp : RailRep) (power : BitVec 32) (dies : List (List RailRep)) (vio vopt : RailRep)
  /-- `CAPPING_PERIOD` (R610): Every 1 ms the capping loop compares F with CAP and adjusts ceilings. -/
  | cappingPeriod (model : BitVec 32)
  /-- `MODEL_WINDOW` (R613): Every 10 ms model and measurement are compared, mode chosen and energy attributed. -/
  | modelWindow (shares : List (BitVec 7 × BitVec 48))
  /-- `TELEMETRY_MISSING` (R613): No input report for 200 µs enters SUSPECT. -/
  | telemetryMissing
  /-- `PWR_OP_REQ_WRITE` (R605): Write the requested operating point. -/
  | pwrOpReqWrite (d : Fin 4) (v : W64)
  /-- `OP_STEP_PLL_LOCKED` (R606): The standby PLL and slew are ready and the step waits for commit. -/
  | opStepPllLocked (d : Fin 4)
  /-- `OP_STEP_COMMIT` (R607): Five stretch-free µs pass and ECLK switches to the new point. -/
  | opStepCommit (d : Fin 4) (cycles : BitVec 32)
  /-- `VENG_SLEW_DONE` (R606): VENG reaches its new set voltage and the step ends. -/
  | vengSlewDone (d : Fin 4)
  /-- `DROOP_DETECT` (R608): A droop detector crosses the threshold and ECLK cycles stretch. -/
  | droopDetect (d : Fin 4) (depth : Byte)
  /-- `STRETCH_END` (R608): 16 cycles after every detector recovers the stretch ends. -/
  | stretchEnd (d : Fin 4) (cycles : BitVec 32)
  /-- `DROOP_ESCALATE` (R609): 10 µs of continuous stretch raises CEIL_DROOP. -/
  | droopEscalate (d : Fin 4)
  /-- `DROOP_DECAY` (R609): 100 ms without escalation lowers CEIL_DROOP by one. -/
  | droopDecay (d : Fin 4)
  /-- `TEMP_SAMPLE` (R615): Every 100 µs temperatures are read and bands updated. -/
  | tempSample (junctions hbmStacks : List (BitVec 16)) (inl outl : BitVec 16)
  /-- `THROTTLE` (R615): Each 1 ms at 95 °C or more raises CEIL_THERM. -/
  | throttle (d : Fin 4)
  /-- `THROTTLE_RELEASE` (R615): Each 10 ms below 92 °C lowers CEIL_THERM. -/
  | throttleRelease (d : Fin 4)
  /-- `COOLANT_LOSS` (R618): COOLANT_OK deasserts for 1 µs and the module pauses and stops ECLK. -/
  | coolantLoss
  /-- `COOLANT_HELD_STOPPED` (R618): Accepted requests drain and VCLK is gated once stacks are in self-refresh. -/
  | coolantHeldStopped
  /-- `HOLD_LIMIT` (R618): The hold lasts HOLD_LIMIT and every port is disabled. -/
  | holdLimit
  /-- `COOLANT_RESTORED` (R618): The resume condition holds and VCLK restarts, then ECLK 1 ms later. -/
  | coolantRestored
  /-- `SERVICE_MINUTE` (R624): Each service minute is counted and written to the store. -/
  | serviceMinute
  /-- `SPARE_FORECAST` (R626): Every hour HOURS_LEFT is computed for each spare class. -/
  | spareForecast
  /-- `SUPERVISOR_HEARTBEAT` (R34): A die supervisor heartbeat arrives on the standby sideband. -/
  | supervisorHeartbeat (d : Fin 4)
  /-- `SUPERVISOR_TAKEOVER` (R34): No heartbeat for 1.5 ms and the lowest running supervisor takes the role. -/
  | supervisorTakeover (o : StoreOut)
  /-- `DIE_LOST` (R644): A die is lost and held in reset with its effects. -/
  | dieLost (d : Fin 4)
  /-- `RETIREMENT` (R627): A retirement trigger journals and retires a resource. -/
  | retirement (r : RetRes)
  /-- `MIGRATION_REQUEST` (R633): The die supervisor starts migrating a logical engine to a spare. -/
  | migrationRequest (l : Fin 96) (why : Fin 3)
  /-- `MIGRATION_SWITCH` (R633): Drain, write-back and context copy end and ENG_REMAP switches to the spare. -/
  | migrationSwitch (l : Fin 96) (elapsed : BitVec 13)
  /-- `SELFTEST_START` (R638): Each hour the next physical engine is taken for self-test. -/
  | selftestStart
  /-- `SELFTEST_DONE` (R638): A self-test ends and the engine becomes SPARE or RETIRED. -/
  | selftestDone (p : Fin 104) (pass : Bool)
  /-- `ENGINE_RESET` (R703): The die supervisor resets one physical engine. -/
  | engineReset (e : Fin 104)
  /-- `FW_ACTIVATE` (R643): Writing a bank starts a live firmware activation. -/
  | fwActivate (b : Byte) (o : StoreOut)
  /-- `SUPERVISOR_RESTARTED` (R643): A die supervisor finishes restarting from the new bank and the next one restarts. -/
  | supervisorRestarted (ok : Bool) (o : StoreOut)
  /-- `TAIL_ARM` (R652): Every job engine has marked a due step and the snapshot point is fixed. -/
  | tailArm (j : Fin 8)
  /-- `TAIL_WAIT_EXPIRE` (R652): Marks are not complete in WAIT ms and the snapshot is abandoned. -/
  | tailWaitExpire (j : Fin 8)
  /-- `EARLY_COPY` (R653): A write reaches a protected granule and waits for its early copy. -/
  | earlyCopy (g : BitVec 29)
  /-- `GRANULE_COPY` (R653): Tail copies a protected granule in the background and clears its bit. -/
  | granuleCopy (j : Fin 8)
  /-- `SNAPSHOT_COMMIT` (R655): All image bytes are performed and the commit record is written. -/
  | snapshotCommit (j : Fin 8)
  /-- `BASE` (R656): Mark the runtime's full checkpoint and empty the dirty log. -/
  | base (j : Fin 8)
  /-- `TAIL_ABORT` (R656): Abort a snapshot or restore in progress. -/
  | tailAbort (j : Fin 8)
  /-- `RESTORE` (R658): Apply the newest committed chain and write restore records. -/
  | restore (j : Fin 8)
  /-- `TAIL_REG_WRITE` (R647): Write a dirty-log or step register, accepted only in IDLE or HALTED. -/
  | tailRegWrite (j : Fin 8) (r : Fin 3) (v : W64)
  /-- `MB_READ` (R670): Mailbox READ of an object value. -/
  | mbRead (win : MbWin)
  /-- `MB_WRITE` (R671): Mailbox WRITE of an object value or piece. -/
  | mbWrite (win : MbWin) (o : StoreOut)
  /-- `MB_DESCRIBE` (R672): Mailbox DESCRIBE of an object. -/
  | mbDescribe (win : MbWin)
  /-- `SEGMENT_GAP_TIMEOUT` (R671): A staged segmented write stalls beyond its gap limit and is discarded. -/
  | segmentGapTimeout (p : SegPath)
  /-- `GATEMI_READ` (R677): Gatemi READ request, expedited or segmented. -/
  | gatemiRead (f : CanFrame)
  /-- `GATEMI_WRITE` (R677): Gatemi WRITE request, expedited or segmented initiate. -/
  | gatemiWrite (f : CanFrame) (o : StoreOut)
  /-- `SEG` (R677): A Gatemi segment frame is received. -/
  | seg (f : CanFrame) (o : StoreOut)
  /-- `SEG_ACK` (R677): A Gatemi segment acknowledgement is received. -/
  | segAck (f : CanFrame)
  /-- `GATEMI_DESCRIBE` (R672): Gatemi DESCRIBE request. -/
  | gatemiDescribe (f : CanFrame)
  /-- `GATEMI_ABORT` (R677): Gatemi ABORT ends an open transfer. -/
  | gatemiAbort (f : CanFrame)
  /-- `GATEMI_HEARTBEAT` (R678): Every HB_PERIOD ms a heartbeat frame is sent. -/
  | gatemiHeartbeat (seconds : BitVec 32)
  /-- `EVENT_FRAME` (R678): A gathered event frame is sent, at most once per 10 ms per source. -/
  | eventFrame (src : EvSrc)
  /-- `BUS_OFF` (R674): The CAN FD controller goes bus-off and recovers. -/
  | busOff
  /-- `STORE_RESOLVE` (R685): Adopt one slot's copies of every conflicting object. -/
  | storeResolve (n : Byte) (o : StoreOut)
  /-- `RESTORE_DEFAULTS` (R665): Restore defaults of persistent objects of a range. -/
  | restoreDefaults (v : BitVec 16) (o : StoreOut)
  /-- `GEN_SEL_WRITE` (R680): Select the generation of one path. -/
  | genSelWrite (p : DictPath) (v : Byte)
  /-- `POWER_ON` (R695): Power-up brings the module through BOOT, POWER, MEMORY and ENGINES. -/
  | powerOn (u : PowerUp)
  /-- `REFCLK_PRESENT` (R695): REFCLK has been present 1 ms and the supervisors proceed with step 2. -/
  | refclkPresent (slot : BitVec 7)
  /-- `ENGINES_START` (R695): COOLANT_OK has held 100 ms and TIME, remap and ECLK start the monitor. -/
  | enginesStart
  /-- `MOD_RESET` (R704): MOD_RESET_N asserted 10 µs stops the module to VSTBY. -/
  | modReset
  /-- `MOD_RESET_RELEASE` (R704): MOD_RESET_N deasserts and start-up resumes at step 2. -/
  | modResetRelease (slot : BitVec 7)
  /-- `PERST_N_DEASSERT` (R696): PERST_N deasserts and PCIe link training starts. -/
  | perstNDeassert
  /-- `FAILED_RECOVERY` (R701): In FAILED, Keystone ROM code serves Gatemi identity and firmware objects. -/
  | failedRecovery (f : CanFrame) (o : StoreOut)
  /-- `ROW_SPARE_DONE` (R630): The copy of a row into its spare row ends, waiting requests are served from the spare and the journal entry becomes DONE. -/
  | rowSpareDone (h : Fin 24) (pc : Fin 64) (bank : Fin 16) (row : Nat) (bad : List (BitVec 41))
  /-- `MIGRATION_ABANDON` (R634): The spare S reports an error before the switch, the migration is abandoned, A resumes and S passes to SELF_TEST. -/
  | migrationAbandon (l : Fin 96)
  /-- `INTERNAL_STATE_ERROR` (R110): An engine detects an internal state error and takes MACHINE_CHECK with SUB 2. -/
  | internalStateError (e : Fin 104)
  /-- `PREEMPTION_REQUEST` (R135): A pre-emption request for the running task sets interrupt source 10, PREEMPT. -/
  | preemptionRequest (e : Fin 104)
  /-- `FLR_COMPLETE` (R569): A function-level reset completes, within 10 ms, and the function stops answering with Request Retry Status and accepts doorbells again. -/
  | flrComplete (f : Fin 65)
  /-- `CONFIGURATION_REQUEST` (R555): A host configuration write changes VF Enable, the BAR2 size, MSI-X Enable or Bus Master Enable of a function. -/
  | configurationRequest (f : Fin 65) (r : CfgReq)
  /-- `BAR0_READ` (R41): A host read through BAR0 returns a register, zero for a bad size or alignment, or all ones for an absent die, and sets BAR0_ERR. -/
  | bar0Read (f : Fin 65) (off : BitVec 27) (n : BitVec 13) (tee : Bool)
  /-- `RETRAIN_LOCKED` (R482): In RETRAIN, the lanes relock and deskew on the session's training blocks, and the port returns to UP with replay resuming. -/
  | retrainLocked (p : Fin 32)
  /-- `EPOCH_KEY_RETIRE` (R491): 1 ms after the first valid flit of a new epoch, the receiver drops the previous epoch's key. -/
  | epochKeyRetire (p : Fin 32)
  /-- `CONTROL_MESSAGE_REPEAT` (R479): Every 1 µs an unanswered ROT or HS message is sent again. -/
  | controlMessageRepeat (p : Fin 32)
deriving DecidableEq, Repr

end Sys2Proof
end

