-- ==== Sys2Proof/Decode.lean ====
section
/-!
DEFINITION. The commands that words spell by the opcode table's bits. No row of the table has a field, so no word
spells a command.
-/

namespace Sys2Proof

/-- The command that a word spells by the table's bits. DESIGN CHOICE (log 1). -/
def decodeTableWord (_nbits _w : Nat) : Option Instr := none

end Sys2Proof
end

