-- ==== Sys2Proof/Config.lean ====
section
/-!
DEFINITION. What the spec leaves open or what an implementation fixes: constants without a body, so that no
proof can rest on their values. Each is named by a row of the assumption log.
-/

namespace Sys2Proof

/-- ECLK cycles that an instruction waits beyond its own issue cycle (R81, R371), by use. DESIGN CHOICE (log 9). -/
opaque Config.stallCycles : Nat → Nat

/-- A byte of device memory read under a key domain that did not write it, or that nothing has written
(R512, R513): by kind of view, domain, key generation, offset and moment. DEDUCED (log 8). -/
opaque Config.meaningless : Nat → Nat → Nat → Nat → Nat → BitVec 8

/-- A byte that the host's memory returns at an IOVA, by use (R438). DEDUCED (log 93). -/
opaque Config.hostByte : Nat → Nat → BitVec 8

/-- How the host completes a read: 0 successful, otherwise the ACCESS subcode 2, 4 or 6 (R439), by use. DEDUCED (log 93). -/
opaque Config.hostStatus : Nat → Nat

/-- Sign and payload of a scalar NaN result, which IEEE 754 leaves open (R85), by use.
DEDUCED (log 14); DESIGN CHOICE (log 22). -/
opaque Config.nanBits : Nat → BitVec 52

/-- A value the spec leaves open, of any width, by use. DESIGN CHOICE (log 7). -/
opaque Config.free : Nat → Nat

/-- Factory voltage table of a die, by point and band, in units of 0.1 mV (R604). PRESUMED (log 92). -/
opaque Config.vtab : Nat → Nat → Nat → BitVec 16

/-- `AGE_STEP` and `VENG_MAX` of a die, in units of 0.1 mV (R604). PRESUMED (log 92). -/
opaque Config.ageStep : Nat → BitVec 16
/-- PRESUMED (log 92). -/
opaque Config.vengMax : Nat → BitVec 16

/-- Vendor ID (R554), serial number, factory test record and activity-model coefficients (R690, R693, R621).
PRESUMED (log 92). -/
opaque Config.vendorId : BitVec 16
/-- PRESUMED (log 92). -/
opaque Config.serial : List (BitVec 8)
/-- PRESUMED (log 92). -/
opaque Config.testRecord : List (BitVec 8)
/-- PRESUMED (log 92). -/
opaque Config.coeffs : Nat → List (BitVec 8)

/-- A firmware bank as the factory wrote it into every slot, header first (R640). PRESUMED (log 92). -/
opaque Config.fwBank : Nat → List (BitVec 8)

/-- Index and subindex that an event frame gives for `PWR_EVT`, for which the object tables list no object (R678).
DESIGN CHOICE (log 76). -/
opaque Config.pwrEvtObj : BitVec 24

end Sys2Proof
end

