-- ==== Sys2Proof/Machine/EngineState.lean ====
section
/-!
DEFINITION. The state of one physical engine: scalar core, vector unit, tile unit, store buffer, late-error
queue, interrupt latches, translation caches, engine cache, prefetchers and speculation (chapters 02 to 11).
-/

namespace Sys2Proof.Machine

/-- A multiply's or divide's result that has not been delivered yet (R87, R88). -/
structure Pend where
  /-- place in program order (R55) -/
  seq : Nat
  /-- goes to `PRL` (`QUO`) -/
  lo : W64
  /-- goes to `PRH` (`REM`) -/
  hi : W64
  /-- a divide -/
  div : Bool
deriving DecidableEq, Repr

/-- The contents of one physical tile slot: rows of 128 bytes and the 16 scale bytes of each row (R205,
R260). A row not listed is zero. -/
structure TileSlot where
  rows : Store (BitVec 1024)
  scale : Store (BitVec 128)
deriving DecidableEq, Repr

/-- The tile and accumulator files with their maps (R213) and the reuse latches (R221). Accumulator
element (m, n) of a slot is listed at 128 m + n; an element not listed is zero. -/
structure TileFile where
  tmap : List Nat
  spare : Nat
  amap : List Nat
  shadow0 : Nat
  shadow1 : Nat
  slots : Store TileSlot
  accs : Store (Store (BitVec 48))
  /-- the slots whose contents the two reuse latches hold, where valid: a slot number, with 100 added when a
  full-array pass loaded it and 200 when a pair did -/
  latch0 : Option Nat
  latch1 : Option Nat
deriving DecidableEq, Repr

/-- The part of an engine that a discarded instruction leaves as it was (R117 step 1, R215): registers of
the scalar core (R54), pending deliveries, system registers by number, vector and mask registers, tile file. -/
structure Core where
  acc : TWord
  ix0 : TWord
  ix1 : TWord
  prl : TWord
  prh : TWord
  spMon : W64
  spSup : W64
  spTask : W64
  pc : W64
  st : W64
  /-- deliveries due, oldest first -/
  pend : List Pend
  /-- the next place in program order -/
  seq : Nat
  /-- `INSTRET` (R103) -/
  instret : W64
  /-- system registers that have been written since reset, by number; the others hold their reset value -/
  sys : Store W64
  v : Store (BitVec 8192)
  m : Store (BitVec 8192)
  tf : TileFile
deriving DecidableEq, Repr

/-- What a store does with the tags of the words it writes (R66, R181). -/
inductive TagAct where
  /-- a word written in whole takes this tag (a tagged page) -/
  | set (t : Tag)
  /-- a word written in whole takes RAW, a partly written word keeps its tag (an untagged page; a
  sub-word store) -/
  | whole
  /-- every word written takes RAW, but a POISON word written in part keeps POISON (a vector, tile or DMA
  store through a tagged page) -/
  | raw
deriving DecidableEq, Repr

/-- An atomic operation as it travels (R447, R448, R460). -/
structure AtomReq where
  /-- AOP of R447 -/
  aop : Nat
  line : Bool
  /-- the old value is returned -/
  ret : Bool
  /-- the operand's bytes: an element, or the part of the source line that the target line takes -/
  operand : List Byte
  /-- compare value of the `cas` forms -/
  cmp : W64
  /-- global address of the EXA128 region header -/
  hdr : W64
  /-- `xadd` element form: the operand is a signed integer (tag INT), otherwise binary64 -/
  isInt : Bool
deriving DecidableEq, Repr

/-- One entry of the store buffer: a retired store or non-returning atomic that is not performed yet
(R141, R452). -/
structure SbEntry where
  /-- device virtual address reported in `LATE_ERR` -/
  va : W64
  /-- global address of offset 0 -/
  ga : W64
  kdom : Byte
  /-- the bytes, each with its offset from `ga` -/
  data : List (Nat × Byte)
  tag : TagAct
  /-- level of the store -/
  pl : BitVec 2
  /-- log2 of the bytes, reported in `LATE_ERR` -/
  size : Nat
  /-- `st.rl`: performed only after every earlier access (R400) -/
  rel : Bool
  /-- the page is marked side-effect -/
  se : Bool
  /-- engine-cache class and partition for the pier (R342) -/
  cls : Nat
  /-- tensor class of the page -/
  tcls : Nat
  /-- the function whose requester ID a host access uses (R438) -/
  fn : Nat
  atom : Option AtomReq
  /-- the transaction that carries it, once sent -/
  sent : Option Nat
deriving DecidableEq, Repr

/-- An entry of the `LATE_ERR` queue (R141, R144). -/
structure LateErr where
  addr : W64
  status : Byte
  pl : BitVec 2
  size : BitVec 4
deriving DecidableEq, Repr

/-- A tile instruction that has done its work and is not committed (R214, R215). The core already holds
its result and those of the younger instructions; `before` is the core as it stood when the instruction
issued, to which a discard returns. DEDUCED (log 29). -/
structure TileOp where
  before : Core
  /-- the core right after the instruction, without the younger ones -/
  after : Core
  /-- a multiply-family pass, for R246 -/
  pass : Bool
  /-- length P of the pass in cycles (R226) -/
  len : Nat
  /-- the fields of `TILEINFO` (R120, R248) other than VALID and PASS_CYCLE -/
  info : W64
  /-- counts added at commit: `TCNT_BUSY`, `TCNT_SKIP` -/
  busy : Nat
  skip : Nat
  /-- stores of younger instructions, which enter the store buffer when they retire (R214) -/
  held : List SbEntry
  /-- instructions retired behind it, itself included (R214) -/
  younger : Nat
deriving DecidableEq, Repr

/-- What an engine that does not issue is waiting for. -/
inductive Wait where
  | none
  /-- `pause` (R81) -/
  | pause
  /-- `FENCE.S` drains the store buffer (R145) -/
  | fenceS
  /-- `fence` with W in PRED waits for stores to be performed (R399); `inval` names fence.n -/
  | fence (inval : Bool)
  /-- the response of transaction `tid` -/
  | resp (tid : Nat)
  /-- a returning atomic has been sent: its operation and its target's address (R451) -/
  | atomic (aop : Nat) (va : W64)
  /-- `msend`, or with `done` `tdone`, has sent its write to another node, whose response gives the status (R548,
  R549) -/
  | reply (done : Bool)
  /-- an interrupt waits for the oldest tile instruction (R246) -/
  | tile
  /-- `stepmark` of a due step waits until the slot is ARMED (R650) -/
  | mark (slot : Nat)
  /-- issue stopped by the die supervisor for a live migration (R633) -/
  | drain
deriving DecidableEq, Repr

/-- The response of a returning atomic (R454): exception code and subcode, code 0 for success, and the old
value. -/
structure AtomResp where
  code : Byte
  sub : Byte
  val : Nat
deriving DecidableEq, Repr

/-- An entry of a translation cache (R433): a leaf, or with `walk` the pointer to the table of level
`lvl` − 1 reached by the bits of `va` above it. -/
structure TlbEntry where
  ctx : Nat
  /-- device virtual address with the bits below `size` zero -/
  va : Nat
  /-- log2 of the bytes it covers -/
  size : Nat
  lvl : Nat
  /-- words 0 and 1 of the page-table entry, as last seen or updated -/
  w0 : W64
  w1 : W64
  /-- local offset of the entry -/
  ent : Nat
  /-- key domain of the context's tables (R728) -/
  tkdom : Byte
deriving DecidableEq, Repr

/-- Coherence states of an engine-cache line (R338); a pier's line is clean (`e`) or dirty (`m`). -/
inductive LineSt where
  | s | e | m | n | w
deriving DecidableEq, Repr

/-- A cached line's address, place and replacement state (R350 to R352). Its data is not kept here:
coherence (R336) makes it that of memory. -/
structure CLine where
  /-- line number: local offset, or for other nodes and host memory global address, div 128 -/
  line : Nat
  way : Nat
  st : LineSt
  /-- requester class, partition and tensor class at the fill -/
  cls : Nat
  part : Nat
  tcls : Nat
  reuse : Nat
  dead : Bool
  /-- a write-back or fill is in progress (R358) -/
  busy : Bool
  /-- key domain under which it was filled (R513) -/
  kdom : Byte
  /-- 0 demand; 1 stream prefetch, 2 descriptor prefetch not yet hit (R394) -/
  pf : Nat
deriving DecidableEq, Repr

/-- A miss of the engine cache that has not been filled (R343, R356). -/
structure EMiss where
  line : Nat
  cls : Nat
  tcls : Nat
  kdom : Byte
  store : Bool
  fetch : Bool
  /-- the way whose dirty victim is being written back -/
  way : Option Nat
  /-- 0 a demand miss; the prefetcher of a prefetch, and whether it fills the pier only -/
  pf : Nat
deriving DecidableEq, Repr

/-- A cache: its sets by number, each a list of lines, most recent first. -/
abbrev Cache := Store (List CLine)

/-- A line held in state W (R403): the whole line as the speculative task sees it, the bytes it has written,
the tags of its 16 words and which of them it has set. -/
structure WLine where
  /-- global address of the line -/
  ga : W64
  kdom : Byte
  va : W64
  fn : Nat
  data : List Byte
  mask : BitVec 128
  tags : List Tag
  tset : BitVec 16
deriving DecidableEq, Repr

/-- An N line: a clean copy of a line of another node or of host memory (R338, R339). DEDUCED (log 97). -/
structure NLine where
  ga : W64
  kdom : Byte
  bytes : List Byte
deriving DecidableEq, Repr

/-- A stream of the stream prefetcher (R386). -/
structure Stream where
  /-- context, level and line number of the device virtual address -/
  ctx : Nat
  pl : BitVec 2
  line : Nat
  stride : Int
  misses : Nat
  trained : Bool
  issued : Nat
deriving DecidableEq, Repr

/-- A running software prefetch descriptor (R392). -/
structure PfDesc where
  ctx : Nat
  pl : BitVec 2
  base : W64
  stride : W64
  rows : Nat
  rowb : Nat
  next : Nat
  pier : Bool
deriving DecidableEq, Repr

/-- State of a speculation (R402): 0 idle, 1 active, 2 parked, 3 committing, with the fields of
`SPEC_STAT` and `SPEC_PARK_ADDR`. -/
structure Spec where
  state : Nat
  failed : Bool
  lost : Bool
  conflict : Bool
  parkCode : Byte
  parkWhy : Nat
  parkAddr : W64
  wl : List WLine
deriving DecidableEq, Repr

/-- One physical engine. -/
structure Engine where
  core : Core
  /-- event counters among the system registers, by number (R15), but `INSTRET` -/
  ctrs : Store W64
  /-- latched event sources 6 to 10 of `IRQ_PEND` (R135) -/
  irq : BitVec 11
  lateErr : List LateErr
  sb : List SbEntry
  tq : List TileOp
  wait : Wait
  /-- lockdown (R124, R125), with the stack address whose push failed last -/
  locked : Option W64
  /-- the frame that could not be pushed, kept for the lockdown record (R126) -/
  lockFrame : List TWord
  /-- `TILE_LEASE` in force (R243) -/
  leased : Bool
  /-- `ENG_TENANT` in force (R424): bit 8 OPER, bits [5:0] TENANT -/
  tenant : W64
  tlbI : List TlbEntry
  tlbD : List TlbEntry
  tlb2 : List TlbEntry
  walk : List TlbEntry
  l1i : Cache
  l1d : Cache
  ec : Cache
  misses : List EMiss
  nlines : List NLine
  /-- data of remote reads that has arrived for the instruction that waits for it -/
  rbuf : List NLine
  /-- an error status that has arrived for it -/
  rerr : Option Byte
  streams : List Stream
  pfd : List PfDesc
  /-- prefetches outstanding (R388): line and prefetcher, 1 stream, 2 descriptor -/
  pfOut : List (Nat × Nat)
  spec : Spec
  /-- response of a returning atomic that has arrived (R451) -/
  atomResp : Option AtomResp
  /-- machine checks that wait for that response (R138, R451): SUB and `FADDR` -/
  mcPend : List (Byte × W64)
deriving DecidableEq, Repr

/-- The reset binding of the tile and accumulator maps, with every slot zero (R213). -/
def TileFile.reset : TileFile :=
  { tmap := List.range 16, spare := 16, amap := List.range 4, shadow0 := 4, shadow1 := 5
    slots := [], accs := [], latch0 := none, latch1 := none }

/-- A register that holds 0 with tag RAW. -/
def TWord.zero : TWord := ⟨0#64, 0#4⟩

/-- The core at engine reset: level 0, interrupts off (R59), every other register zero. DESIGN CHOICE (log 6). -/
def Core.reset : Core :=
  { acc := TWord.zero, ix0 := TWord.zero, ix1 := TWord.zero, prl := TWord.zero, prh := TWord.zero
    spMon := 0#64, spSup := 0#64, spTask := 0#64, pc := 0#64, st := 0#64
    pend := [], seq := 0, instret := 0#64, sys := [], v := [], m := [], tf := TileFile.reset }

/-- No speculation open. -/
def Spec.idle : Spec :=
  { state := 0, failed := false, lost := false, conflict := false, parkCode := 0#8, parkWhy := 0
    parkAddr := 0#64, wl := [] }

/-- An engine right after reset: queues, caches and translation caches empty, `ENG_TENANT` at its reset
value (R424). -/
def Engine.reset : Engine :=
  { core := Core.reset, ctrs := [], irq := 0#11, lateErr := [], sb := [], tq := [], wait := .none
    locked := none, lockFrame := [], leased := false, tenant := 0x100#64
    tlbI := [], tlbD := [], tlb2 := [], walk := [], l1i := [], l1d := [], ec := [], misses := []
    nlines := [], rbuf := [], rerr := none, streams := [], pfd := [], pfOut := []
    spec := Spec.idle, atomResp := none, mcPend := [] }

end Sys2Proof.Machine
end

