-- ==== Sys2Proof/Machine/MemState.lean ====
section
/-!
DEFINITION. Device memory with its keys and marks, Keystone, and the queues of a logical engine
(chapters 02, 08, 13).
-/

namespace Sys2Proof.Machine

/-- How a 128-byte line of device memory was last written (R512, R513): the key domain and the generation
of its storage key, which bytes have been written under them, and two numbers that tell apart the
meaningless contents of different moments. -/
structure LineRec where
  dom : Byte
  gen : Nat
  mask : BitVec 128
  base : Nat
  ver : Nat
deriving DecidableEq, Repr

/-- Device memory (R47): the bytes that differ from zero in canonical form, the encryption records of
the lines, the poisoned 32-byte sectors outside the tagged region (R361), and the ranges zeroed under
key domain 0 at start-up (R697). -/
structure Memory where
  cells : List Host.Cell
  lines : Store LineRec
  poison : List Nat
  zeroed : List (Nat × Nat)
deriving DecidableEq, Repr

/-- A transport slot of a key domain (R514). -/
structure KSlot where
  present : Bool
  use : BitVec 2
  salt : BitVec 32
  ctr : W64
  gen : BitVec 32
  /-- the 256-bit key; it is in no register and no memory -/
  key : Nat
deriving DecidableEq, Repr

/-- A key domain in Keystone (R508, R514): STATE 0 FREE, 1 ACTIVE, 2 ERASING (R509). -/
structure KDom where
  state : Nat
  /-- generation of the storage key -/
  gen : Nat
  /-- import key, where one has been derived (R567), and the last COUNTER accepted (R517) -/
  imp : Option Nat
  lastCtr : Option W64
  slots : Store KSlot
deriving DecidableEq, Repr

/-- An erase under way (R520): the domain, the engine whose instruction asked for it, and whether the domain is renewed
(`kdreset`) or left FREE (`kdfree`). -/
structure Erase where
  dom : Byte
  e : Nat
  renew : Bool
deriving DecidableEq, Repr

/-- Keystone: measured boot finished (R519), the erase under way, the domains. -/
structure Keystone where
  ready : Bool
  erasing : Option Erase
  dom : Store KDom
  /-- what generations count from: every start-up draws new storage keys (R697) -/
  base : Nat
deriving DecidableEq, Repr

/-- A message in a message queue (R549). -/
structure Msg where
  node : BitVec 12
  kdom : Byte
  src : BitVec 7
  body : List Byte
deriving DecidableEq, Repr

/-- The record of the task an engine is running (R547). -/
structure TaskRec where
  /-- device virtual address of the descriptor -/
  va : W64
  doneAddr : W64
  vector : W64
  ctx : Nat
deriving DecidableEq, Repr

/-- The task queue, current task and message queue of a logical engine (R544, R547, R549). -/
structure LogEng where
  base : W64
  cfg : W64
  head : BitVec 16
  tail : BitVec 16
  task : Option TaskRec
  msgs : List Msg
deriving DecidableEq, Repr

/-- An entry of a pier's snoop filter (R337). -/
structure SfEntry where
  line : Nat
  owner : Option Nat
  holders : List Nat
deriving DecidableEq, Repr

/-- An allocation a pier has still to make (R342, R344). -/
structure PMiss where
  line : Nat
  cls : Nat
  part : Nat
  tcls : Nat
  kdom : Byte
  write : Bool
  /-- the way whose dirty victim is being written to the stack (R357) -/
  way : Option Nat
deriving DecidableEq, Repr

/-- A pier: its lines, its snoop filter, allocations to make, the set that the scrubber reads next (R365)
and, per way being retired, how many sets have been treated (R369). -/
structure Pier where
  sets : Cache
  sf : Store (List SfEntry)
  misses : List PMiss
  scrub : Nat
  retiring : List Nat
deriving DecidableEq, Repr

/-- The translation caches of an engine or a die's translation unit (R433, R437). -/
structure Tlbs where
  leaves : List TlbEntry
  walk : List TlbEntry
deriving DecidableEq, Repr

def Tlbs.reset : Tlbs := ⟨[], []⟩

/-- DESIGN CHOICE (log 6). -/
def Pier.reset : Pier := { sets := [], sf := [], misses := [], scrub := 0, retiring := [] }

/-- A domain at module reset: FREE with no key in use; domain 0 belongs to firmware and is ACTIVE (R508). -/
def KDom.reset (k : Nat) : KDom :=
  { state := if k = 0 then 1 else 0, gen := 0, imp := none, lastCtr := none, slots := [] }

def KSlot.empty : KSlot :=
  { present := false, use := 0#2, salt := 0#32, ctr := 0#64, gen := 0#32, key := 0 }

def Keystone.reset : Keystone := { ready := false, erasing := none, dom := [], base := 0 }

/-- `TQ_CFG` resets to OPER 1 and LOG2 4, the other queue registers to 0 (R544). -/
def LogEng.reset : LogEng :=
  { base := 0#64, cfg := 0x800004#64, head := 0#16, tail := 0#16, task := none, msgs := [] }

def Memory.reset : Memory := { cells := [], lines := [], poison := [], zeroed := [] }

end Sys2Proof.Machine
end

