-- ==== Sys2Proof/Machine/AvailState.lean ====
section
/-!
DEFINITION. The state of the availability promise that no register holds (chapter 17).
-/

namespace Sys2Proof.Machine

/-- What `stepmark` records of an engine (R650, R654): step, data position, `RNG_SEED`, `RNG_CTR` before the mark,
`AMAX0` to `AMAX3`. -/
structure TailMark where
  s : W64
  p : W64
  seed : W64
  ctr : W64
  amax : List W64
deriving DecidableEq, Repr

/-- A granule of an image that has not been copied to its place: its number (local offset div 4096), its key domain, its
offset in the image, and its bytes once an early copy has taken them; while it has none it is protected (R653). -/
structure TailGran where
  g : Nat
  kdom : Byte
  dst : Nat
  data : Option (List Byte)
deriving DecidableEq, Repr

/-- A replica of the image being written: its channel, where the image starts in the region, where its commit record goes,
and the bytes written so far with their offsets in the image. -/
structure TailRep where
  ch : Nat
  start : Nat
  len : Nat
  bytes : List (Nat × List Byte)
deriving DecidableEq, Repr

/-- A job slot of Tail (R645 to R659); its other registers are BAR0 registers. STATE and REASON of `TAIL_STAT`, the last
SEQ, `TAIL_STEP`, the current half of the log and the entries it holds, the entries of the image's page list, whether no
image has been committed since BASE, the last mark and record of each logical engine, the verdicts on recent steps, the
due step with the time of its first mark, a due step that waits for the commit (STRICT), a step that is due at once
(STRICT = 0), the time of the last commit, the image, and how many replicas have their commit record. -/
structure TailSlot where
  state : Nat
  reason : Nat
  seq : Nat
  step : W64
  half : Bool
  used : Nat
  list : Nat
  base : Bool
  marks : Store W64
  recs : Store TailMark
  due : List (W64 × Bool)
  now : Option W64
  since : W64
  next : Option W64
  owed : Bool
  last : W64
  reps : List TailRep
  grans : List TailGran
  done : Nat
deriving DecidableEq, Repr

def TailSlot.reset : TailSlot :=
  { state := 0, reason := 0, seq := 0, step := 0#64, half := false, used := 0, list := 0, base := false, marks := [], recs := [], due := []
    now := none, since := 0#64, next := none, owed := false, last := 0#64, reps := [], grans := [], done := 0 }

/-- An entry of the retirement journal (R628): the spare class of R625 (0 for a whole stack), the resource in up to four
numbers, the service minute of the retirement, and DONE. Class 1: physical engine. 3: global pier, way. 4: stack, local
pseudo-channel. 5: stack, pseudo-channel, bank, row. -/
structure JEntry where
  cls : Nat
  res : List Nat
  at' : Nat
  done : Bool
deriving DecidableEq, Repr

/-- A migration requested or running (R633, R637): the logical engine, its engine and, once running, the spare; the reason
(1 lockdown, 2 retirement, 3 self-test). -/
structure Mig where
  l : Nat
  src : Nat
  dst : Option Nat
  why : Nat
deriving DecidableEq, Repr

/-- A firmware activation under way (R643): the bank, and the die supervisors that run it. -/
structure FwRun where
  bank : Bool
  done : List Nat
deriving DecidableEq, Repr

/-- Availability objects and what stands behind them. -/
structure AvSt where
  /-- `AV_EVT` and `FW_EVT` (R661) -/
  avEvt : BitVec 32
  fwEvt : BitVec 32
  fwStatus : Nat
  fw : Option FwRun
  lastLostWrite : W64
  /-- `LAST_LOCKDOWN`: logical and physical engine, TIME, CAUSE, FADDR -/
  lastLock : List W64
  /-- service minutes counted, and the count in the store (R624) -/
  minutes : Nat
  /-- the persistent journal (R628) -/
  journal : List JEntry
  /-- lane spares consumed: service minute of each (R626) -/
  lanes : List Nat
  /-- `HOURS_LEFT` as last computed (R626) -/
  hours : List Nat
  migs : List Mig
  /-- engines under test, each with whether it entered by lockdown (R639), and the next in turn (R638) -/
  tests : List (Nat × Bool)
  turn : Nat
  /-- job slots of Tail that differ from `TailSlot.reset` -/
  tails : Store TailSlot
deriving DecidableEq, Repr

/-- DESIGN CHOICE (log 6). -/
def AvSt.reset : AvSt :=
  { avEvt := 0#32, fwEvt := 0#32, fwStatus := 0, fw := none, lastLostWrite := 0#64, lastLock := [], minutes := 0, journal := [], lanes := []
    hours := List.replicate 5 0xFFFFFFFF, migs := [], tests := [], turn := 0, tails := [] }

end Sys2Proof.Machine
end

