-- ==== Sys2Proof/Machine/HostState.lean ====
section
/-!
DEFINITION. The state of the host interface, the object dictionary and power control that no register holds (chapters
14, 15, 16, 18).
-/

namespace Sys2Proof.Machine

/-- A PCIe function: 0 the physical function, 1 + v virtual function v (R555). -/
structure HostFn where
  /-- MSI-X Enable and Bus Master Enable (R562) -/
  msixEn : Bool
  busMaster : Bool
  /-- a function-level reset is in progress (R569) -/
  flr : Bool
  /-- TDI state (R556): 0 CONFIG_UNLOCKED, 1 CONFIG_LOCKED, 2 RUN, 3 ERROR -/
  tdi : Nat
  /-- the selective IDE stream the TDI is bound to (R568) -/
  tdiStream : Option Nat
  /-- SPDM connection (R564): 0 none, 1 version, 2 capabilities, 3 algorithms agreed -/
  spdm : Nat
  /-- secure session: 0 none, 1 keys exchanged, 2 established -/
  sess : Nat
  /-- key updates made in the session -/
  keyUpd : Nat
deriving DecidableEq, Repr

/-- The host interface: functions, VF Enable, log2 of the BAR2 size (R555), the IDE streams with keys set
(R568: 0 the link stream, 1 to 4 selective), the Alias key in use (R565, R566), a debug unlock (R596), `PERST_N` deasserted. -/
structure HostSt where
  fns : Store HostFn
  vfEn : Bool
  bar2Log : Nat
  ide : List Nat
  aliasKey : Nat
  unlocked : Bool
  perstHigh : Bool
deriving DecidableEq, Repr

def HostFn.reset : HostFn :=
  { msixEn := false, busMaster := false, flr := false, tdi := 0, tdiStream := none, spdm := 0, sess := 0, keyUpd := 0 }

/-- After reset no virtual function is enabled and BAR2 is 1 GiB (R555). -/
def HostSt.reset : HostSt := { fns := [], vfEn := false, bar2Log := 30, ide := [], aliasKey := 0, unlocked := false, perstHigh := false }

/-! The dictionary. -/

/-- A copy of a persistent object (R681): its sequence number and value. -/
structure DRec where
  seq : Nat
  val : List Byte
deriving DecidableEq, Repr

/-- A segmented transfer under way (R671, R677): its object (index × 256 + subindex), whether it writes, the transaction
id, the bytes received or to send, the length announced, the next segment number. -/
structure DSeg where
  obj : Nat
  wr : Bool
  tid : Byte
  data : List Byte
  total : Nat
  next : Nat
deriving DecidableEq, Repr

/-- A mailbox request that had started when its window was reset (R673): `MB_CMD`, `MB_OFFSET` and the data. -/
structure MbReq where
  cmd : W64
  off : W64
  data : List Byte
deriving DecidableEq, Repr

/-- The object dictionary (chapter 18). Objects are numbered index × 256 + subindex. DEDUCED (log 100). -/
structure DictSt where
  /-- the dictionary is served (R695 step 4) -/
  up : Bool
  /-- records of the three store slots that differ from the factory's; none for an invalid copy -/
  slots : List (Store (Option DRec))
  /-- slots whose write has failed (R684) -/
  failed : List Nat
  /-- values that differ from the default -/
  cur : Store (List Byte)
  /-- values in force of the objects that take effect at a reset, where they differ from the default -/
  boot : Store (List Byte)
  /-- objects in conflict (R685) -/
  conflicts : List Nat
  /-- `STORE_EVT` -/
  storeEvt : BitVec 32
  /-- `GEN_SEL` of the host, monitor, tray and MGMT paths (R680) -/
  gen : List Byte
  /-- segmented transfers: 0 host window, 1 monitor window, 2 Gatemi, 16 + n node n -/
  segs : Store DSeg
  /-- Gatemi node id read at start-up (R675) and bus-off count -/
  node : Nat
  busOff : W64
  /-- started requests whose response nobody takes -/
  orphans : List MbReq
  /-- Gatemi request frames kept while no module supervisor serves (R687), oldest first -/
  frames : List (List Byte)
  /-- event bits not yet sent in an event frame, by vector (R678) -/
  evPend : Store W64
deriving DecidableEq, Repr

def DictSt.reset : DictSt :=
  { up := false, slots := [[], [], []], failed := [], cur := [], boot := [], conflicts := [], storeEvt := 0#32
    gen := [1#8, 1#8, 1#8, 1#8], segs := [], node := 0, busOff := 0#64, orphans := [], frames := [], evPend := [] }

/-! Power, droop and thermal control. -/

/-- A step of a die's operating point (R606): its target, whether it goes up, whether the standby PLL has locked, with VENG at
the new voltage, and whether ECLK has switched. -/
structure OpStep where
  dst : Nat
  up : Bool
  locked : Bool
  done : Bool
deriving DecidableEq, Repr

/-- Power control of a die: the step in progress; a slew after a change of band or age (R604); the stretch in eighths of
a cycle, 0 for none, and whether one has ended less than 5 µs ago (R607, R608); the next step commits at once (R609,
R611). -/
structure DiePwr where
  step : Option OpStep
  slew : Bool
  stretch : Nat
  recent : Bool
  urgent : Bool
deriving DecidableEq, Repr

/-- Power control of the module (chapter 16): supply 0 off, 1 VSTBY on, 2 step 2 of
R695 has ended; the dies; calm periods (R610);
consecutive windows that diverge, that agree within 10 % and that recover (R613); measured energy in nJ since the last
window and since the last capping period; the input voltages of the last 1 ms in mV; an input report has been missing for 200 µs; ECLK stopped, with VCLK gated; the thermal trip and the coolant loss that
hold it; the ports disabled by the hold limit (R618); the reference clock: present, lost (R590), lost for good; `MOD_RESET_N`
asserted (R704). -/
structure PowerSt where
  supply : Nat
  dies : List DiePwr
  calm : Nat
  diverged : Nat
  agreed : Nat
  sound : Nat
  energy : Nat
  period : Nat
  volts : List Nat
  missing : Bool
  gated : Bool
  limited : List Nat
  refclk : Bool
  holdover : Bool
  refStop : Bool
  modReset : Bool
deriving DecidableEq, Repr

def DiePwr.reset : DiePwr := { step := none, slew := false, stretch := 0, recent := false, urgent := false }

def PowerSt.reset : PowerSt :=
  { supply := 0, dies := List.replicate 4 DiePwr.reset, calm := 0, diverged := 0, agreed := 0, sound := 0, energy := 0, period := 0, volts := []
    missing := false, gated := false, limited := [], refclk := false, holdover := false, refStop := false, modReset := false }

/-! Arbitration (chapter 15). -/

/-- An arbiter (R571 to R582): the pointer; the owner, with the class, length and moved beats of its transfer, the beats
granted before that transfer and the burst limit of the grant; the inputs whose transfer is protected; for a requester
stage, PRIO and lost rounds of each queue. -/
structure Arb where
  ptr : Nat
  owner : Option Nat
  cls : Nat
  len : Nat
  moved : Nat
  used : Nat
  burst : Nat
  prot : List Nat
  prio : Store Nat
  lost : Store Nat
deriving DecidableEq, Repr

/-- DESIGN CHOICE (log 6). -/
def Arb.reset : Arb :=
  { ptr := 0, owner := none, cls := 0, len := 0, moved := 0, used := 0, burst := 0, prot := [], prio := [], lost := [] }

end Sys2Proof.Machine
end

