-- ==== Sys2Proof/Machine/LinkState.lean ====
section
/-!
DEFINITION. The state of the Turroth links: transactions under way and the ports (chapter 12).
-/

namespace Sys2Proof.Machine

/-- A transaction as it travels (R492, R493). -/
structure Txn where
  opc : Nat
  kdom : Byte
  dst : Nat
  src : Nat
  tid : Nat
  /-- bytes covered -/
  size : Nat
  addr : Nat
  /-- byte mask of WRM -/
  mask : W64
  data : List Byte
  /-- ATOM, ATOML: RET and AOP; compare value or header address; operand read as an integer -/
  ret : Bool
  aop : Nat
  arg : W64
  isInt : Bool
  /-- STATUS of a response -/
  status : Byte
  hops : Nat
  sealed : Bool
deriving DecidableEq, Repr

/-- Whom a response serves. -/
inductive TxnWho where
  /-- a load of an engine: the read's global address -/
  | load (e : Nat) (ga : W64)
  /-- a store-buffer entry of an engine -/
  | store (e : Nat)
  /-- a returning atomic of an engine -/
  | atomic (e : Nat)
  /-- the message an engine sends -/
  | msg (e : Nat)
  /-- a prefetch of an engine (R388): its line, prefetcher and tensor class -/
  | prefetch (e : Nat) (ga : W64) (pf tcls : Nat)
  /-- a unit of a die (channel, gatherer, Tail) with the number it gave the request -/
  | unit (die ref : Nat)
  /-- the module supervisor -/
  | mgmt
deriving DecidableEq, Repr

/-- An outstanding transaction (R495): the port that carries it, and whether it has been sent or waits for
its pair key or for a free entry. -/
structure OutTxn where
  t : Txn
  port : Nat
  who : TxnWho
  sent : Bool
deriving DecidableEq, Repr

/-- Data of a read of another node that has arrived for a die's unit, with its STATUS. -/
structure UnitRead where
  ga : W64
  kdom : Byte
  len : Nat
  bytes : List Byte
  status : Byte
deriving DecidableEq, Repr

/-- What has arrived for one job of a die's unit: data, and the first error of its writes; the key domains of the pages
that the job has touched (R520). -/
structure UnitBuf where
  reads : List UnitRead
  werr : Option Byte
  doms : List Byte
deriving DecidableEq, Repr

def UnitBuf.none : UnitBuf := ⟨[], Option.none, []⟩

/-- A lane in one direction (R507): the logical lane it carries, 15 for none, and its state: 0 active,
1 spare, 2 mirroring, 3 calibrating, 4 failed, 5 dark. -/
structure Lane where
  carries : Nat
  st : Nat
deriving DecidableEq, Repr

/-- Rotation in one direction (R469): 0 idle, 1 PREP sent or taken, 2 on lane 8 with the lane
calibrating, 3 READY with the return agreed; the lane and the block at which it changes. -/
structure Rot where
  phase : Nat
  lane : Nat
  block : Nat
  /-- rotation has stopped in this direction (R471) -/
  stopped : Bool
deriving DecidableEq, Repr

/-- A DATA flit kept for replay (R478): its index, and which flit of which transaction it is. -/
structure KeptFlit where
  index : Nat
  t : Txn
  k : Nat
deriving DecidableEq, Repr

/-- Sealing between this node and another (R497): the counter last sent, the highest accepted, and those accepted within
the window below it. -/
structure SealSt where
  out : Nat
  hi : Nat
  seen : List Nat
deriving DecidableEq, Repr

/-- Handshake progress (R484 to R489): messages accepted so far, by kind. -/
structure Hs where
  hello : Bool
  cert : Bool
  kem : Bool
  sig : Bool
  /-- session values, own and partner's -/
  own : W64
  peer : W64
  /-- fragments received: message kind, number, bytes -/
  frag : List (Nat × Nat × List Byte)
  /-- own messages that have not been answered, by step of R488 -/
  due : List Nat
deriving DecidableEq, Repr

/-- A Turroth port. Its registers LNK_CTL, LNK_EVT, LNK_VCBUF, counters and route entries are BAR0
registers; these are the rest. -/
structure Port where
  /-- STATE and REASON (R482, R505) -/
  state : Nat
  reason : Nat
  nid : Nat
  pport : Nat
  gen : Nat
  dev : Bool
  sw : Bool
  halfRx : Bool
  halfTx : Bool
  rx : List Lane
  tx : List Lane
  rotRx : Rot
  rotTx : Rot
  hs : Hs
  /-- next DATA index sent and expected, first unacknowledged (R477, R478) -/
  txIdx : Nat
  rxIdx : Nat
  ackIdx : Nat
  kept : List KeptFlit
  nakOut : Bool
  replays : Nat
  /-- slots sent and freed per VC: own transmit, partner's count last received, own receive (R481) -/
  sent : List Nat
  credit : List Nat
  freed : List Nat
  /-- allocation announced by the partner, and own allocation in force (R481, R506) -/
  palloc : List Nat
  alloc : W64
  /-- key epochs and whether the previous receive key is still held (R491) -/
  epTx : Nat
  epRx : Nat
  prevKey : Bool
  /-- a rekey exchange is running -/
  rekey : Bool
  /-- the partner has paused (R503) -/
  paused : Bool
  /-- transactions that wait for credit, for the replay buffer or for the end of a pause, oldest first -/
  egress : List Txn
  /-- times of recent flits with a valid CRC and an invalid tag (R487) -/
  auth : List W64
  /-- flits sent in the current epoch (R491) -/
  epCount : Nat
deriving DecidableEq, Repr

def Lane.dark : Lane := { carries := 15, st := 5 }
def Rot.idle : Rot := { phase := 0, lane := 0, block := 0, stopped := false }
def Hs.none : Hs := { hello := false, cert := false, kem := false, sig := false, own := 0#64, peer := 0#64, frag := [], due := [] }

/-- A port right after reset: DISABLED, dark. -/
def Port.reset : Port :=
  { state := 0, reason := 0, nid := 0, pport := 0, gen := 0, dev := false, sw := false, halfRx := false
    halfTx := false, rx := List.replicate 9 Lane.dark, tx := List.replicate 9 Lane.dark
    rotRx := Rot.idle, rotTx := Rot.idle, hs := Hs.none, txIdx := 0, rxIdx := 0, ackIdx := 0, kept := []
    nakOut := false, replays := 0, sent := List.replicate 6 0, credit := List.replicate 6 0
    freed := List.replicate 6 0, palloc := List.replicate 6 0, alloc := 0#64, epTx := 0, epRx := 0
    prevKey := false, rekey := false, paused := false, egress := [], auth := [], epCount := 0 }

end Sys2Proof.Machine
end

