-- ==== Sys2Proof/Machine/UnitState.lean ====
section
/-!
DEFINITION. The state of the dies' units that no register holds: batch gatherers (chapter 07), channels (chapter 13).
-/

namespace Sys2Proof.Machine

/-- A request of the batch gatherer (R323): who submitted it, and when it arrived. -/
structure BgReq where
  queue : Nat
  /-- arrival order -/
  seq : Nat
  logical : Nat
  oper : Bool
  tenant : Nat
  notify : Bool
  x : W64
  y : W64
  done : W64
  time : W64
deriving DecidableEq, Repr

/-- A batch in flight (R325, R326): its queue entry as it stood at launch, its rows with the STATUS of each so far,
blocks that have not ended, and whether its first pass has started. -/
structure BgBatch where
  id : Nat
  queue : Nat
  entry : List W64
  rows : List (BgReq × Nat)
  launch : W64
  left : Nat
  started : Bool
deriving DecidableEq, Repr

/-- A block of a batch: the physical engine on whose half it runs, where it does, and how often it has failed. -/
structure BgBlock where
  batch : Nat
  b : Nat
  half : Option Nat
  fails : Nat
deriving DecidableEq, Repr

/-- A completion word to write (R328). -/
structure BgFin where
  req : BgReq
  ctx : Nat
  status : Nat
  rows : Nat
  launch : Nat
deriving DecidableEq, Repr

/-- A request at a pseudo-channel's front end (R375): requester of R374, line number within the stack, arrival. -/
structure HReq where
  req : Nat
  line : Nat
  write : Bool
  time : W64
  seq : Nat
  started : Bool
  promoted : Bool
deriving DecidableEq, Repr

/-- A pseudo-channel front end: slots and waiting list in arrival order, the open row of each bank that has one,
whether a calibration window is open, whether writes outrank reads (R378), the next arrival number. -/
structure FrontEnd where
  slots : List HReq
  wait : List HReq
  rows : Store Nat
  cal : Bool
  writes : Bool
  next : Nat
deriving DecidableEq, Repr

def FrontEnd.reset : FrontEnd := ⟨[], [], [], false, false, 0⟩

/-- The reserve of a stack (R629 to R631): rows spared so far, the rows being copied and the rows served from their
spare, as local pseudo-channel, bank and row; the pseudo-channel being copied and the one retired. -/
structure Reserve where
  used : Nat
  copying : List (Nat × Nat × Nat)
  spared : List (Nat × Nat × Nat)
  pcCopy : Option Nat
  pcGone : Option Nat
deriving DecidableEq, Repr

def Reserve.reset : Reserve := ⟨0, [], [], none, none⟩

/-- A die's batch gatherer; `out` lists the engines whose half is withdrawn until their next task start (R329). -/
structure Gath where
  pend : List BgReq
  batches : List BgBatch
  blocks : List BgBlock
  fin : List BgFin
  out : List Nat
  next : Nat
deriving DecidableEq, Repr

/-- A chunk in the staging buffer whose tag has verified (R538): what stages 5 and 6 need. -/
structure Staged where
  comp : Nat
  ulen : Nat
  fp : Bool
  fpAddr : W64
  data : List Byte
deriving DecidableEq, Repr

/-- How a descriptor has ended (R530): STATUS, DETAIL, the failing byte's offset, BYTES and word 1 on success; word 1 of
a destination entry still to write, with its address; and how far the end has come: 0 data written, 1 the destination
entry too, 2 the completion record too (R532). -/
structure ChanRes where
  status : Nat
  detail : Nat
  off : Nat
  bytes : Nat
  w1 : W64
  entry : Option (W64 × W64)
  phase : Nat
deriving DecidableEq, Repr

/-- A loaded channel (R522, R523): words 0 to 7 of its entry as loaded, STATE (0 DISABLED, 1 IDLE, 2 RUNNING, 3
STOPPED), the indices, and the descriptor being processed. -/
structure Chan where
  words : List W64
  st : Nat
  head : BitVec 16
  tail : BitVec 16
  dprod : BitVec 16
  dcons : BitVec 16
  clap : Bool
  last : Nat
  staged : Option Staged
  res : Option ChanRes
deriving DecidableEq, Repr

def Gath.reset : Gath := ⟨[], [], [], [], [], 0⟩

end Sys2Proof.Machine
end

