-- ==== Sys2Proof/Machine/State.lean ====
section
/-!
DEFINITION. The state of the module, the reasons a step can stop, and the state right after reset.
-/

namespace Sys2Proof.Machine

/-- The variants in which the module is supplied (R1). -/
inductive Part where
  | a48 | a36 | d48
deriving DecidableEq, Repr

/-- An entry of the remap table (R28); 0x7F stands for none. -/
structure Remap where
  present : Bool
  migrating : Bool
  prev : Nat
  phys : Nat
deriving DecidableEq, Repr

/-- States of a physical engine (R31). -/
inductive PState where
  | active | spare | selfTest | target | retired | absent
deriving DecidableEq, Repr

/-- An entry of the physical engine state table (R30). -/
structure PhysEng where
  logical : Nat
  st : PState
deriving DecidableEq, Repr

/-- A die (R43): `up` when its units are out of reset, `lost` under R644; `sup` when its die supervisor
runs (R34). -/
structure Die where
  up : Bool
  lost : Bool
  sup : Bool
deriving DecidableEq, Repr

/-- What the module is made of and how work is bound to it: part, dies, engine tables, roles and readiness
(chapters 01 and 19). Only the commands of start-up, availability and reset change it. -/
structure Anat where
  part : Part
  remap : List Remap
  phys : List PhysEng
  dies : List Die
  /-- die of the module supervisor -/
  super : Nat
  /-- readiness state (R694) -/
  ready : Nat
deriving DecidableEq, Repr

/-- What the module puts on its interfaces, in the order in which it does so (newest first). DESIGN CHOICE (log 99). -/
inductive Out where
  /-- an MSI-X message of a function (0 the physical function, 1 + v virtual function v) (R562) -/
  | msix (fn vec : Nat)
  /-- a posted write into host memory at an IOVA, encrypted under a key domain (R438), or as raw
  bytes (R542) -/
  | hostWrite (fn : Nat) (iova : Nat) (kdom : Option Byte) (bytes : List Byte)
  /-- a read of host memory (R438) -/
  | hostRead (fn : Nat) (iova len : Nat)
  /-- a transaction sent by a port (R498) -/
  | send (port : Nat) (t : Txn)
  /-- DATA flits sent again, from an index on (R478) -/
  | replay (port : Nat) (index : Nat)
  /-- a control slot sent (R476) -/
  | ctl (port : Nat) (slot : List Byte)
  /-- a handshake message, by its step of R488 (6: the first encrypted flit) -/
  | hs (port step : Nat)
  /-- a completion of a host's read of a BAR or of its configuration, with its bytes: 0 successful, 1 successful with the
  data poisoned, 2 Completer Abort, 3 Unsupported Request, 4 Request Retry -/
  | cpl (status : Nat) (bytes : List Byte)
  /-- an answer on a function's DOE or secure session (R564, R567): 0 success, else its status -/
  | spdm (fn code : Nat)
  /-- a CAN FD frame (R675) -/
  | can (id : Nat) (bytes : List Byte)
  /-- a grant of an arbiter and the turn hints of the losers (R573, R580) -/
  | grant (arb input : Nat) (turns : List (Nat × Nat))
deriving DecidableEq, Repr

/-- Where the module supervisor placed its tables at start-up: the tagged region and its tag table (R68), the
context table (R423), the key-domain table (R509) and the channel table (R521), the grant table (R499), the protect bitmaps' offset in each quarter
(R652); and the monitor's ENTRY (R698). -/
structure Places where
  tagrBase : Nat
  tagrSize : Nat
  tagtBase : Nat
  ctxtBase : Nat
  kdtBase : Nat
  ctBase : Nat
  grtBase : Nat
  protOff : Nat
  entry : Nat
deriving DecidableEq, Repr

/-- Everything else the module holds. -/
structure World where
  /-- `TIME` (R140) and whether it counts -/
  time : W64
  timeRun : Bool
  /-- ECLK runs (R618, R590) -/
  eclk : Bool
  mem : Memory
  ks : Keystone
  places : Places
  /-- `NODE_ID` once it is VALID (R412) -/
  nodeId : Option Nat
  /-- stacks that are lost or retired in whole (R51) -/
  stacksLost : List Nat
  /-- physical engines that differ from `Engine.reset`, by number -/
  engines : Store Engine
  /-- logical engines that differ from `LogEng.reset`, by number -/
  logs : Store LogEng
  /-- Turroth ports that differ from `Port.reset`, by global number; outstanding transactions by their
  number; the next number; the nodes for which a pair key is established (R497) -/
  ports : Store Port
  txns : Store OutTxn
  nextTid : Nat
  pairKeys : List Nat
  seals : Store SealSt
  /-- the dies' batch gatherers that differ from `Gath.reset` -/
  gaths : Store Gath
  /-- HBM front ends that differ from `FrontEnd.reset`, by global pseudo-channel (R373), and the stacks' reserves -/
  fes : Store FrontEnd
  hbmStacks : Store Reserve
  /-- loaded channels, and those each die caches, most recently used first (R525) -/
  chans : Store Chan
  ccache : Store (List Nat)
  /-- what has arrived for the dies' units, by job -/
  ubufs : Store UnitBuf
  host : HostSt
  dict : DictSt
  pwr : PowerSt
  /-- arbiters that differ from `Arb.reset`, by instance -/
  arbs : Store Arb
  /-- generators of the perturbation entries that have advanced, by 32 die + entry (R593) -/
  pert : Store (BitVec 32)
  /-- piers that differ from `Pier.reset`, by global number -/
  piers : Store Pier
  /-- the dies' translation units that differ from `Tlbs.reset` (R437) -/
  tlbs : Store Tlbs
  av : AvSt
  /-- the PCIe link is up (R553) -/
  pcieUp : Bool
  /-- BAR0 registers written since reset, by offset -/
  bar0 : Store W64
  out : List Out
  /-- how many free values have been used: a field of the model. DESIGN CHOICE (log 7). -/
  freeCtr : Nat
deriving DecidableEq, Repr

/-- The state of the block: the queue of waiting commands, first in, first out, and the module. -/
structure State where
  pending : List Instr
  anat : Anat
  w : World
deriving DecidableEq, Repr

/-- Reasons for which the block would stop with a fault. No meaning of this model raises one. -/
inductive Fault where
  /-- Raised by nobody: the spec describes the outcome of every command. Safe. -/
  | none
deriving DecidableEq, Repr

/-- Reasons for which a command is refused. -/
inductive Refusal where
  /-- The command of this mnemonic has no meaning yet. Raised by nobody: every arm of `exec` calls a meaning. Safe. -/
  | notModelled (mnemonic : String)
deriving DecidableEq, Repr

/-- Before start-up no die is out of reset, no engine is bound and every engine reads ABSENT. DESIGN CHOICE (logs 5, 6). -/
def Anat.reset : Anat :=
  { part := .a48
    remap := List.replicate 96 { present := false, migrating := false, prev := 0x7F, phys := 0x7F }
    phys := List.replicate 104 { logical := 0x7F, st := .absent }
    dies := List.replicate 4 { up := false, lost := false, sup := false }
    super := 0, ready := 0 }

/-- DESIGN CHOICE (logs 6, 7). -/
def World.reset : World :=
  { time := 0#64, timeRun := false, eclk := false, mem := Memory.reset, ks := Keystone.reset
    places := { tagrBase := 0, tagrSize := 0, tagtBase := 0, ctxtBase := 0, kdtBase := 0, ctBase := 0, grtBase := 0, protOff := 0, entry := 0 }
    nodeId := none, stacksLost := []
    engines := [], logs := [], ports := [], txns := [], nextTid := 0, pairKeys := [], seals := [], gaths := [], fes := [], hbmStacks := [], chans := [], ccache := [], ubufs := []
    host := HostSt.reset, dict := DictSt.reset, pwr := PowerSt.reset, arbs := [], pert := [], piers := [], tlbs := [], av := AvSt.reset
    pcieUp := false, bar0 := [], out := [], freeCtr := 0 }

/-- The module right after reset: no power, nothing started, an empty queue. -/
def State.reset : State := { pending := [], anat := Anat.reset, w := World.reset }

end Sys2Proof.Machine
end

