-- ==== Sys2Proof/Machine/Bits.lean ====
section
/-!
DEFINITION. Sparse stores, bit fields, byte order (chapter 00: every multi-byte value is little-endian) and
registers described by the access codes of R6.
-/

namespace Sys2Proof.Machine

/-! Sparse stores, sorted by number. -/

/-- The value listed at `k`. -/
def sget {α : Type} : Store α → Nat → Option α
  | [], _ => none
  | (j, x) :: r, k => if j = k then some x else sget r k

/-- The value at `k`, `d` when none is listed. -/
def sgetD {α : Type} (m : Store α) (k : Nat) (d : α) : α := (sget m k).getD d

/-- `m` with the value `x` at `k`. -/
def sset {α : Type} : Store α → Nat → α → Store α
  | [], k, x => [(k, x)]
  | (j, y) :: r, k, x =>
    if k < j then (k, x) :: (j, y) :: r
    else if j = k then (k, x) :: r
    else (j, y) :: sset r k x

/-- `m` with nothing listed at `k`. -/
def sdel {α : Type} : Store α → Nat → Store α
  | [], _ => []
  | (j, y) :: r, k => if j = k then r else (j, y) :: sdel r k

/-- `m` with `f` applied at `k`, where an absent value counts as `d`. -/
def smod {α : Type} (m : Store α) (k : Nat) (d : α) (f : α → α) : Store α := sset m k (f (sgetD m k d))

/-- `l` with `f` applied at position `k`. -/
def lmod {α : Type} : List α → Nat → (α → α) → List α
  | [], _, _ => []
  | x :: r, 0, f => f x :: r
  | x :: r, k + 1, f => x :: lmod r k f

/-- `f` applied `n` times, to 0, 1, … n − 1 in order. -/
def iter {α : Type} (f : Nat → α → α) : Nat → α → α
  | 0, a => a
  | n + 1, a => f n (iter f n a)

/-! Bit fields. -/

/-- Bits [lo + n − 1 : lo] as a number. -/
def fld {w : Nat} (x : BitVec w) (lo n : Nat) : Nat := (x.extractLsb' lo n).toNat

/-- Bit i. -/
def bit {w : Nat} (x : BitVec w) (i : Nat) : Bool := x.getLsbD i

/-- n ones at bit lo. -/
def ones (w lo n : Nat) : BitVec w := BitVec.ofNat w ((2 ^ n - 1) * 2 ^ lo)

/-- `x` with bits [lo + n − 1 : lo] replaced by the low bits of `v`. -/
def setFld {w : Nat} (x : BitVec w) (lo n v : Nat) : BitVec w :=
  (x &&& ~~~ ones w lo n) ||| BitVec.ofNat w (v % 2 ^ n * 2 ^ lo)

/-- `x` with bit i set to `b`. -/
def setBit {w : Nat} (x : BitVec w) (i : Nat) (b : Bool) : BitVec w := setFld x i 1 b.toNat

/-- 64 bits of a sign-extended field. -/
def sx64 {w : Nat} (x : BitVec w) : W64 := x.signExtend 64

/-- A number as a 64-bit word. -/
def w64 (n : Nat) : W64 := BitVec.ofNat 64 n

/-- The word whose bits at the given places hold the given numbers. -/
def packW : List (Nat × Nat) → W64
  | [] => 0#64
  | (lo, v) :: r => w64 (v * 2 ^ lo) ||| packW r

/-- Bitwise exclusive or of numbers, folded over a list. -/
def xorAll : List Nat → Nat
  | [] => 0
  | x :: r => x ^^^ xorAll r

/-! Bytes. -/

/-- The n low bytes of a number, least significant first. -/
def leBytes : Nat → Nat → List Byte
  | 0, _ => []
  | n + 1, x => BitVec.ofNat 8 x :: leBytes n (x / 256)

/-- The number whose bytes are given, least significant first. -/
def leNat : List Byte → Nat
  | [] => 0
  | b :: r => b.toNat + 256 * leNat r

/-- The 64-bit word at byte 8 k of a list of bytes. -/
def wordAt (l : List Byte) (k : Nat) : W64 := w64 (leNat ((l.drop (8 * k)).take 8))

/-- The bytes with their offsets. -/
def offsets (l : List Byte) : List (Nat × Byte) := (List.range l.length).zip l

/-! Registers by access code (R6, R7). -/

/-- The fields of a 64-bit register: reset value, and the bits of each access code that a write can reach
(RW, W1C, W1S); every other bit is RO, WO or reserved. -/
structure RegSpec where
  reset : W64
  rw : W64
  w1c : W64
  w1s : W64
  /-- an event counter of R15 -/
  ctr : Bool
deriving DecidableEq, Repr

/-- A register with RW bits only. -/
def regRW (reset rw : W64) : RegSpec := ⟨reset, rw, 0#64, 0#64, false⟩

/-- A register that a write does not change. -/
def regRO (reset : W64) : RegSpec := ⟨reset, 0#64, 0#64, 0#64, false⟩

/-- A register with W1C bits only. -/
def regW1C (w1c : W64) : RegSpec := ⟨0#64, 0#64, w1c, 0#64, false⟩

/-- An event counter (R15): OVF W1C, EVT_EN RW, COUNT RO. -/
def regCtr : RegSpec := ⟨0#64, 0x4000000000000000#64, 0x8000000000000000#64, 0#64, true⟩

/-- The value after a write of `v`, each field by its own code (R6, R7); writing OVF = 1 to a counter
clears COUNT and OVF together (R15). -/
def regWrite (r : RegSpec) (old v : W64) : W64 :=
  if r.ctr then
    (if bit v 63 then v &&& 0x4000000000000000#64
     else (old &&& ~~~ 0x4000000000000000#64) ||| (v &&& 0x4000000000000000#64))
  else (((old &&& ~~~ r.rw) ||| (v &&& r.rw)) &&& ~~~ (v &&& r.w1c)) ||| (v &&& r.w1s)

/-- The value after an `SSET` of the bits of `v` (R101). -/
def regSset (r : RegSpec) (old v : W64) : W64 := old ||| (v &&& (r.rw ||| r.w1s))

/-- The value after an `SCLR` of the bits of `v` (R101). -/
def regSclr (r : RegSpec) (old v : W64) : W64 :=
  if r.ctr && bit v 63 then old &&& 0x4000000000000000#64 &&& ~~~ (v &&& r.rw)
  else old &&& ~~~ (v &&& (r.rw ||| r.w1c))

/-- A counter after `n` more events, and whether its overflow event is raised (R14, R15, R20). -/
def ctrAdd (c : W64) (n : Nat) : W64 × Bool :=
  if bit c 63 then (c, false)
  else if fld c 0 48 + n ≤ 0xFFFFFFFFFFFF then (c + w64 n, false)
  else ((c &&& 0x4000000000000000#64) ||| 0x8000FFFFFFFFFFFF#64, bit c 62)

end Sys2Proof.Machine
end

