-- ==== Sys2Proof/Machine/Mem.lean ====
section
/-!
DEFINITION. Device memory: the address map (R47 to R51), the bytes with their encryption (R512, R513),
tags (R60, R68) and poison (R361).
-/

namespace Sys2Proof.Machine

/-! The address map. -/

/-- Usable memory per stack in units of 2 MiB (R46). -/
def perStack (p : Part) : Nat :=
  match p with
  | .a36 => 16651
  | _ => 22201

/-- What a local offset names (R47). -/
inductive Region where
  | hbm | host | regs | reserved
deriving DecidableEq, Repr

def region (off : Nat) : Region :=
  if off < 0x20000000000 then .hbm
  else if off < 0x800000000000 then .reserved
  else if off < 0xC00000000000 then .host
  else if off < 0xF00000000000 then .reserved
  else if off < 0xF00008000000 then .regs
  else .reserved

/-- The die whose quarter holds an HBM offset (R50). -/
def homeDie (off : Nat) : Nat := off / 0x8000000000

/-- The stack that holds an HBM offset, and the offset within it (R50). -/
def homeStack (off : Nat) : Nat :=
  let r := off % 0x8000000000
  homeDie off * 6 + r / 4096 % 6

def stackOffset (off : Nat) : Nat :=
  let r := off % 0x8000000000
  r / 4096 / 6 * 4096 + r % 4096

/-- An HBM offset in the populated part of its quarter (R50). -/
def populated (p : Part) (off : Nat) : Bool := decide (off % 0x8000000000 < 6 * perStack p * 0x200000)

/-- A range of HBM offsets of which every byte is populated and in one quarter. -/
def rangePopulated (p : Part) (off len : Nat) : Bool :=
  decide (off + len ≤ 0x20000000000) && populated p off && populated p (off + len - 1) &&
    decide (homeDie off = homeDie (off + len - 1))

/-- The ACCESS subcode of an offset that cannot be reached (R48, R51, R112): 1 reserved, 3 unpopulated,
5 stack lost. -/
def hbmStatus (a : Anat) (w : World) (off : Nat) : Option Byte :=
  match region off with
  | .reserved => some 1#8
  | .hbm =>
    if !populated a.part off then some 3#8
    else if w.stacksLost.contains (homeStack off) || (a.dies.getD (homeDie off) ⟨true, false, true⟩).lost then some 5#8
    else none
  | _ => none

/-- The local offset a global address names, where it names this module (R410, R411, R412). -/
def localOff (w : World) (ga : W64) : Option Nat :=
  let off := fld ga 0 48
  if fld ga 60 4 = 0 then some off
  else if fld ga 60 4 = 1 ∧ fld ga 48 12 = w.nodeId.getD 0 then some off
  else none

/-! Cells. -/

/-- The byte a list of cells holds at an address; an unlisted address reads as 0. -/
def cget : List Host.Cell → Nat → Byte
  | [], _ => 0#8
  | (a, b) :: r, x => if a = x then b else cget r x

/-- The cells with byte `v` at address `x`, in canonical form: a zero is not listed. -/
def cset : List Host.Cell → Nat → Byte → List Host.Cell
  | [], x, v => if v = 0#8 then [] else [(x, v)]
  | (a, b) :: r, x, v =>
    if x < a then (if v = 0#8 then (a, b) :: r else (x, v) :: (a, b) :: r)
    else if a = x then (if v = 0#8 then r else (a, v) :: r)
    else (a, b) :: cset r x v

/-- Addresses above `lo` strictly rising, and no listed byte equal to what an unlisted address reads as. -/
def cellsWf : Nat → List Host.Cell → Bool
  | _, [] => true
  | lo, (a, b) :: r => decide (lo ≤ a) && decide (b ≠ 0#8) && cellsWf (a + 1) r

/-- The canonical form of memory. DEDUCED (log 8). -/
def Memory.wf (m : Memory) : Bool := cellsWf 0 m.cells

/-! Bytes under a key domain. -/

/-- The state of a key domain in Keystone. -/
def Keystone.get (k : Keystone) (d : Nat) : KDom := sgetD k.dom d (KDom.reset d)

/-- The generation of a domain's storage key. -/
def keyGen (k : Keystone) (d : Byte) : Nat := k.base + (k.get d.toNat).gen

/-- Whether an offset lies in a range zeroed at start-up. DEDUCED (log 8). -/
def inZeroed (m : Memory) (off : Nat) : Bool :=
  m.zeroed.any (fun r => decide (r.1 ≤ off) && decide (off < r.1 + r.2))

/-- The byte at an offset, decrypted under a domain (R512, R513): the byte last written there under the
same key, and otherwise a meaningless byte that nothing fixes. DEDUCED (log 8). -/
def rdByte (m : Memory) (k : Keystone) (d : Byte) (off : Nat) : Byte :=
  match sget m.lines (off / 128) with
  | some r =>
    if r.dom = d ∧ r.gen = keyGen k d then
      (if bit r.mask (off % 128) then cget m.cells off
       else Config.meaningless 0 d.toNat (keyGen k d) off r.base)
    else Config.meaningless 1 d.toNat (keyGen k d) off r.ver
  | none =>
    if d = 0#8 && inZeroed m off then 0#8
    else Config.meaningless 2 d.toNat (keyGen k d) off 0

/-- `n` bytes from an offset upward. -/
def rdBytes (m : Memory) (k : Keystone) (d : Byte) (off n : Nat) : List Byte :=
  (List.range n).map (fun i => rdByte m k d (off + i))

/-- The little-endian 64-bit word at an offset. -/
def rdWord (m : Memory) (k : Keystone) (d : Byte) (off : Nat) : W64 := w64 (leNat (rdBytes m k d off 8))

/-- One byte written under a domain; `v` names the moment. DEDUCED (log 8). -/
def wrByte (k : Keystone) (d : Byte) (v : Nat) (m : Memory) (off : Nat) (b : Byte) : Memory :=
  let g := keyGen k d
  let bitM : BitVec 128 := ones 128 (off % 128) 1
  let rec' : LineRec :=
    match sget m.lines (off / 128) with
    | some r =>
      if r.dom = d ∧ r.gen = g then { r with mask := r.mask ||| bitM, ver := v }
      else { dom := d, gen := g, mask := bitM, base := v, ver := v }
    | none =>
      if d = 0#8 && inZeroed m off then { dom := d, gen := g, mask := ones 128 0 128, base := v, ver := v }
      else { dom := d, gen := g, mask := bitM, base := v, ver := v }
  { m with cells := cset m.cells off b, lines := sset m.lines (off / 128) rec' }

/-- Bytes written at offsets, in order. -/
def wrBytes (k : Keystone) (d : Byte) (v : Nat) : Memory → List (Nat × Byte) → Memory
  | m, [] => m
  | m, (o, b) :: r => wrBytes k d v (wrByte k d v m o b) r

/-! Tags and poison. -/

/-- Whether an offset lies in the tagged region (R68). -/
def inTagged (p : Places) (off : Nat) : Bool :=
  decide (p.tagrBase ≤ off) && decide (off < p.tagrBase + p.tagrSize)

/-- Whether a whole range lies in the tagged region. -/
def allTagged (p : Places) (off len : Nat) : Bool :=
  decide (p.tagrBase ≤ off) && decide (off + len ≤ p.tagrBase + p.tagrSize) && decide (0 < p.tagrSize)

/-- The byte of the tag table that holds an offset's tag (R68). -/
def tagByte (p : Places) (off : Nat) : Nat := p.tagtBase + (off - p.tagrBase) / 16

/-- The tag of the word that holds an offset of the tagged region (R68); the tag table is kept under key
domain 0. -/
def tagAt (m : Memory) (k : Keystone) (p : Places) (off : Nat) : Tag :=
  let b := rdByte m k 0#8 (tagByte p off)
  if (off - p.tagrBase) / 8 % 2 = 0 then b.extractLsb' 0 4 else b.extractLsb' 4 4

/-- The memory with the tag of the word at an offset set. -/
def setTag (k : Keystone) (p : Places) (v : Nat) (m : Memory) (off : Nat) (t : Tag) : Memory :=
  let a := tagByte p off
  let b := rdByte m k 0#8 a
  let b' : Byte := if (off - p.tagrBase) / 8 % 2 = 0 then setFld b 0 4 t.toNat else setFld b 4 4 t.toNat
  wrByte k 0#8 v m a b'

/-- The POISON tag (R60). -/
def tagPoison : Tag := 15#4

/-- Whether a read of `n` bytes meets poisoned data: 1 a word tagged POISON, 2 a marked sector (R361). -/
def poisonIn (m : Memory) (k : Keystone) (p : Places) (off n : Nat) : Option Byte :=
  let hit := (List.range ((off + n - 1) / 8 - off / 8 + 1)).any (fun i =>
    let o := (off / 8 + i) * 8
    inTagged p o && tagAt m k p o = tagPoison)
  let sec := (List.range ((off + n - 1) / 32 - off / 32 + 1)).any (fun i =>
    let sct := off / 32 + i
    !inTagged p (sct * 32) && m.poison.contains sct)
  if hit then some 1#8 else if sec then some 2#8 else none

/-- Marks the word or sector at an offset as poisoned (R361). -/
def poisonAt (k : Keystone) (p : Places) (v : Nat) (m : Memory) (off : Nat) : Memory :=
  if inTagged p off then setTag k p v m off tagPoison
  else { m with poison := if m.poison.contains (off / 32) then m.poison else (off / 32) :: m.poison }

/-- The tag of a word after a store has written some of its bytes (R66, R83, R181). -/
def tagAfter (act : TagAct) (old : Tag) (written : Nat) : Tag :=
  match act with
  | .set t => if written = 8 then t else old
  | .whole => if written = 8 then 0#4 else old
  | .raw => if written = 8 then 0#4 else if old = tagPoison then old else 0#4

/-- How many of the offsets lie in the aligned block of `n` bytes at `o`. -/
def covered (l : List (Nat × Byte)) (o n : Nat) : Nat :=
  (l.filter (fun x => decide (x.1 / n * n = o))).length

/-- The distinct aligned blocks of `n` bytes that the offsets touch, in ascending order of first touch. -/
def blocks (l : List (Nat × Byte)) (n : Nat) : List Nat :=
  (l.map (fun x => x.1 / n * n)).eraseDups

/-- A store of bytes at local HBM offsets under a domain, with its effect on tags and marks: a store that
writes a whole sector outside the tagged region clears the sector's mark (R361). -/
def storeMem (k : Keystone) (p : Places) (d : Byte) (v : Nat) (act : TagAct) (m : Memory)
    (l : List (Nat × Byte)) : Memory :=
  let m1 := wrBytes k d v m l
  let m2 := ((blocks l 8).filter (inTagged p)).foldl (fun mm o =>
      let old := tagAt mm k p o
      let new := tagAfter act old (covered l o 8)
      if new = old then mm else setTag k p v mm o new) m1
  { m2 with poison := m2.poison.filter (fun sct => decide (covered l (sct * 32) 32 < 32)) }

/-- Offsets shifted to start at `off`. -/
def atOff (off : Nat) (l : List (Nat × Byte)) : List (Nat × Byte) := l.map (fun x => (off + x.1, x.2))

/-- A fresh number for a free value or a moment. DESIGN CHOICE (log 7). -/
def fresh (w : World) : Nat × World := (w.freeCtr, { w with freeCtr := w.freeCtr + 1 })

/-- The world after a local store. -/
def storeLocal (w : World) (d : Byte) (act : TagAct) (l : List (Nat × Byte)) : World :=
  { w with mem := storeMem w.ks w.places d w.freeCtr act w.mem l, freeCtr := w.freeCtr + 1 }

/-- The world after a whole 64-bit word is written under a domain. -/
def storeWord (w : World) (d : Byte) (act : TagAct) (off : Nat) (x : W64) : World :=
  storeLocal w d act (atOff off (offsets (leBytes 8 x.toNat)))

/-- A local read of `n` bytes under a domain. -/
def readLocal (w : World) (d : Byte) (off n : Nat) : List Byte := rdBytes w.mem w.ks d off n

end Sys2Proof.Machine
end

