-- ==== Sys2Proof/Machine/HostLow.lean ====
section
/-!
DEFINITION. BAR0 registers and their counters (R6, R15, R20, R38 to R40), and MSI-X messages (R560 to R562).
-/

namespace Sys2Proof.Machine

/-- The module puts something on an interface. DESIGN CHOICE (log 99). -/
def World.emit (w : World) (o : Out) : World := { w with out := o :: w.out }

/-- Base of a die's block in BAR0 (R38). -/
def dieBase (d : Nat) : Nat := 0x1000000 + d * 0x1000000

/-- The value a BAR0 register holds, given its reset value. -/
def World.reg (w : World) (off : Nat) (reset : W64) : W64 := sgetD w.bar0 off reset

def World.setReg (w : World) (off : Nat) (v : W64) : World := { w with bar0 := sset w.bar0 off v }

/-- A PCIe function. -/
def World.fn (w : World) (f : Nat) : HostFn := sgetD w.host.fns f HostFn.reset

def World.modFn (w : World) (f : Nat) (g : HostFn → HostFn) : World :=
  { w with host := { w.host with fns := sset w.host.fns f (g (w.fn f)) } }

/-- Offset of a function's MSI-X table entry (R560). -/
def msixEntry (f v : Nat) : Nat := if f = 0 then 0x20000 + 16 * v else 0x21000 + (f - 1) * 0x200 + 16 * v

/-- Offset of the quadword that holds a function's pending bit. -/
def msixPba (f v : Nat) : Nat := if f = 0 then 0x2C000 + v / 64 * 8 else 0x2C100 + (f - 1) * 8

/-- Vectors of a function (R560). -/
def msixCount (f : Nat) : Nat := if f = 0 then 256 else 28

/-- A vector is masked: the mask bit of its entry, 1 after reset. PRESUMED (log 66). -/
def msixMasked (w : World) (f v : Nat) : Bool := bit (w.reg (msixEntry f v + 8) 0x100000000#64) 32

/-- A notification: sent, made pending, or dropped, which the flag says (R562). PRESUMED (log 66). -/
def msixTry (w : World) (f v : Nat) : World × Bool :=
  let x := w.fn f
  if msixCount f ≤ v ∨ 64 < f ∨ x.msixEn = false ∨ x.busMaster = false ∨ (f ≠ 0 ∧ w.host.vfEn = false) ∨ w.pcieUp = false then
    (w, true)
  else if msixMasked w f v then
    (w.setReg (msixPba f v) (setBit (w.reg (msixPba f v) 0#64) (v % 64) true), false)
  else (w.emit (.msix f v), false)

/-- `HIF_MSI_DROPPED` counts a dropped notification; its overflow event is itself a notification (R20). -/
def msixDropped (w : World) : World :=
  let r := ctrAdd (w.reg 0x2E100 0#64) 1
  let w1 := w.setReg 0x2E100 r.1
  if r.2 then
    let t := msixTry w1 0 4
    if t.2 then t.1.setReg 0x2E100 (ctrAdd (t.1.reg 0x2E100 0#64) 1).1 else t.1
  else w1

/-- Sends vector v of function f (R562). -/
def msixSend (w : World) (f v : Nat) : World :=
  let t := msixTry w f v
  if t.2 then msixDropped t.1 else t.1

/-- Bits newly set in an event object wait for its next event frame (R678). The objects: 1 to 3 of vectors 1 to 3, 5
`FW_EVT`, 6 `STORE_EVT`, 16 + k subindex k of the overflow summary. DEDUCED (log 58). -/
def World.note (w : World) (key : Nat) (bits : W64) : World :=
  { w with dict := { w.dict with evPend := smod w.dict.evPend key 0#64 (fun x => x ||| bits) } }

/-- The mirror index of a counter of a BAR0 block, less 0x7000 (R691). DEDUCED (log 58). -/
def mirrorOf (off : Nat) : Option Nat :=
  let d := off / 0x1000000 - 1
  let o := off % 0x1000000
  if off < 0x1000000 ∨ 0x5000000 ≤ off then none
  else if 0x800000 ≤ o ∧ o < 0x880000 ∧ 0x100 ≤ o % 0x10000 ∧ o % 0x10000 < 0x178 then some (8 * d + (o - 0x800000) / 0x10000)
  else if (0x900100 ≤ o ∧ o < 0x900128) ∨ (0xA00100 ≤ o ∧ o < 0xA00148) then some (0x40 + d)
  else if 0xC00100 ≤ o ∧ o < 0xC00120 then some (0x50 + d)
  else if 0x401000 ≤ o ∧ o < 0x401800 then some (0x100 + 32 * d + (o - 0x401000) / 0x40)
  else if 0x600000 ≤ o ∧ o < 0x780000 ∧ 0x10000 ≤ o % 0x40000 ∧ o % 0x40000 < 0x11000 then some (0x200 + 6 * d + (o - 0x600000) / 0x40000)
  else none

/-- A counter of a BAR0 block counts; its overflow event is MSI-X vector 4 of the physical function (R20).
DEDUCED (log 58). -/
def World.countReg (w : World) (off n : Nat) : World :=
  let old := w.reg off 0#64
  let r := ctrAdd old n
  let w1 := w.setReg off r.1
  let w2 := match mirrorOf off with
    | some i => if bit r.1 63 && !bit old 63 then w1.note (16 + i / 64 + 1) (w64 (2 ^ (i % 64))) else w1
    | none => w1
  if r.2 then msixSend w2 0 4 else w2

/-- Sets bits of an event register whose vector is sent when the source passes from no bit set to at least
one (R561). -/
def World.event (w : World) (off : Nat) (bits : W64) (vec : Nat) : World :=
  let old := w.reg off 0#64
  let w1 := w.setReg off (old ||| bits)
  if old = 0#64 ∧ bits ≠ 0#64 then msixSend w1 0 vec else w1

/-- `HIF_EVT` bits, vector 6. -/
def hifEvent (w : World) (b : Nat) : World := w.event 0x2E010 (w64 (2 ^ b)) 6

/-- An `AV_EVT` bit, vector 2 (R561, R661). -/
def avEvent (w : World) (b : Nat) : World :=
  let old := w.av.avEvt
  let w0 : World := { w with av := { w.av with avEvt := setBit old b true } }
  let w1 := if bit old b then w0 else w0.note 2 (w64 (2 ^ b))
  if old = 0#32 then msixSend w1 0 2 else w1

/-- An `FW_EVT` or, with `store`, a `STORE_EVT` bit, vector 5 (R561, R661, R690). -/
def fwStoreEvent (w : World) (store : Bool) (b : Nat) : World :=
  let old := if store then w.dict.storeEvt else w.av.fwEvt
  let both := w.dict.storeEvt ||| w.av.fwEvt
  let w0 : World :=
    if store then { w with dict := { w.dict with storeEvt := setBit old b true } } else { w with av := { w.av with fwEvt := setBit old b true } }
  let w1 := if bit old b then w0 else w0.note (if store then 6 else 5) (w64 (2 ^ b))
  if both = 0#32 then msixSend w1 0 5 else w1

/-- A `PWR_EVT` bit, vector 3 (R561, R620). -/
def pwrEvent (w : World) (b : Nat) : World :=
  let old := w.reg 0x400008 0#64
  (if bit old b then w else w.note 3 (w64 (2 ^ b))).event 0x400008 (w64 (2 ^ b)) 3

end Sys2Proof.Machine
end

