-- ==== Sys2Proof/Machine/Pert.lean ====
section
/-!
DEFINITION. Perturbation of eligible events (R591 to R594).
-/

namespace Sys2Proof.Machine

/-- `PERT_SEL` i of a die; the entry's other registers follow it. -/
def pertOff (d i : Nat) : Nat := dieBase d + 0xF01000 + 0x20 * i

/-- The generator's next value (R593). -/
def xorshift (x : BitVec 32) : BitVec 32 :=
  let a := x ^^^ (x <<< 13)
  let b := a ^^^ (a >>> 17)
  b ^^^ (b <<< 5)

/-- An entry that is active for a kind and target with one of the given indices. -/
def pertOn (w : World) (d i kind target : Nat) (idx : List Nat) : Bool :=
  let s := w.reg (pertOff d i) 0#64
  w.host.unlocked && bit s 63 && decide (fld s 0 4 = kind) && decide (fld s 4 4 = target) && idx.contains (fld s 8 12)

/-- One entry at an eligible event: whether it perturbs it. DESIGN CHOICE (log 67). -/
def pertOne (w : World) (d i : Nat) : Bool × World :=
  let seed := (w.reg (pertOff d i + 0x10) 0#64).extractLsb' 0 32
  let x := xorshift (sgetD w.pert (32 * d + i) (if seed = 0#32 then 1#32 else seed))
  let hit := decide (fld x 24 8 ≤ fld (w.reg (pertOff d i + 8) 0#64) 16 8)
  let w1 := { w with pert := sset w.pert (32 * d + i) x }
  (hit, if hit then w1.countReg (pertOff d i + 0x18) 1 else w1)

/-- An eligible event of a kind at a target: every active entry advances; whether one of them perturbs the event.
DESIGN CHOICE (log 67). -/
def pertEvent (w : World) (d kind target : Nat) (idx : List Nat) : Bool × World :=
  (List.range 32).foldl (fun v i =>
    if pertOn v.2 d i kind target idx then
      let r := pertOne v.2 d i
      (v.1 || r.1, r.2)
    else v) (false, w)

/-- A write of `PERT_SEL` (R592): an invalid combination disables the entry and sets ERR. -/
def pertSelWrite (w : World) (d i : Nat) (v : W64) : World :=
  let old := w.reg (pertOff d i) 0#64
  let kind := fld v 0 4
  let target := fld v 4 4
  let idx := fld v 8 12
  let idxOk := match target with
    | 0 => decide (idx < 32)
    | 1 => decide (idx < 3)
    | 2 => decide (idx < 384)
    | 3 => decide (idx < 128) && (decide (idx % 16 < 9) || decide (idx % 16 = 15))
    | _ => false
  let ok := decide (kind ≤ 4) && decide (target ≤ 3) && idxOk && !(decide (kind = 3) && decide (target = 2))
  let err := (bit old 62 && !bit v 62) || !ok
  w.setReg (pertOff d i) (setBit (setBit (v &&& 0xFFFFF#64) 63 (bit v 63 && ok)) 62 err)

end Sys2Proof.Machine
end

