-- ==== Sys2Proof/Machine/SysRegs.lean ====
section
/-!
DEFINITION. The map of the engines' system registers (R99): numbers, access levels and layouts.
-/

namespace Sys2Proof.Machine

/-- A system register: least privileged level that may read it, the level that may write it (none: at no
level), and its fields. -/
structure SysReg where
  rd : Nat
  wr : Option Nat
  spec : RegSpec
deriving DecidableEq, Repr

def sysR (rd : Nat) (wr : Option Nat) (spec : RegSpec) : Option SysReg := some ⟨rd, wr, spec⟩

/-- Vector state, 0x100 to 0x147 (R148, R306). -/
def sysVec (n : Nat) : Option SysReg :=
  match n with
  | 0x100 => sysR 2 (some 2) (regRW 0#64 0x3FFF#64)
  | 0x101 => sysR 2 (some 2) (regRW 6#64 0x383F#64)
  | 0x102 => sysR 2 (some 2) (regRW 0#64 0x1FFF#64)
  | 0x103 => sysR 2 (some 2) (regW1C 0x1F0#64)
  | 0x104 => sysR 2 (some 2) (regW1C 3#64)
  | 0x108 => sysR 2 (some 2) (regRW 0#64 0xF7F#64)
  | 0x109 => sysR 2 (some 2) (regRW 0#64 0xFFFFFFFFFFFFFFFF#64)
  | 0x140 => sysR 2 (some 2) (regRW 0#64 0xFFF01FF000F#64)
  | 0x141 => sysR 2 (some 2) (regRW 0#64 0x01FFFFFFFFFFFFC0#64)
  | 0x142 => sysR 2 (some 2) (regRW 0#64 0xFFFFFFFF0001FFFF#64)
  | 0x143 => sysR 2 (some 2) (regW1C 3#64)
  | 0x144 | 0x145 | 0x146 | 0x147 => sysR 2 (some 2) regCtr
  | _ => none

/-- Tile state, 0x180 to 0x1BF (R202, R263, R285). -/
def sysTile (n : Nat) : Option SysReg :=
  if n < 0x190 then sysR 2 (some 2) (regRW 0#64 0x1FFFFF#64)
  else if n < 0x194 then sysR 2 (some 2) (regRW 0#64 0xFFFF#64)
  else if n < 0x198 then sysR 2 (some 2) (regRW 0#64 0x80000000FFFFFFFF#64)
  else if n = 0x198 then sysR 2 (some 2) (regW1C 3#64)
  else if n < 0x19C then none
  else if n < 0x1A0 then sysR 2 (some 2) regCtr
  else if n < 0x1A4 then sysR 2 (some 2) (regRW 0xFFFFFFFFFFFFFFFF#64 0xFFFFFFFFFFFFFFFF#64)
  else if n = 0x1A4 then sysR 2 (some 2) (regRW 0#64 0xF#64)
  else if n = 0x1A5 then sysR 2 (some 2) (regRW 0xFF#64 0xFF#64)
  else if n = 0x1A6 then sysR 2 (some 2) regCtr
  else if n = 0x1A7 then none
  else if n < 0x1BA then sysR 2 (some 2) (regRW 0x3F800000#64 0xFFFFFFFFF#64)
  else if n < 0x1BC then sysR 2 (some 2) (regRW 0x3F8000003F800000#64 0xFFFFFFFFFFFFFFFF#64)
  else if n = 0x1BC then sysR 2 (some 2) (regRW 0#64 0xF03#64)
  else if n < 0x1C0 then sysR 2 (some 2) (regRW 0#64 0xFFFFFFFFFFFFFFFF#64)
  else none

/-- Trap, interrupt and emergency-stack registers, 0x200 to 0x2FF (R99, R116, R121, R129, R130, R139,
R142 to R144). -/
def sysTrap (n : Nat) : Option SysReg :=
  match n with
  | 0x200 => sysR 1 (some 1) (regRW 0#64 0xFFFFFFFFFFFFFFFF#64)
  | 0x201 => sysR 1 (some 0) (regRW 0#64 0xFFFFFFFFFFFFFFFF#64)
  | 0x202 => sysR 0 (some 0) (regRW 0#64 0xFFFFFFFFFFFFFFFF#64)
  | 0x203 => sysR 1 (some 1) (regRW 0#64 0x01FFFFFFFFFFFFF8#64)
  | 0x204 => sysR 0 (some 0) (regRW 0#64 0x01FFFFFFFFFFFFF8#64)
  | 0x205 => sysR 1 (some 1) (regRW 0#64 0x01FFFFFFFFFFF000#64)
  | 0x206 => sysR 0 (some 0) (regRW 0#64 0x01FFFFFFFFFFF000#64)
  | 0x207 => sysR 1 (some 0) (regRW 0#64 0x7FE#64)
  | 0x208 => sysR 1 (some 1) (regW1C 0xF#64)
  | 0x210 => sysR 1 (some 1) (regW1C 0x7C0#64)
  | 0x211 => sysR 1 (some 1) (regRW 0#64 0x7FF#64)
  | 0x212 => sysR 1 (some 0) (regRW 0x00A#64 0x6E4#64)
  | 0x213 => sysR 1 (some 0) (regRW 0#64 0x3FFFFF#64)
  | 0x214 => sysR 1 (some 1) (regRW 0#64 3#64)
  | 0x218 => sysR 1 none (regRO 0#64)
  | 0x219 => sysR 1 (some 1) (regRW 0xFFFFFFFFFFFFFFFF#64 0xFFFFFFFFFFFFFFFF#64)
  | 0x21A => sysR 0 (some 0) (regRW 0xFFFFFFFFFFFFFFFF#64 0xFFFFFFFFFFFFFFFF#64)
  | 0x220 => sysR 1 (some 1) (regW1C 0x8000#64)
  | 0x221 => sysR 1 (some 1) regCtr
  | 0x240 => sysR 0 (some 0) (regRW 0#64 0xFFFFFFFFF000#64)
  | _ => if 0x222 ≤ n ∧ n < 0x232 then sysR 1 none (regRO 0#64) else none

/-- Translation, cache, prefetch and speculation registers, 0x300 to 0x3FF (R346, R390, R401, R440). DEDUCED (log 94). -/
def sysMem (n : Nat) : Option SysReg :=
  match n with
  | 0x300 => sysR 1 (some 1) (regRW 0#64 0xFFFF#64)
  | 0x301 | 0x302 | 0x382 => sysR 1 none (regRO 0#64)
  | 0x303 => sysR 1 (some 1) (regRO 0#64)
  | 0x304 => sysR 1 (some 1) (regRW 0#64 0x01FFFFFFFFFFF000#64)
  | 0x305 => sysR 1 (some 1) (regW1C 0x8000000000000000#64)
  | 0x340 => sysR 1 (some 1) (regRW 0#64 0xF#64)
  | 0x341 => sysR 1 (some 1) (regRW 0xFFFFFFFFFFFFFFFF#64 0xFFFFFFFFFFFFFFFF#64)
  | 0x342 => sysR 1 (some 1) (regRW 0xFFFF00F0FFFF#64 0xFFFFFFFFFFFF#64)
  | 0x343 => sysR 1 (some 1) (regRW 0x88888888#64 0xFFFFFFFF#64)
  | 0x344 => sysR 1 (some 1) (regRW 0#64 0xFFFFFFFFFFFFFFFF#64)
  | 0x345 => sysR 1 (some 1) (regRO 0#64)
  | 0x346 => sysR 1 (some 1) (regW1C 0xC000000000000000#64)
  | 0x360 => sysR 1 (some 1) (regRW 0x2001003#64 0xFF007F07#64)
  | 0x361 => sysR 1 (some 1) (regRO 0#64)
  | 0x362 => sysR 1 (some 1) (regW1C 0xC0#64)
  | 0x380 => sysR 1 (some 1) (regRO 0#64)
  | 0x381 => sysR 1 (some 1) (regW1C 0x40000#64)
  | _ =>
    if (0x310 ≤ n ∧ n < 0x316) ∨ (0x348 ≤ n ∧ n < 0x350) ∨ (0x368 ≤ n ∧ n < 0x36D) ∨
        (0x370 ≤ n ∧ n < 0x375) ∨ (0x388 ≤ n ∧ n < 0x38C) then sysR 1 (some 1) regCtr
    else none

/-- The system register map (R99). A number that answers none is reserved; the debug registers 0xF00 to
0xFFF behave as reserved numbers (R100). -/
def sysReg (n : Nat) : Option SysReg :=
  if n < 8 then sysR 2 none (regRO 0#64)
  else if n = 0x10 then sysR 2 none (regRO 0#64)
  else if n = 0x11 ∨ n = 0x12 then sysR 2 (some 1) regCtr
  else if 0x100 ≤ n ∧ n < 0x180 then sysVec n
  else if 0x180 ≤ n ∧ n < 0x1C0 then sysTile n
  else if n = 0x1C0 then sysR 2 (some 2) ⟨0#64, 3#64, 0x1F0#64, 0#64, false⟩
  else if 0x200 ≤ n ∧ n < 0x300 then sysTrap n
  else if 0x300 ≤ n ∧ n < 0x400 then sysMem n
  else if 0x400 ≤ n ∧ n < 0x404 then sysR 0 none (regRO 0#64)
  else none

/-- The reset value of a system register. -/
def sysReset (n : Nat) : W64 :=
  match sysReg n with
  | some r => r.spec.reset
  | none => 0#64

/-- The value a core holds in a system register that lives in the core. -/
def Core.sysGet (c : Core) (n : Nat) : W64 := sgetD c.sys n (sysReset n)

/-- The core with a system register set, whatever its access codes. -/
def Core.sysSet (c : Core) (n : Nat) (v : W64) : Core := { c with sys := sset c.sys n v }

end Sys2Proof.Machine
end

