-- ==== Sys2Proof/Machine/DirtyLog.lean ====
section
/-!
DEFINITION. Tail as table walks and writes reach it: events, the dirty log (R649), early copies of protected
granules (R653).
-/

namespace Sys2Proof.Machine

/-- Base of a job slot's registers (R645). -/
def tailBase (j : Nat) : Nat := 0x300000 + 0x400 * j

def World.tail (w : World) (j : Nat) : TailSlot := sgetD w.av.tails j TailSlot.reset

def World.setTail (w : World) (j : Nat) (t : TailSlot) : World := { w with av := { w.av with tails := sset w.av.tails j t } }

def World.modTail (w : World) (j : Nat) (f : TailSlot → TailSlot) : World := w.setTail j (f (w.tail j))

def tailCtl (w : World) (j : Nat) : W64 := w.reg (tailBase j) 0x6400010002#64

/-- A bit of `TAIL_EVT`; one that newly sets is reported in `AV_EVT` (R647). -/
def tailEvent (w : World) (j b : Nat) : World :=
  let old := w.reg (tailBase j + 0x58) 0#64
  let w1 := w.setReg (tailBase j + 0x58) (setBit old b true)
  if bit old b then w1 else avEvent w1 13

/-- Counter i of `SNAP_COMMITS`, `SNAP_ABANDONED`, `EARLY_COPIES`, `BYTES_COPIED`, `UNLOGGED`, `SKEW_EVENTS`. -/
def tailCount (w : World) (j i n : Nat) : World := w.countReg (tailBase j + 0x200 + 8 * i) n

/-- Waiting `stepmark` instructions of a slot issue again, and complete with 0 as already marked (R650). DEDUCED (log 49). -/
def releaseMarks (w : World) (j : Nat) : World :=
  { w with engines := w.engines.map (fun p => (p.1, if p.2.wait = .mark j then { p.2 with wait := .none } else p.2)) }

/-- Local offset of entry n of the current half of a slot's log, or of the half that holds the image's page list. -/
def logEntry (w : World) (j : Nat) (half : Bool) (n : Nat) : Nat :=
  fld (w.reg (tailBase j + 0x28) 0#64) 12 36 * 4096 + (if half then 16 * fld (w.reg (tailBase j + 0x30) 0#64) 0 28 else 0) + 16 * n

/-- Entries per half. -/
def logSize (w : World) (j : Nat) : Nat := fld (w.reg (tailBase j + 0x30) 0#64) 0 28

/-- The log is full: nothing is written, and the slot is HALTED, its image dropped (R649). DEDUCED (log 50). -/
def logFull (w : World) (j : Nat) : World :=
  let w1 := tailEvent (tailCount w j 4 1) j 3
  releaseMarks (w1.modTail j (fun t => { t with state := 5, now := none, next := none, reps := [], grans := [] })) j

/-- An entry enters the current half. -/
def logPut (w : World) (j : Nat) (a b : W64) : World :=
  let t := w.tail j
  if logSize w j ≤ t.used then logFull w j
  else
    let off := logEntry w j t.half t.used
    let w1 := storeWord (storeWord w 0#8 .whole off a) 0#8 .whole (off + 8) b
    w1.modTail j (fun u => { u with used := u.used + 1 })

/-- The enabled slots whose job lists a context. -/
def tailSlotsOf (w : World) (ctx : Nat) : List Nat :=
  (List.range 8).filter (fun j =>
    bit (tailCtl w j) 0 && decide (ctx ≠ 0) && (List.range 4).any (fun i => decide (fld (w.reg (tailBase j + 0x18) 0#64) (16 * i) 16 = ctx)))

/-- What setting SDIRTY in a leaf does: an entry for the page in the log of each slot that lists the context (R649). -/
def dirtyAppend (w : World) (ctx va size ent : Nat) : World :=
  let code := match size with
    | 12 => 0
    | 16 => 1
    | 21 => 2
    | _ => 3
  (tailSlotsOf w ctx).foldl (fun v j => logPut v j (packW [(0, va % 2 ^ 57), (0, code)]) (packW [(48, ctx), (0, ent)])) w

/-- A granule's data as Tail reads it: KEYH words read as zero (R65). -/
def granuleData (w : World) (g : Nat) (kdom : Byte) : List Byte :=
  (List.range 4096).map (fun i =>
    let o := 4096 * g + i
    if inTagged w.places o && decide (tagAt w.mem w.ks w.places (o / 8 * 8) = 5#4) then 0#8 else rdByte w.mem w.ks kdom o)

/-- A write or ownership request reaches the granule at a local offset: where a slot holds it protected, it is copied
into the buffer first (R653). -/
def granuleWritten (w : World) (off : Nat) : World :=
  let g := off / 4096
  (List.range 8).foldl (fun v j =>
    let t := v.tail j
    if t.grans.any (fun x => decide (x.g = g) && x.data.isNone) then
      let take (x : TailGran) : TailGran := if x.g = g ∧ x.data.isNone then { x with data := some (granuleData v g x.kdom) } else x
      tailCount (v.setTail j { t with grans := t.grans.map take }) j 2 1
    else v) w

end Sys2Proof.Machine
end

