-- ==== Sys2Proof/Machine/Trans.lean ====
section
/-!
DEFINITION. Translation (chapter 10): key-domain grants (R510), contexts (R425), the table walk with its
checks in order (R416 to R428), accessed and dirty updates (R430, R431).
-/

namespace Sys2Proof.Machine

/-- What an access does (R427). -/
inductive Acc where
  | load | store | fetch
  /-- CLEAN and FLUSH, which need R -/
  | clean
  /-- a non-returning atomic, or ZERO -/
  | atom
  /-- a returning atomic, which needs R and W -/
  | atomRet
deriving DecidableEq, Repr

def Acc.reads : Acc → Bool
  | .load | .clean | .atomRet => true
  | _ => false

def Acc.writes : Acc → Bool
  | .store | .atom | .atomRet => true
  | _ => false

/-- Who translates: the tenant whose key domains a context may use (R423, R437). -/
structure Tenant where
  oper : Bool
  id : Nat
deriving DecidableEq, Repr

/-- A translation fault: SUB of R427, and LEVEL and ENTRY of `TFAULT_INFO` (R429). -/
structure TF where
  sub : Byte
  level : Nat
  ent : Nat
deriving DecidableEq, Repr

/-! Key-domain grants. -/

/-- Word k of a domain's entry in the key-domain table (R509). -/
def kdtWord (w : World) (d : Byte) (k : Nat) : W64 :=
  rdWord w.mem w.ks 0#8 (w.places.kdtBase + 64 * d.toNat + 8 * k)

/-- The ranges of local offsets granted to a domain: base and length in units of 2 MiB (R509). -/
def kdRanges (w : World) (d : Byte) : List (Nat × Nat) :=
  (([1, 2, 3, 4].map (kdtWord w d)).map (fun x => (fld x 21 27, fld x 48 16))).filter (fun r => decide (r.2 ≠ 0))

/-- A domain is granted to a tenant or to the operator (R510); after a debug unlock none is granted to a tenant (R596). -/
def kdGranted (w : World) (d : Byte) (t : Tenant) : Bool :=
  let x := kdtWord w d 0
  decide (d ≠ 0#8) && decide ((w.ks.get d.toNat).state = 1) && decide (fld x 0 4 = 1) &&
    (bit x 8 == t.oper) && (t.oper || (decide (fld x 16 6 = t.id) && !w.host.unlocked))

/-- Every byte of a range of offsets lies in the union of the ranges granted to a domain (R426). -/
def inRanges (w : World) (d : Byte) (off len : Nat) : Bool :=
  let rs := kdRanges w d
  (List.range ((off + len - 1) / 0x200000 - off / 0x200000 + 1)).all (fun i =>
    let u := off / 0x200000 + i
    rs.any (fun r => decide (r.1 ≤ u) && decide (u < r.1 + r.2)))

/-! Contexts. -/

/-- The offset of a context's entry (R423). -/
def ctxEnt (w : World) (c : Nat) : Nat := w.places.ctxtBase + 32 * c

/-- Reading table memory meets an error: poisoned data, or memory that cannot be reached (R427, SUB 10). -/
def tableBad (a : Anat) (w : World) (off n : Nat) : Bool :=
  (hbmStatus a w off).isSome || (poisonIn w.mem w.ks w.places off n).isSome

/-- Whether a context matches (R425): the root table and the key domain of its tables, or the fault. -/
def ctxMatch (a : Anat) (w : World) (c : Nat) (t : Tenant) : Except TF (Nat × Byte) :=
  let e := ctxEnt w c
  if c = 0 then .error ⟨9#8, 15, 0⟩
  else if tableBad a w e 32 then .error ⟨10#8, 15, e⟩
  else
    let x := rdWord w.mem w.ks 0#8 e
    let y := rdWord w.mem w.ks 0#8 (e + 8)
    let z := rdWord w.mem w.ks 0#8 (e + 16) ||| rdWord w.mem w.ks 0#8 (e + 24)
    let tk := x.extractLsb' 16 8
    let root := fld y 13 35 * 8192
    let ok := decide (fld x 0 4 = 1) && bit x 4 && decide (fld x 24 40 = 0) && !bit x 14 &&
      decide (fld x 5 3 = 0) && decide (fld y 0 13 = 0) && decide (fld y 48 16 = 0) && decide (z = 0#64) &&
      (bit x 15 == t.oper) && (t.oper || decide (fld x 8 6 = t.id)) &&
      kdGranted w tk t && inRanges w tk root 8192
    if ok then .ok (root, tk) else .error ⟨9#8, 15, e⟩

/-! Page-table entries. -/

/-- The frame of a leaf as a global address. -/
def leafSpaceOk (w1 : W64) : Bool :=
  decide (fld w1 60 4 ≤ 1) && (decide (fld w1 60 4 = 1) || decide (fld w1 48 12 = 0))


/-- A table pointer's word 0 may hold only VER, V and LEAF (R418). -/
def w0PtrRest (w0 : W64) : Bool := decide (w0 &&& 0x0FFFFFFFFFFFFFDE#64 = 0#64)

/-- The page size of a leaf at a level, log2 (R416). -/
def leafSize (lvl : Nat) (c64 : Bool) : Nat :=
  match lvl with
  | 0 => if c64 then 16 else 12
  | 1 => 21
  | _ => 30

/-- Whether a valid entry is malformed (R421). `first` names the first entry of an aligned group of 16. -/
def malformed (a : Anat) (w : World) (tk : Byte) (lvl : Nat) (first : Bool) (w0 w1 : W64) : Bool :=
  let leaf := bit w0 5
  let sz := leafSize lvl (bit w0 10)
  decide (fld w0 60 4 ≠ 1) || decide (fld w0 52 4 ≠ 0) ||
  (if leaf then
    decide (lvl ≥ 3) ||
    decide (fld w0 56 4 ≠ 0) || decide (fld w0 40 4 ≠ 0) || decide (fld w0 16 21 ≠ 0) || decide (fld w0 6 2 ≠ 0) ||
    (bit w0 2 && !bit w0 1) || (bit w0 10 && (decide (lvl ≠ 0) || !first)) ||
    decide (fld w1 0 sz ≠ 0) || !leafSpaceOk w1
   else
    decide (lvl = 0) || !w0PtrRest w0 || decide (fld w1 0 13 ≠ 0) || decide (fld w1 48 16 ≠ 0) ||
    !rangePopulated a.part (fld w1 13 35 * 8192) 8192 || !inRanges w tk (fld w1 13 35 * 8192) 8192)

/-- The walk from a level's table downward: the leaf found or the fault, and the table pointers passed, as
entries for the walk cache. -/
def walkDown (a : Anat) (w : World) (ctx : Nat) (tk : Byte) (va : Nat) :
    Nat → Nat → List TlbEntry → Except TF TlbEntry × List TlbEntry
  | 0, base, ptrs =>
    let i := va / 4096 % 512
    let g := base + 16 * (i / 16 * 16)
    let e0 := base + 16 * i
    let f0 := rdWord w.mem w.ks tk g
    let group := bit f0 0 && bit f0 10
    let e := if group then g else e0
    if tableBad a w g 256 then (.error ⟨10#8, 0, e0⟩, ptrs)
    else
      let w0 := rdWord w.mem w.ks tk e
      let w1 := rdWord w.mem w.ks tk (e + 8)
      if !bit w0 0 then (.error ⟨1#8, 0, e⟩, ptrs)
      else if malformed a w tk 0 (decide (e = g)) w0 w1 then (.error ⟨7#8, 0, e⟩, ptrs)
      else
        let sz := leafSize 0 group
        (.ok { ctx := ctx, va := va / 2 ^ sz * 2 ^ sz, size := sz, lvl := 0, w0 := w0, w1 := w1, ent := e,
               tkdom := tk }, ptrs)
  | l + 1, base, ptrs =>
    let i := va / 2 ^ (12 + 9 * (l + 1)) % 512
    let e := base + 16 * i
    if tableBad a w e 16 then (.error ⟨10#8, l + 1, e⟩, ptrs)
    else
      let w0 := rdWord w.mem w.ks tk e
      let w1 := rdWord w.mem w.ks tk (e + 8)
      if !bit w0 0 then (.error ⟨1#8, l + 1, e⟩, ptrs)
      else if malformed a w tk (l + 1) true w0 w1 then (.error ⟨7#8, l + 1, e⟩, ptrs)
      else if bit w0 5 then
        let sz := leafSize (l + 1) false
        (.ok { ctx := ctx, va := va / 2 ^ sz * 2 ^ sz, size := sz, lvl := l + 1, w0 := w0, w1 := w1, ent := e,
               tkdom := tk }, ptrs)
      else
        let sz := 12 + 9 * (l + 1)
        let p : TlbEntry := { ctx := ctx, va := va / 2 ^ sz * 2 ^ sz, size := sz, lvl := l + 1, w0 := w0, w1 := w1,
                              ent := e, tkdom := tk }
        walkDown a w ctx tk va l (fld w1 13 35 * 8192) (p :: ptrs)

/-! Attributes of a leaf (R422). -/

def TlbEntry.kdom (t : TlbEntry) : Byte := t.w0.extractLsb' 44 8
def TlbEntry.tcls (t : TlbEntry) : Nat := fld t.w0 37 3
def TlbEntry.snap (t : TlbEntry) : Bool := bit t.w0 14
def TlbEntry.se (t : TlbEntry) : Bool := bit t.w0 13
def TlbEntry.pf (t : TlbEntry) : Bool := bit t.w0 12

/-- The global address of a device virtual address that the leaf maps. -/
def TlbEntry.ga (t : TlbEntry) (va : Nat) : W64 := t.w1 + w64 (va % 2 ^ t.size)

/-- The local offset of the frame, where it is in this module. -/
def TlbEntry.frameOff (w : World) (t : TlbEntry) : Option Nat := localOff w t.w1

/-- The frame lies in this module's HBM. -/
def TlbEntry.inHbm (w : World) (t : TlbEntry) : Bool :=
  match t.frameOff w with
  | some o => decide (region o = .hbm)
  | none => false

/-- The frame is another node's or host memory (R427 SUB 4). -/
def TlbEntry.foreign (w : World) (t : TlbEntry) : Bool :=
  match t.frameOff w with
  | some o => decide (region o = .host)
  | none => true

/-- The page counts as tagged (R67, R69). -/
def TlbEntry.tagged (w : World) (t : TlbEntry) : Bool :=
  bit t.w0 11 && (match t.frameOff w with
    | some o => allTagged w.places o (2 ^ t.size)
    | none => false)

/-- Whether two ranges overlap. -/
def overlap (a n b m : Nat) : Bool := decide (a < b + m) && decide (b < a + n) && decide (0 < n) && decide (0 < m)

/-- The frame overlaps the tag table or the context table (R426). -/
def protectedFrame (w : World) (t : TlbEntry) : Bool :=
  match t.frameOff w with
  | some o => overlap o (2 ^ t.size) w.places.tagtBase (w.places.tagrSize / 16) ||
      overlap o (2 ^ t.size) w.places.ctxtBase 0x200000
  | none => false

/-- The permission checks of a leaf, which a cached leaf undergoes at each use: SUB 5, 4, 2, 3 (R428). -/
def permFault (w : World) (t : TlbEntry) (pl : BitVec 2) (k : Acc) : Option Byte :=
  if pl = 2#2 && !bit t.w0 4 then some 5#8
  else if k = .fetch && (!bit t.w0 3 || t.se || t.foreign w) then some 4#8
  else if k.reads && !bit t.w0 1 then some 2#8
  else if k.writes && !bit t.w0 2 then some 3#8
  else none

/-- The checks at the leaf, in the order of R428. -/
def leafFault (w : World) (t : TlbEntry) (tn : Tenant) (pl : BitVec 2) (k : Acc) : Option Byte :=
  if !kdGranted w t.kdom tn || (t.inHbm w && !inRanges w t.kdom ((t.frameOff w).getD 0) (2 ^ t.size)) then some 8#8
  else if protectedFrame w t then some 11#8
  else permFault w t pl k

/-- The identity leaf of context 0 that holds an address (R415), or the fault. -/
def identLeaf (va : Nat) : Except TF TlbEntry :=
  if va / 2 ^ 48 ≠ 0 then .error ⟨1#8, 0, 0⟩
  else
    let base := va / 4096 * 4096
    let attr := if base ≥ 0xF00000000000 then 0x2000 else 0x1000
    .ok { ctx := 0, va := base, size := 12, lvl := 0
          w0 := packW [(60, 1), (37, 7), (11, 1), (9, 1), (8, 1), (5, 1), (3, 1), (2, 1), (1, 1), (0, 1)] ||| w64 attr
          w1 := w64 base, ent := 0, tkdom := 0#8 }

/-- The cached entry of a context that translates an address. -/
def tlbFind (l : List TlbEntry) (ctx va : Nat) : Option TlbEntry :=
  l.find? (fun t => decide (t.ctx = ctx) && decide (t.va = va / 2 ^ t.size * 2 ^ t.size))

/-- The deepest table pointer cached on the path of an address. -/
def walkFind (l : List TlbEntry) (ctx va : Nat) : Option TlbEntry :=
  (l.filter (fun t => decide (t.ctx = ctx) && decide (t.va = va / 2 ^ t.size * 2 ^ t.size))).foldl
    (fun best t => match best with
      | some b => if t.lvl < b.lvl then some t else best
      | none => some t) none

/-- A walk for a miss: from the deepest cached pointer, or in full with the context entry (R425, R434).
Answers the leaf with its checks made, and the walk-cache entries. -/
def walkTable (a : Anat) (w : World) (cache : List TlbEntry) (ctx : Nat) (tn : Tenant) (va : Nat)
    (pl : BitVec 2) (k : Acc) : Except TF TlbEntry × List TlbEntry :=
  let r := match walkFind cache ctx va with
    | some p => walkDown a w ctx p.tkdom va (p.lvl - 1) (fld p.w1 13 35 * 8192) []
    | none =>
      match ctxMatch a w ctx tn with
      | .error f => (.error f, [])
      | .ok (root, tk) => walkDown a w ctx tk va 4 root []
  match r.1 with
  | .error f => (.error f, r.2)
  | .ok t =>
    match leafFault w t tn pl k with
    | some sub => (.error ⟨sub, t.lvl, t.ent⟩, r.2)
    | none => (.ok t, r.2)

/-- The word 0 a leaf takes from an access: A always, D for a write, SDIRTY with it on a snapshot-tracked
page of this module's HBM (R430, R431). -/
def leafMarks (w : World) (t : TlbEntry) (k : Acc) : W64 :=
  let x := t.w0 ||| 0x100#64
  if k.writes then
    (if t.snap && t.inHbm w then x ||| 0x8200#64 else x ||| 0x200#64)
  else x

/-- How many separate updates of word 0 the marks take: A at the walk, D with SDIRTY at the write. -/
def markUpdates (t : TlbEntry) (new : W64) : Nat :=
  (decide (new &&& 0x100#64 ≠ t.w0 &&& 0x100#64)).toNat + (decide (new &&& 0x8200#64 ≠ t.w0 &&& 0x8200#64)).toNat

/-- Word 0 of an entry written under the tables' key domain (R728), with the dirty-log entry when SDIRTY
becomes set (R649). -/
def writeMarks (w : World) (t : TlbEntry) (new : W64) : World :=
  if new = t.w0 then w
  else
    let w1 := storeWord w t.tkdom .whole t.ent new
    if bit new 15 && !bit t.w0 15 then dirtyAppend w1 t.ctx t.va t.size t.ent else w1

/-- A cached leaf that an access can use: one whose marks need an update must still be what memory holds,
or the walk is made again (R430). -/
def tlbUsable (w : World) (l : List TlbEntry) (ctx va : Nat) (k : Acc) : Option TlbEntry :=
  match tlbFind l ctx va with
  | some t => if leafMarks w t k = t.w0 || rdWord w.mem w.ks t.tkdom t.ent = t.w0 then some t else none
  | none => none

def World.tlb (w : World) (d : Nat) : Tlbs := sgetD w.tlbs d Tlbs.reset

def World.setTlb (w : World) (d : Nat) (t : Tlbs) : World := { w with tlbs := sset w.tlbs d t }

/-- A die unit's translation (R437): through its cache of leaves, with a walk on a miss. A unit accesses with
the permissions of level 1. DESIGN CHOICE (log 17). -/
def unitTranslate (a : Anat) (w : World) (d ctx : Nat) (tn : Tenant) (va : W64) (k : Acc) : Except TF TlbEntry × World :=
  if fld va 57 7 ≠ 0 then (.error ⟨6#8, 0, 0⟩, w)
  else
    let c := w.tlb d
    let v := va.toNat
    match tlbUsable w c.leaves ctx v k with
    | some t =>
      match permFault w t 1#2 k with
      | some sub => (.error ⟨sub, t.lvl, t.ent⟩, w)
      | none =>
        let new := leafMarks w t k
        let t' := { t with w0 := new }
        (.ok t', writeMarks (w.setTlb d { c with leaves := t' :: c.leaves.filter (fun x => decide (x ≠ t)) }) t new)
    | none =>
      let r := walkTable a w c.walk ctx tn v 1#2 k
      let c1 := { c with walk := (r.2 ++ c.walk).take 64 }
      match r.1 with
      | .error f => (.error f, w.setTlb d c1)
      | .ok t =>
        let new := leafMarks w t k
        let t' := { t with w0 := new }
        let c2 := { c1 with leaves := (t' :: c1.leaves.filter (fun x => decide (x.va ≠ t.va ∨ x.ctx ≠ t.ctx))).take 4096 }
        (.ok t', writeMarks (w.setTlb d c2) t new)

end Sys2Proof.Machine
end

