-- ==== Sys2Proof/Machine/Engine.lean ====
section
/-!
DEFINITION. What an instruction does, as a program over one engine and the world around it: reading and
changing the engine, counters (R15, R20), issue and retirement, translation of the engine's accesses.
-/

namespace Sys2Proof.Machine

/-- Where an instruction runs: the module's make-up and the physical engine. -/
structure Env where
  anat : Anat
  e : Nat
deriving DecidableEq, Repr

/-- An exception (R109, R110). -/
structure Trap where
  code : Byte
  sub : Byte
  faddr : W64
  info : BitVec 16
  /-- the frame's `PC` is the next instruction -/
  next : Bool
  /-- what the instruction has changed stays changed (a vector memory instruction, R187) -/
  keep : Bool
  /-- taken at the current level whatever `TRAP_DELEG` holds (R115) -/
  here : Bool
  /-- `TILEINFO` of a tile instruction whose work had started (R248), 0 for none -/
  tile : W64
deriving DecidableEq, Repr

/-- Why an instruction does not retire. -/
inductive Exc where
  | trap (t : Trap)
  /-- a speculative instruction parks (R404) -/
  | park (why : Nat) (addr : W64)
  /-- the instruction has sent a request and waits for its response -/
  | wait
deriving DecidableEq, Repr

/-- A program over one engine. -/
abbrev EM := ReaderT Env (EStateM Exc World)

/-! The engine. -/

def World.eng (w : World) (e : Nat) : Engine := sgetD w.engines e Engine.reset

def World.setEng (w : World) (e : Nat) (x : Engine) : World := { w with engines := sset w.engines e x }

def World.modEng (w : World) (e : Nat) (f : Engine → Engine) : World := w.setEng e (f (w.eng e))

def World.log (w : World) (l : Nat) : LogEng := sgetD w.logs l LogEng.reset

def World.modLog (w : World) (l : Nat) (f : LogEng → LogEng) : World :=
  { w with logs := sset w.logs l (f (w.log l)) }

def getE : EM Engine := do return (← get).eng (← read).e

def modE (f : Engine → Engine) : EM Unit := do
  let e := (← read).e
  modify (fun w => w.modEng e f)

def getC : EM Core := do return (← getE).core

def modC (f : Core → Core) : EM Unit := modE (fun x => { x with core := f x.core })

/-- The free value's number. DESIGN CHOICE (log 7). -/
def freshM : EM Nat := modifyGet fresh

/-! Fields of the status word (R58). -/

def Core.pl (c : Core) : BitVec 2 := c.st.extractLsb' 8 2
def Core.ie (c : Core) : Bool := bit c.st 7
def Core.fV (c : Core) : Bool := bit c.st 3
def Core.fC (c : Core) : Bool := bit c.st 2
def Core.fN (c : Core) : Bool := bit c.st 1
def Core.fZ (c : Core) : Bool := bit c.st 0

/-- The stack pointer of the current level (R54). -/
def Core.sp (c : Core) : W64 := if c.pl = 0#2 then c.spMon else if c.pl = 1#2 then c.spSup else c.spTask

/-- The stack pointer of a level. -/
def Core.spOf (c : Core) (l : BitVec 2) : W64 := if l = 0#2 then c.spMon else if l = 1#2 then c.spSup else c.spTask

def Core.setSpOf (c : Core) (l : BitVec 2) (v : W64) : Core :=
  if l = 0#2 then { c with spMon := v } else if l = 1#2 then { c with spSup := v } else { c with spTask := v }

def Core.setSp (c : Core) (v : W64) : Core := c.setSpOf c.pl v

/-! Raising. -/

def trapOf (code sub : Byte) (faddr : W64) : Trap := ⟨code, sub, faddr, 0#16, false, false, false, 0#64⟩

def raise {α : Type} (code sub : Byte) (faddr : W64) : EM α := throw (.trap (trapOf code sub faddr))

/-- ILLEGAL (R78). -/
def illegal {α : Type} : EM α := raise 1#8 0#8 0#64
/-- PRIV with a subcode (R111). -/
def priv {α : Type} (sub : Byte) (a : W64) : EM α := raise 2#8 sub a
/-- TAG at an operand address, 0 for a register operand. -/
def tagFault {α : Type} (a : W64) : EM α := raise 3#8 0#8 a
/-- ALIGN at an address. -/
def alignFault {α : Type} (a : W64) : EM α := raise 4#8 0#8 a
/-- DATA_ERR: 1 POISON, 2 uncorrectable. -/
def dataErr {α : Type} (sub : Byte) (a : W64) : EM α := raise 6#8 sub a
/-- ACCESS with a status (R112). -/
def accessErr {α : Type} (sub : Byte) (a : W64) : EM α := raise 8#8 sub a

/-- ILLEGAL unless a condition holds. -/
def need (b : Bool) : EM Unit := if b then pure () else illegal

/-! Counters of an engine (R15, R20). -/

/-- The engine after `n` events of counter `k`; an overflow event raises source 9. -/
def Engine.count (x : Engine) (k n : Nat) : Engine :=
  let r := ctrAdd (sgetD x.ctrs k 0#64) n
  { x with ctrs := sset x.ctrs k r.1, irq := if r.2 then x.irq ||| 0x200#11 else x.irq }

def countE (k n : Nat) : EM Unit := modE (fun x => x.count k n)

/-! Speculation (R403): only instructions at level 2 are speculative. -/

def Engine.speculating (x : Engine) : Bool := decide (x.spec.state = 1) && decide (x.core.pl = 2#2)

def isSpec : EM Bool := do return (← getE).speculating

/-- A speculative instruction parks (R404). -/
def parkIf (why : Nat) (addr : W64) : EM Unit := do
  if (← isSpec) then throw (.park why addr) else pure ()

/-! Identity of the engine. -/

/-- The logical engine bound to a physical engine, where one is (R30). -/
def Anat.logicalOf (a : Anat) (e : Nat) : Option Nat :=
  match a.phys[e]? with
  | some p => if p.st = .active ∧ p.logical < 96 then some p.logical else none
  | none => none

/-- The tenant an engine serves (R424). -/
def Engine.who (x : Engine) : Tenant := ⟨bit x.tenant 8, fld x.tenant 0 6⟩

/-- The context in which a level translates (R414). -/
def Core.ctx (c : Core) (pl : BitVec 2) : Nat := if pl = 0#2 then 0 else fld (c.sysGet 0x300) 0 16

/-! Translation of the engine's accesses (R433, R434). -/

/-- Records a translation fault in `TFAULT_INFO` (R429). -/
def Engine.recordTF (x : Engine) (f : TF) : Engine :=
  { x with core := x.core.sysSet 0x305 (packW [(63, 1), (52, f.level), (4, f.ent / 16)]) }

/-- An L1 TLB with an entry made the most recent; `n` entries are kept. DESIGN CHOICE (log 17). -/
def tlbPut (l : List TlbEntry) (t : TlbEntry) (n : Nat) : List TlbEntry :=
  (t :: l.filter (fun x => decide (x.va ≠ t.va ∨ x.ctx ≠ t.ctx ∨ x.size ≠ t.size))).take n

/-- Translation in a given level's context (R414): the identity map at level 0; otherwise the L1 TLB of
the access, the L2 TLB, then a walk, with the counters of R440. DESIGN CHOICE (logs 9, 17). -/
def engTranslate (a : Anat) (w : World) (e : Nat) (pl : BitVec 2) (va : W64) (k : Acc) :
    Except TF TlbEntry × World :=
  let x := w.eng e
  let ctx := x.core.ctx pl
  let v := va.toNat
  if fld va 57 7 ≠ 0 then (.error ⟨6#8, 0, 0⟩, w.setEng e (x.recordTF ⟨6#8, 0, 0⟩))
  else if pl = 0#2 then
    match identLeaf v with
    | .error f => (.error f, w.setEng e (x.recordTF f))
    | .ok t =>
      match permFault w t pl k with
      | some sub => (.error ⟨sub, 0, 0⟩, w.setEng e (x.recordTF ⟨sub, 0, 0⟩))
      | none => (.ok t, w)
  else if ctx = 0 then (.error ⟨9#8, 15, 0⟩, w.setEng e (x.recordTF ⟨9#8, 15, 0⟩))
  else
    let l1 := if k = .fetch then x.tlbI else x.tlbD
    let n1 := if k = .fetch then 32 else 64
    let hit1 := tlbUsable w l1 ctx v k
    let x1 := if hit1.isSome then x else x.count 0x310 1
    let hit := match hit1 with
      | some t => some t
      | none => tlbUsable w x.tlb2 ctx v k
    let done (w : World) (x2 : Engine) (t : TlbEntry) : Except TF TlbEntry × World :=
      let new := leafMarks w t k
      let t' := { t with w0 := new }
      let x3 := if k = .fetch then { x2 with tlbI := tlbPut x2.tlbI t' n1 } else { x2 with tlbD := tlbPut x2.tlbD t' n1 }
      let x4 := { x3 with tlb2 := tlbPut x3.tlb2 t' 2112 }
      let n := markUpdates t new
      let x5 := if n = 0 then x4 else x4.count 0x314 n
      (.ok t', writeMarks (w.setEng e x5) t new)
    match hit with
    | some t =>
      match permFault w t pl k with
      | some sub => (.error ⟨sub, t.lvl, t.ent⟩, w.setEng e (x1.recordTF ⟨sub, t.lvl, t.ent⟩))
      | none => done w x1 t
    | none =>
      let x2 := ((x1.count 0x311 1).count 0x312 1).count 0x313 (Config.free w.freeCtr)
      let w1 := { w with freeCtr := w.freeCtr + 1 }
      let r := walkTable a w x.walk ctx x.who v pl k
      let x3 := { x2 with walk := (r.2 ++ x2.walk).take 64 }
      match r.1 with
      | .error f => (.error f, w1.setEng e (x3.recordTF f))
      | .ok t => done w1 x3 t

/-- Translation of an access of the current level, raising TRANSLATION (R427). A speculative access that
needs a mark in its leaf parks (R432). -/
def translate (va : W64) (k : Acc) : EM TlbEntry := do
  let env ← read
  let w ← get
  let x := w.eng env.e
  let r := engTranslate env.anat w env.e x.core.pl va k
  match r.1 with
  | .error f => do
    if x.speculating then raise 7#8 f.sub va
    else do set r.2; raise 7#8 f.sub va
  | .ok t => do
    if x.speculating && decide (t.ctx ≠ 0) && decide (rdWord w.mem w.ks t.tkdom t.ent ≠ t.w0) then
      throw (.park 2 va)
    else do set r.2; return t

end Sys2Proof.Machine
end

