-- ==== Sys2Proof/Machine/Caches.lean ====
section
/-!
DEFINITION. The caches as the registers and counters show them (chapter 08): placement, coherence states, way
masks, replacement, snoop filters, and how a demand access or a write touches them. Data is not kept here:
coherence (R336) makes every copy of a line of this module equal to memory.
-/

namespace Sys2Proof.Machine

/-! Placement (R334, R335). -/

/-- The number of a line: of its local offset where it is in this module, else of its global address. -/
def lineOf (w : World) (ga : W64) : Nat :=
  match localOff w ga with
  | some o => o / 128
  | none => ga.toNat / 128

/-- The line is in this module's HBM. -/
def hbmLine (line : Nat) : Bool := decide (line * 128 < 0x20000000000)

def l1iSet (line : Nat) : Nat := line % 128
def l1dSet (line : Nat) : Nat := line % 256
def ecSet (line : Nat) : Nat := line % 2048 ^^^ line / 2 ^ 11 % 2048

/-- Global number of the home pier of an HBM line. -/
def pierOf (line : Nat) : Nat :=
  let l := line % 2 ^ 32
  line / 2 ^ 32 * 32 + xorAll [l % 32, l / 2 ^ 5 % 32, l / 2 ^ 10 % 32, l / 2 ^ 15 % 32, l / 2 ^ 20 % 32, l / 2 ^ 25 % 32,
    l / 2 ^ 30 % 4]

/-- The set of an HBM line in its home pier. -/
def pierSet (line : Nat) : Nat := line / 2 ^ 5 % 4096 ^^^ line % 2 ^ 32 / 2 ^ 17 % 4096

/-- The set of an HBM line in its pier's snoop filter; the spec gives no index for it. DESIGN CHOICE (log 16). -/
def sfSet (line : Nat) : Nat := pierSet line % 2048

/-! Sets. -/

/-- The line a set holds, other than a speculative copy. -/
def findLine (c : Cache) (set line : Nat) : Option CLine :=
  (sgetD c set []).find? (fun x => decide (x.line = line) && decide (x.st ≠ .w))

/-- A line removed from its set. -/
def dropLine (c : Cache) (set line : Nat) : Cache :=
  smod c set [] (fun l => l.filter (fun x => !(decide (x.line = line) && decide (x.st ≠ .w))))

/-- A line made the most recent of its set, in place of what the set held of it. DESIGN CHOICE (log 98). -/
def putLine (c : Cache) (set : Nat) (x : CLine) : Cache :=
  smod c set [] (fun l => x :: l.filter (fun y => !(decide (y.line = x.line) && decide (y.st ≠ .w)) && decide (y.way ≠ x.way)))

/-- A line changed without moving it. -/
def modLine (c : Cache) (set line : Nat) (f : CLine → CLine) : Cache :=
  smod c set [] (fun l => l.map (fun x => if x.line = line ∧ x.st ≠ .w then f x else x))

/-- The priority that a register gives a tensor class (R349). -/
def classPri (r : W64) (c : Nat) : Nat := fld r (4 * (c % 8)) 4

def minOf (l : List Nat) : Nat := l.foldl (fun a b => if b < a then b else a) 1000

/-- The victim of R352 among the allowed ways: the way, and the set after ageing. DESIGN CHOICE (log 98). -/
def pickWay (ways : List Nat) (set : List CLine) (pri : Nat → Nat) : Option (Nat × List CLine) :=
  let cand := ways.filter (fun i => !(set.any (fun x => decide (x.way = i) && (x.busy || decide (x.st = .w)))))
  match cand with
  | [] => none
  | _ =>
    match cand.find? (fun i => !(set.any (fun x => decide (x.way = i)))) with
    | some i => some (i, set)
    | none =>
      let ls := set.filter (fun x => cand.contains x.way)
      match (ls.reverse).find? (fun x => x.dead) with
      | some x => some (x.way, set)
      | none =>
        let c1 := ls.filter (fun x => decide (pri x.tcls = minOf (ls.map (fun y => pri y.tcls))))
        let c2 := c1.filter (fun x => decide (x.reuse = minOf (c1.map (fun y => y.reuse))))
        match c2.reverse with
        | [] => none
        | v :: _ =>
          some (v.way, set.map (fun x =>
            if c1.contains x ∧ x ≠ v ∧ 0 < x.reuse then { x with reuse := x.reuse - 1 } else x))

/-- The ways whose bit is set in a mask. -/
def waysOf (mask : Nat) : List Nat := (List.range 16).filter (fun i => mask.testBit i)

/-! Piers. -/

def World.pier (w : World) (p : Nat) : Pier := sgetD w.piers p Pier.reset

def World.modPier (w : World) (p : Nat) (f : Pier → Pier) : World := { w with piers := sset w.piers p (f (w.pier p)) }

/-- Base of a die's cache block (R40, R366). -/
def dcBase (d : Nat) : Nat := dieBase d + 0x400000

/-- Counter i of a pier (R366). -/
def pierCount (w : World) (p i n : Nat) : World := w.countReg (dcBase (p / 32) + 0x1000 + 0x40 * (p % 32) + 8 * i) n

/-- The mask of a partition and class in a die's piers (R367). -/
def pierMask (w : World) (d part cls : Nat) : Nat :=
  fld (w.reg (dcBase d + 0x100 + 8 * (2 * part + cls / 4)) 0xFFFFFFFFFFFFFFFF#64) (16 * (cls % 4)) 16

/-- The retired ways of a pier (R368). -/
def pierRet (w : World) (p : Nat) : W64 := w.reg (dcBase (p / 32) + 0x200 + 8 * (p % 32)) 0#64

/-- An allocation that a pier has to make (R344). -/
def pierNeed (w : World) (m : PMiss) : World :=
  w.modPier (pierOf m.line) (fun p =>
    if p.misses.any (fun x => decide (x.line = m.line)) then
      { p with misses := p.misses.map (fun x => if x.line = m.line then { x with write := x.write || m.write } else x) }
    else { p with misses := p.misses ++ [m] })

/-- A line of the pier goes: a dirty one is written to its stack (R513). -/
def pierDrop (w : World) (line : Nat) : World :=
  let p := pierOf line
  match findLine (w.pier p).sets (pierSet line) line with
  | none => w
  | some c =>
    let w1 := w.modPier p (fun x => { x with sets := dropLine x.sets (pierSet line) line })
    if c.st = .m then pierCount w1 p 2 1 else w1

/-- A read or write reaches a line's home pier for a class and partition (R340, R342, R351, R513). -/
def pierAccess (w : World) (line cls part tcls : Nat) (kdom : Byte) (write demand last : Bool) : World :=
  if hbmLine line then
    let p := pierOf line
    let s := pierSet line
    match findLine (w.pier p).sets s line with
    | some c =>
      if c.kdom = kdom then
        let c1 := if demand then { c with reuse := if c.reuse < 3 then c.reuse + 1 else 3, dead := false } else c
        let c2 := if last then { c1 with reuse := 0, dead := true } else c1
        let c3 := if write then { c2 with st := .m, dead := false } else c2
        let w1 := w.modPier p (fun x => { x with sets := if demand || write then putLine x.sets s c3 else modLine x.sets s line (fun _ => c3) })
        pierCount w1 p 0 1
      else
        pierNeed (pierCount (pierDrop w line) p 1 1) ⟨line, cls, part, tcls, kdom, write, none⟩
    | none => pierNeed (pierCount w p 1 1) ⟨line, cls, part, tcls, kdom, write, none⟩
  else w

/-! Snoop filters (R337). -/

def sfFind (w : World) (line : Nat) : Option SfEntry :=
  (sgetD (w.pier (pierOf line)).sf (sfSet line) []).find? (fun x => decide (x.line = line))

/-- The entry of a line replaced, or removed when nobody holds the line. -/
def sfPut (w : World) (line : Nat) (e : SfEntry) : World :=
  w.modPier (pierOf line) (fun p => { p with sf := smod p.sf (sfSet line) [] (fun l =>
    let r := l.filter (fun x => decide (x.line ≠ line))
    if e.holders.isEmpty then r else e :: r) })

/-- An engine no longer holds a line. -/
def sfDrop (w : World) (line e : Nat) : World :=
  match sfFind w line with
  | none => w
  | some x => sfPut w line { x with owner := if x.owner = some e then none else x.owner, holders := x.holders.filter (fun y => decide (y ≠ e)) }

/-! Engine caches. -/

/-- The L1 caches lose a line (R332). -/
def Engine.dropL1 (x : Engine) (line : Nat) : Engine :=
  { x with l1i := dropLine x.l1i (l1iSet line) line, l1d := dropLine x.l1d (l1dSet line) line }

/-- A line leaves the engine cache, with its L1 copies and, where it is an N line, its data; a prefetched line
never hit is counted (R394). -/
def Engine.dropEc (x : Engine) (c : CLine) : Engine :=
  let x1 := { (x.dropL1 c.line) with
    ec := smod x.ec (ecSet c.line) [] (fun l => l.filter (fun y => decide (y ≠ c)))
    nlines := if c.st = .n then x.nlines.filter (fun n => decide (n.ga.toNat / 128 ≠ c.line)) else x.nlines }
  if c.pf = 1 then x1.count 0x36B 1 else if c.pf = 2 then x1.count 0x373 1 else x1

/-- A line of an engine cache goes: a dirty one is written back to its home pier under class 7 (R338, R342). -/
def ecDrop (w : World) (e : Nat) (c : CLine) : World :=
  let w1 := sfDrop (w.modEng e (fun x => x.dropEc c)) c.line e
  if c.st = .m then
    pierAccess (w1.modEng e (fun x => x.count 0x34A 1)) c.line 7 c.part c.tcls c.kdom true false false
  else w1

/-- Every other engine loses a line before an agent's write takes effect (R336, R338). DEDUCED (log 18). -/
def recallOthers (w : World) (keep : Option Nat) (line : Nat) : World :=
  w.engines.foldl (fun v p =>
    if keep = some p.1 then v
    else match findLine (v.eng p.1).ec (ecSet line) line with
      | some c => ecDrop v p.1 c
      | none => v) w

/-- The snoop filter takes an entry for a line, recalling another line when its set is full (R337).
DESIGN CHOICE (log 16). -/
def sfAdd (w : World) (line e : Nat) (own : Bool) : World :=
  match sfFind w line with
  | some x => sfPut w line { x with owner := if own then some e else none, holders := if x.holders.contains e then x.holders else e :: x.holders }
  | none =>
    let p := pierOf line
    let l := sgetD (w.pier p).sf (sfSet line) []
    let w1 :=
      if l.length < 16 then w
      else
        let (n, v) := fresh w
        match l[Config.free n % 16]? with
        | none => v
        | some victim =>
          let v1 := pierCount v p 7 1
          let v2 := victim.holders.foldl (fun u h =>
            match findLine (u.eng h).ec (ecSet victim.line) victim.line with
            | some c => (ecDrop u h c).modEng h (fun x => x.count 0x34B 1)
            | none => u) v1
          sfPut v2 victim.line { victim with holders := [] }
    sfPut w1 line ⟨line, if own then some e else none, [e]⟩

/-- The way mask of a class in an engine's cache (R343, R348). -/
def Engine.ecMask (x : Engine) (cls : Nat) : Nat :=
  if cls < 4 then fld (x.core.sysGet 0x341) (16 * cls) 16 else fld (x.core.sysGet 0x342) (16 * (cls - 4)) 16

/-- The partition of an engine's accesses (R347). -/
def Engine.part (x : Engine) : Nat := fld (x.core.sysGet 0x340) 0 4

/-- An L1 cache takes a line (R352). -/
def l1Fill (c : Cache) (ways set : Nat) (x : CLine) : Cache :=
  match pickWay (List.range ways) (sgetD c set []) (fun _ => 0) with
  | none => c
  | some (i, _) => putLine c set { x with way := i, reuse := 0, st := .s, busy := false }

/-- Where and why a line is touched. -/
structure Touch where
  e : Nat
  va : Nat
  ctx : Nat
  pl : BitVec 2
  line : Nat
  kdom : Byte
  cls : Nat
  tcls : Nat
  fetch : Bool
  last : Bool
deriving DecidableEq, Repr

/-! The stream prefetcher (R386). -/

/-- A demand access to a line advances the trained stream that leads to it; a miss trains or allocates one. -/
def trainStreams (l : List Stream) (dist : Nat) (t : Touch) (miss : Bool) : List Stream :=
  let vl := t.va / 128
  let delta (s : Stream) : Int := (vl : Int) - (s.line : Int)
  let mine (s : Stream) : Bool := decide (s.ctx = t.ctx)
  let steps (s : Stream) : Option Nat :=
    if s.trained then (List.range (dist + 1)).find? (fun k => decide (0 < k) && decide (delta s = s.stride * (k : Int))) else none
  match l.find? (fun s => mine s && (steps s).isSome) with
  | some s =>
    let k := (steps s).getD 0
    { s with line := vl, issued := s.issued - k } :: l.filter (fun x => decide (x ≠ s))
  | none =>
    if miss then
      match l.find? (fun s => mine s && !s.trained && decide (s.misses = 2) && decide (delta s = s.stride)) with
      | some s => { s with line := vl, misses := 3, trained := true } :: l.filter (fun x => decide (x ≠ s))
      | none =>
        match l.find? (fun s => mine s && !s.trained && decide (s.misses = 1) && decide (delta s ≠ 0) && decide ((delta s).natAbs ≤ 16)) with
        | some s => { s with line := vl, stride := delta s, misses := 2 } :: l.filter (fun x => decide (x ≠ s))
        | none =>
          if l.any (fun s => mine s && decide (s.line = vl)) then l
          else ({ ctx := t.ctx, pl := t.pl, line := vl, stride := 0, misses := 1, trained := false, issued := 0 } :: l).take 16
    else l

/-- A demand access reaches the data-side caches and trains the stream prefetcher. -/
def Engine.train (x : Engine) (t : Touch) (miss : Bool) : Engine :=
  if t.fetch || !(bit (x.core.sysGet 0x360) 0) then x
  else { x with streams := trainStreams x.streams (fld (x.core.sysGet 0x360) 8 7) t miss }

/-! Demand accesses. -/

/-- A demand hit uses a prefetched line (R394). -/
def Engine.usePf (x : Engine) (c : CLine) : Engine :=
  if c.pf = 1 then x.count 0x369 1 else if c.pf = 2 then x.count 0x371 1 else x

/-- A demand miss on a line whose prefetch is in flight merges with it (R394). -/
def Engine.latePf (x : Engine) (line : Nat) : Engine :=
  match x.pfOut.find? (fun p => decide (p.1 = line)) with
  | some p => ({ x with pfOut := x.pfOut.filter (fun q => decide (q ≠ p)) }).count (if p.2 = 1 then 0x36A else 0x372) 1
  | none => x

/-- A demand read of a line of HBM, another node or host memory (R351, R352): recency, reuse, counters; a
miss of the engine cache waits for its fill. DEDUCED (log 18). -/
def touchRead (w : World) (t : Touch) : World :=
  let x0 := w.eng t.e
  let l1 := if t.fetch then x0.l1i else x0.l1d
  let s1 := if t.fetch then l1iSet t.line else l1dSet t.line
  let hit1 := (findLine l1 s1 t.line).filter (fun c => decide (c.kdom = t.kdom))
  let x := x0.train t hit1.isNone
  let putL1 (y : Engine) (c : CLine) : Engine :=
    if t.fetch then { y with l1i := putLine y.l1i s1 c } else { y with l1d := putLine y.l1d s1 c }
  let markLast (v : World) : World :=
    if t.last then
      let v1 := v.modEng t.e (fun y => { y with ec := modLine y.ec (ecSet t.line) t.line (fun c => { c with reuse := 0, dead := true })
                                                l1d := modLine y.l1d (l1dSet t.line) t.line (fun c => { c with dead := true }) })
      v1.modPier (pierOf t.line) (fun p => { p with sets := modLine p.sets (pierSet t.line) t.line (fun c => { c with reuse := 0, dead := true }) })
    else v
  match hit1 with
  | some c => markLast (w.setEng t.e (putL1 x { c with dead := false }))
  | none =>
    match findLine x.ec (ecSet t.line) t.line with
    | some c =>
      if c.kdom = t.kdom then
        let c1 := { c with reuse := if c.reuse < 3 then c.reuse + 1 else 3, dead := false, pf := 0 }
        let x1 := ({ x with ec := putLine x.ec (ecSet t.line) c1 }).usePf c
        let x2 := if t.fetch then { x1 with l1i := l1Fill x1.l1i 4 s1 c1 } else { x1 with l1d := l1Fill x1.l1d 8 s1 c1 }
        markLast (w.setEng t.e (x2.count 0x348 1))
      else
        let w1 := ecDrop (w.setEng t.e x) t.e c
        w1.modEng t.e (fun y => { (y.count 0x349 1) with misses := y.misses ++ [⟨t.line, t.cls, t.tcls, t.kdom, false, t.fetch, none, 0⟩] })
    | none =>
      let x1 := (x.count 0x349 1).latePf t.line
      let have' := x1.misses.any (fun m => decide (m.line = t.line))
      let x2 := if have' then x1 else { x1 with misses := x1.misses ++ [⟨t.line, t.cls, t.tcls, t.kdom, false, t.fetch, none, 0⟩] }
      markLast (w.setEng t.e x2)

/-- A store of an engine takes its place in a line's coherence order (R338, R351): the line becomes M, other
holders lose it, and a miss obtains ownership with its fill. DEDUCED (log 18). -/
def touchWrite (w : World) (e line cls tcls : Nat) (kdom : Byte) : World :=
  let w1 := recallOthers w (some e) line
  let x := w1.eng e
  match findLine x.ec (ecSet line) line with
  | some c =>
    if c.kdom = kdom then
      let c1 := { c with st := .m, reuse := if c.reuse < 3 then c.reuse + 1 else 3, dead := false, pf := 0 }
      let x1 := ({ x with ec := putLine x.ec (ecSet line) c1
                          l1d := modLine x.l1d (l1dSet line) line (fun y => { y with dead := false }) }).usePf c
      sfAdd (w1.setEng e (x1.count 0x348 1)) line e true
    else
      (ecDrop w1 e c).modEng e (fun y => { (y.count 0x349 1) with misses := y.misses ++ [⟨line, cls, tcls, kdom, true, false, none, 0⟩] })
  | none =>
    w1.setEng e (let y := (x.count 0x349 1).latePf line
      if y.misses.any (fun m => decide (m.line = line)) then
        { y with misses := y.misses.map (fun m => if m.line = line then { m with store := true } else m) }
      else { y with misses := y.misses ++ [⟨line, cls, tcls, kdom, true, false, none, 0⟩] })

/-- A write by a unit that is no engine reaches a line (R336, R340). -/
def unitWrite (w : World) (line cls part tcls : Nat) (kdom : Byte) : World :=
  pierAccess (recallOthers w none line) line cls part tcls kdom true true false

/-! Filling the engine cache (R343, R356). -/

/-- The line is placed in a way of its set: its state by R338, reuse 1 for a demand fill and 0 for a prefetch. -/
def ecPlace (w : World) (e : Nat) (m : EMiss) (way : Nat) : World :=
  let x := w.eng e
  let others := match sfFind w m.line with
    | some s => s.holders.any (fun h => decide (h ≠ e))
    | none => false
  let loc := hbmLine m.line
  let w1 := if loc && m.store then recallOthers w (some e) m.line else w
  -- a holder in E or M keeps the line shared
  let w2 := if loc && !m.store && others then
      w1.engines.foldl (fun v p =>
        if p.1 = e then v
        else match findLine (v.eng p.1).ec (ecSet m.line) m.line with
          | some c =>
            let v1 := v.modEng p.1 (fun y => { y with ec := modLine y.ec (ecSet m.line) m.line (fun d => { d with st := .s }) })
            if c.st = .m then pierAccess (v1.modEng p.1 (fun y => y.count 0x34A 1)) m.line 7 c.part c.tcls c.kdom true false false else v1
          | none => v) w1
    else w1
  let st : LineSt := if !loc then .n else if m.store then .m else if others then .s else .e
  let c : CLine := { line := m.line, way := way, st := st, cls := m.cls, part := x.part, tcls := m.tcls
                     reuse := if m.pf = 0 then 1 else 0, dead := false, busy := false, kdom := m.kdom, pf := m.pf }
  let w3 := if loc then sfAdd w2 m.line e (decide (st ≠ .s)) else w2
  w3.modEng e (fun y =>
    let y1 := { y with ec := putLine y.ec (ecSet m.line) c }
    if m.pf ≠ 0 then y1
    else if m.fetch then { y1 with l1i := l1Fill y1.l1i 4 (l1iSet m.line) c }
    else { y1 with l1d := l1Fill y1.l1d 8 (l1dSet m.line) c })

/-- The miss request reaches the home pier: demand classes 0 to 2 keep their number, prefetch is 4 (R342). -/
def ecRequest (w : World) (e : Nat) (m : EMiss) : World :=
  pierAccess w m.line (if m.pf = 0 then m.cls else 4) (w.eng e).part m.tcls m.kdom false (decide (m.pf = 0)) false

/-- Fills miss `m`: with a zero mask the line is not allocated; with no way to choose the miss waits; a dirty
victim is written back first, and the fill waits for the pier (R356). -/
def ecFill (w : World) (e : Nat) (m : EMiss) : World :=
  let x := w.eng e
  let mask := x.ecMask m.cls
  let away (v : World) : World := v.modEng e (fun y => { y with misses := y.misses.filter (fun z => decide (z.line ≠ m.line)) })
  if mask = 0 then away (ecRequest w e m)
  else
    match pickWay (waysOf mask) (sgetD x.ec (ecSet m.line) []) (classPri (x.core.sysGet 0x343)) with
    | none => w
    | some (i, aged) =>
      let w1 := w.modEng e (fun y => { y with ec := sset y.ec (ecSet m.line) aged })
      match aged.find? (fun c => decide (c.way = i)) with
      | none => ecPlace (ecRequest (away w1) e m) e m i
      | some c =>
        if c.st = .m then
          let (n, w2) := fresh w1
          let mark (z : EMiss) : EMiss := if z.line = m.line then { z with way := some i } else z
          let busy (y : Engine) : Engine :=
            { y with ec := modLine y.ec (ecSet m.line) c.line (fun d => { d with busy := true }), misses := y.misses.map mark }
          w2.modEng e (fun y => (busy y).count 0x34F (Config.stallCycles n))
        else ecPlace (ecRequest (away (ecDrop w1 e c)) e m) e m i

/-- The home pier acknowledges the victim of a miss (R356). -/
def ecVictimAck (w : World) (e : Nat) (m : EMiss) : World :=
  match m.way with
  | none => w
  | some i =>
    let w1 := match (sgetD (w.eng e).ec (ecSet m.line) []).find? (fun c => decide (c.way = i)) with
      | some c => ecDrop w e c
      | none => w
    let w2 := w1.modEng e (fun y => { y with misses := y.misses.filter (fun z => decide (z.line ≠ m.line)) })
    ecPlace (ecRequest w2 e m) e m i

/-- A line of another node or of host memory enters the engine cache with its data (R338, R339). DEDUCED (log 97). -/
def nFill (w : World) (e : Nat) (m : EMiss) (n : NLine) : World :=
  let x := w.eng e
  let mask := x.ecMask m.cls
  let w0 := w.modEng e (fun y => { y with misses := y.misses.filter (fun z => decide (z.line ≠ m.line)) })
  if mask = 0 then w0
  else
    match pickWay (waysOf mask) (sgetD x.ec (ecSet m.line) []) (classPri (x.core.sysGet 0x343)) with
    | none => w0
    | some (i, aged) =>
      let w1 := w0.modEng e (fun y => { y with ec := sset y.ec (ecSet m.line) aged })
      let w2 := match aged.find? (fun c => decide (c.way = i)) with
        | some c => ecDrop w1 e c
        | none => w1
      (ecPlace w2 e m i).modEng e (fun y => { y with nlines := n :: y.nlines.filter (fun z => decide (z.ga ≠ n.ga)) })

/-- Every N line of an engine is invalidated (R353 OP 2, R399). DEDUCED (log 97). -/
def invalN (w : World) (e : Nat) : World :=
  w.modEng e (fun x =>
    let ls := (x.ec.map (fun p => p.2)).flatten.filter (fun c => decide (c.st = .n))
    { (ls.foldl (fun y c => y.dropEc c) x) with nlines := [] })

/-- Every cached copy of a line of a key domain goes without write-back, at every level (R520 step 3). -/
def dropDomain (w : World) (k : Byte) : World :=
  let clean (c : Cache) : Cache := c.map (fun p => (p.1, p.2.filter (fun x => decide (x.kdom ≠ k))))
  { w with
    engines := w.engines.map (fun p => (p.1, { p.2 with
      l1i := clean p.2.l1i, l1d := clean p.2.l1d, ec := clean p.2.ec
      nlines := p.2.nlines.filter (fun n => decide (n.kdom ≠ k)), misses := p.2.misses.filter (fun m => decide (m.kdom ≠ k)) }))
    piers := w.piers.map (fun p => (p.1, { p.2 with sets := clean p.2.sets, misses := p.2.misses.filter (fun m => decide (m.kdom ≠ k)) })) }

end Sys2Proof.Machine
end

