-- ==== Sys2Proof/Machine/Entry.lean ====
section
/-!
DEFINITION. Taking an exception or interrupt (R117 to R124), stores that reach memory, commit and discard of
tile instructions (R214, R215), and how an instruction issues, retires, traps or parks.
-/

namespace Sys2Proof.Machine

/-! Stores reaching the coherence order. -/

/-- A conflict on every engine that holds the line of a local offset in state W (R405). -/
def conflictAt (w : World) (off : Nat) : World :=
  { w with engines := w.engines.map (fun p =>
      if p.2.spec.wl.any (fun l => localOff w l.ga = some (off / 128 * 128)) then
        (p.1, ({ p.2 with spec := { p.2.spec with conflict := true } }).count 0x38B 1)
      else p) }

/-- A store to local HBM takes its place in the coherence order (R395): the protected granules it reaches
are copied first (R653), conflicts are reported (R405), the bytes and tags change. DEDUCED (log 96). -/
def commitLocal (w : World) (d : Byte) (act : TagAct) (l : List (Nat × Byte)) : World :=
  let w1 := (blocks l 4096).foldl granuleWritten w
  let w2 := (blocks l 128).foldl conflictAt w1
  storeLocal w2 d act l

/-- A store of an engine to local HBM, as its caches see it too. -/
def engCommit (w : World) (e cls tcls : Nat) (d : Byte) (act : TagAct) (l : List (Nat × Byte)) : World :=
  (blocks l 128).foldl (fun v o => touchWrite v e (o / 128) cls tcls d) (commitLocal w d act l)

/-- A write of another agent to local HBM: a pier class, partition and tensor class (R342). -/
def unitCommit (w : World) (cls part tcls : Nat) (d : Byte) (act : TagAct) (l : List (Nat × Byte)) : World :=
  (blocks l 128).foldl (fun v o => unitWrite v (o / 128) cls part tcls d) (commitLocal w d act l)

/-! Deliveries of the multiplier and divider (R55, R87 to R89). -/

def Core.deliver (c : Core) (p : Pend) : Core :=
  { c with prl := ⟨p.lo, 1#4⟩, prh := ⟨p.hi, 1#4⟩ }

/-- Every pending delivery completes. A divide issued after the pending multiplies delivers last; whether
one issued before them does is a matter of cycles, which `late` tells. DEDUCED (log 10). -/
def Core.deliverAll (c : Core) (late : Bool) : Core :=
  let ms := c.pend.filter (fun p => !p.div)
  let ds := c.pend.filter (fun p => p.div)
  let dLast := ms.all (fun m => ds.all (fun d => decide (m.seq < d.seq))) || late
  let order := if dLast then ms ++ ds else ds ++ ms
  { order.foldl Core.deliver c with pend := [] }

/-! Tile instructions in flight. -/

/-- Stores retired by the oldest tile instruction's commit enter the store buffer; counts are made. -/
def Engine.commitOldest (x : Engine) : Engine :=
  match x.tq with
  | [] => x
  | t :: r => (({ x with tq := r, sb := x.sb ++ t.held }).count 0x19C t.busy).count 0x1A6 t.skip

/-- Every tile instruction in flight commits, oldest first. -/
def Engine.commitAll (x : Engine) : Engine := x.tq.foldl (fun y _ => y.commitOldest) x

/-- Every tile instruction in flight and every younger instruction is discarded (R215): the core returns
to what it was when the oldest issued. -/
def Engine.discardAll (x : Engine) : Engine :=
  match x.tq with
  | [] => x
  | t :: _ => { x with core := { t.before with tf := { t.before.tf with latch0 := none, latch1 := none } }, tq := [] }

/-- Counters of discarded tile instructions (R210, R302): how far each had come is a matter of cycles. DEDUCED (log 96). -/
def World.lose (w : World) (e : Nat) (l : List TileOp) : World :=
  if l.isEmpty then w
  else
    let n := l.length
    let u := w.freeCtr
    let x := (List.range n).foldl (fun y i =>
      match l[i]? with
      | some t => if t.pass then (y.count 0x19C (Config.free (u + 2 * i) % (t.len + 1))).count 0x1A6 (Config.free (u + 2 * i + 1) % (t.skip + 1)) else y
      | none => y) (w.eng e)
    { w.setEng e (x.count 0x19F (Config.free (u + 2 * n) % (n + 1))) with freeCtr := u + 2 * n + 1 }

/-! Entry. -/

/-- An exception or interrupt as it is described to its handler (R109). -/
structure Event where
  code : Byte
  intr : Bool
  asyn : Bool
  sub : Byte
  unit : Nat
  info : BitVec 16
  faddr : W64
  tileInfo : W64
  /-- level at which the event occurred, and level that takes it -/
  src : BitVec 2
  tgt : BitVec 2
deriving DecidableEq, Repr

def Event.cause (v : Event) : W64 :=
  packW [(63, v.intr.toNat), (62, v.asyn.toNat), (32, v.info.toNat), (20, v.unit), (18, v.src.toNat),
    (8, v.sub.toNat), (0, v.code.toNat)]

/-- The 12 words of the frame with their tags (R118). -/
def frameOf (c : Core) (v : Event) : List TWord :=
  [⟨c.pc, 7#4⟩, ⟨c.st, 6#4⟩, c.acc, c.ix0, c.ix1, c.prl, c.prh, ⟨v.cause, 1#4⟩, ⟨v.faddr, 1#4⟩,
   ⟨c.sysGet 0x102, 1#4⟩, ⟨v.tileInfo, 1#4⟩, ⟨0#64, 0#4⟩]

/-- Writes frame words upward from an address at a level (R117 step 4), or answers the address whose write
fails: ALIGN, TRANSLATION, ACCESS or TAG (R122). -/
def pushWords (a : Anat) (e : Nat) (l : BitVec 2) : World → W64 → List TWord → Except W64 Unit × World
  | w, _, [] => (.ok (), w)
  | w, f, x :: r =>
    if fld f 0 3 ≠ 0 then (.error f, w)
    else
      match engTranslate a w e l f .store with
      | (.error _, w1) => (.error f, w1)
      | (.ok t, w1) =>
        match t.tagged w1, localOff w1 (t.ga f.toNat) with
        | true, some off =>
          if (hbmStatus a w1 off).isSome then (.error f, w1)
          else pushWords a e l (engCommit w1 e 0 t.tcls t.kdom (.set x.t) (atOff off (offsets (leBytes 8 x.v.toNat)))) (f + 8#64) r
        | _, _ => (.error f, w1)

/-- The handler's address (R119). -/
def handlerPc (c : Core) (v : Event) : W64 :=
  c.sysGet (if v.tgt = 0#2 then 0x206 else 0x205) +
    (if v.intr then 0x800#64 else 0#64) + w64 (0x40 * v.code.toNat)

/-- Step 5 and 6 of R117, after the frame has been pushed at `f`. -/
def Core.enter (c : Core) (v : Event) (f : W64) : Core :=
  let c1 := c.setSpOf v.tgt f
  let c2 := { c1 with st := setFld (setBit c.st 7 false) 8 2 v.tgt.toNat, pc := handlerPc c v }
  c2.sysSet 0x102 0#64

/-- The EMERG bit of a level in `TRAP_STAT` (R130). -/
def emergBit (l : BitVec 2) : Nat := if l = 0#2 then 1 else 0

/-- A speculation ends: no line is in state W any more (R407, R408). -/
def Engine.endSpec (x : Engine) : Engine :=
  { x with ec := x.ec.map (fun p => (p.1, p.2.filter (fun c => decide (c.st ≠ .w))))
           spec := { x.spec with state := 0, wl := [] } }

/-- A speculation is discarded (R408, R409). -/
def Engine.discardSpec (x : Engine) : Engine := if x.spec.state = 0 then x else x.endSpec.count 0x389 1

/-- The engine enters lockdown (R124, R125), discarding an open speculation (R409). -/
def Engine.lockdown (x : Engine) (addr : W64) (frame : List TWord) : Engine :=
  { x.discardSpec with locked := some addr, lockFrame := frame, tq := [] }

/-- A lockdown is signalled to the die supervisor, which reports it (R125, R661): `AV_EVT.LOCKDOWN`, `LAST_LOCKDOWN`.
DEDUCED (log 84). -/
def lockReport (a : Anat) (w : World) (e : Nat) (v : Event) : World :=
  avEvent { w with av := { w.av with lastLock := [w64 ((a.logicalOf e).getD 0x7F), w64 e, w.time, v.cause, v.faddr] } } 0

/-- Takes an event (R117): pending deliveries complete, the frame is pushed on the stack of the target
level, and the handler starts; a failed push tries the emergency stack once (R123), and then the engine
locks down (R124). `late` is the choice of `Core.deliverAll`. -/
def enterEvent (a : Anat) (w : World) (e : Nat) (v : Event) (late : Bool) : World :=
  let x0 := w.eng e
  let c := x0.core.deliverAll late
  let frame := frameOf c v
  let f := c.spOf v.tgt - 96#64
  match pushWords a e v.tgt (w.setEng e { x0 with core := c }) f frame with
  | (.ok _, w1) => w1.modEng e (fun x => { x with core := x.core.enter v f, wait := .none, rbuf := [], rerr := none })
  | (.error bad, w1) =>
    if bit (c.sysGet 0x208) (emergBit v.tgt) then
      lockReport a (w1.modEng e (fun x => x.lockdown bad frame)) e v
    else
      let v2 : Event := { v with code := 0x0B#8, intr := false, faddr := bad
                                 info := BitVec.ofNat 16 (v.code.toNat + v.intr.toNat * 0x8000) }
      let w2 := w1.modEng e (fun x =>
        let c1 := x.core.sysSet 0x208 (setBit (x.core.sysGet 0x208) (emergBit v.tgt) true)
        { x with core := c1.setSpOf v.tgt (c1.sysGet (if v.tgt = 0#2 then 0x204 else 0x203)) })
      let c2 := (w2.eng e).core
      let f2 := c2.spOf v.tgt - 96#64
      match pushWords a e v.tgt w2 f2 (frameOf c2 v2) with
      | (.ok _, w3) => w3.modEng e (fun x => { x with core := x.core.enter v2 f2, wait := .none, rbuf := [], rerr := none })
      | (.error bad2, w3) => lockReport a (w3.modEng e (fun x => x.lockdown bad2 frame)) e v

/-- A choice the spec's cycles would decide, left free. -/
def lateChoice (w : World) : Bool := Config.free w.freeCtr % 2 = 1

/-- The level that takes an exception of a code raised at a level (R114, R115). -/
def trapTarget (c : Core) (code : Byte) (here : Bool) : BitVec 2 :=
  let t : Nat :=
    if code.toNat ≤ 10 then (if bit (c.sysGet 0x207) code.toNat then 1 else 0)
    else if code = 0x0C#8 ∨ code = 0x0D#8 then 1 else 0
  if here then c.pl else if c.pl.toNat ≤ t then c.pl else BitVec.ofNat 2 t

/-- The event of an exception raised by an instruction of a unit. -/
def eventOf (c : Core) (unit : Nat) (t : Trap) : Event :=
  { code := t.code, intr := false, asyn := false, sub := t.sub, unit := unit, info := t.info, faddr := t.faddr
    tileInfo := t.tile, src := c.pl, tgt := trapTarget c t.code t.here }

/-- A machine check (R110, R138): every tile instruction in flight is discarded, and the entry is made at
level 0; one that arrives while `MC_ACTIVE` is 1 locks the engine down (R124). -/
def machineCheckNow (a : Anat) (w : World) (e : Nat) (sub : Byte) (faddr : W64) : World :=
  let w0 := w.lose e (w.eng e).tq
  let x := (w0.eng e).discardAll
  let x1 := { x with wait := .none }
  let v : Event := { code := 0x0F#8, intr := false, asyn := true, sub := sub, unit := if sub = 1#8 then 3 else 4
                     info := 0#16, faddr := faddr, tileInfo := 0#64, src := x.core.pl, tgt := 0#2 }
  if x.locked.isSome then w
  else if bit (x.core.sysGet 0x208) 2 then
    lockReport a (w0.setEng e (x1.lockdown 0#64 (frameOf x.core v))) e v
  else
    let c := x.core.sysSet 0x208 (setBit (x.core.sysGet 0x208) 2 true)
    enterEvent a (w0.setEng e { x1 with core := c }) e v (lateChoice w0)

/-- A machine check, which waits for the response of a returning atomic, a message or a completion word (R451, R546).
DEDUCED (log 26). -/
def machineCheck (a : Anat) (w : World) (e : Nat) (sub : Byte) (faddr : W64) : World :=
  match (w.eng e).wait with
  | .atomic _ _ | .reply _ => w.modEng e (fun x => { x with mcPend := x.mcPend ++ [(sub, faddr)] })
  | _ => machineCheckNow a w e sub faddr

/-! Issue and retirement. -/

/-- Whether the die of a physical engine runs. -/
def dieRuns (a : Anat) (e : Nat) : Bool :=
  let d := a.dies.getD (e / 26) ⟨false, false, false⟩
  d.up && !d.lost

/-- Whether an engine can issue its next instruction: it is bound, its die and its clock run, it is not
locked down, it waits for nothing, at most 31 instructions are held behind a tile instruction (R214), and
a parked speculation does not hold it at level 2 (R404). DESIGN CHOICE (log 1). -/
def canIssue (a : Anat) (w : World) (e : Nat) : Bool :=
  let x := w.eng e
  (a.logicalOf e).isSome && dieRuns a e && w.eclk && x.locked.isNone && decide (x.wait = .none) &&
    decide (x.tq.all (fun t => decide (t.younger < 33))) &&
    !(decide (x.spec.state = 2) && decide (x.core.pl = 2#2))

/-- The instruction's own fetch (R63, R414): translation at `PC`, and poison in its word. DESIGN CHOICE (log 4). -/
def fetchCheck : EM Unit := do
  let c ← getC
  if fld c.pc 0 2 ≠ 0 then alignFault c.pc
  let t ← translate c.pc .fetch
  let env ← read
  let w ← get
  match localOff w (t.ga c.pc.toNat) with
  | some off =>
    if region off = .regs then priv 2#8 c.pc
    match hbmStatus env.anat w off with
    | some s => accessErr s c.pc
    | none =>
      match poisonIn w.mem w.ks w.places off 4 with
      | some s => dataErr s c.pc
      | none => pure ()
  | none => pure ()

/-- Counts a retired instruction and its cycles: `INSTRET`, and `CYCLE` by the instruction's cycles and
whatever it waited (R81, R103). DESIGN CHOICE (log 9). -/
def Engine.retire (x : Engine) (cyc n : Nat) : Engine :=
  let r := ctrAdd x.core.instret 1
  let x1 := { x with core := { x.core with instret := r.1 }, irq := if r.2 then x.irq ||| 0x200#11 else x.irq, rbuf := [], rerr := none
                     tq := lmod x.tq (x.tq.length - 1) (fun t => { t with younger := t.younger + 1 }) }
  x1.count 0x11 (cyc + Config.stallCycles n)

/-- A speculation parks (R404): nothing of the instruction remains. -/
def Engine.park (x : Engine) (why : Nat) (code : Byte) (addr : W64) : Engine :=
  { x with spec := { x.spec with state := 2, parkWhy := why, parkCode := code, parkAddr := addr } }

/-- The world after an instruction has raised a trap: older tile instructions commit first (R247), the core
is as before the instruction (R117) unless the trap keeps it, and the exception is taken. An instruction that lies before
the reported `PC` (`svc`, `mon`) has completed, and `INSTRET` counts it. DEDUCED (log 104). -/
def takeTrap (a : Anat) (w0 w1 : World) (e unit len : Nat) (t : Trap) : World :=
  let c0 := (w0.eng e).core
  let x1 := w1.eng e
  let c1 := if t.keep then { x1.core with pc := c0.pc } else
    { c0 with sys := sset c0.sys 0x305 (x1.core.sysGet 0x305)
              tf := { c0.tf with latch0 := x1.core.tf.latch0, latch1 := x1.core.tf.latch1 } }
  let c2 := if t.next then { c1 with pc := c0.pc + w64 len } else c1
  let x2 := { ({ x1 with core := c2 }).commitAll with core := c2 }
  let x3 := if t.tile = 0#64 then x2 else (x2.count 0x19C (fld t.tile 16 16)).count 0x19F 1
  let x4 := if t.next then x3.retire 14 w1.freeCtr else x3
  enterEvent a (w1.setEng e x4) e (eventOf c2 unit t) (lateChoice w1)

/-- Runs one instruction of `len` bytes and `cyc` cycles: the next `PC` and what is done to the engine after
retirement come from what `body` answers. An engine that cannot issue leaves everything as it is. -/
def runWith {α : Type} (unit len cyc : Nat) (e : Fin 104) (body : EM α) (next : α → Core → W64)
    (post : α → Core → Engine → Engine) (a : Anat) (w : World) : World :=
  if canIssue a w e.val then
    let prog : EM α := do fetchCheck; body
    match prog ⟨a, e.val⟩ w with
    | .ok r w1 =>
      let w2 := w1.modEng e.val (fun x =>
        post r (w.eng e.val).core (({ x with core := { x.core with pc := next r x.core, seq := x.core.seq + 1 } }).retire cyc w1.freeCtr))
      { w2 with freeCtr := w2.freeCtr + 1 }
    | .error (.trap t) w1 =>
      if (w.eng e.val).speculating && decide (t.code ≠ 0x0D#8) then
        w.modEng e.val (fun x => x.park 1 t.code t.faddr)
      else takeTrap a w w1 e.val unit len t
    | .error (.park why addr) _ => w.modEng e.val (fun x => x.park why 0#8 addr)
    | .error .wait w1 => w1.modEng e.val (fun x => { x with core := (w.eng e.val).core })
  else w

/-- Runs an instruction whose body answers the next `PC` where it is not the following word. DESIGN CHOICE (log 4). -/
def runInstr (unit len cyc : Nat) (e : Fin 104) (body : EM (Option W64)) (a : Anat) (w : World) : World :=
  runWith unit len cyc e body (fun r c => r.getD (c.pc + w64 len)) (fun _ _ x => x) a w

/-- The state after an instruction. DESIGN CHOICE (log 2). -/
def instr (unit len cyc : Nat) (e : Fin 104) (body : EM (Option W64)) (s : State) :
    Host.Outcome State Fault Refusal :=
  .next { s with w := runInstr unit len cyc e body s.anat s.w }

/-- An instruction that continues at the following word. -/
def seqInstr (unit len cyc : Nat) (e : Fin 104) (body : EM Unit) (s : State) :
    Host.Outcome State Fault Refusal :=
  instr unit len cyc e (do body; return none) s

end Sys2Proof.Machine
end

