-- ==== Sys2Proof/Machine/Links0.lean ====
section
/-!
DEFINITION. Sending transactions over the Turroth links: route choice (R497, R498) and outstanding
transactions (R495).
-/

namespace Sys2Proof.Machine

def World.port (w : World) (p : Nat) : Port := sgetD w.ports p Port.reset

def World.setPort (w : World) (p : Nat) (x : Port) : World := { w with ports := sset w.ports p x }

def World.modPort (w : World) (p : Nat) (f : Port → Port) : World := w.setPort p (f (w.port p))

/-- Base of a port's block (R40). -/
def portBase (p : Nat) : Nat := dieBase (p / 8) + 0x800000 + p % 8 * 0x10000

/-- BAR0 offset of a die's route entry for a node (R497). -/
def routeOff (d n : Nat) : Nat := portBase (d * 8 + n / 512) + 0x8000 + 8 * (n % 512)

/-- Counter i of a port (R504). -/
def portCount (w : World) (p i n : Nat) : World := w.countReg (portBase p + 0x100 + 8 * i) n

/-- The ports a route entry lists, in ascending order of i. -/
def routePorts (r : W64) : List Nat :=
  ([0, 1, 2, 3].filter (fun i => bit r (8 * i + 7))).map (fun i => fld r (8 * i) 5)

/-- The ports of a route entry that are UP. -/
def upPorts (w : World) (r : W64) : List Nat := (routePorts r).filter (fun p => decide ((w.port p).state = 3))

/-- The hash that chooses among the UP ports (R498). -/
def routeHash (t : Txn) : Nat :=
  if t.opc = 6 ∨ t.opc = 7 then t.addr % 128
  else if t.opc = 0x10 ∨ t.opc = 0x11 then t.tid / 256 % 256 ^^^ t.tid % 256
  else xorAll [t.addr / 2 ^ 7 % 256, t.addr / 2 ^ 15 % 256, t.addr / 2 ^ 23 % 256, t.addr / 2 ^ 31 % 256,
    t.addr / 2 ^ 39 % 256, t.addr / 2 ^ 47 % 2]

/-- Every die whose entry for a node lists no UP port marks it LOST (R498, R502). -/
def markLost (w : World) (n : Nat) : World :=
  [0, 1, 2, 3].foldl (fun w d =>
    let r := w.reg (routeOff d n) 0#64
    if bit r 63 && (upPorts w r).isEmpty then w.setReg (routeOff d n) (setBit r 62 true) else w) w

/-- The port by which a transaction leaves from a die, or the STATUS with which it completes at once
(R497, R498). -/
def choosePort (w : World) (d : Nat) (t : Txn) : Except Byte Nat × World :=
  let r := w.reg (routeOff d t.dst) 0#64
  if !bit r 63 || bit r 62 then (.error 4#8, w)
  else
    let u := upPorts w r
    match u with
    | [] => (.error 4#8, markLost w t.dst)
    | _ =>
      let p := u.getD (routeHash t % u.length) 0
      if (w.port p).sw && !bit r 61 then (.error 2#8, w) else (.ok p, w)

/-- Slots that a transaction takes (R493), the seal slot included. -/
def Txn.slots (t : Txn) : Nat :=
  1 + t.sealed.toNat + (match t.opc with
    | 2 => (t.addr % 16 + t.size + 15) / 16
    | 3 => 5
    | 4 => 1
    | 5 => 1 + (t.data.length + 15) / 16
    | 6 | 7 => 4
    | 0x10 => (t.size + 15) / 16
    | _ => 0)

/-- The virtual channel of a transaction (R480). -/
def Txn.vc (t : Txn) : Nat := (if 0x10 ≤ t.opc then 3 else 0) + min t.hops 2

/-- DATA flits that carry a transaction by itself. DESIGN CHOICE (log 54). -/
def Txn.flits (t : Txn) : Nat := (t.slots + 13) / 14

/-- The module is stopped for coolant (R618): `CAP_STAT.HELD`. -/
def World.held (w : World) : Bool := bit (w.reg 0x400000 0x145000000000#64) 1

/-- A port may send a transaction now: UP, its partner has not paused, credit (R481), room for its flits in the replay
buffer (R478); a stopped module forwards nothing (R503). -/
def portCan (w : World) (p : Nat) (t : Txn) : Bool :=
  let x := w.port p
  decide (x.state = 3) && !x.paused && !w.held && !w.pwr.refStop && decide (x.kept.length + t.flits ≤ 1024) &&
    decide (x.sent.getD t.vc 0 + t.slots ≤ x.credit.getD t.vc 0 + x.palloc.getD t.vc 0)

/-- Flits of an epoch are counted; the next epoch begins after 2^32 of them (R491). -/
def Port.epoch (x : Port) (n : Nat) : Port :=
  if x.epCount + n < 2 ^ 32 then { x with epCount := x.epCount + n } else { x with epCount := x.epCount + n - 2 ^ 32, epTx := x.epTx + 1, rekey := false }

/-- A port sends a transaction: credit is used, its flits are numbered and kept, a sealed one takes its node pair's next
counter (R477, R478, R481, R497). DESIGN CHOICE (log 54). -/
def portTransmit (w : World) (p : Nat) (t : Txn) : World :=
  let n := t.flits
  let w1 := (pertEvent w (p / 8) 2 3 [16 * (p % 8) + 15]).2.modPort p (fun x =>
    ({ x with
      sent := lmod x.sent t.vc (fun k => k + t.slots), txIdx := x.txIdx + n
      kept := x.kept ++ (List.range n).map (fun i => KeptFlit.mk (x.txIdx + i) t i) }).epoch n)
  let w2 := if t.sealed && decide (t.src = w.nodeId.getD 0) then { w1 with seals := smod w1.seals t.dst (SealSt.mk 0 0 []) (fun z => { z with out := z.out + 1 }) } else w1
  (portCount (portCount w2 p 0 n) p 2 (16 * t.slots)).emit (.send p t)

/-- The waiting transaction that the slot builder takes next (R579): of the highest virtual channel whose oldest one may
be sent. -/
def egressNext (w : World) (p : Nat) : Option Nat :=
  let l := (w.port p).egress
  let first (v : Nat) : Option Nat := l.findIdx? (fun t => decide (t.vc = v))
  [5, 4, 3, 2, 1, 0].findSome? (fun v =>
    match first v with
    | none => none
    | some i =>
      match l[i]? with
      | some t => if portCan w p t then some i else none
      | none => none)

/-- Waiting transactions leave while they may. -/
def portDrain (p : Nat) : Nat → World → World
  | 0, w => w
  | n + 1, w =>
    match egressNext w p with
    | none => w
    | some i =>
      match (w.port p).egress[i]? with
      | none => w
      | some t => portDrain p n (portTransmit (w.modPort p (fun x => { x with egress := x.egress.take i ++ x.egress.drop (i + 1) })) p t)

/-- A transaction enters a port's egress queue and leaves as soon as it may. Delay and back-pressure of a perturbation entry
are only counted (R593): the model has no cycles. -/
def portSend (w : World) (p : Nat) (t : Txn) : World :=
  let w1 := (pertEvent w (p / 8) 1 3 [16 * (p % 8) + 15]).2.modPort p (fun x => { x with egress := x.egress ++ [t] })
  portDrain p (w1.port p).egress.length w1

/-- The lowest entry of a port that no sent transaction holds (R495), as a TID (R492). -/
def freeTid (w : World) (p : Nat) : Option Nat :=
  let used := (w.txns.filter (fun x => decide (x.2.port = p) && x.2.sent)).map (fun x => x.2.t.tid % 2048)
  ((List.range 2048).find? (fun k => !used.contains k)).map (fun k => p * 2048 + k)

/-- An outstanding transaction that waits takes an entry of its port and is sent, once its pair key is there (R497). -/
def txnGo (w : World) (k : Nat) : World :=
  match sget w.txns k with
  | none => w
  | some o =>
    if o.sent || (o.t.sealed && !w.pairKeys.contains o.t.dst) then w
    else
      match freeTid w o.port with
      | none => w
      | some tid =>
        let t := { o.t with tid := tid }
        portSend { w with txns := sset w.txns k { o with t := t, sent := true } } o.port t

/-- The transactions of a port that wait are sent where they can be. -/
def txnsGo (w : World) (p : Nat) : World := (w.txns.filter (fun x => decide (x.2.port = p))).foldl (fun v x => txnGo v x.1) w

/-- An outstanding transaction ends, and its entry serves one that waits. -/
def txnDrop (w : World) (k : Nat) : World :=
  match sget w.txns k with
  | none => w
  | some o => txnsGo { w with txns := sdel w.txns k } o.port

/-- A new transaction: it takes an entry of its port and is sent, or waits for its pair key (R497) or for one of the
port's 2048 entries (R495). Answers its number in the list of outstanding transactions. -/
def sendTxn (w : World) (d : Nat) (t : Txn) (who : TxnWho) : Except Byte Nat × World :=
  match choosePort w d t with
  | (.error s, w1) => (.error s, w1)
  | (.ok p, w1) =>
    let r := w1.reg (routeOff d t.dst) 0#64
    let k := w1.nextTid
    let t1 := { t with sealed := bit r 61, src := w1.nodeId.getD 0 }
    (.ok k, txnGo { w1 with nextTid := k + 1, txns := sset w1.txns k ⟨t1, p, who, false⟩ } k)

/-- An empty transaction of an operation to a node. -/
def txnOf (opc : Nat) (kdom : Byte) (dst addr size : Nat) : Txn :=
  { opc := opc, kdom := kdom, dst := dst, src := 0, tid := 0, size := size, addr := addr, mask := 0#64, data := []
    ret := false, aop := 0, arg := 0#64, isInt := false, status := 0#8, hops := 0, sealed := false }

end Sys2Proof.Machine
end

