-- ==== Sys2Proof/Machine/Bar0.lean ====
section
/-!
DEFINITION. The module's registers as BAR0 and the engines' monitors reach them (R38 to R49): where they lie, what
they hold, and how a write reaches their fields.
-/

namespace Sys2Proof.Machine

/-- Who accesses a register: the host through the physical function's BAR0, or an engine at level 0 (R49). -/
inductive RegSrc where
  | host
  | engine (e : Nat)
deriving DecidableEq, Repr

/-! Where blocks lie (R39, R40). -/

/-- Base of a physical engine's block (R40). -/
def engBase (e : Nat) : Nat := dieBase (e / 26) + e % 26 * 0x20000

/-- Base of a stack's controller block; stacks are numbered over the module (R40, R50). -/
def hbmBase (h : Nat) : Nat := dieBase (h / 6) + 0x600000 + h % 6 * 0x40000

/-- Base of a die's gatherer registers (R40, R320). -/
def bgBase (d : Nat) : Nat := dieBase d + 0x980000

/-- Base of a die's power block. -/
def pwrBase (d : Nat) : Nat := dieBase d + 0xB00000

/-- Base of a die's Viaduct block. -/
def viaBase (d : Nat) : Nat := dieBase d + 0xC00000

/-- Offset of a function's doorbell page (R527). -/
def dbPage (f : Nat) : Nat := 0x100000 + f * 0x1000

/-- Base of a mailbox window: path 0 has the host's, path 1 the monitor's. -/
def mbBase (path : Nat) : Nat := 0x10000 + 0x8000 * path

/-! What some registers hold. -/

/-- `LNK_CTL` (R505). -/
def lnkCtl (w : World) (p : Nat) : W64 := w.reg (portBase p) 2#64

/-- `LNK_VCBUF` (R506). -/
def vcbufReset : W64 := packW [(50, 170), (40, 170), (30, 170), (20, 170), (10, 170), (0, 170)]

def mbCmd (w : World) (path : Nat) : W64 := w.reg (mbBase path) 0x108000000#64

def mbStat (w : World) (path : Nat) : W64 := w.reg (mbBase path + 0x18) 0#64

/-- `PWR_OP`. -/
def pwrOp (w : World) (d : Nat) : W64 := w.reg (pwrBase d) (packW [(32, (Config.vtab d 7 0).toNat), (8, 7), (4, 7), (0, 7)])

/-- `CAP_STAT` (R620). -/
def capStat (w : World) : W64 := w.reg 0x400000 0x145000000000#64

def World.fe (w : World) (g : Nat) : FrontEnd := sgetD w.fes g FrontEnd.reset

def World.setFe (w : World) (g : Nat) (f : FrontEnd) : World := { w with fes := sset w.fes g f }

/-- `HFE_STAT` (R384). -/
def hfeStat (w : World) (h : Nat) : W64 :=
  let ch := (List.range 32).find? (fun c => (w.fe (64 * h + 2 * c)).cal)
  let n := (List.range 64).foldl (fun a i => a + (w.fe (64 * h + i)).wait.length) 0
  packW [(31, ch.isSome.toNat), (24, ch.getD 0), (0, n)]

/-- `DC_PART_LINES` (R368). -/
def partLines (w : World) (d k : Nat) : Nat :=
  (List.range 32).foldl (fun n i =>
    n + (((w.pier (32 * d + i)).sets.map (fun q => q.2)).flatten.filter (fun c => decide (c.part = k))).length) 0

def World.gath (w : World) (d : Nat) : Gath := sgetD w.gaths d Gath.reset

/-- The second halves that a die's gatherer may use: leased, not withdrawn (R319, R329). -/
def bgPool (w : World) (d : Nat) : List Nat :=
  ((List.range 26).map (fun i => 26 * d + i)).filter (fun e => (w.eng e).leased && !(w.gath d).out.contains e)

/-- A logical engine's physical engine, where it is bound. -/
def Anat.physOf (a : Anat) (l : Nat) : Option Nat :=
  match a.remap[l]? with
  | some r => if r.present then some r.phys else none
  | none => none

/-- ASCII bytes. -/
def ascii (s : String) : List Byte := s.toList.map (fun c => BitVec.ofNat 8 c.toNat)

def partNumber (a : Anat) : List Byte :=
  ascii (match a.part with
    | .a48 => "DVS-24-48A"
    | .a36 => "DVS-24-36A"
    | .d48 => "DVS-24-48D")

/-- `PCI_IDS` (R554). -/
def subsystemId (a : Anat) : Nat :=
  match a.part with
  | .a48 => 0x0048
  | .a36 => 0x0036
  | .d48 => 0x8048

/-- `ID_MODULE` (R688). -/
def idModule (a : Anat) : W64 :=
  packW [(48, Config.vendorId.toNat), (32, subsystemId a), (28, 1), (24, (decide (a.part = .d48)).toNat),
    (16, if a.part = .a36 then 12 else 16), (8, 1)]

/-- An entry of `ENG_REMAP` (R28). -/
def remapWord (a : Anat) (l : Nat) : W64 :=
  let r := a.remap.getD l ⟨false, false, 0x7F, 0x7F⟩
  packW [(63, r.present.toNat), (62, r.migrating.toNat), (8, r.prev), (0, if r.present then r.phys else 0x7F)]

/-- `PHYS_STATE.STATE` (R31). -/
def PState.code : PState → Nat
  | .active => 0
  | .spare => 1
  | .selfTest => 2
  | .target => 3
  | .retired => 4
  | .absent => 5

/-- An entry of `PHYS_STATE` (R30). -/
def physWord (a : Anat) (p : Nat) : W64 :=
  let r := a.phys.getD p ⟨0x7F, .absent⟩
  packW [(8, if r.st = .active then r.logical else 0x7F), (0, r.st.code)]

def Anat.stOf (a : Anat) (p : Nat) : PState := (a.phys.getD p ⟨0x7F, .absent⟩).st

/-- The engine takes no write of its task-control registers (R44). DEDUCED (log 90). -/
def engShut (a : Anat) (e : Nat) : Bool :=
  decide (a.stOf e = .spare) || decide (a.stOf e = .selfTest) || decide (a.stOf e = .target)

/-- `BG_STAT` (R321). -/
def bgStat (w : World) (d : Nat) : W64 :=
  packW [(32, (w.gath d).pend.length), (16, (w.gath d).batches.length), (0, (bgPool w d).length)]

/-- `LNK_STAT` (R505). -/
def lnkStat (w : World) (p : Nat) : W64 :=
  let x := w.port p
  packW [(52, x.nid), (47, x.pport), (40, x.gen), (36, x.reason), (35, x.dev.toNat), (34, (x.halfRx || x.halfTx).toNat),
    (33, x.sw.toNat), (0, x.state)]

/-- `LANE_RX_STAT` or `LANE_TX_STAT` (R507). -/
def laneStat (l : List Lane) (i : Nat) : W64 :=
  let x := l.getD i Lane.dark
  packW [(8, x.carries), (0, x.st)]

/-- `TILE_LEASE` (R243): the last value written, and whether a lease is in force. -/
def leaseReg (w : World) (e : Nat) : W64 := setBit (w.reg (engBase e + 0x800) 0#64) 8 (w.eng e).leased

/-- `TAIL_LOG_USED` (R647) and `TAIL_STAT` (R651). -/
def tailUsed (t : TailSlot) : W64 := packW [(63, t.half.toNat), (0, t.used)]
def tailStat (t : TailSlot) : W64 := packW [(32, t.seq), (16, t.reason), (0, t.state)]

/-! Fields by access code. -/

/-- x lies in n bytes from lo. -/
def within (lo n x : Nat) : Bool := decide (lo ≤ x) && decide (x < lo + n)

/-- The first register of a list of (offset, bytes, fields) whose range holds an offset. -/
def specIn : List (Nat × Nat × RegSpec) → Nat → Option RegSpec
  | [], _ => none
  | (lo, n, r) :: t, x => if within lo n x then some r else specIn t x

def roReg : RegSpec := regRO 0#64
def woReg : RegSpec := regRO 0#64

/-- A mailbox window (R669). -/
def mbSpecs : List (Nat × Nat × RegSpec) :=
  [(0, 8, regRW 0x108000000#64 0xFFFFFF0FFC007FFF#64), (8, 8, regRW 0#64 0xFFFFFFFF#64), (0x10, 8, woReg),
    (0x18, 8, regW1C 0x6000000000000000#64), (0x20, 8, roReg), (0x4000, 0x4000, regRW 0#64 0xFFFFFFFFFFFFFFFF#64)]

/-- An MSI-X table entry's quadword: address, or data and mask. PRESUMED (log 66). -/
def msixSpec (o : Nat) : RegSpec :=
  if o % 16 < 8 then regRW 0#64 0xFFFFFFFFFFFFFFFC#64 else regRW 0x100000000#64 0x1FFFFFFFF#64

/-- The MSI-X block with the host-interface registers (R560, R563). -/
def hifSpec (o : Nat) : Option RegSpec :=
  if o < 0x1000 then some (msixSpec o)
  else if o < 0x9000 then (if o % 0x200 < 0x1C0 then some (msixSpec o) else none)
  else specIn [(0xC000, 0x20, roReg), (0xC100, 0x200, roReg), (0xE000, 8, roReg), (0xE008, 8, regRW 0#64 0x1FFC0000000#64),
    (0xE010, 8, regW1C 0x1F#64), (0xE100, 0x28, regCtr)] o

/-- A doorbell page (R527). -/
def dbSpecs : List (Nat × Nat × RegSpec) :=
  [(0, 0x10, woReg), (0x10, 8, regW1C 0x8000000000000000#64), (0x18, 8, regCtr)]

/-- A task queue's registers (R544). -/
def tqSpecs : List (Nat × Nat × RegSpec) :=
  [(0, 8, regRW 0#64 0xFFFFFFFFFFFFFFFF#64), (8, 8, regRW 0x800004#64 0xFFFF00003F80001F#64), (0x10, 8, roReg)]

/-- A job slot of Tail (R645 to R647). -/
def tailSpecs : List (Nat × Nat × RegSpec) :=
  [(0, 8, regRW 0x6400010002#64 0xFFFFFFFFFFFF0003#64), (8, 8, regRW 0#64 0xFFFFFFFFFFFFFFFF#64), (0x10, 8, regRW 0#64 0xFFFFFFFF#64),
    (0x18, 8, regRW 0#64 0xFFFFFFFFFFFFFFFF#64), (0x20, 8, regRW 0#64 0x1FFF1FFF#64), (0x28, 8, regRW 0#64 0xFFFFFFFFF000#64),
    (0x30, 8, regRW 0#64 0xFFFFFFF#64), (0x38, 8, roReg), (0x40, 8, woReg), (0x48, 8, roReg),
    (0x50, 8, regRW 0#64 0xFFFFFFFFFFFFFFFF#64), (0x58, 8, regW1C 0x3FF#64), (0x100, 0x100, regRW 0#64 0xFFFFFFFFFFFFFFFF#64),
    (0x200, 0x30, regCtr)]

/-- The module power block (R620). -/
def modPwrSpec (o : Nat) : Option RegSpec :=
  if within 0x100 0x440 o then some (if o % 16 < 8 then roReg else { regW1C 1#64 with rw := 2#64 })
  else specIn [(0, 8, regRO 0x145000000000#64), (8, 8, regW1C 0x1FFF#64), (0x10, 0x20, roReg), (0x800, 0x18, regCtr)] o

/-- The module-global block (R39). -/
def globSpec (o : Nat) : Option RegSpec :=
  if o < 0x10000 then
    specIn [(0, 0x28, roReg), (0x40, 8, regW1C 0x1F#64), (0x48, 8, roReg), (0x1000, 0x300, roReg), (0x1400, 0x340, roReg)] o
  else if o < 0x20000 then specIn mbSpecs (o % 0x8000)
  else if o < 0x30000 then hifSpec (o - 0x20000)
  else if within 0x100000 0x41000 o then specIn dbSpecs (o % 0x1000)
  else if within 0x200000 0x10 o then some roReg
  else if within 0x201000 0xC00 o then specIn tqSpecs ((o - 0x201000) % 0x20)
  else if within 0x300000 0x2000 o then specIn tailSpecs (o % 0x400)
  else if within 0x400000 0x10000 o then modPwrSpec (o - 0x400000)
  else none

/-- An engine's block (R243, R424, R636). -/
def engSpecs : List (Nat × Nat × RegSpec) :=
  [(0x800, 8, regRW 0#64 0xF#64), (0x810, 8, regRW 0x100#64 0x13F#64), (0x820, 8, roReg)]

/-- The die-cache block (R366). -/
def dcSpecs : List (Nat × Nat × RegSpec) :=
  [(0, 8, regRW 1#64 1#64), (8, 8, regRW 0#64 0xF0F#64), (0x10, 8, regRW 0x88888888#64 0xFFFFFFFF#64),
    (0x18, 8, regW1C 0xC000000000000000#64), (0x100, 0x100, regRW 0xFFFFFFFFFFFFFFFF#64 0xFFFFFFFFFFFFFFFF#64),
    (0x200, 0x100, ⟨0#64, 0#64, 0#64, 0xFFFF#64, false⟩), (0x300, 0x80, roReg), (0x1000, 0x800, regCtr)]

/-- An HBM controller's block (R384). -/
def hfeSpec (o : Nat) : Option RegSpec :=
  if within 0x10000 0x1000 o then (if o % 0x40 < 0x38 then some regCtr else none)
  else specIn [(0, 8, roReg), (8, 8, regW1C 0x8000000000000000#64)] o

/-- A port's block (R497, R504). -/
def portSpec (o : Nat) : Option RegSpec :=
  if within 0x400 0x240 o then specIn [(0, 0x10, roReg), (0x10, 0x20, regCtr)] (o % 0x40)
  else specIn [(0, 8, regRW 2#64 3#64), (8, 8, roReg), (0x10, 8, regW1C 0xFF#64), (0x18, 8, regRW vcbufReset 0xFFFFFFFFFFFFFFF#64),
    (0x100, 0x78, regCtr), (0x8000, 0x1000, ⟨0#64, 0xA00000009F9F9F9F#64, 0x4000000000000000#64, 0#64, false⟩)] o

/-- The blocks of a die that have one instance: DMA and gatherer (R320, R551), ingest (R551), power (R619), Viaduct (R583). -/
def unitSpecs : List (Nat × Nat × RegSpec) :=
  [(0x900100, 0x28, regCtr), (0x980000, 8, regRW 0#64 1#64), (0x980008, 8, regRW 0#64 0xFFFFFFFFF000#64), (0x980010, 8, roReg),
    (0x980100, 0x40, regCtr), (0xA00100, 0x48, regCtr), (0xB00000, 8, roReg), (0xB00008, 8, regRW 0#64 0xF#64),
    (0xB00010, 8, regRW 30#64 0xFF#64), (0xB00018, 8, roReg), (0xB00100, 0x28, roReg), (0xB00200, 0x28, regCtr),
    (0xC00000, 8, regRW 0x408100408#64 0xFFFFFFFFFF#64), (0xC00010, 8, roReg), (0xC00100, 0x20, regCtr)]

/-- A perturbation entry's registers (R591, R592). -/
def pertSpecs : List (Nat × Nat × RegSpec) :=
  [(0, 8, ⟨0#64, 0x80000000000FFFFF#64, 0x4000000000000000#64, 0#64, false⟩), (8, 8, regRW 0#64 0xFFFFFF#64),
    (0x10, 8, regRW 0#64 0xFFFFFFFF#64), (0x18, 8, regCtr)]

/-- A die block (R40); the blocks of the Span ends and of the die supervisor have no registers. -/
def dieSpec (o : Nat) : Option RegSpec :=
  if o < 0x340000 then specIn engSpecs (o % 0x20000)
  else if within 0x400000 0x200000 o then specIn dcSpecs (o - 0x400000)
  else if within 0x600000 0x180000 o then hfeSpec (o % 0x40000)
  else if within 0x800000 0x80000 o then portSpec (o % 0x10000)
  else if within 0xF01000 0x400 o then specIn pertSpecs (o % 0x20)
  else specIn unitSpecs o

/-- The fields of the register at an offset that is a multiple of 8; none for a reserved offset (R42). -/
def barSpec (off : Nat) : Option RegSpec :=
  if off < 0x1000000 then globSpec off
  else if off < 0x5000000 then dieSpec (off % 0x1000000)
  else none

/-! Reads. -/

/-- Registers of the module-global block that the register store does not hold. -/
def globView (a : Anat) (w : World) (o : Nat) : Option W64 :=
  if o = 0 then some (idModule a)
  else if within 8 0x10 o then some (wordAt (partNumber a) (o / 8 - 1))
  else if within 0x18 0x10 o then some (wordAt (Config.serial.take 16) (o / 8 - 3))
  else if within 0x1000 0x300 o then some (remapWord a ((o - 0x1000) / 8))
  else if within 0x1400 0x340 o then some (physWord a ((o - 0x1400) / 8))
  else if o = 0x200000 then some (w64 w.places.ctBase)
  else if o = 0x200008 then some (w64 w.places.kdtBase)
  else if within 0x201000 0xC00 o then
    let q := w.log ((o - 0x201000) / 0x20)
    if o % 0x20 = 0 then some q.base
    else if o % 0x20 = 8 then some q.cfg
    else if o % 0x20 = 0x10 then some (packW [(16, q.tail.toNat), (0, q.head.toNat)])
    else none
  else if within 0x300000 0x2000 o then
    let t := w.tail ((o - 0x300000) / 0x400)
    if o % 0x400 = 0x38 then some (tailUsed t)
    else if o % 0x400 = 0x48 then some (tailStat t)
    else if o % 0x400 = 0x50 then some t.step
    else none
  else none

/-- Registers of die d's block that the register store does not hold. -/
def dieView (w : World) (d o : Nat) : Option W64 :=
  if o < 0x340000 then
    (if o % 0x20000 = 0x800 then some (leaseReg w (26 * d + o / 0x20000)) else none)
  else if within 0x400300 0x80 o then some (w64 (partLines w d ((o - 0x400300) / 8)))
  else if within 0x600000 0x180000 o then
    (if o % 0x40000 = 0 then some (hfeStat w (6 * d + (o - 0x600000) / 0x40000)) else none)
  else if within 0x800000 0x80000 o then
    let p := 8 * d + (o - 0x800000) / 0x10000
    let r := o % 0x10000
    if r = 8 then some (lnkStat w p)
    else if within 0x400 0x240 r then
      let lane := (r - 0x400) / 0x40
      if r % 0x40 = 0 then some (laneStat (w.port p).rx lane)
      else if r % 0x40 = 8 then some (laneStat (w.port p).tx lane)
      else none
    else none
  else if o = 0x980010 then some (bgStat w d)
  else if o = 0xB00000 then some (pwrOp w d)
  else none

/-- The value of the register at an offset that is a multiple of 8; reserved offsets read as zero (R9, R42), and so does
the perturbation block while it is locked. -/
def barView (a : Anat) (w : World) (off : Nat) : W64 :=
  let d := off / 0x1000000 - 1
  if 0x1000000 ≤ off ∧ 0xF00000 ≤ off % 0x1000000 ∧ !w.host.unlocked then 0#64
  else
    match (if off < 0x1000000 then globView a w off else if off < 0x5000000 then dieView w d (off % 0x1000000) else none) with
    | some v => v
    | none =>
      match barSpec off with
      | some r => w.reg off r.reset
      | none => 0#64

/-- The size and alignment that BAR0 accepts (R41). -/
def barAligned (off n : Nat) : Bool := (decide (n = 4) || decide (n = 8)) && decide (off % n = 0)

/-- A bit of `BAR0_ERR` sets (R45). -/
def barErr (w : World) (b : Nat) : World := w.setReg 0x40 (setBit (w.reg 0x40 0#64) b true)

/-- The die whose block holds an offset. -/
def barDie (off : Nat) : Option Nat := if 0x1000000 ≤ off ∧ off < 0x5000000 then some (off / 0x1000000 - 1) else none

/-- The offset lies in the mailbox window of another requester (R668). -/
def barOther (s : RegSrc) (off : Nat) : Bool :=
  match s with
  | .host => within 0x18000 0x8000 off
  | .engine _ => within 0x10000 0x8000 off

/-- The die of the block that an access reaches, where that die is lost or held in reset (R43). -/
def barAbsent (a : Anat) (off : Nat) : Option Nat := (barDie off).filter (fun d => !dieRuns a (26 * d))

/-- The bytes of a register that an access names. -/
def barPart (v : W64) (off n : Nat) : W64 := (v >>> (8 * (off % 8))) &&& ones 64 0 (8 * n)

/-- A read of n bytes at a BAR0 offset. -/
def bar0Read (a : Anat) (w : World) (s : RegSrc) (off n : Nat) : W64 × World :=
  if !barAligned off n then (0#64, barErr w 4)
  else
    match barAbsent a off with
    | some d => (ones 64 0 (8 * n), barErr w d)
    | none => (if barOther s off then 0#64 else barPart (barView a w (off / 8 * 8)) off n, w)

/-- What a write of n bytes gives a register of 64 bits: RW fields outside those bytes keep their value, and no other field
outside them is touched. DEDUCED (log 88). -/
def barMerge (r : RegSpec) (old v : W64) (off n : Nat) : W64 :=
  let m := ones 64 (8 * (off % 8)) (8 * n)
  ((v <<< (8 * (off % 8))) &&& m) ||| (old &&& r.rw &&& ~~~ m)

end Sys2Proof.Machine
end

