-- ==== Sys2Proof/Machine/Ops.lean ====
section
/-!
DEFINITION. The engine's accesses to memory, by which every instruction reads and writes it: places of R47,
loads with the engine's own pending stores and W lines before them (R396, R403), stores into the store buffer
(R141, R727), and performing a store (R395).
-/

namespace Sys2Proof.Machine

/-- What a global address names for an engine of this module. -/
inductive Place where
  | hbm (off : Nat)
  | regs (off : Nat)
  | host (iova : Nat)
  | reserved
  | remote
deriving DecidableEq, Repr

def placeOf (w : World) (ga : W64) : Place :=
  match localOff w ga with
  | none => .remote
  | some o =>
    match region o with
    | .hbm => .hbm o
    | .regs => .regs (o - 0xF00000000000)
    | .host => .host (o - 0x800000000000)
    | .reserved => .reserved

/-- The function whose requester ID an engine's host accesses use in a context (R438). DEDUCED (log 94). -/
def Engine.hostFn (x : Engine) (ctx : Nat) : Nat := if ctx = 0 || x.who.oper then 0 else 1 + x.who.id

/-! Pending stores. -/

/-- Stores of the engine that are not performed yet, oldest first. -/
def Engine.pendingStores (x : Engine) : List SbEntry := x.sb ++ (x.tq.map (fun t => t.held)).flatten

/-- The memory with a pending store applied, where it lies in this module's HBM. -/
def withStore (w : World) (m : Memory) (s : SbEntry) : Memory :=
  match s.atom, localOff w s.ga with
  | none, some o => if region o = .hbm then storeMem w.ks w.places s.kdom w.freeCtr s.tag m (atOff o s.data) else m
  | _, _ => m

/-- A W line's bytes and tags written over the memory (R403). -/
def withW (w : World) (m : Memory) (l : WLine) : Memory :=
  match localOff w l.ga with
  | some o =>
    let m1 := wrBytes w.ks l.kdom w.freeCtr m (atOff o (offsets l.data))
    (List.range 16).foldl (fun mm i =>
      if inTagged w.places (o + 8 * i) then setTag w.ks w.places w.freeCtr mm (o + 8 * i) (l.tags.getD i 0#4) else mm) m1
  | none => m

/-- Whether a store's bytes touch n bytes at a global address. -/
def SbEntry.touches (s : SbEntry) (ga : W64) (n : Nat) : Bool :=
  s.data.any (fun b => decide (((s.ga + w64 b.1) - ga).toNat < n))

/-- Memory as the engine's own loads of n bytes at `ga` see it (R396, R403). -/
def viewMem (w : World) (x : Engine) (ga : W64) (n : Nat) : Memory :=
  let near := (ga >>> 3) <<< 3
  let m1 := (x.pendingStores.filter (fun s => s.touches near (n + 7))).foldl (withStore w) w.mem
  if x.speculating then
    (x.spec.wl.filter (fun l => decide ((ga - l.ga).toNat < 128) || decide ((l.ga - ga).toNat < n))).foldl (withW w) m1
  else m1

/-! Loads. -/

/-- What a load finds: its bytes, the tag of the word where the page counts as tagged (else RAW), and
whether it does. -/
structure Loaded where
  bytes : List Byte
  tag : Tag
  tagged : Bool
deriving DecidableEq, Repr

/-- How a load is made. -/
structure LoadKind where
  cls : Nat
  last : Bool
  /-- reads the target and never an N copy (R399) -/
  acq : Bool
  /-- the instruction may access side-effect pages -/
  seOk : Bool
deriving DecidableEq, Repr

def scalarLoad : LoadKind := ⟨0, false, false, true⟩

/-- The bytes of a line or block at a global address of another node: from an N line, from what has arrived, or
by a read that the instruction waits for (R339, R399, R499). DEDUCED (log 95). -/
def remoteBytes (t : TlbEntry) (ga : W64) (n : Nat) (va : W64) (k : LoadKind) : EM (List Byte) := do
  let env ← read
  let x ← getE
  let cached := !t.se && !k.acq
  let base : W64 := if cached then (ga >>> 7) <<< 7 else ga
  let len := if cached then 128 else n
  let cut (l : List Byte) : List Byte := (l.drop (ga - base).toNat).take n
  let nl := if cached then x.nlines.find? (fun l => decide (l.ga = base) && decide (l.kdom = t.kdom)) else none
  match nl with
  | some l => return cut l.bytes
  | none =>
    match x.rbuf.find? (fun l => decide (l.ga = base) && decide (l.kdom = t.kdom) && decide (len ≤ l.bytes.length)) with
    | some l => do
      if cached then
        modify (fun w => nFill w env.e ⟨lineOf w base, k.cls, t.tcls, t.kdom, false, false, none, 0⟩ ⟨base, t.kdom, l.bytes⟩)
      return cut l.bytes
    | none =>
      match x.rerr with
      | some s => accessErr s va
      | none => do
        let w ← get
        let req := txnOf 1 t.kdom (fld base 48 12) (fld base 0 48) len
        match sendTxn w (env.e / 26) req (.load env.e base) with
        | (.error s, w1) => do set w1; accessErr s va
        | (.ok tid, w1) => do
          set (w1.modEng env.e (fun y => { y with wait := .resp tid }))
          throw .wait

/-- The bytes of host memory (R438, R439): an N line, or a read through PCIe, whose answer is the host's.
DEDUCED (log 93). -/
def hostBytes (t : TlbEntry) (ga : W64) (n : Nat) (va : W64) (k : LoadKind) : EM (List Byte) := do
  let env ← read
  let x ← getE
  let cached := !t.se && !k.acq
  let base : W64 := if cached then (ga >>> 7) <<< 7 else ga
  let len := if cached then 128 else n
  let cut (l : List Byte) : List Byte := (l.drop (ga - base).toNat).take n
  let nl := if cached then x.nlines.find? (fun l => decide (l.ga = base) && decide (l.kdom = t.kdom)) else none
  match nl with
  | some l => return cut l.bytes
  | none => do
    let w ← get
    if !w.pcieUp then accessErr 4#8 va
    let u ← freshM
    modify (fun v => v.emit (.hostRead (x.hostFn t.ctx) (fld base 0 48 - 0x800000000000) len))
    match Config.hostStatus u % 4 with
    | 1 => accessErr 2#8 va
    | 2 => accessErr 4#8 va
    | 3 => accessErr 6#8 va
    | _ => do
      let bs := (List.range len).map (Config.hostByte u)
      if cached then
        modify (fun v => nFill v env.e ⟨lineOf v base, k.cls, t.tcls, t.kdom, false, false, none, 0⟩ ⟨base, t.kdom, bs⟩)
      return cut bs

/-- A pending store's bytes laid over bytes read at a global address. -/
def overlayBytes (x : Engine) (ga : W64) (l : List Byte) : List Byte :=
  let put (acc : List Byte) (a : W64) (b : Byte) : List Byte :=
    let i := (a - ga).toNat
    if i < l.length then acc.set i b else acc
  let l1 := x.pendingStores.foldl (fun acc s =>
    if s.atom.isSome then acc else s.data.foldl (fun acc2 b => put acc2 (s.ga + w64 b.1) b.2) acc) l
  if x.speculating then
    x.spec.wl.foldl (fun acc wl => (offsets wl.data).foldl (fun acc2 b => put acc2 (wl.ga + w64 b.1) b.2) acc) l1
  else l1

/-- Records the demand access of a load in the caches (R351, R352, R386). -/
def touchLoad (t : TlbEntry) (ga va : W64) (k : LoadKind) : EM Unit := do
  let env ← read
  let w ← get
  if t.se then pure ()
  else
    let x := w.eng env.e
    set (touchRead w ⟨env.e, va.toNat, t.ctx, x.core.pl, lineOf w ga, t.kdom, k.cls, t.tcls, false, k.last⟩)

/-- Reads n bytes, in one line, through a leaf that translates `va`: the checks of R113 after translation, and
the value as the engine sees it. DEDUCED (log 95). -/
def loadVia (t : TlbEntry) (va : W64) (n : Nat) (k : LoadKind) : EM Loaded := do
  let env ← read
  let x ← getE
  let ga := t.ga va.toNat
  let w ← get
  if t.se then
    if !k.seOk then priv 2#8 va
    parkIf 3 va
    modE (fun y => y.commitAll)
  if x.pendingStores.any (fun s => (s.atom.isSome && s.touches ga n) || (s.se && t.se)) then throw .wait
  match placeOf w ga with
  | .reserved => accessErr 1#8 va
  | .regs off => do
    if x.core.pl ≠ 0#2 || !t.se then priv 2#8 va
    let r := bar0Read env.anat w (.engine env.e) off n
    set r.2
    return ⟨leBytes n r.1.toNat, 0#4, false⟩
  | .hbm off =>
    match hbmStatus env.anat w off with
    | some s => accessErr s va
    | none => do
      let m := viewMem w x ga n
      match poisonIn m w.ks w.places off n with
      | some s => dataErr s ((va >>> 3) <<< 3)
      | none => do
        touchLoad t ga va k
        let tg := t.tagged w
        return ⟨rdBytes m w.ks t.kdom off n, if tg then tagAt m w.ks w.places off else 0#4, tg⟩
  | .host _ => do
    let b ← hostBytes t ga n va k
    touchLoad t ga va k
    return ⟨overlayBytes x ga b, 0#4, false⟩
  | .remote => do
    let b ← remoteBytes t ga n va k
    touchLoad t ga va k
    return ⟨overlayBytes x ga b, 0#4, false⟩

/-- A scalar load of n bytes at a device virtual address. -/
def loadMem (va : W64) (n : Nat) (k : LoadKind) : EM Loaded := do
  if fld va 0 3 % n ≠ 0 then alignFault va
  let t ← translate va .load
  loadVia t va n k

/-- The tag of the word at an address as `gtag` reads it: a POISON word is not consumed, and only an access
that cannot be completed faults (R63). -/
def tagOfWord (va : W64) : EM Tag := do
  if fld va 0 3 ≠ 0 then alignFault va
  let t ← translate va .load
  let env ← read
  let x ← getE
  let w ← get
  let ga := t.ga va.toNat
  match placeOf w ga with
  | .hbm off =>
    if t.se || (hbmStatus env.anat w off).isSome then return (← loadVia t va 8 scalarLoad).tag
    else do
      touchLoad t ga va scalarLoad
      return if t.tagged w then tagAt (viewMem w x ga 8) w.ks w.places off else 0#4
  | _ => return (← loadVia t va 8 scalarLoad).tag

/-! Stores. -/

/-- Free entries of the store buffer, of 32 (R93). The blocks of one vector or tile instruction enter together. -/
def Engine.sbRoom (x : Engine) : Nat := 32 - x.pendingStores.length

/-- A store retires into the store buffer, or is held behind the tile instructions in flight (R141, R214). -/
def Engine.pushStore (x : Engine) (s : SbEntry) : Engine :=
  if x.tq.isEmpty then { x with sb := x.sb ++ [s] }
  else { x with tq := lmod x.tq (x.tq.length - 1) (fun t => { t with held := t.held ++ [s] }) }

/-- A store entry; the instruction waits while the store buffer is full. -/
def pushStoreM (s : SbEntry) : EM Unit := do
  let x ← getE
  if x.sbRoom = 0 then throw .wait
  modE (fun y => y.pushStore s)

/-- The whole line at a global address as the engine reads it, for a W copy (R403). -/
def lineCopy (t : TlbEntry) (va : W64) (k : LoadKind) : EM (List Byte × List Tag) := do
  let w ← get
  let x ← getE
  let ga := (t.ga va.toNat >>> 7) <<< 7
  match placeOf w ga with
  | .hbm off =>
    let m := viewMem w x ga 128
    return (rdBytes m w.ks t.kdom off 128,
      (List.range 16).map (fun i => if inTagged w.places (off + 8 * i) then tagAt m w.ks w.places (off + 8 * i) else 0#4))
  | .host _ => do return (← hostBytes t ga 128 va k, List.replicate 16 0#4)
  | _ => do return (← remoteBytes t ga 128 va k, List.replicate 16 0#4)

/-- Takes a way of class 5 for a W line (R343, R403), or parks. -/
def takeSpecWay (t : TlbEntry) (va : W64) : EM Unit := do
  let env ← read
  let w ← get
  let x := w.eng env.e
  let line := lineOf w (t.ga va.toNat)
  match pickWay (waysOf (x.ecMask 5)) (sgetD x.ec (ecSet line) []) (classPri (x.core.sysGet 0x343)) with
  | none => throw (.park 4 va)
  | some (i, aged) =>
    let w1 := w.modEng env.e (fun y => { y with ec := sset y.ec (ecSet line) aged })
    let w2 := match aged.find? (fun c => decide (c.way = i)) with
      | some c => ecDrop w1 env.e c
      | none => w1
    let c : CLine := { line := line, way := i, st := .w, cls := 5, part := x.part, tcls := t.tcls, reuse := 1, dead := false
                       busy := false, kdom := t.kdom, pf := 0 }
    set (w2.modEng env.e (fun y => { y with ec := smod y.ec (ecSet line) [] (fun l => c :: l) }))

/-- Bytes and tags written into a W line: `l` holds offsets within the line. -/
def WLine.write (wl : WLine) (l : List (Nat × Byte)) (act : TagAct) : WLine :=
  let d := l.foldl (fun acc b => acc.set b.1 b.2) wl.data
  let m := l.foldl (fun acc b => setBit acc b.1 true) wl.mask
  (blocks l 8).foldl (fun v o =>
    let old := v.tags.getD (o / 8) 0#4
    let new := tagAfter act old (covered l o 8)
    { v with tags := v.tags.set (o / 8) new, tset := if covered l o 8 = 8 ∨ new ≠ old then setBit v.tset (o / 8) true else v.tset })
    { wl with data := d, mask := m }

/-- A speculative store (R403): the W line is made where there is none, and takes the bytes. -/
def specStore (t : TlbEntry) (va : W64) (bytes : List (Nat × Byte)) (act : TagAct) (k : LoadKind) : EM Unit := do
  let x ← getE
  let ga := t.ga va.toNat
  let base := (ga >>> 7) <<< 7
  let at' := bytes.map (fun b => ((ga - base).toNat + b.1, b.2))
  match x.spec.wl.find? (fun l => decide (l.ga = base)) with
  | some _ => modE (fun y => { y with spec := { y.spec with wl := y.spec.wl.map (fun l => if l.ga = base then l.write at' act else l) } })
  | none => do
    let c ← lineCopy t va k
    takeSpecWay t va
    let wl : WLine := { ga := base, kdom := t.kdom, va := (va >>> 7) <<< 7, fn := x.hostFn t.ctx, data := c.1, mask := 0#128, tags := c.2, tset := 0#16 }
    modE (fun y => { y with spec := { y.spec with wl := wl.write at' act :: y.spec.wl } })

/-- What the store buffer takes for bytes stored through a leaf. -/
def storeEntry (x : Engine) (t : TlbEntry) (va : W64) (bytes : List (Nat × Byte)) (act : TagAct) (size cls : Nat)
    (rel : Bool) : SbEntry :=
  { va := va, ga := t.ga va.toNat, kdom := t.kdom, data := bytes, tag := act, pl := x.core.pl, size := size, rel := rel
    se := t.se, cls := cls, tcls := t.tcls, fn := x.hostFn t.ctx, atom := none, sent := none }

/-- A scalar store of n bytes with a tag (R66, R83, R141, R727). -/
def storeMemE (va : W64) (n : Nat) (v : W64) (tag : Tag) (rel : Bool) : EM Unit := do
  if fld va 0 3 % n ≠ 0 then alignFault va
  let t ← translate va .store
  let env ← read
  let x ← getE
  let w ← get
  if t.se then parkIf 3 va
  let ga := t.ga va.toNat
  let tg := t.tagged w
  let bytes := offsets (leBytes n v.toNat)
  let sealed' := decide (tag = 5#4) || decide (tag = 6#4) || decide (tag = 7#4)
  let size := if n = 8 then 3 else if n = 4 then 2 else if n = 2 then 1 else 0
  match placeOf w ga with
  | .reserved => accessErr 1#8 va
  | .regs _ => do
    if x.core.pl ≠ 0#2 || !t.se then priv 2#8 va
    if sealed' && n = 8 then tagFault va
    pushStoreM (storeEntry x t va bytes .whole size 0 rel)
  | .hbm off =>
    match hbmStatus env.anat w off with
    | some s => accessErr s va
    | none => do
      if sealed' && !tg && n = 8 then tagFault va
      let old := tagAt (viewMem w x ga n) w.ks w.places off
      if tg && decide (n < 8) && decide (old ≠ 0#4) && decide (old ≠ 1#4) then tagFault va
      let act : TagAct := if tg then .set tag else .whole
      if x.speculating then specStore t va bytes act scalarLoad
      else pushStoreM (storeEntry x t va bytes act size 0 rel)
  | _ => do
    if sealed' && n = 8 then tagFault va
    if x.speculating then specStore t va bytes .whole scalarLoad
    else pushStoreM (storeEntry x t va bytes .whole size 0 rel)

/-! Performing a store. -/

/-- An error response to a retired store (R141, R142): an entry of the `LATE_ERR` queue, or the overflow. -/
def Engine.lateError (x : Engine) (va : W64) (pl : BitVec 2) (size : Nat) (status : Byte) : Engine :=
  if x.lateErr.length < 8 then { x with lateErr := x.lateErr ++ [⟨va, status, pl, BitVec.ofNat 4 size⟩] }
  else ({ x with core := x.core.sysSet 0x220 (setBit (x.core.sysGet 0x220) 15 true) }).count 0x221 1

/-- A store updates the engine's own N copy of its line (R339). DEDUCED (log 95). -/
def Engine.updateN (x : Engine) (ga : W64) (data : List (Nat × Byte)) : Engine :=
  { x with nlines := x.nlines.map (fun l =>
      { l with bytes := data.foldl (fun acc b =>
          let i := (ga + w64 b.1 - l.ga).toNat
          if i < 128 then acc.set i b.2 else acc) l.bytes }) }

/-- The first position of a list that holds a value meeting a test is removed. -/
def dropAt {α : Type} : List α → Nat → List α
  | [], _ => []
  | _ :: r, 0 => r
  | x :: r, k + 1 => x :: dropAt r k

/-- The byte mask and the 64 bytes of a block store (R186, R493). -/
def blockMask (l : List (Nat × Byte)) : W64 := l.foldl (fun acc b => setBit acc b.1 true) 0#64

def blockBytes (l : List (Nat × Byte)) : List Byte := l.foldl (fun acc b => acc.set b.1 b.2) (List.replicate 64 0#8)

/-- The transaction that carries a store to another node (R493): WR, or WRM for a block. -/
def storeTxn (s : SbEntry) : Txn :=
  let n := 2 ^ s.size
  if s.size = 6 then
    let base := (s.ga >>> 6) <<< 6
    let l := s.data.map (fun b => ((s.ga + w64 b.1 - base).toNat, b.2))
    { txnOf 3 s.kdom (fld s.ga 48 12) (fld base 0 48) 64 with mask := blockMask l, data := blockBytes l }
  else { txnOf 2 s.kdom (fld s.ga 48 12) (fld s.ga 0 48) n with data := s.data.map (fun b => b.2) }

end Sys2Proof.Machine
end

