-- ==== Sys2Proof/Machine/Fp.lean ====
section
/-!
DEFINITION. Number formats and rounding (chapter 06): encodings (R252 to R258), rounding (R267 to R271),
and the exact operations from which every floating-point unit's results are rounded once.
-/

namespace Sys2Proof.Machine

/-- What the encodings with an all-ones exponent stand for (R253): infinity and NaNs; a single NaN with
fraction all ones; ordinary numbers. -/
inductive Special where
  | ieee | oneNan | noneSp
deriving DecidableEq, Repr

/-- A floating-point format (R253): exponent and fraction bits, bias, specials, and whether a finite
value beyond its range saturates (R269). -/
structure Fmt where
  eb : Nat
  fb : Nat
  bias : Nat
  sp : Special
  sat : Bool
deriving DecidableEq, Repr

def fmt64 : Fmt := ⟨11, 52, 1023, .ieee, false⟩
def fmt32 : Fmt := ⟨8, 23, 127, .ieee, false⟩
def fmt16 : Fmt := ⟨5, 10, 15, .ieee, false⟩
def fmtBf16 : Fmt := ⟨8, 7, 127, .ieee, false⟩
def fmtE4M3 : Fmt := ⟨4, 3, 7, .oneNan, true⟩
def fmtE5M2 : Fmt := ⟨5, 2, 15, .ieee, true⟩
def fmtE3M2 : Fmt := ⟨3, 2, 3, .noneSp, true⟩
def fmtE2M3 : Fmt := ⟨2, 3, 1, .noneSp, true⟩
def fmtE2M1 : Fmt := ⟨2, 1, 1, .noneSp, true⟩
def fmtW48 : Fmt := ⟨11, 36, 1023, .ieee, false⟩

/-- A value: a NaN (signalling or quiet), an infinity, or (−1)^neg × m × 2^e. -/
inductive FVal where
  | nan (sig : Bool)
  | inf (neg : Bool)
  | fin (neg : Bool) (m : Nat) (e : Int)
deriving DecidableEq, Repr

/-- The flags of R271. -/
structure FFlags where
  nv : Bool
  dz : Bool
  ovf : Bool
  uf : Bool
  nx : Bool
deriving DecidableEq, Repr

def FFlags.none : FFlags := ⟨false, false, false, false, false⟩
def FFlags.inval : FFlags := ⟨true, false, false, false, false⟩

def FFlags.or (a b : FFlags) : FFlags :=
  ⟨a.nv || b.nv, a.dz || b.dz, a.ovf || b.ovf, a.uf || b.uf, a.nx || b.nx⟩

/-- The flags as bits [8:4] of `FCSR` and `VFSR` (R104, R155). -/
def FFlags.bits (f : FFlags) : W64 :=
  packW [(8, f.nv.toNat), (7, f.dz.toNat), (6, f.ovf.toNat), (5, f.uf.toNat), (4, f.nx.toNat)]

/-- Rounding modes (R267, R268); `up` rounds a magnitude away from zero (R208). -/
inductive RMode where
  | near | zero | stoch (r : BitVec 32) | up
deriving DecidableEq, Repr

/-- The value of an encoding (R254, R255). -/
def decodeF (f : Fmt) (x : Nat) : FVal :=
  let fr := x % 2 ^ f.fb
  let ex := x / 2 ^ f.fb % 2 ^ f.eb
  let neg := x / 2 ^ (f.fb + f.eb) % 2 = 1
  let num := if ex = 0 then FVal.fin neg fr (1 - f.bias - f.fb)
    else FVal.fin neg (fr + 2 ^ f.fb) ((ex : Int) - f.bias - f.fb)
  if ex = 2 ^ f.eb - 1 then
    match f.sp with
    | .ieee => if fr = 0 then .inf neg else .nan (fr < 2 ^ (f.fb - 1))
    | .oneNan => if fr = 2 ^ f.fb - 1 then .nan false else num
    | .noneSp => num
  else num

/-- The largest finite magnitude's encoding without its sign. -/
def maxMag (f : Fmt) : Nat :=
  match f.sp with
  | .ieee => 2 ^ (f.eb + f.fb) - 2 ^ f.fb - 1
  | .oneNan => 2 ^ (f.eb + f.fb) - 2
  | .noneSp => 2 ^ (f.eb + f.fb) - 1

/-- The sign bit of a format. -/
def signMag (f : Fmt) (neg : Bool) : Nat := neg.toNat * 2 ^ (f.eb + f.fb)

/-- The canonical NaN (R270), or what a NaN becomes in a format without one (R269). -/
def canonNan (f : Fmt) : Nat :=
  match f.sp with
  | .ieee => if f.fb = 2 then 0x7E else 2 ^ (f.eb + f.fb) - 2 ^ (f.fb - 1)
  | .oneNan => 2 ^ (f.eb + f.fb) - 1
  | .noneSp => 0

/-- The bits of a number. -/
def bitLen (m : Nat) : Nat := if m = 0 then 0 else Nat.log2 m + 1

/-- Rounds (m + δ) × 2^e once, where δ is 0, or with `sticky` some value strictly between 0 and 1
(R267 to R269, R271). -/
def roundF (f : Fmt) (md : RMode) (neg : Bool) (m : Nat) (e : Int) (sticky : Bool) : Nat × FFlags :=
  if m = 0 && !sticky then (signMag f neg, FFlags.none)
  else
    -- make room, so that every bit below the last place is seen
    let m := m * 2 ^ (f.fb + 40)
    let e := e - (f.fb + 40)
    let emin : Int := 1 - f.bias
    let ex : Int := (bitLen m : Int) - 1 + e
    let q : Int := max ex emin - f.fb
    let sh := (q - e).toNat
    let n := m / 2 ^ sh
    let rem := m % 2 ^ sh
    let inexact := rem ≠ 0 || sticky
    let half := 2 ^ sh / 2
    let nearUp := decide (rem > half) || (decide (rem = half) && decide (sh ≠ 0) && (sticky || decide (n % 2 = 1)))
    let base := ((q - (emin - f.fb)).toNat) * 2 ^ f.fb
    let tooBig := decide (base + n > maxMag f) || (decide (base + n = maxMag f) && inexact)
    let up := match md with
      | .near => nearUp
      | .zero => false
      | .up => inexact
      | .stoch r => if tooBig then nearUp else decide (r.toNat < rem * 2 ^ 32 / 2 ^ sh)
    let p := base + n + up.toNat
    let tiny := decide (ex < emin)
    if p > maxMag f then
      let r := if f.sat then maxMag f
        else match md with
          | .zero => maxMag f
          | _ => maxMag f + 1
      (signMag f neg + r, ⟨false, false, true, false, true⟩)
    else (signMag f neg + p, ⟨false, false, false, tiny && inexact, inexact⟩)

/-- Rounds a value into a format (R269 to R271). -/
def encodeF (f : Fmt) (md : RMode) (x : FVal) : Nat × FFlags :=
  match x with
  | .nan sig => (canonNan f, if sig || f.sp = .noneSp then FFlags.inval else FFlags.none)
  | .inf neg =>
    match f.sp with
    | .ieee => (signMag f neg + (2 ^ (f.eb + f.fb) - 2 ^ f.fb), FFlags.none)
    | _ => (signMag f neg + maxMag f, FFlags.inval)
  | .fin neg m e => roundF f md neg m e false

/-- An exact result before rounding: a value, whether it lies a little above it in magnitude, and the
flags raised by the operation itself. -/
structure Exact where
  v : FVal
  sticky : Bool
  fl : FFlags
deriving DecidableEq, Repr

def exact (v : FVal) : Exact := ⟨v, false, FFlags.none⟩
def invalid : Exact := ⟨.nan false, false, FFlags.inval⟩

def isSNan : FVal → Bool
  | .nan s => s
  | _ => false

def isNanV : FVal → Bool
  | .nan _ => true
  | _ => false

/-- A NaN operand's result: a quiet NaN, with NV for a signalling one. -/
def nanOf (l : List FVal) : Exact := ⟨.nan false, false, if l.any isSNan then FFlags.inval else FFlags.none⟩

/-- Signed multiple of 2^k. -/
def scaled (neg : Bool) (m : Nat) (e k : Int) : Int :=
  let a : Int := m * 2 ^ (e - k).toNat
  if neg then -a else a

/-- a + b; an exact zero sum of opposite signs is +0. -/
def addF (a b : FVal) : Exact :=
  match a, b with
  | .nan _, _ => nanOf [a, b]
  | _, .nan _ => nanOf [a, b]
  | .inf x, .inf y => if x = y then exact a else invalid
  | .inf _, _ => exact a
  | _, .inf _ => exact b
  | .fin x m e, .fin y n g =>
    let k := min e g
    let t := scaled x m e k + scaled y n g k
    if t = 0 then exact (.fin (m = 0 && n = 0 && x && y) 0 0)
    else exact (.fin (t < 0) t.natAbs k)

def negF : FVal → FVal
  | .nan s => .nan s
  | .inf x => .inf (!x)
  | .fin x m e => .fin (!x) m e

def absF : FVal → FVal
  | .nan s => .nan s
  | .inf _ => .inf false
  | .fin _ m e => .fin false m e

/-- a × b. -/
def mulF (a b : FVal) : Exact :=
  match a, b with
  | .nan _, _ => nanOf [a, b]
  | _, .nan _ => nanOf [a, b]
  | .inf x, .inf y => exact (.inf (x != y))
  | .inf x, .fin y n _ => if n = 0 then invalid else exact (.inf (x != y))
  | .fin x m _, .inf y => if m = 0 then invalid else exact (.inf (x != y))
  | .fin x m e, .fin y n g => exact (.fin (x != y) (m * n) (e + g))

/-- a / b, with enough quotient bits for one rounding. -/
def divF (a b : FVal) : Exact :=
  match a, b with
  | .nan _, _ => nanOf [a, b]
  | _, .nan _ => nanOf [a, b]
  | .inf _, .inf _ => invalid
  | .inf x, .fin y _ _ => exact (.inf (x != y))
  | .fin x _ _, .inf y => exact (.fin (x != y) 0 0)
  | .fin x m e, .fin y n g =>
    if n = 0 then
      if m = 0 then invalid
      else ⟨.inf (x != y), false, ⟨false, true, false, false, false⟩⟩
    else
      let k := 110 + bitLen n
      let q := m * 2 ^ k / n
      ⟨.fin (x != y) q (e - g - k), decide (m * 2 ^ k % n ≠ 0), FFlags.none⟩

/-- Integer square root, bit by bit from bit k − 1 down. -/
def isqrt (x : Nat) : Nat → Nat → Nat
  | 0, r => r
  | k + 1, r =>
    let c := r + 2 ^ k
    if c * c ≤ x then isqrt x k c else isqrt x k r

/-- √a. -/
def sqrtF (a : FVal) : Exact :=
  match a with
  | .nan _ => nanOf [a]
  | .inf x => if x then invalid else exact a
  | .fin x m e =>
    if m = 0 then exact a
    else if x then invalid
    else
      let k := 220 + (e % 2).toNat
      let y := m * 2 ^ k
      let r := isqrt y (bitLen y / 2 + 1) 0
      ⟨.fin false r ((e - k) / 2), decide (r * r ≠ y), FFlags.none⟩

/-- a × b + c, exact. -/
def fmaF (a b c : FVal) : Exact :=
  let p := mulF a b
  match p.v with
  | .nan _ => if p.fl.nv then ⟨.nan false, false, FFlags.inval⟩ else nanOf [a, b, c]
  | v => addF v c

/-- Rounds an exact result into a format. -/
def finish (f : Fmt) (md : RMode) (x : Exact) : Nat × FFlags :=
  match x.v with
  | .fin neg m e => let r := roundF f md neg m e x.sticky; (r.1, x.fl.or r.2)
  | v => let r := encodeF f md v; (r.1, x.fl.or r.2)

/-- Comparison of two values that are not NaN: less, equal. −0 equals +0. -/
def cmpF (a b : FVal) : Ordering :=
  match a, b with
  | .fin x m e, .fin y n g =>
    let k := min e g
    compare (scaled x m e k) (scaled y n g k)
  | .inf x, .inf y => compare y.toNat x.toNat
  | .inf x, _ => if x then .lt else .gt
  | _, .inf y => if y then .gt else .lt
  | _, _ => .eq

/-- minimumNumber (`mx` false) and maximumNumber (`mx` true) of IEEE 754-2019; −0 counts as less than
+0 (R168). -/
def minMaxF (mx : Bool) (a b : FVal) : Exact :=
  let fl := if isSNan a || isSNan b then FFlags.inval else FFlags.none
  match a, b with
  | .nan _, .nan _ => ⟨.nan false, false, fl⟩
  | .nan _, _ => ⟨b, false, fl⟩
  | _, .nan _ => ⟨a, false, fl⟩
  | _, _ =>
    let signOf : FVal → Bool := fun v => match v with
      | .fin x _ _ => x
      | .inf x => x
      | .nan _ => false
    let aLess := match cmpF a b with
      | .lt => true
      | .gt => false
      | .eq => signOf a
    ⟨if aLess != mx then a else b, false, fl⟩

/-- A signed integer as a value. -/
def intF (i : Int) : FVal := .fin (i < 0) i.natAbs 0

/-- A value truncated toward zero, where it is finite. -/
def truncF (m : Nat) (e : Int) : Nat := if e ≥ 0 then m * 2 ^ e.toNat else m / 2 ^ (-e).toNat

/-- Conversion to a signed integer of `w` bits, toward zero, saturating; a NaN gives 0 (R85, R175). -/
def toIntF (w : Nat) (a : FVal) : Int × FFlags :=
  let hi : Int := 2 ^ (w - 1) - 1
  let lo : Int := -(2 ^ (w - 1) : Int)
  match a with
  | .nan _ => (0, FFlags.inval)
  | .inf x => (if x then lo else hi, FFlags.inval)
  | .fin x m e =>
    let t : Int := truncF m e
    let r := if x then -t else t
    if r > hi then (hi, FFlags.inval)
    else if r < lo then (lo, FFlags.inval)
    else (r, ⟨false, false, false, false, decide (e < 0 ∧ m % 2 ^ (-e).toNat ≠ 0)⟩)

/-! Stochastic draws (R273): AES-128 in counter form. -/

/-- The AES S-box of FIPS 197, entry x in bits [8x + 7 : 8x]. -/
def aesSbox : Nat := 
  0x16BB54B00F2D99416842E6BF0D89A18CDF2855CEE9871E9B948ED9691198F8E19E1DC186B95735610EF6034866B53E708A8BBD4B1F74DDE8C6B4A61C2E2578BA08AE7A65EAF4566CA94ED58D6D37C8E779E4959162ACD3C25C2406490A3A32E0DB0B5EDE14B8EE4688902A22DC4F816073195D643D7EA7C41744975FEC130CCDD2F3FF1021DAB6BCF5389D928F40A351A89F3C507F02F94585334D43FBAAEFD0CF584C4A39BECB6A5BB1FC20ED00D153842FE329B3D63B52A05A6E1B1A2C830975B227EBE28012079A059618C323C7041531D871F1E5A534CCF73F362693FDB7C072A49CAFA2D4ADF04759FA7DC982CA76ABD7FE2B670130C56F6BF27B777C63

def aesSub (b : Nat) : Nat := aesSbox / 2 ^ (8 * b) % 256

/-- Multiplication by x in the field of FIPS 197. -/
def aesX (b : Nat) : Nat := if b < 128 then 2 * b else (2 * b) ^^^ 0x11B

/-- One column of MixColumns. -/
def aesMixCol (a b c d : Nat) : List Nat :=
  [xorAll [aesX a, aesX b, b, c, d], xorAll [a, aesX b, aesX c, c, d],
   xorAll [a, b, aesX c, aesX d, d], xorAll [aesX a, a, b, c, aesX d]]

def aesMix : List Nat → List Nat
  | a :: b :: c :: d :: r => aesMixCol a b c d ++ aesMix r
  | _ => []

/-- SubBytes and ShiftRows on the 16 bytes in column order. -/
def aesShift (st : List Nat) : List Nat :=
  [0, 5, 10, 15, 4, 9, 14, 3, 8, 13, 2, 7, 12, 1, 6, 11].map (fun i => aesSub (st.getD i 0))

def xorL (a b : List Nat) : List Nat := List.zipWith (· ^^^ ·) a b

/-- The next round key. -/
def aesNextKey (k : List Nat) (rcon : Nat) : List Nat :=
  let t := [aesSub (k.getD 13 0) ^^^ rcon, aesSub (k.getD 14 0), aesSub (k.getD 15 0), aesSub (k.getD 12 0)]
  let w0 := xorL (k.take 4) t
  let w1 := xorL ((k.drop 4).take 4) w0
  let w2 := xorL ((k.drop 8).take 4) w1
  let w3 := xorL ((k.drop 12).take 4) w2
  w0 ++ w1 ++ w2 ++ w3

/-- Rounds 1 to 10. -/
def aesRounds : List Nat → List Nat → List Nat → List Nat
  | [], st, _ => st
  | rc :: rest, st, k =>
    let k' := aesNextKey k rc
    let s1 := aesShift st
    let s2 := match rest with
      | [] => s1
      | _ => aesMix s1
    aesRounds rest (xorL s2 k') k'

/-- AES-128 encryption of a 16-byte block (FIPS 197). -/
def aes128 (key block : List Nat) : List Nat :=
  aesRounds [1, 2, 4, 8, 16, 32, 64, 128, 27, 54] (xorL block key) key

/-- The n low bytes of a number, least significant first, as numbers. -/
def natBytes : Nat → Nat → List Nat
  | 0, _ => []
  | n + 1, x => x % 256 :: natBytes n (x / 256)

/-- Draw d of a stream at a step under a seed (R273). -/
def rngDraw (seed step stream d : Nat) : BitVec 32 :=
  let c := step * 2 ^ 64 + stream * 2 ^ 52 + (d - d % 4)
  let k := seed * 2 ^ 64 + seed
  let y := aes128 (natBytes 16 k) (natBytes 16 c)
  let j := 4 * (d % 4)
  BitVec.ofNat 32 (y.getD j 0 + 256 * y.getD (j + 1) 0 + 65536 * y.getD (j + 2) 0 + 16777216 * y.getD (j + 3) 0)

/-! Packed formats by code (R252). -/

/-- Storage width of a format code; 0 for a reserved code. -/
def codeWidth (c : Nat) : Nat :=
  match c with
  | 0 => 32 | 1 => 16 | 2 => 16 | 3 => 8 | 4 => 8 | 5 => 8 | 6 => 8 | 7 => 4 | 8 => 8 | 9 => 4 | 10 => 8
  | 11 => 4 | 15 => 4 | _ => 0

/-- The floating-point element encoding of a format code, with SUBFMT for MX8 (R258, R259); none for the
integer and reserved codes and for a reserved SUBFMT. -/
def codeFmt (c sub : Nat) : Option Fmt :=
  match c with
  | 0 => some fmt32
  | 1 => some fmt16
  | 2 => some fmtBf16
  | 3 => some fmtE4M3
  | 4 => some fmtE5M2
  | 5 => some fmtE3M2
  | 6 => some fmtE2M3
  | 7 => some fmtE2M1
  | 10 => match sub with
    | 0 => some fmtE4M3
    | 1 => some fmtE5M2
    | 2 => some fmtE3M2
    | 3 => some fmtE2M3
    | _ => none
  | 11 => some fmtE2M1
  | 15 => some fmtE2M1
  | _ => none

/-- Elements that share one block scale (R252); 0 for a format without block scales. -/
def codeBlock (c : Nat) : Nat :=
  match c with
  | 10 => 32
  | 11 => 32
  | 15 => 16
  | _ => 0

/-- A two's-complement number of `w` bits. -/
def sInt (w x : Nat) : Int := if x < 2 ^ (w - 1) then x else (x : Int) - 2 ^ w

/-- The `w`-bit pattern of an integer. -/
def ofInt (w : Nat) (i : Int) : Nat := (i % (2 ^ w : Int)).toNat

/-- The value of a block scale (R257): E8M0 for the MX formats, E5M3 for DSF4. -/
def scaleVal (c x : Nat) : FVal :=
  if c = 15 then
    (if x / 8 = 0 then .fin false (x % 8) (-17) else .fin false (8 + x % 8) ((x / 8 : Nat) - 18))
  else if x = 0xFF then .nan false else .fin false 1 ((x : Int) - 127)

end Sys2Proof.Machine
end

