-- ==== Sys2Proof/Machine/Operands.lean ====
section
/-!
DEFINITION. Operand forms of format S (R74 to R76), the tags each kind of use accepts (R61, R82, R83), and
reading and writing operands.
-/

namespace Sys2Proof.Machine

/-- What the MODE, OPND and extension fields name (R74 to R76). -/
inductive Form where
  | imm (v : W64)
  /-- `#hi imm`, MODE 7 form 6 -/
  | immHi (v : W64)
  | mem (base : Nat) (d : W64)
  | reg (r : Nat)
deriving DecidableEq, Repr

/-- The form of an operand, where MODE, register select and zero fields are legal (R78). -/
def formOf (o : SOp) : Option Form :=
  let m := o.mode.toNat
  if m = 0 then some (.imm (sx64 o.opnd))
  else if m ≤ 5 then some (.mem m (sx64 o.opnd))
  else if m = 6 then (if o.opnd.toNat < 8 then some (.reg o.opnd.toNat) else none)
  else if fld o.opnd 0 17 ≠ 0 then none
  else
    let f := fld o.opnd 17 3
    if f = 0 then some (.imm (sx64 o.ext))
    else if f ≤ 5 then some (.mem f (sx64 o.ext))
    else if f = 6 then some (.immHi ((o.ext.setWidth 64) <<< 32))
    else none

/-- The bytes of a format S instruction (R72). -/
def lenOf (o : SOp) : Nat := if o.mode = 7#3 then 8 else 4

/-- The form, or ILLEGAL. -/
def form (o : SOp) : EM Form :=
  match formOf o with
  | some f => pure f
  | none => illegal

/-- ILLEGAL unless MODE and OPND are zero, as an instruction without operand has them (R78, R81). -/
def noOperand (o : SOp) : EM Unit := need (decide (o.mode = 0#3) && decide (o.opnd = 0#20))

/-! Tags. -/

/-- The columns of R61, with the sub-word column of R83 and the index column of R86. -/
inductive Col where
  | move | int | flt | cmp | addr | jump | sub
deriving DecidableEq, Repr

/-- Whether a column accepts a tag at a level. -/
def Col.accepts (c : Col) (t : Tag) (pl : BitVec 2) : Bool :=
  let n := t.toNat
  match c with
  | .move => decide (n < 8) && (decide (n ≠ 5) || decide (pl = 0#2))
  | .int => decide (n = 0) || decide (n = 1) || decide (n = 4)
  | .flt => decide (n = 0) || decide (n = 2)
  | .cmp => decide (n = 0) || decide (n = 1) || decide (n = 3) || decide (n = 4)
  | .addr => decide (n = 0) || decide (n = 1) || decide (n = 3)
  | .jump => decide (n = 0) || decide (n = 1) || decide (n = 3) || decide (n = 7)
  | .sub => decide (n = 0) || decide (n = 1)

/-- The tag of a source checked against a column; a reserved tag is illegal (R12), POISON a data error (R63).
DEDUCED (log 13). -/
def checkTag (c : Col) (t : Tag) (a : W64) : EM Unit := do
  let k ← getC
  if t = tagPoison then dataErr 1#8 a
  if 8 ≤ t.toNat then illegal
  if !c.accepts t k.pl then tagFault a

/-! Reading. -/

/-- The register of MODE 6 (R75). -/
def Core.readReg (c : Core) (r : Nat) : TWord :=
  match r with
  | 0 => c.acc
  | 1 => c.ix0
  | 2 => c.ix1
  | 3 => ⟨c.sp, 3#4⟩
  | 4 => c.prl
  | 5 => c.prh
  | 6 => ⟨c.st, 1#4⟩
  | _ => ⟨c.pc, 3#4⟩

/-- The effective address of a memory form, its base registers checked (R61, R74). -/
def effAddr (base : Nat) (d : W64) : EM W64 := do
  let c ← getC
  match base with
  | 1 => do checkTag .addr c.ix0.t 0#64; return c.ix0.v + d
  | 2 => do checkTag .addr c.ix1.t 0#64; return c.ix1.v + d
  | 3 => return c.sp + d
  | 4 => return c.pc + d
  | _ => do
    checkTag .addr c.ix0.t 0#64
    checkTag .addr c.ix1.t 0#64
    return c.ix0.v + c.ix1.v + d

/-- The address of an operand that must be in memory (R78). -/
def memAddr (o : SOp) : EM W64 := do
  match ← form o with
  | .mem b d => effAddr b d
  | _ => illegal

/-- An operand of n bytes used under a column, with the address to report a fault of its tag at (0 for a
register). A sub-word of an immediate or register is its low bytes. -/
def operandAt (o : SOp) (col : Col) (n : Nat) : EM (TWord × W64) := do
  let c ← getC
  match ← form o with
  | .imm v => return (⟨v, 0#4⟩, 0#64)
  | .immHi v => return (⟨v, 0#4⟩, 0#64)
  | .reg r => do
    let w := c.readReg r
    checkTag col w.t 0#64
    return (w, 0#64)
  | .mem b d => do
    let a ← effAddr b d
    let l ← loadMem a n scalarLoad
    checkTag col l.tag a
    return (⟨w64 (leNat l.bytes), l.tag⟩, a)

/-- A 64-bit operand used under a column. -/
def operand (o : SOp) (col : Col) : EM TWord := do return (← operandAt o col 8).1

/-- The accumulator used under a column. -/
def useAcc (col : Col) : EM W64 := do
  let c ← getC
  checkTag col c.acc.t 0#64
  return c.acc.v

/-- PTR is compared with PTR, INT or RAW only (R82). DEDUCED (log 12). -/
def checkPair (a b : Tag) (at' : W64) : EM Unit := do
  if (a = 3#4 && b = 4#4) || (a = 4#4 && b = 3#4) then tagFault at'

def setAcc (v : W64) (t : Tag) : EM Unit := modC (fun c => { c with acc := ⟨v, t⟩ })

end Sys2Proof.Machine
end

