-- ==== Sys2Proof/Machine/Flags.lean ====
section
/-!
DEFINITION. The flags of `ST` (R58, R81) and the scalar arithmetic that sets them.
-/

namespace Sys2Proof.Machine

/-- The status word with the four flags set. -/
def stFlags (st : W64) (z n c v : Bool) : W64 :=
  setFld st 0 4 (z.toNat + 2 * n.toNat + 4 * c.toNat + 8 * v.toNat)

/-- Z and N of a result; C and V kept (R81, loads). -/
def Core.setZN (c : Core) (r : W64) : Core :=
  { c with st := stFlags c.st (decide (r = 0#64)) (bit r 63) c.fC c.fV }

/-- Z and N of a result; C and V cleared. -/
def Core.setZNclr (c : Core) (r : W64) : Core :=
  { c with st := stFlags c.st (decide (r = 0#64)) (bit r 63) false false }

/-- All four flags. -/
def Core.setAll (c : Core) (r : W64) (cy v : Bool) : Core :=
  { c with st := stFlags c.st (decide (r = 0#64)) (bit r 63) cy v }

/-- A result with carry or borrow and signed overflow. -/
structure AluRes where
  r : W64
  c : Bool
  v : Bool
deriving DecidableEq, Repr

/-- a + b + cin: C the carry out, V the signed overflow (R58). -/
def aluAdd (a b : W64) (cin : Bool) : AluRes :=
  let s := a.toNat + b.toNat + cin.toNat
  let r := w64 s
  let si := a.toInt + b.toInt + (cin.toNat : Int)
  ⟨r, decide (2 ^ 64 ≤ s), decide (r.toInt ≠ si)⟩

/-- a − b − bin: C the borrow out, V the signed overflow (R58). -/
def aluSub (a b : W64) (bin : Bool) : AluRes :=
  let r := a - b - w64 bin.toNat
  let si := a.toInt - b.toInt - (bin.toNat : Int)
  ⟨r, decide (a.toNat < b.toNat + bin.toNat), decide (r.toInt ≠ si)⟩

/-- The shifts and rotates of R81, by a count of 0 to 63; C is the last bit out, kept when the count is 0. -/
inductive Shift where
  | shl | shr | sar | rol | ror
deriving DecidableEq, Repr

def shiftRes (k : Shift) (a : W64) (n : Nat) (c : Bool) : W64 × Bool :=
  if n = 0 then (a, c)
  else match k with
    | .shl => (a <<< n, bit a (64 - n))
    | .shr => (a >>> n, bit a (n - 1))
    | .sar => (a.sshiftRight n, bit a (n - 1))
    | .rol => ((a <<< n) ||| (a >>> (64 - n)), bit a (64 - n))
    | .ror => ((a >>> n) ||| (a <<< (64 - n)), bit a (n - 1))

/-- Leading zeros of a word, 0 to 64. -/
def clz64 (a : W64) : Nat := ((List.range 64).find? (fun i => bit a (63 - i))).getD 64

/-- Trailing zeros of a word, 0 to 64. -/
def ctz64 (a : W64) : Nat := ((List.range 64).find? (fun i => bit a i)).getD 64

/-- Ones in a word. -/
def popc64 (a : W64) : Nat := ((List.range 64).filter (fun i => bit a i)).length

/-- The bytes of a word reversed. -/
def bswap64 (a : W64) : W64 := w64 (leNat (leBytes 8 a.toNat).reverse)

/-- The conditions of R86; 0xF is reserved. -/
def condition (c : Core) (cc : BitVec 4) : Option Bool :=
  match cc.toNat with
  | 0x0 => some c.fZ
  | 0x1 => some (!c.fZ)
  | 0x2 => some (c.fN != c.fV)
  | 0x3 => some (c.fN == c.fV)
  | 0x4 => some (c.fZ || c.fN != c.fV)
  | 0x5 => some (!c.fZ && c.fN == c.fV)
  | 0x6 => some c.fC
  | 0x7 => some (!c.fC)
  | 0x8 => some (c.fC || c.fZ)
  | 0x9 => some (!c.fC && !c.fZ)
  | 0xA => some c.fN
  | 0xB => some (!c.fN)
  | 0xC => some c.fV
  | 0xD => some (!c.fV)
  | 0xE => some true
  | _ => none

end Sys2Proof.Machine
end

