-- ==== Sys2Proof/Machine/Scalar.lean ====
section
/-!
DEFINITION. The scalar instructions of opcodes 0x00 to 0x10 and 0x12 to 0x17 (R81): moves, arithmetic,
multiply and divide, tags, branches, calls.
-/

namespace Sys2Proof.Machine

abbrev Res := Host.Outcome State Fault Refusal

/-! Loads (0x00, 0x02) and stores (0x01, 0x02). -/

/-- `ld` of `ACC`: Z and N set. -/
def execLd (e : Fin 104) (o : SOp) (s : State) : Res :=
  seqInstr 0 (lenOf o) 1 e (do
    let w ← operand o .move
    modC (fun c => ({ c with acc := w }).setZN w.v)) s

/-- A sub-word load of n bytes (R83), zero- or sign-extended, tag INT. -/
def loadSub (e : Fin 104) (o : SOp) (n : Nat) (sign : Bool) (s : State) : Res :=
  seqInstr 0 (lenOf o) 1 e (do
    let w ← operandAt o .sub n
    let x := w.1.v.toNat % 256 ^ n
    let v := if sign && decide (256 ^ n / 2 ≤ x) then w64 (2 ^ 64 + x - 256 ^ n) else w64 x
    modC (fun c => ({ c with acc := ⟨v, 1#4⟩ }).setZN v)) s

def execLdb (e : Fin 104) (o : SOp) (s : State) : Res := loadSub e o 1 false s
def execLdbs (e : Fin 104) (o : SOp) (s : State) : Res := loadSub e o 1 true s
def execLdh (e : Fin 104) (o : SOp) (s : State) : Res := loadSub e o 2 false s
def execLdhs (e : Fin 104) (o : SOp) (s : State) : Res := loadSub e o 2 true s
def execLdw (e : Fin 104) (o : SOp) (s : State) : Res := loadSub e o 4 false s
def execLdws (e : Fin 104) (o : SOp) (s : State) : Res := loadSub e o 4 true s

/-- A store of the low n bytes of a register. DEDUCED (log 13). -/
def storeReg (e : Fin 104) (o : SOp) (n : Nat) (src : Core → TWord) (s : State) : Res :=
  seqInstr 0 (lenOf o) 1 e (do
    match ← form o with
    | .mem b d => do
      let w := src (← getC)
      checkTag .move w.t 0#64
      let a ← effAddr b d
      storeMemE a n w.v w.t false
    | _ => illegal) s

def execSt (e : Fin 104) (o : SOp) (s : State) : Res := storeReg e o 8 Core.acc s
def execStb (e : Fin 104) (o : SOp) (s : State) : Res := storeReg e o 1 Core.acc s
def execSth (e : Fin 104) (o : SOp) (s : State) : Res := storeReg e o 2 Core.acc s
def execStw (e : Fin 104) (o : SOp) (s : State) : Res := storeReg e o 4 Core.acc s
def execStIx0 (e : Fin 104) (o : SOp) (s : State) : Res := storeReg e o 8 Core.ix0 s
def execStIx1 (e : Fin 104) (o : SOp) (s : State) : Res := storeReg e o 8 Core.ix1 s

/-- A move into an index register: no flag changes. -/
def loadIndex (e : Fin 104) (o : SOp) (set : Core → TWord → Core) (s : State) : Res :=
  seqInstr 0 (lenOf o) 1 e (do
    let w ← operand o .move
    modC (fun c => set c w)) s

def execLdIx0 (e : Fin 104) (o : SOp) (s : State) : Res := loadIndex e o (fun c w => { c with ix0 := w }) s
def execLdIx1 (e : Fin 104) (o : SOp) (s : State) : Res := loadIndex e o (fun c w => { c with ix1 := w }) s

/-- `lea`: the effective address, tag PTR. -/
def loadAddr (e : Fin 104) (o : SOp) (set : Core → TWord → Core) (s : State) : Res :=
  seqInstr 0 (lenOf o) 1 e (do
    let a ← memAddr o
    modC (fun c => set c ⟨a, 3#4⟩)) s

def execLeaIx0 (e : Fin 104) (o : SOp) (s : State) : Res := loadAddr e o (fun c w => { c with ix0 := w }) s
def execLeaIx1 (e : Fin 104) (o : SOp) (s : State) : Res := loadAddr e o (fun c w => { c with ix1 := w }) s
def execLea (e : Fin 104) (o : SOp) (s : State) : Res := loadAddr e o (fun c w => { c with acc := w }) s

/-- `ld sp`: the current level's stack pointer, from an operand tagged RAW, INT or PTR. -/
def execLdSp (e : Fin 104) (o : SOp) (s : State) : Res :=
  seqInstr 0 (lenOf o) 1 e (do
    let w ← operand o .addr
    modC (fun c => c.setSp w.v)) s

/-! The stack (0x03). -/

/-- A push of a register: the store, then the new stack pointer. DEDUCED (log 11). -/
def pushReg (e : Fin 104) (o : SOp) (src : Core → TWord) (s : State) : Res :=
  seqInstr 0 (lenOf o) 1 e (do
    let _ ← form o
    let c ← getC
    let w := src c
    checkTag .move w.t 0#64
    storeMemE (c.sp - 8#64) 8 w.v w.t false
    modC (fun k => k.setSp (c.sp - 8#64))) s

/-- A pop into a register. DEDUCED (log 11). -/
def popReg (e : Fin 104) (o : SOp) (set : Core → TWord → Core) (s : State) : Res :=
  seqInstr 0 (lenOf o) 1 e (do
    let _ ← form o
    let c ← getC
    let l ← loadMem c.sp 8 scalarLoad
    checkTag .move l.tag c.sp
    modC (fun k => (set k ⟨w64 (leNat l.bytes), l.tag⟩).setSp (c.sp + 8#64))) s

def execPush (e : Fin 104) (o : SOp) (s : State) : Res := pushReg e o Core.acc s
def execPushIx0 (e : Fin 104) (o : SOp) (s : State) : Res := pushReg e o Core.ix0 s
def execPushIx1 (e : Fin 104) (o : SOp) (s : State) : Res := pushReg e o Core.ix1 s
def execPop (e : Fin 104) (o : SOp) (s : State) : Res := popReg e o (fun c w => { c with acc := w }) s
def execPopIx0 (e : Fin 104) (o : SOp) (s : State) : Res := popReg e o (fun c w => { c with ix0 := w }) s
def execPopIx1 (e : Fin 104) (o : SOp) (s : State) : Res := popReg e o (fun c w => { c with ix1 := w }) s

/-- The immediate of `alloc` and `free`: MODE 0 or MODE 7 form 0, a multiple of 8. -/
def frameSize (o : SOp) : EM W64 := do
  match ← form o with
  | .imm v => do need (decide (fld v 0 3 = 0)); return v
  | _ => illegal

def execAlloc (e : Fin 104) (o : SOp) (s : State) : Res :=
  seqInstr 0 (lenOf o) 1 e (do
    let n ← frameSize o
    modC (fun c => c.setSp (c.sp - n))) s

def execFree (e : Fin 104) (o : SOp) (s : State) : Res :=
  seqInstr 0 (lenOf o) 1 e (do
    let n ← frameSize o
    modC (fun c => c.setSp (c.sp + n))) s

/-! Arithmetic on `ACC` (0x04 to 0x0C). -/

/-- An arithmetic instruction: result tag INT, all four flags. -/
def arith (e : Fin 104) (o : SOp) (f : W64 → W64 → Bool → AluRes) (s : State) : Res :=
  seqInstr 0 (lenOf o) 1 e (do
    let _ ← form o
    let a ← useAcc .int
    let b ← operand o .int
    modC (fun c =>
      let r := f a b.v c.fC
      ({ c with acc := ⟨r.r, 1#4⟩ }).setAll r.r r.c r.v)) s

def execAdd (e : Fin 104) (o : SOp) (s : State) : Res := arith e o (fun a b _ => aluAdd a b false) s
def execAdc (e : Fin 104) (o : SOp) (s : State) : Res := arith e o aluAdd s
def execSub (e : Fin 104) (o : SOp) (s : State) : Res := arith e o (fun a b _ => aluSub a b false) s
def execSbb (e : Fin 104) (o : SOp) (s : State) : Res := arith e o aluSub s

/-- A comparison of a register with the operand: flags only (R82). -/
def compareReg (e : Fin 104) (o : SOp) (src : Core → TWord) (flags : Core → W64 → W64 → Core) (s : State) : Res :=
  seqInstr 0 (lenOf o) 1 e (do
    let _ ← form o
    let a := src (← getC)
    checkTag .cmp a.t 0#64
    let b ← operandAt o .cmp 8
    checkPair a.t b.1.t b.2
    modC (fun c => flags c a.v b.1.v)) s

/-- Flags of a difference. -/
def subFlags (c : Core) (a b : W64) : Core :=
  let r := aluSub a b false
  c.setAll r.r r.c r.v

def execCmp (e : Fin 104) (o : SOp) (s : State) : Res := compareReg e o Core.acc subFlags s
/-- DEDUCED (log 12). -/
def execTst (e : Fin 104) (o : SOp) (s : State) : Res := compareReg e o Core.acc (fun c a b => c.setZNclr (a &&& b)) s

/-- A bitwise instruction: Z and N, C and V cleared. -/
def bitwise (e : Fin 104) (o : SOp) (f : W64 → W64 → W64) (s : State) : Res :=
  seqInstr 0 (lenOf o) 1 e (do
    let _ ← form o
    let a ← useAcc .int
    let b ← operand o .int
    modC (fun c => ({ c with acc := ⟨f a b.v, 1#4⟩ }).setZNclr (f a b.v))) s

def execAnd (e : Fin 104) (o : SOp) (s : State) : Res := bitwise e o (· &&& ·) s
def execOr (e : Fin 104) (o : SOp) (s : State) : Res := bitwise e o (· ||| ·) s
def execXor (e : Fin 104) (o : SOp) (s : State) : Res := bitwise e o (· ^^^ ·) s

/-! Shifts (0x0D), by bits [5:0] of the operand. -/

def shiftBy (e : Fin 104) (o : SOp) (k : Shift) (s : State) : Res :=
  seqInstr 0 (lenOf o) 1 e (do
    let _ ← form o
    let a ← useAcc .int
    let b ← operand o .int
    modC (fun c =>
      let r := shiftRes k a (fld b.v 0 6) c.fC
      ({ c with acc := ⟨r.1, 1#4⟩ }).setAll r.1 r.2 false)) s

def execShl (e : Fin 104) (o : SOp) (s : State) : Res := shiftBy e o .shl s
def execShr (e : Fin 104) (o : SOp) (s : State) : Res := shiftBy e o .shr s
def execSar (e : Fin 104) (o : SOp) (s : State) : Res := shiftBy e o .sar s
def execRol (e : Fin 104) (o : SOp) (s : State) : Res := shiftBy e o .rol s
def execRor (e : Fin 104) (o : SOp) (s : State) : Res := shiftBy e o .ror s

/-! Unary operations on `ACC` (0x0E). -/

/-- `neg`: flags of 0 − `ACC`. -/
def execNeg (e : Fin 104) (o : SOp) (s : State) : Res :=
  seqInstr 0 (lenOf o) 1 e (do
    noOperand o
    let a ← useAcc .int
    modC (fun c =>
      let r := aluSub 0#64 a false
      ({ c with acc := ⟨r.r, 1#4⟩ }).setAll r.r r.c r.v)) s

def unary (e : Fin 104) (o : SOp) (f : W64 → W64) (s : State) : Res :=
  seqInstr 0 (lenOf o) 1 e (do
    noOperand o
    let a ← useAcc .int
    modC (fun c => ({ c with acc := ⟨f a, 1#4⟩ }).setZNclr (f a))) s

def execNot (e : Fin 104) (o : SOp) (s : State) : Res := unary e o (~~~ ·) s
def execClz (e : Fin 104) (o : SOp) (s : State) : Res := unary e o (fun a => w64 (clz64 a)) s
def execCtz (e : Fin 104) (o : SOp) (s : State) : Res := unary e o (fun a => w64 (ctz64 a)) s
def execPopc (e : Fin 104) (o : SOp) (s : State) : Res := unary e o (fun a => w64 (popc64 a)) s
def execBswap (e : Fin 104) (o : SOp) (s : State) : Res := unary e o bswap64 s

/-! Index arithmetic (0x0F). -/

def addIndex (e : Fin 104) (o : SOp) (src : Core → TWord) (set : Core → TWord → Core) (s : State) : Res :=
  seqInstr 0 (lenOf o) 1 e (do
    let _ ← form o
    let a := src (← getC)
    checkTag .int a.t 0#64
    let b ← operand o .int
    let r := aluAdd a.v b.v false
    modC (fun c => (set c ⟨r.r, 1#4⟩).setAll r.r r.c r.v)) s

def execAddxIx0 (e : Fin 104) (o : SOp) (s : State) : Res := addIndex e o Core.ix0 (fun c w => { c with ix0 := w }) s
def execAddxIx1 (e : Fin 104) (o : SOp) (s : State) : Res := addIndex e o Core.ix1 (fun c w => { c with ix1 := w }) s
def execCmpxIx0 (e : Fin 104) (o : SOp) (s : State) : Res := compareReg e o Core.ix0 subFlags s
def execCmpxIx1 (e : Fin 104) (o : SOp) (s : State) : Res := compareReg e o Core.ix1 subFlags s

/-! Multiply and divide (0x10): the result waits for its delivery (R87, R88). -/

/-- A multiply puts its product in the queue of deliveries. -/
def multiply (e : Fin 104) (o : SOp) (f : W64 → W64 → BitVec 128) (s : State) : Res :=
  seqInstr 0 (lenOf o) 1 e (do
    let _ ← form o
    let a ← useAcc .int
    let b ← operand o .int
    let p := f a b.v
    modC (fun c => { c with pend := c.pend ++ [⟨c.seq, p.setWidth 64, (p >>> 64).setWidth 64, false⟩] })) s

def execMul (e : Fin 104) (o : SOp) (s : State) : Res :=
  multiply e o (fun a b => BitVec.ofInt 128 (a.toInt * b.toInt)) s
def execMulu (e : Fin 104) (o : SOp) (s : State) : Res :=
  multiply e o (fun a b => BitVec.ofNat 128 (a.toNat * b.toNat)) s

/-- The divide that is pending delivers: a divide that comes to issue stalls for it (R88). -/
def Core.deliverDiv (c : Core) : Core :=
  match c.pend.find? (fun p => p.div) with
  | some p => { c.deliver p with pend := c.pend.filter (fun q => decide (q ≠ p)) }
  | none => c

/-- A divide: DIV_ZERO at issue for a zero divisor (R84). -/
def divide (e : Fin 104) (o : SOp) (q r : W64 → W64 → W64) (s : State) : Res :=
  seqInstr 0 (lenOf o) 1 e (do
    let _ ← form o
    let a ← useAcc .int
    let b ← operand o .int
    if b.v = 0#64 then raise 5#8 0#8 0#64
    modC (fun c =>
      let d := c.deliverDiv
      { d with pend := d.pend ++ [⟨d.seq, q a b.v, r a b.v, true⟩] })) s

def execDiv (e : Fin 104) (o : SOp) (s : State) : Res :=
  divide e o (fun a b => BitVec.ofInt 64 (a.toInt.tdiv b.toInt)) (fun a b => BitVec.ofInt 64 (a.toInt.tmod b.toInt)) s
def execDivu (e : Fin 104) (o : SOp) (s : State) : Res :=
  divide e o (fun a b => w64 (a.toNat / b.toNat)) (fun a b => w64 (a.toNat % b.toNat)) s

/-- The oldest pending multiply delivers (R87). With `tie` an earlier divide delivers in the same cycle, and
the registers hold the later instruction's result, the multiply's (R55). DEDUCED (log 10). -/
def execMulDelivery (e : Fin 104) (tie : Bool) (s : State) : Res :=
  .next { s with w := s.w.modEng e.val (fun x =>
    match x.core.pend.find? (fun p => !p.div) with
    | none => x
    | some p =>
      let c := if tie && (x.core.pend.any (fun d => d.div && decide (d.seq < p.seq))) then x.core.deliverDiv else x.core
      { x with core := { c.deliver p with pend := c.pend.filter (fun q => decide (q ≠ p)) } }) }

/-- The pending divide delivers (R88). With `tie` a later multiply delivers in the same cycle and prevails.
DEDUCED (log 10). -/
def execDivDelivery (e : Fin 104) (tie : Bool) (s : State) : Res :=
  .next { s with w := s.w.modEng e.val (fun x =>
    match x.core.pend.find? (fun p => p.div) with
    | none => x
    | some d =>
      let c := x.core.deliverDiv
      match c.pend.find? (fun p => !p.div) with
      | some p =>
        if tie && decide (d.seq < p.seq) then { x with core := { c.deliver p with pend := c.pend.filter (fun q => decide (q ≠ p)) } }
        else { x with core := c }
      | none => { x with core := c }) }

/-! Tags and flags (0x12). -/

/-- `gtag`: the tag of the operand; a POISON word is not consumed (R63). -/
def execGtag (e : Fin 104) (o : SOp) (s : State) : Res :=
  seqInstr 0 (lenOf o) 1 e (do
    let c ← getC
    let t : Tag ← (do
      match ← form o with
      | .imm _ => return 0#4
      | .immHi _ => return 0#4
      | .reg r => return (c.readReg r).t
      | .mem b d => do
        let a ← effAddr b d
        tagOfWord a)
    let v := w64 t.toNat
    modC (fun k => ({ k with acc := ⟨v, 1#4⟩ }).setZNclr v)) s

/-- The immediate t of `stag` and `chk` (R64). -/
def tagImm (o : SOp) : EM Nat := do
  match ← form o with
  | .imm v => do need (decide (v.toNat ≤ 15)); return v.toNat
  | _ => illegal

/-- `stag`: RAW, INT, FLT, PTR or DESC; a tag fault for KEYH, STAT, CODE and POISON (R64). -/
def execStag (e : Fin 104) (o : SOp) (s : State) : Res :=
  seqInstr 0 (lenOf o) 1 e (do
    let t ← tagImm o
    need (decide (t < 8) || decide (t = 15))
    if 5 ≤ t then tagFault 0#64
    modC (fun c => { c with acc := ⟨c.acc.v, BitVec.ofNat 4 t⟩ })) s

/-- `chk`: a tag fault unless `ACC` has tag t. -/
def execChk (e : Fin 104) (o : SOp) (s : State) : Res :=
  seqInstr 0 (lenOf o) 1 e (do
    let t ← tagImm o
    need (decide (t < 8) || decide (t = 15))
    let c ← getC
    if c.acc.t.toNat ≠ t then tagFault 0#64) s

def execSetf (e : Fin 104) (o : SOp) (s : State) : Res :=
  seqInstr 0 (lenOf o) 1 e (do
    noOperand o
    let a ← useAcc .int
    modC (fun c => { c with st := setFld c.st 0 4 (fld a 0 4) })) s

/-! Branches (0x13, 0x16), jumps and calls (0x14, 0x15). -/

/-- The target of a branch, four-byte aligned (R56, R82). DEDUCED (log 11). -/
def target (v : W64) : EM (Option W64) := do
  if fld v 0 2 ≠ 0 then alignFault v
  return some v

def execBcc (e : Fin 104) (o : BOp) (s : State) : Res :=
  instr 0 4 (if (condition (s.w.eng e.val).core o.sel).getD false then 2 else 1) e (do
    let c ← getC
    match condition c o.sel with
    | none => illegal
    | some true => target (c.pc + sx64 o.disp * 4#64)
    | some false => return none) s

/-- `loop`: the index register, tagged INT or RAW, less 1; taken when the result is not zero (R86). -/
def execLoop (e : Fin 104) (o : BOp) (s : State) : Res :=
  let ix := if o.sel = 0#4 then (s.w.eng e.val).core.ix0 else (s.w.eng e.val).core.ix1
  instr 0 4 (if ix.v = 1#64 then 1 else 2) e (do
    let c ← getC
    need (decide (o.sel.toNat ≤ 1))
    let x := if o.sel = 0#4 then c.ix0 else c.ix1
    checkTag .sub x.t 0#64
    let r := x.v - 1#64
    modC (fun k => if o.sel = 0#4 then { k with ix0 := ⟨r, 1#4⟩ } else { k with ix1 := ⟨r, 1#4⟩ })
    if r = 0#64 then return none else target (c.pc + sx64 o.disp * 4#64)) s

/-- The target of `jmp` and `call`: the EA of a memory operand, or a register tagged RAW, INT, PTR or CODE
(R82). -/
def jumpTarget (o : SOp) : EM W64 := do
  let c ← getC
  match ← form o with
  | .mem b d => effAddr b d
  | .reg r => do
    let w := c.readReg r
    checkTag .jump w.t 0#64
    return w.v
  | _ => illegal

def execJmp (e : Fin 104) (o : SOp) (s : State) : Res :=
  instr 0 (lenOf o) 2 e (do
    let t ← jumpTarget o
    target t) s

/-- `call`: the return address is pushed with tag CODE. -/
def execCall (e : Fin 104) (o : SOp) (s : State) : Res :=
  instr 0 (lenOf o) 2 e (do
    let t ← jumpTarget o
    let r ← target t
    let c ← getC
    storeMemE (c.sp - 8#64) 8 (c.pc + w64 (lenOf o)) 7#4 false
    modC (fun k => k.setSp (c.sp - 8#64))
    return r) s

/-- `ret`: a CODE word is popped into `PC`. -/
def execRet (e : Fin 104) (o : SOp) (s : State) : Res :=
  instr 0 (lenOf o) 6 e (do
    noOperand o
    let c ← getC
    let l ← loadMem c.sp 8 scalarLoad
    if l.tag ≠ 7#4 then tagFault c.sp
    let r ← target (w64 (leNat l.bytes))
    modC (fun k => k.setSp (c.sp + 8#64))
    return r) s

/-! Opcode 0x17. -/

def execNop (e : Fin 104) (o : SOp) (s : State) : Res :=
  seqInstr 0 (lenOf o) 1 e (noOperand o) s

/-- `rdcyc`: `CYCLE` as it stands when the instruction issues. -/
def execRdcyc (e : Fin 104) (o : SOp) (s : State) : Res :=
  seqInstr 0 (lenOf o) 1 e (do
    noOperand o
    let x ← getE
    setAcc (sgetD x.ctrs 0x11 0#64) 1#4) s

def execRdinst (e : Fin 104) (o : SOp) (s : State) : Res :=
  seqInstr 0 (lenOf o) 1 e (do
    noOperand o
    let c ← getC
    setAcc c.instret 1#4) s

/-- `pause`: nothing issues until its 32 cycles have passed or an interrupt ends them. -/
def execPause (e : Fin 104) (o : SOp) (s : State) : Res :=
  seqInstr 0 (lenOf o) 32 e (do
    noOperand o
    modE (fun x => { x with wait := .pause })) s

/-- The 32 cycles of a `pause` have passed. -/
def execPauseExpire (e : Fin 104) (s : State) : Res :=
  .next { s with w := s.w.modEng e.val (fun x => if x.wait = .pause then { x with wait := .none } else x) }

end Sys2Proof.Machine
end

