-- ==== Sys2Proof/Machine/Float.lean ====
section
/-!
DEFINITION. The scalar floating-point instructions, opcode 0x11 (R81, R85). Their latencies delay only an
instruction that needs the result, so an instruction counts one cycle and what the next one waits is free.
-/

namespace Sys2Proof.Machine

/-- The rounding mode of `FCSR.RM` (R104). -/
def Core.fcsrMode (c : Core) : RMode := if fld (c.sysGet 0x1C0) 0 2 = 1 then .zero else .near

/-- The sticky flags join `FCSR` (R85). -/
def Core.fcsrOr (c : Core) (f : FFlags) : Core := c.sysSet 0x1C0 (c.sysGet 0x1C0 ||| f.bits)

/-- A quiet NaN of binary64; IEEE 754 leaves its sign and payload open. DEDUCED (log 14). -/
def quietNan (p : BitVec 52) : W64 :=
  0x7FF8000000000000#64 ||| ((p.extractLsb' 0 51).setWidth 64) ||| (if bit p 51 then 0x8000000000000000#64 else 0#64)

/-- A floating-point result into `ACC`, tag FLT, with its flags. -/
def putFloat (x : Exact) : EM Unit := do
  let c ← getC
  let r := finish fmt64 c.fcsrMode x
  let v : W64 ← (do
    if isNanV x.v then return quietNan (Config.nanBits (← freshM)) else return w64 r.1)
  modC (fun k => ({ k with acc := ⟨v, 2#4⟩ }).fcsrOr r.2)

def dec64 (v : W64) : FVal := decodeF fmt64 v.toNat

/-- A two-operand operation on `ACC` and the operand. -/
def floatOp (e : Fin 104) (o : SOp) (f : FVal → FVal → Exact) (s : State) : Res :=
  seqInstr 0 (lenOf o) 1 e (do
    let _ ← form o
    let a ← useAcc .flt
    let b ← operand o .flt
    putFloat (f (dec64 a) (dec64 b.v))) s

def execFadd (e : Fin 104) (o : SOp) (s : State) : Res := floatOp e o addF s
def execFsub (e : Fin 104) (o : SOp) (s : State) : Res := floatOp e o (fun a b => addF a (negF b)) s
def execFmul (e : Fin 104) (o : SOp) (s : State) : Res := floatOp e o mulF s
def execFdiv (e : Fin 104) (o : SOp) (s : State) : Res := floatOp e o divF s

/-- `fcmp`: Z equal, N less, V unordered, C 0; a signalling NaN sets NV (R271). -/
def execFcmp (e : Fin 104) (o : SOp) (s : State) : Res :=
  seqInstr 0 (lenOf o) 1 e (do
    let _ ← form o
    let a ← useAcc .flt
    let b ← operand o .flt
    let x := dec64 a
    let y := dec64 b.v
    let un := isNanV x || isNanV y
    let r := cmpF x y
    modC (fun c => ({ c with st := stFlags c.st (!un && decide (r = Ordering.eq)) (!un && decide (r = Ordering.lt)) false un }).fcsrOr
      (if isSNan x || isSNan y then FFlags.inval else FFlags.none))) s

/-- `fcvt.if`: INT to FLT, rounded under `FCSR.RM`. -/
def execFcvtIf (e : Fin 104) (o : SOp) (s : State) : Res :=
  seqInstr 0 (lenOf o) 1 e (do
    noOperand o
    let a ← useAcc .int
    putFloat (exact (intF a.toInt))) s

/-- `fcvt.fi`: FLT to INT toward zero, saturating (R85). -/
def execFcvtFi (e : Fin 104) (o : SOp) (s : State) : Res :=
  seqInstr 0 (lenOf o) 1 e (do
    noOperand o
    let a ← useAcc .flt
    let r := toIntF 64 (dec64 a)
    modC (fun k => ({ k with acc := ⟨BitVec.ofInt 64 r.1, 1#4⟩ }).fcsrOr r.2)) s

def execFsqrt (e : Fin 104) (o : SOp) (s : State) : Res :=
  seqInstr 0 (lenOf o) 1 e (do
    noOperand o
    let a ← useAcc .flt
    putFloat (sqrtF (dec64 a))) s

end Sys2Proof.Machine
end

