-- ==== Sys2Proof/Machine/Vector.lean ====
section
/-!
DEFINITION. The vector unit's state and the arithmetic, compare, mask, move and conversion instructions
(chapter 04, opcodes 0x20 and 0x23 to 0x29).
-/

namespace Sys2Proof.Machine

/-! Types and groups (R149 to R151). -/

/-- Element width of an ETYPE; 0 for a reserved value (R150). -/
def etWidth (t : Nat) : Nat :=
  match t with
  | 0 => 8 | 1 => 16 | 2 => 32 | 3 => 64 | 4 => 16 | 5 => 16 | 6 => 32 | _ => 0

/-- The floating-point format of an ETYPE. -/
def etFmt (t : Nat) : Option Fmt :=
  match t with
  | 4 => some fmt16 | 5 => some fmtBf16 | 6 => some fmt32 | _ => none

/-- The fields of `VTYPE` with `VL` and `VSTART`. -/
structure VT where
  et : Nat
  ew : Nat
  g : Nat
  mu : Bool
  rm : Nat
  vl : Nat
  vstart : Nat
deriving DecidableEq, Repr

def Core.vt (c : Core) : VT :=
  let x := c.sysGet 0x101
  { et := fld x 0 4, ew := etWidth (fld x 0 4), g := 2 ^ fld x 4 2, mu := bit x 11, rm := fld x 12 2
    vl := fld (c.sysGet 0x100) 0 14, vstart := fld (c.sysGet 0x102) 0 13 }

/-- VLMAX (R151). -/
def VT.vlmax (t : VT) : Nat := t.g * 8192 / t.ew

def VT.isInt (t : VT) : Bool := decide (t.et ≤ 3)
def VT.fmt (t : VT) : Option Fmt := etFmt t.et

/-- The group size of a side whose element width is w (R175); above 8 it is illegal. -/
def VT.groupFor (t : VT) (w : Nat) : Nat :=
  let n := t.g * w
  if n ≤ t.ew then 1 else if n ≤ 2 * t.ew then 2 else if n ≤ 4 * t.ew then 4 else if n ≤ 8 * t.ew then 8 else 16

/-! Elements. -/

def Core.vreg (c : Core) (n : Nat) : BitVec 8192 := sgetD c.v n 0#8192
def Core.mreg (c : Core) (n : Nat) : BitVec 8192 := sgetD c.m n 0#8192
def Core.setVreg (c : Core) (n : Nat) (x : BitVec 8192) : Core := { c with v := sset c.v n x }
def Core.setMreg (c : Core) (n : Nat) (x : BitVec 8192) : Core := { c with m := sset c.m n x }

/-- Element i of width w of the group whose lowest register is n (R151). -/
def Core.elt (c : Core) (n w i : Nat) : Nat := fld (c.vreg (n + i * w / 8192)) (i * w % 8192) w

/-- The core with element i of a group set. -/
def Core.setElt (c : Core) (n w i v : Nat) : Core :=
  let r := n + i * w / 8192
  c.setVreg r (setFld (c.vreg r) (i * w % 8192) w v)

/-- Element i is active (R159). -/
def Core.active (c : Core) (o : VR) (i : Nat) : Bool :=
  let t := c.vt
  decide (t.vstart ≤ i) && decide (i < t.vl) && (!o.vm || bit (c.mreg o.ms.toNat) i)

/-- Destination elements from `VSTART` to `VL` written: active ones by `f`, those the mask turns off under
`VTYPE.MU` (R159); where `f` is none the element stays whatever the mask holds (R173). DEDUCED (log 15). -/
def Core.putElts (c : Core) (o : VR) (n w : Nat) (f : Nat → Option Nat) : Core :=
  let t := c.vt
  (List.range t.vl).foldl (fun k i =>
    if i < t.vstart then k
    else match f i with
      | some x => if c.active o i then k.setElt n w i x else if t.mu then k.setElt n w i 0 else k
      | none => k) c

/-! Checks (R163) and the end of an instruction (R156, R160). -/

/-- The mask field: VM = 0 with MS ≠ 0 is illegal. -/
def maskOk (vm : Bool) (ms : BitVec 3) : Bool := vm || decide (ms = 0#3)

/-- A group register: a multiple of its size, the size at most 8. -/
def groupOk (n g : Nat) : Bool := decide (g ≤ 8) && decide (n % g = 0)

/-- Two register groups share a register. -/
def groupsMeet (a m b n : Nat) : Bool := decide (a < b + n) && decide (b < a + m)

/-- A mask register's number: bits [4:3] zero. -/
def maskReg (n : BitVec 5) : Bool := decide (n.toNat < 8)

/-- The core when an instruction completes: `VSTART` := 0, flags join `VFSR`, DIRTY where it is set. -/
def Core.vecEnd (c : Core) (dirty : Bool) (fl : FFlags) : Core :=
  let c1 := c.sysSet 0x102 0#64
  let c2 := if fl = FFlags.none then c1 else c1.sysSet 0x103 (c1.sysGet 0x103 ||| fl.bits)
  if dirty then c2.sysSet 0x104 (c2.sysGet 0x104 ||| 1#64) else c2

/-- The instruction completes. -/
def vecDone (dirty : Bool) (fl : FFlags) : EM Unit := modC (fun c => c.vecEnd dirty fl)

/-- A non-resumable instruction requires `VSTART` = 0 (R189). -/
def notResumable (t : VT) : EM Unit := need (decide (t.vstart = 0))

/-- The scalar operand from `ACC` (R164): the element bits, and the flags of its rounding. -/
def scalarElt (t : VT) : EM (Nat × FFlags) := do
  let c ← getC
  let low := c.acc.v.toNat % 2 ^ t.ew
  match t.fmt with
  | none => if c.acc.t = 0#4 || c.acc.t = 1#4 then return (low, FFlags.none) else tagFault 0#64
  | some f =>
    if c.acc.t = 0#4 then return (low, FFlags.none)
    else if c.acc.t = 2#4 then return encodeF f .near (decodeF fmt64 c.acc.v.toNat)
    else tagFault 0#64

/-- A stride or index from a register tagged RAW or INT (R164). -/
def indexReg (w : TWord) : EM W64 := do
  checkTag .sub w.t 0#64
  return w.v

/-! Rounding and draws (R267, R274, R275). -/

/-- Draws reserved for an instruction: the index of the first. -/
def reserveDraws (n : Nat) : EM Nat := do
  let c ← getC
  let x := c.sysGet 0x1BF
  modC (fun k => k.sysSet 0x1BF (setFld x 0 52 (fld x 0 52 + n)))
  return fld x 0 52

/-- Draw number d (modulo 2^52) of the engine's stream. -/
def Core.draw (c : Core) (d : Nat) : BitVec 32 :=
  rngDraw (c.sysGet 0x1BD).toNat (c.sysGet 0x1BE).toNat (fld (c.sysGet 0x1BF) 52 12) (d % 2 ^ 52)

/-- The rounding mode of element i under `VTYPE.RM`. -/
def Core.vecMode (c : Core) (t : VT) (d i : Nat) : RMode :=
  if t.rm = 1 then .zero else if t.rm = 2 then .stoch (c.draw (d + i)) else .near

/-! Element-wise instructions. -/

/-- What an element-wise instruction computes: the result and its flags, from the mode, the element width, a,
b and the destination's old element. -/
abbrev EltFn := RMode → Nat → Nat → Nat → Nat → Nat × FFlags

/-- An element-wise instruction of opcodes 0x23 to 0x25. -/
def eltWise (e : Fin 104) (o : VR) (okType : VT → Bool) (binary rounds : Bool) (f : VT → EltFn) (s : State) : Res :=
  seqInstr 1 4 1 e (do
    let c ← getC
    let t := c.vt
    need (okType t && maskOk o.vm o.ms && groupOk o.vd.toNat t.g && groupOk o.va.toNat t.g)
    need (if binary then (if o.sc then decide (o.vb = 0#5) else groupOk o.vb.toNat t.g)
      else !o.sc && decide (o.vb = 0#5))
    let sc : Nat × FFlags ← (do if o.sc then scalarElt t else return (0, FFlags.none))
    let d ← (do if rounds && decide (t.rm = 2) then reserveDraws t.vl else return 0)
    let res (i : Nat) : Nat × FFlags :=
      f t (c.vecMode t d i) t.ew (c.elt o.va.toNat t.ew i) (if o.sc then sc.1 else c.elt o.vb.toNat t.ew i)
        (c.elt o.vd.toNat t.ew i)
    let fl := (List.range t.vl).foldl (fun a i => if c.active o i then a.or (res i).2 else a) sc.2
    modC (fun k => { k with v := (c.putElts o o.vd.toNat t.ew (fun i => some (res i).1)).v })
    vecDone true fl) s

/-- An integer instruction of opcode 0x23: no flag (R167). -/
def vecInt (e : Fin 104) (o : VR) (f : Nat → Nat → Nat → Nat) (s : State) : Res :=
  eltWise e o VT.isInt true false (fun _ _ w a b _ => (f w a b % 2 ^ w, FFlags.none)) s

/-- Saturation of an integer to w bits, signed or unsigned. -/
def satS (w : Nat) (i : Int) : Nat :=
  let hi : Int := 2 ^ (w - 1) - 1
  let lo : Int := -(2 ^ (w - 1) : Int)
  ofInt w (if i > hi then hi else if i < lo then lo else i)

def satU (w : Nat) (i : Int) : Nat := if i < 0 then 0 else if i ≥ (2 ^ w : Int) then 2 ^ w - 1 else i.toNat

/-- Signed quotient and remainder with the corners of R167. -/
def divS (w a b : Nat) : Nat := if b = 0 then 2 ^ w - 1 else ofInt w ((sInt w a).tdiv (sInt w b))
def remS (w a b : Nat) : Nat := if b = 0 then a else ofInt w ((sInt w a).tmod (sInt w b))
def divU (w a b : Nat) : Nat := if b = 0 then 2 ^ w - 1 else a / b
def remU (a b : Nat) : Nat := if b = 0 then a else a % b

def minS (w a b : Nat) : Nat := if sInt w a ≤ sInt w b then a else b
def maxS (w a b : Nat) : Nat := if sInt w a ≤ sInt w b then b else a

def execVadd (e : Fin 104) (o : VR) (s : State) : Res := vecInt e o (fun _ a b => a + b) s
def execVsub (e : Fin 104) (o : VR) (s : State) : Res := vecInt e o (fun w a b => a + 2 ^ w - b) s
def execVmul (e : Fin 104) (o : VR) (s : State) : Res := vecInt e o (fun _ a b => a * b) s
def execVmulh (e : Fin 104) (o : VR) (s : State) : Res :=
  vecInt e o (fun w a b => ofInt (2 * w) (sInt w a * sInt w b) / 2 ^ w) s
def execVmulhu (e : Fin 104) (o : VR) (s : State) : Res := vecInt e o (fun w a b => a * b / 2 ^ w) s
def execVdiv (e : Fin 104) (o : VR) (s : State) : Res := vecInt e o divS s
def execVdivu (e : Fin 104) (o : VR) (s : State) : Res := vecInt e o divU s
def execVrem (e : Fin 104) (o : VR) (s : State) : Res := vecInt e o remS s
def execVremu (e : Fin 104) (o : VR) (s : State) : Res := vecInt e o (fun _ a b => remU a b) s
def execVmin (e : Fin 104) (o : VR) (s : State) : Res := vecInt e o minS s
def execVminu (e : Fin 104) (o : VR) (s : State) : Res := vecInt e o (fun _ a b => if a ≤ b then a else b) s
def execVmax (e : Fin 104) (o : VR) (s : State) : Res := vecInt e o maxS s
def execVmaxu (e : Fin 104) (o : VR) (s : State) : Res := vecInt e o (fun _ a b => if a ≤ b then b else a) s
def execVand (e : Fin 104) (o : VR) (s : State) : Res := vecInt e o (fun _ a b => a &&& b) s
def execVor (e : Fin 104) (o : VR) (s : State) : Res := vecInt e o (fun _ a b => a ||| b) s
def execVxor (e : Fin 104) (o : VR) (s : State) : Res := vecInt e o (fun _ a b => a ^^^ b) s
def execVsll (e : Fin 104) (o : VR) (s : State) : Res := vecInt e o (fun w a b => a * 2 ^ (b % w)) s
def execVsrl (e : Fin 104) (o : VR) (s : State) : Res := vecInt e o (fun w a b => a / 2 ^ (b % w)) s
def execVsra (e : Fin 104) (o : VR) (s : State) : Res :=
  vecInt e o (fun w a b => ofInt w (sInt w a / 2 ^ (b % w))) s
def execVsadd (e : Fin 104) (o : VR) (s : State) : Res := vecInt e o (fun w a b => satS w (sInt w a + sInt w b)) s
def execVsaddu (e : Fin 104) (o : VR) (s : State) : Res := vecInt e o (fun w a b => satU w ((a : Int) + b)) s
def execVssub (e : Fin 104) (o : VR) (s : State) : Res := vecInt e o (fun w a b => satS w (sInt w a - sInt w b)) s
def execVssubu (e : Fin 104) (o : VR) (s : State) : Res := vecInt e o (fun w a b => satU w ((a : Int) - b)) s

/-! Floating point (0x24). -/

/-- A floating-point instruction of two operands, rounded once (R169). -/
def vecFp (e : Fin 104) (o : VR) (f : FVal → FVal → Exact) (s : State) : Res :=
  eltWise e o (fun t => t.fmt.isSome) true true (fun t md _ a b _ =>
    match t.fmt with
    | some k => finish k md (f (decodeF k a) (decodeF k b))
    | none => (0, FFlags.none)) s

/-- A floating-point instruction of operand A alone. -/
def vecFp1 (e : Fin 104) (o : VR) (f : FVal → Exact) (s : State) : Res :=
  eltWise e o (fun t => t.fmt.isSome) false true (fun t md _ a _ _ =>
    match t.fmt with
    | some k => finish k md (f (decodeF k a))
    | none => (0, FFlags.none)) s

def execVfadd (e : Fin 104) (o : VR) (s : State) : Res := vecFp e o addF s
def execVfsub (e : Fin 104) (o : VR) (s : State) : Res := vecFp e o (fun a b => addF a (negF b)) s
def execVfmul (e : Fin 104) (o : VR) (s : State) : Res := vecFp e o mulF s
def execVfdiv (e : Fin 104) (o : VR) (s : State) : Res := vecFp e o divF s
def execVfsqrt (e : Fin 104) (o : VR) (s : State) : Res := vecFp1 e o sqrtF s
def execVfmin (e : Fin 104) (o : VR) (s : State) : Res := vecFp e o (minMaxF false) s
def execVfmax (e : Fin 104) (o : VR) (s : State) : Res := vecFp e o (minMaxF true) s

/-- A NaN without its signal, for the operations that set no flag. DEDUCED (log 14). -/
def hush : FVal → FVal
  | .nan _ => .nan false
  | v => v

def execVfabs (e : Fin 104) (o : VR) (s : State) : Res := vecFp1 e o (fun a => exact (hush (absF a))) s
def execVfneg (e : Fin 104) (o : VR) (s : State) : Res := vecFp1 e o (fun a => exact (hush (negF a))) s

/-! Fused multiply-add (0x25). -/

def vecFma (e : Fin 104) (o : VR) (f : FVal → FVal → FVal → Exact) (s : State) : Res :=
  eltWise e o (fun t => t.fmt.isSome) true true (fun t md _ a b d =>
    match t.fmt with
    | some k => finish k md (f (decodeF k a) (decodeF k b) (decodeF k d))
    | none => (0, FFlags.none)) s

def execVfmacc (e : Fin 104) (o : VR) (s : State) : Res := vecFma e o fmaF s
def execVfnmacc (e : Fin 104) (o : VR) (s : State) : Res := vecFma e o (fun a b d => fmaF (negF a) b (negF d)) s
def execVfmsac (e : Fin 104) (o : VR) (s : State) : Res := vecFma e o (fun a b d => fmaF a b (negF d)) s
def execVfnmsac (e : Fin 104) (o : VR) (s : State) : Res := vecFma e o (fun a b d => fmaF (negF a) b d) s
def execVmacc (e : Fin 104) (o : VR) (s : State) : Res :=
  eltWise e o VT.isInt true false (fun _ _ w a b d => ((a * b + d) % 2 ^ w, FFlags.none)) s
def execVnmsac (e : Fin 104) (o : VR) (s : State) : Res :=
  eltWise e o VT.isInt true false (fun _ _ w a b d => (ofInt w ((d : Int) - a * b), FFlags.none)) s

/-! Compares into a mask (0x26). -/

/-- Bits of a mask from `VSTART` to `VL` written: active ones by `f`, the others under `VTYPE.MU`. -/
def Core.putMask (c : Core) (o : VR) (n : Nat) (f : Nat → Bool) : Core :=
  let t := c.vt
  c.setMreg n ((List.range t.vl).foldl (fun m i =>
    if i < t.vstart then m
    else if c.active o i then setBit m i (f i)
    else if t.mu then setBit m i false else m) (c.mreg n))

/-- A compare (R171). -/
def vecCmp (e : Fin 104) (o : VR) (okType : VT → Bool) (f : VT → Nat → Nat → Bool × FFlags) (s : State) : Res :=
  seqInstr 1 4 1 e (do
    let c ← getC
    let t := c.vt
    need (okType t && maskOk o.vm o.ms && maskReg o.vd && groupOk o.va.toNat t.g)
    need (if o.sc then decide (o.vb = 0#5) else groupOk o.vb.toNat t.g)
    let sc : Nat × FFlags ← (do if o.sc then scalarElt t else return (0, FFlags.none))
    let res (i : Nat) : Bool × FFlags :=
      f t (c.elt o.va.toNat t.ew i) (if o.sc then sc.1 else c.elt o.vb.toNat t.ew i)
    let fl := (List.range t.vl).foldl (fun a i => if c.active o i then a.or (res i).2 else a) sc.2
    modC (fun k => { k with m := (c.putMask o o.vd.toNat (fun i => (res i).1)).m })
    vecDone true fl) s

def cmpInt (e : Fin 104) (o : VR) (f : Nat → Nat → Nat → Bool) (s : State) : Res :=
  vecCmp e o VT.isInt (fun t a b => (f t.ew a b, FFlags.none)) s

def execVmseq (e : Fin 104) (o : VR) (s : State) : Res := cmpInt e o (fun _ a b => decide (a = b)) s
def execVmsne (e : Fin 104) (o : VR) (s : State) : Res := cmpInt e o (fun _ a b => decide (a ≠ b)) s
def execVmslt (e : Fin 104) (o : VR) (s : State) : Res := cmpInt e o (fun w a b => decide (sInt w a < sInt w b)) s
def execVmsle (e : Fin 104) (o : VR) (s : State) : Res := cmpInt e o (fun w a b => decide (sInt w a ≤ sInt w b)) s
def execVmsltu (e : Fin 104) (o : VR) (s : State) : Res := cmpInt e o (fun _ a b => decide (a < b)) s
def execVmsleu (e : Fin 104) (o : VR) (s : State) : Res := cmpInt e o (fun _ a b => decide (a ≤ b)) s
def execVmsgt (e : Fin 104) (o : VR) (s : State) : Res := cmpInt e o (fun w a b => decide (sInt w b < sInt w a)) s
def execVmsgtu (e : Fin 104) (o : VR) (s : State) : Res := cmpInt e o (fun _ a b => decide (b < a)) s

/-- A floating-point compare: `strict` sets NV for any NaN, otherwise for a signalling one only. -/
def cmpFp (e : Fin 104) (o : VR) (strict : Bool) (f : Bool → Ordering → Bool) (s : State) : Res :=
  vecCmp e o (fun t => t.fmt.isSome) (fun t a b =>
    match t.fmt with
    | some k =>
      let x := decodeF k a
      let y := decodeF k b
      let un := isNanV x || isNanV y
      (f un (cmpF x y), if isSNan x || isSNan y || (strict && un) then FFlags.inval else FFlags.none)
    | none => (false, FFlags.none)) s

def execVmfeq (e : Fin 104) (o : VR) (s : State) : Res := cmpFp e o false (fun u r => !u && decide (r = Ordering.eq)) s
def execVmfne (e : Fin 104) (o : VR) (s : State) : Res := cmpFp e o false (fun u r => u || decide (r ≠ Ordering.eq)) s
def execVmflt (e : Fin 104) (o : VR) (s : State) : Res := cmpFp e o true (fun u r => !u && decide (r = Ordering.lt)) s
def execVmfle (e : Fin 104) (o : VR) (s : State) : Res := cmpFp e o true (fun u r => !u && decide (r ≠ Ordering.gt)) s
def execVmfunord (e : Fin 104) (o : VR) (s : State) : Res := cmpFp e o false (fun u _ => u) s

/-! Mask logic (0x27). -/

/-- The fields of a mask instruction: masks in bits [2:0], no element mask, no scalar form. -/
def maskFields (o : VR) : Bool :=
  maskReg o.vd && maskReg o.va && maskReg o.vb && !o.vm && decide (o.ms = 0#3) && !o.sc

/-- A mask operation on bits `VSTART` to `VL` − 1 (R172). -/
def maskOp (e : Fin 104) (o : VR) (one : Bool) (f : Bool → Bool → Bool) (s : State) : Res :=
  seqInstr 1 4 1 e (do
    let c ← getC
    need (maskFields o && (!one || decide (o.vb = 0#5)))
    modC (fun k => { k with m := (c.putMask { o with vm := false } o.vd.toNat (fun i =>
      f (bit (c.mreg o.va.toNat) i) (bit (c.mreg o.vb.toNat) i))).m })
    vecDone true FFlags.none) s

def execMand (e : Fin 104) (o : VR) (s : State) : Res := maskOp e o false (· && ·) s
def execMor (e : Fin 104) (o : VR) (s : State) : Res := maskOp e o false (· || ·) s
def execMxor (e : Fin 104) (o : VR) (s : State) : Res := maskOp e o false (· != ·) s
def execMandn (e : Fin 104) (o : VR) (s : State) : Res := maskOp e o false (fun a b => a && !b) s
def execMnot (e : Fin 104) (o : VR) (s : State) : Res := maskOp e o true (fun a _ => !a) s
def execMset (e : Fin 104) (o : VR) (s : State) : Res := maskOp e o false (fun _ _ => true) s
def execMclr (e : Fin 104) (o : VR) (s : State) : Res := maskOp e o false (fun _ _ => false) s

/-- A mask's summary into `ACC`. -/
def maskToAcc (e : Fin 104) (o : VR) (f : BitVec 8192 → Nat → W64) (s : State) : Res :=
  seqInstr 1 4 1 e (do
    let c ← getC
    need (maskFields o)
    notResumable c.vt
    setAcc (f (c.mreg o.va.toNat) c.vt.vl) 1#4
    vecDone false FFlags.none) s

def execMpopc (e : Fin 104) (o : VR) (s : State) : Res :=
  maskToAcc e o (fun m n => w64 ((List.range n).filter (fun i => bit m i)).length) s
def execMfirst (e : Fin 104) (o : VR) (s : State) : Res :=
  maskToAcc e o (fun m n => match (List.range n).find? (fun i => bit m i) with
    | some i => w64 i
    | none => 0xFFFFFFFFFFFFFFFF#64) s

/-! Moves and permutations (0x28). -/

/-- Writes group VD from `f` for the active elements. -/
def putGroup (c : Core) (o : VR) (f : Nat → Option Nat) : EM Unit :=
  modC (fun k => { k with v := (c.putElts o o.vd.toNat c.vt.ew f).v })

def execVbcast (e : Fin 104) (o : VR) (s : State) : Res :=
  seqInstr 1 4 1 e (do
    let c ← getC
    need (maskOk o.vm o.ms && groupOk o.vd.toNat c.vt.g && !o.sc)
    let x ← scalarElt c.vt
    putGroup c o (fun _ => some x.1)
    vecDone true x.2) s

/-- `vext`, `vextu`: element `IX0` of a into `ACC` (R173). -/
def extract (e : Fin 104) (o : VR) (sign : Bool) (s : State) : Res :=
  seqInstr 1 4 1 e (do
    let c ← getC
    let t := c.vt
    need (!o.vm && decide (o.ms = 0#3) && groupOk o.va.toNat t.g && !o.sc)
    notResumable t
    let i ← indexReg c.ix0
    let x := c.elt o.va.toNat t.ew i.toNat
    match t.fmt with
    | none => do
      let v := if sign then BitVec.ofInt 64 (sInt t.ew x) else w64 x
      setAcc (if i.toNat < t.vl then v else 0#64) 1#4
      vecDone false FFlags.none
    | some k =>
      if i.toNat < t.vl then do
        let r := encodeF fmt64 .near (decodeF k x)
        setAcc (if isNanV (decodeF k x) then 0x7FF8000000000000#64 else w64 r.1) 2#4
        vecDone true r.2
      else do
        setAcc 0#64 2#4
        vecDone true FFlags.none) s

def execVext (e : Fin 104) (o : VR) (s : State) : Res := extract e o true s
def execVextu (e : Fin 104) (o : VR) (s : State) : Res := extract e o false s

def execVins (e : Fin 104) (o : VR) (s : State) : Res :=
  seqInstr 1 4 1 e (do
    let c ← getC
    let t := c.vt
    need (!o.vm && decide (o.ms = 0#3) && groupOk o.vd.toNat t.g && !o.sc)
    notResumable t
    let x ← scalarElt t
    let i ← indexReg c.ix0
    if i.toNat < t.vl then modC (fun k => k.setElt o.vd.toNat t.ew i.toNat x.1)
    vecDone true x.2) s

def execVmv (e : Fin 104) (o : VR) (s : State) : Res :=
  seqInstr 1 4 1 e (do
    let c ← getC
    let t := c.vt
    need (maskOk o.vm o.ms && groupOk o.vd.toNat t.g && groupOk o.va.toNat t.g && !o.sc)
    putGroup c o (fun i => some (c.elt o.va.toNat t.ew i))
    vecDone true FFlags.none) s

/-- A slide by the unsigned count in `ACC` (R173, R174). DEDUCED (log 15). -/
def slide (e : Fin 104) (o : VR) (f : VT → Nat → Nat → Option (Option Nat)) (s : State) : Res :=
  seqInstr 1 4 1 e (do
    let c ← getC
    let t := c.vt
    need (maskOk o.vm o.ms && groupOk o.vd.toNat t.g && groupOk o.va.toNat t.g && !o.sc &&
      !groupsMeet o.vd.toNat t.g o.va.toNat t.g)
    notResumable t
    let n ← indexReg c.acc
    putGroup c o (fun i => match f t n.toNat i with
      | some (some j) => some (c.elt o.va.toNat t.ew j)
      | some none => some 0
      | none => none)
    vecDone true FFlags.none) s

def execVslideup (e : Fin 104) (o : VR) (s : State) : Res :=
  slide e o (fun _ n i => if n ≤ i then some (some (i - n)) else none) s
def execVslidedown (e : Fin 104) (o : VR) (s : State) : Res :=
  slide e o (fun t n i => if i + n < t.vlmax then some (some (i + n)) else some none) s

def execVrgather (e : Fin 104) (o : VR) (s : State) : Res :=
  seqInstr 1 4 1 e (do
    let c ← getC
    let t := c.vt
    need (maskOk o.vm o.ms && groupOk o.vd.toNat t.g && groupOk o.va.toNat t.g && groupOk o.vb.toNat t.g && !o.sc &&
      !groupsMeet o.vd.toNat t.g o.va.toNat t.g && !groupsMeet o.vd.toNat t.g o.vb.toNat t.g)
    notResumable t
    putGroup c o (fun i =>
      let j := c.elt o.vb.toNat t.ew i
      some (if j < t.vlmax then c.elt o.va.toNat t.ew j else 0))
    vecDone true FFlags.none) s

/-- `vcompress`: the active elements of a, packed; their count into `ACC`. -/
def execVcompress (e : Fin 104) (o : VR) (s : State) : Res :=
  seqInstr 1 4 1 e (do
    let c ← getC
    let t := c.vt
    need (o.vm && groupOk o.vd.toNat t.g && groupOk o.va.toNat t.g && !o.sc &&
      !groupsMeet o.vd.toNat t.g o.va.toNat t.g)
    notResumable t
    let l := (List.range t.vl).filter (c.active o)
    modC (fun k => (offsets' l).foldl (fun k2 p => k2.setElt o.vd.toNat t.ew p.1 (c.elt o.va.toNat t.ew p.2)) k)
    setAcc (w64 l.length) 1#4
    vecDone true FFlags.none) s
where
  /-- The list with positions. -/
  offsets' (l : List Nat) : List (Nat × Nat) := (List.range l.length).zip l

def execViota (e : Fin 104) (o : VR) (s : State) : Res :=
  seqInstr 1 4 1 e (do
    let c ← getC
    let t := c.vt
    need (maskOk o.vm o.ms && groupOk o.vd.toNat t.g && maskReg o.va && !o.sc)
    notResumable t
    putGroup c o (fun i => some (((List.range i).filter (fun j => bit (c.mreg o.va.toNat) j)).length))
    vecDone true FFlags.none) s

def execVid (e : Fin 104) (o : VR) (s : State) : Res :=
  seqInstr 1 4 1 e (do
    let c ← getC
    need (maskOk o.vm o.ms && groupOk o.vd.toNat c.vt.g && !o.sc)
    putGroup c o (fun i => some i)
    vecDone true FFlags.none) s

/-! Conversions (0x29, R175). -/

/-- One side of a conversion: a floating-point format or a signed integer of some width. -/
inductive Side where
  | fp (f : Fmt) (w : Nat)
  | int (w : Nat)
deriving DecidableEq, Repr

def Side.width : Side → Nat
  | .fp _ w => w
  | .int w => w

/-- The side of an ETYPE. -/
def etSide (t : Nat) : Option Side :=
  match etFmt t with
  | some f => some (.fp f (etWidth t))
  | none => if t ≤ 3 then some (.int (etWidth t)) else none

/-- The side of a format code; block-scaled and absent codes have none. -/
def codeSide (k : Nat) : Option Side :=
  if k = 8 then some (.int 8)
  else if k = 9 then some (.int 4)
  else if k ≤ 7 then (codeFmt k 0).map (fun f => .fp f (codeWidth k))
  else none

/-- Conversion to an integer of w bits: toward zero, saturating, a NaN gives 0; flags by R271. DEDUCED (log 15). -/
def toIntV (w : Nat) (a : FVal) : Nat × FFlags :=
  let r := toIntF w a
  let ovr := match a with
    | .fin _ _ _ => r.2.nv
    | _ => false
  (ofInt w r.1, if ovr then ⟨false, false, true, false, true⟩ else r.2)

/-- One element converted. -/
def convert (src dst : Side) (md : RMode) (x : Nat) : Nat × FFlags :=
  match src, dst with
  | .fp f _, .fp g _ => encodeF g md (decodeF f x)
  | .int w, .fp g _ => encodeF g md (intF (sInt w x))
  | .fp f _, .int w => toIntV w (decodeF f x)
  | .int v, .int w => (satS w (sInt v x), FFlags.none)

/-- A conversion whose sides are chosen by the type in force and the FN code; S = FN[6] is part of the kind.
DEDUCED (log 15). -/
def vecCvt (e : Fin 104) (o : VR) (draws : Bool) (sides : Nat → Option (Side × Side)) (s : State) : Res :=
  seqInstr 1 4 1 e (do
    let c ← getC
    let t := c.vt
    match sides t.et with
    | none => illegal
    | some (a, b) => do
      let ga := if a.width = t.ew then t.g else t.groupFor a.width
      let gb := if b.width = t.ew then t.g else t.groupFor b.width
      need (maskOk o.vm o.ms && groupOk o.va.toNat ga && groupOk o.vd.toNat gb)
      let d ← (do if draws && decide (t.rm = 2) then reserveDraws t.vl else return 0)
      let res (i : Nat) : Nat × FFlags := convert a b (c.vecMode t d i) (c.elt o.va.toNat a.width i)
      let fl := (List.range t.vl).foldl (fun x i => if c.active o i then x.or (res i).2 else x) FFlags.none
      modC (fun k => { k with v := (c.putElts o o.vd.toNat b.width (fun i => some (res i).1)).v })
      vecDone true fl) s

/-- The two sides are of one kind. -/
def sameKind : Side → Side → Bool
  | .fp _ _, .fp _ _ => true
  | .int _, .int _ => true
  | _, _ => false

/-- A pairing of the type in force with another side, kept where `ok` allows it. -/
def pairSides (et : Nat) (other : Option Side) (ok : Side → Side → Bool) : Option (Side × Side) :=
  match etSide et, other with
  | some a, some b => if ok a b then some (a, b) else none
  | _, _ => none

def execVcvtW (e : Fin 104) (o : VR) (ty : BitVec 4) (s : State) : Res :=
  vecCvt e o true (fun et => (pairSides et (codeSide ty.toNat) sameKind).map (fun p => (p.2, p.1))) s
def execVcvtN (e : Fin 104) (o : VR) (ty : BitVec 4) (s : State) : Res :=
  vecCvt e o true (fun et => pairSides et (codeSide ty.toNat) sameKind) s
def execVcvtIf (e : Fin 104) (o : VR) (ty : BitVec 4) (s : State) : Res :=
  vecCvt e o true (fun et => (pairSides et (if ty.toNat ≤ 3 then etSide ty.toNat else none)
    (fun a b => !sameKind a b)).map (fun p => (p.2, p.1))) s
def execVcvtFi (e : Fin 104) (o : VR) (ty : BitVec 4) (s : State) : Res :=
  vecCvt e o false (fun et => pairSides et (if ty.toNat ≤ 3 then etSide ty.toNat else none) (fun a b => !sameKind a b)) s
def execVcvtFf (e : Fin 104) (o : VR) (ty : BitVec 4) (s : State) : Res :=
  vecCvt e o true (fun et => (pairSides et (if 4 ≤ ty.toNat then etSide ty.toNat else none) sameKind).map (fun p => (p.2, p.1))) s

/-! Length and type (0x20, R165). -/

/-- A `VTYPE` value that R153 accepts. -/
def vtypeOk (v : W64) : Bool := decide (v &&& ~~~ 0x383F#64 = 0#64) && decide (fld v 0 4 ≤ 6) && decide (fld v 12 2 ≠ 3)

/-- `VTYPE` written; `VL` falls to the new VLMAX (R152). -/
def Core.setVtype (c : Core) (v : W64) : Core :=
  let c1 := c.sysSet 0x101 v
  let t := c1.vt
  if t.vlmax < t.vl then c1.sysSet 0x100 (w64 t.vlmax) else c1

/-- `vsetvl` and `vsetvlmax`. -/
def setLength (e : Fin 104) (o : SOp) (useCount : Bool) (s : State) : Res :=
  seqInstr 1 (lenOf o) 1 e (do
    let _ ← form o
    let n : Nat ← (do if useCount then return (← useAcc .sub).toNat else return 0)
    let v := (← operand o .sub).v
    need (vtypeOk v)
    modC (fun c =>
      let c1 := c.setVtype v
      let m := c1.vt.vlmax
      let vl := if useCount then (if n < m then n else m) else m
      { (c1.sysSet 0x100 (w64 vl)) with acc := ⟨w64 vl, 1#4⟩ })
    vecDone true FFlags.none) s

def execVsetvl (e : Fin 104) (o : SOp) (s : State) : Res := setLength e o true s
def execVsetvlmax (e : Fin 104) (o : SOp) (s : State) : Res := setLength e o false s

end Sys2Proof.Machine
end

