-- ==== Sys2Proof/Machine/Reduce.lean ====
section
/-!
DEFINITION. Vector reductions and single-pass statistics (chapter 04, opcodes 0x2A and 0x2B; R192 to R199).
-/

namespace Sys2Proof.Machine

/-! The tree (R192). -/

/-- A combining operation with the flags of its roundings. -/
abbrev RedOp (α : Type) := α → α → α × FFlags

/-- One level: neighbours combined; an absent side leaves the other. -/
def redLevel {α : Type} (f : RedOp α) : List (Option α) → List (Option α) × FFlags
  | [] => ([], FFlags.none)
  | [x] => ([x], FFlags.none)
  | x :: y :: r =>
    let t := redLevel f r
    match x, y with
    | some a, some b => let z := f a b; (some z.1 :: t.1, z.2.or t.2)
    | some a, none => (some a :: t.1, t.2)
    | none, b => (b :: t.1, t.2)

/-- `n` levels. -/
def redLevels {α : Type} (f : RedOp α) : Nat → List (Option α) → FFlags → List (Option α) × FFlags
  | 0, l, fl => (l, fl)
  | n + 1, l, fl => let r := redLevel f l; redLevels f n r.1 (fl.or r.2)

/-- The tree over 8192 positions, of which those past the end of the list are absent; the initial value is
the left operand of the last step, and the result where no element is active. -/
def redTree {α : Type} (f : RedOp α) (init : α) (l : List (Option α)) : Option α × FFlags :=
  match redLevels f 13 l FFlags.none with
  | (some y :: _, fl) => let z := f init y; (some z.1, fl.or z.2)
  | (_, fl) => (none, fl)

/-- The leaves: the value of each active element. -/
def redLeaves {α : Type} (c : Core) (o : VR) (t : VT) (leaf : Nat → α) : List (Option α) :=
  (List.range t.vl).map (fun i => if c.active o i then some (leaf (c.elt o.va.toNat t.ew i)) else none)

/-- The checks of a reduction (R163, R194). -/
def redOk (o : VR) (t : VT) : Bool :=
  maskOk o.vm o.ms && !o.sc && groupOk o.va.toNat t.g

/-- The low w bits of VD take a value; the others stay. -/
def Core.putLow (c : Core) (n w v : Nat) : Core := c.setVreg n (setFld (c.vreg n) 0 w v)

/-- A reduction over integers of width w: leaves by `leaf`, result of `rw` bits with the initial value in the
low bits of VB. -/
def redInt (e : Fin 104) (o : VR) (leaf : Nat → Nat → Nat) (wide : Bool) (f : Nat → Nat → Nat → Nat) (s : State) : Res :=
  seqInstr 1 4 1 e (do
    let c ← getC
    let t := c.vt
    need (redOk o t && t.isInt)
    notResumable t
    let rw := if wide then 64 else t.ew
    let init := fld (c.vreg o.vb.toNat) 0 rw
    let r := redTree (fun a b => (f rw a b % 2 ^ rw, FFlags.none)) init (redLeaves c o t (leaf t.ew))
    modC (fun k => k.putLow o.vd.toNat rw (r.1.getD init))
    vecDone true FFlags.none) s

/-- Rounds a result into a format and reads it back. -/
def redRound (k : Fmt) (x : Exact) : FVal × FFlags :=
  let r := finish k .near x
  (decodeF k r.1, r.2)

/-- A floating-point reduction: the format of its operations and result, the leaf with its flags. -/
def redFp (e : Fin 104) (o : VR) (wide : Bool) (leaf : FVal → FVal × FFlags) (f : FVal → FVal → Exact) (tree : Bool)
    (s : State) : Res :=
  seqInstr 1 4 1 e (do
    let c ← getC
    let t := c.vt
    need (redOk o t && t.fmt.isSome)
    notResumable t
    let k := t.fmt.getD fmt32
    let rk := if wide then fmt32 else k
    let rw := if wide then 32 else t.ew
    let bits := fld (c.vreg o.vb.toNat) 0 rw
    let init := decodeF rk bits
    let raw := redLeaves c o t (fun x => leaf (decodeF k x))
    let lfl := raw.foldl (fun a x => match x with | some y => a.or y.2 | none => a) FFlags.none
    let ls := raw.map (fun x => x.map (fun y => y.1))
    let op : RedOp FVal := fun a b => redRound rk (f a b)
    let r : Option FVal × FFlags :=
      if tree then redTree op init ls
      else ls.foldl (fun acc x => match x with
        | some y => let z := op (acc.1.getD init) y; (some z.1, acc.2.or z.2)
        | none => acc) (none, FFlags.none)
    let v := match r.1 with
      | some y => (encodeF rk .near y).1
      | none => bits
    modC (fun q => q.putLow o.vd.toNat rw v)
    vecDone true (lfl.or r.2)) s

/-- A leaf as it is. -/
def leafId (x : FVal) : FVal × FFlags := (x, FFlags.none)

def execVredsum (e : Fin 104) (o : VR) (s : State) : Res :=
  if (s.w.eng e.val).core.vt.isInt then redInt e o (fun w x => ofInt 64 (sInt w x)) true (fun _ a b => a + b) s
  else redFp e o true leafId addF true s

def execVredsumu (e : Fin 104) (o : VR) (s : State) : Res := redInt e o (fun _ x => x) true (fun _ a b => a + b) s
def execVredosum (e : Fin 104) (o : VR) (s : State) : Res := redFp e o true leafId addF false s
def execVredssq (e : Fin 104) (o : VR) (s : State) : Res :=
  redFp e o true (fun x => redRound fmt32 (mulF x x)) addF true s

def execVredmin (e : Fin 104) (o : VR) (s : State) : Res :=
  if (s.w.eng e.val).core.vt.isInt then redInt e o (fun _ x => x) false minS s
  else redFp e o false leafId (minMaxF false) true s

def execVredmax (e : Fin 104) (o : VR) (s : State) : Res :=
  if (s.w.eng e.val).core.vt.isInt then redInt e o (fun _ x => x) false maxS s
  else redFp e o false leafId (minMaxF true) true s

def execVredminu (e : Fin 104) (o : VR) (s : State) : Res :=
  redInt e o (fun _ x => x) false (fun _ a b => if a ≤ b then a else b) s
def execVredmaxu (e : Fin 104) (o : VR) (s : State) : Res :=
  redInt e o (fun _ x => x) false (fun _ a b => if a ≤ b then b else a) s
def execVredand (e : Fin 104) (o : VR) (s : State) : Res := redInt e o (fun _ x => x) false (fun _ a b => a &&& b) s
def execVredor (e : Fin 104) (o : VR) (s : State) : Res := redInt e o (fun _ x => x) false (fun _ a b => a ||| b) s
def execVredxor (e : Fin 104) (o : VR) (s : State) : Res := redInt e o (fun _ x => x) false (fun _ a b => a ^^^ b) s

/-! Statistics (R197 to R199). -/

/-- A triple: the FP32 patterns of count, mean and sum of squared deviations. -/
structure Triple where
  n : Nat
  mu : Nat
  m2 : Nat
deriving DecidableEq, Repr

/-- The triple in bits [95:0] (R197). -/
def tripleOf (x : Nat) : Triple := ⟨x % 2 ^ 32, x / 2 ^ 32 % 2 ^ 32, x / 2 ^ 64 % 2 ^ 32⟩

def Triple.bits (t : Triple) : Nat := t.n + 2 ^ 32 * t.mu + 2 ^ 64 * t.m2

def dec32 (x : Nat) : FVal := decodeF fmt32 x

def isZeroV : FVal → Bool
  | .fin _ m _ => decide (m = 0)
  | _ => false

/-- A value rounded to FP32 to nearest-even. -/
def round32 (x : Exact) : Nat × FFlags := finish fmt32 .near x

/-- The merge of two triples, each step rounded to FP32 (R197). -/
def mergeT : RedOp Triple := fun a b =>
  if isZeroV (dec32 a.n) then (b, FFlags.none)
  else if isZeroV (dec32 b.n) then (a, FFlags.none)
  else
    let n := round32 (addF (dec32 a.n) (dec32 b.n))
    let d := round32 (addF (dec32 b.mu) (negF (dec32 a.mu)))
    let f := round32 (divF (dec32 b.n) (dec32 n.1))
    let mu := round32 (fmaF (dec32 d.1) (dec32 f.1) (dec32 a.mu))
    let g := round32 (mulF (dec32 a.n) (dec32 f.1))
    let t := round32 (mulF (dec32 d.1) (dec32 g.1))
    let mm := round32 (addF (dec32 a.m2) (dec32 b.m2))
    let m := round32 (fmaF (dec32 d.1) (dec32 t.1) (dec32 mm.1))
    (⟨n.1, mu.1, m.1⟩, ((((((n.2.or d.2).or f.2).or mu.2).or g.2).or t.2).or mm.2).or m.2)

/-- The leaf (1, x, 0) of an element. -/
def leafT (k : Fmt) (x : Nat) : Triple × FFlags :=
  let r := if k = fmt32 then (x, FFlags.none) else encodeF fmt32 .near (decodeF k x)
  (⟨0x3F800000, r.1, 0⟩, r.2)

/-- `vstat`. -/
def execVstat (e : Fin 104) (o : VR) (s : State) : Res :=
  seqInstr 1 4 1 e (do
    let c ← getC
    let t := c.vt
    need (redOk o t && t.fmt.isSome)
    notResumable t
    let raw := redLeaves c o t (leafT (t.fmt.getD fmt32))
    let lfl := raw.foldl (fun a x => match x with | some y => a.or y.2 | none => a) FFlags.none
    let bits := fld (c.vreg o.vb.toNat) 0 96
    let r := redTree mergeT (tripleOf bits) (raw.map (fun x => x.map (fun y => y.1)))
    let v := match r.1 with
      | some y => y.bits
      | none => bits
    modC (fun q => q.putLow o.vd.toNat 96 v)
    vecDone true (lfl.or r.2)) s

/-- `vstatm`: two triples, no element mask. -/
def execVstatm (e : Fin 104) (o : VR) (s : State) : Res :=
  seqInstr 1 4 1 e (do
    let c ← getC
    let t := c.vt
    need (!o.vm && decide (o.ms = 0#3) && !o.sc && t.fmt.isSome)
    notResumable t
    let r := mergeT (tripleOf (fld (c.vreg o.va.toNat) 0 96)) (tripleOf (fld (c.vreg o.vb.toNat) 0 96))
    modC (fun q => q.putLow o.vd.toNat 96 r.1.bits)
    vecDone true r.2) s

end Sys2Proof.Machine
end

