-- ==== Sys2Proof/Machine/AtomUnit.lean ====
section
/-!
DEFINITION. The atomic unit of the piers (chapter 11): what each operation computes (R456, R458, R282), the
checks at the target (R444, R454, R457), EXA128 saturation (R459).
-/

namespace Sys2Proof.Machine

/-! Lanes. -/

/-- Lane width in bytes of an operation (R447). -/
def lanew (aop : Nat) : Nat :=
  if aop = 0 ∨ aop = 2 then 4
  else if aop = 1 ∨ (3 ≤ aop ∧ aop ≤ 7) then 8
  else if aop = 8 ∨ aop = 10 ∨ aop = 11 then 4
  else if aop = 9 then 2
  else 16

/-- Target size of the element form (R447). -/
def elemSize (aop : Nat) : Nat := lanew aop

/-- A floating-point lane operation, rounded once to nearest-even. -/
def laneFp (k : Fmt) (f : FVal → FVal → Exact) (a b : Nat) : Nat := (finish k .near (f (decodeF k a) (decodeF k b))).1

/-- A value in units 2^E rounded to the nearest integer, ties to even (R282). -/
def exaRound (m : Nat) (k : Int) : Nat :=
  if 0 ≤ k then m * 2 ^ k.toNat
  else
    let d := 2 ^ (-k).toNat
    let q := m / d
    let r := m % d
    if 2 * r < d then q else if d < 2 * r then q + 1 else q + q % 2

/-- An integer held in the range of EXA128, and whether it saturated (R281, R282). -/
def exaSat (i : Int) : Int × Bool :=
  if i > 2 ^ 127 - 1 then (2 ^ 127 - 1, true)
  else if i < -(2 ^ 127 : Int) then (-(2 ^ 127 : Int), true)
  else (i, false)

/-- Conversion into EXA128 in units 2^E (R282). -/
def exaConv (x : FVal) (ex : Int) : Int × Bool :=
  match x with
  | .nan _ => (2 ^ 127 - 1, true)
  | .inf neg => (if neg then -(2 ^ 127 : Int) else 2 ^ 127 - 1, true)
  | .fin neg m e =>
    let n : Int := exaRound m (e - ex)
    exaSat (if neg then -n else n)

/-- Addition in EXA128: the sum, and whether the addend or the sum saturated. -/
def exaAdd (old : Nat) (x : Int × Bool) : Nat × Bool :=
  let s := exaSat (sInt 128 old + x.1)
  (ofInt 128 s.1, x.2 || s.2)

/-- What a lane becomes (R456), from its old value, the operand and the compare value. -/
def laneOp (aop : Nat) (old b cmp : Nat) : Nat :=
  match aop with
  | 0 => (old + b) % 2 ^ 32
  | 1 => (old + b) % 2 ^ 64
  | 2 | 3 => if old = cmp then b else old
  | 4 => minS 64 old b
  | 5 => maxS 64 old b
  | 6 => if old ≤ b then old else b
  | 7 => if old ≤ b then b else old
  | 8 => laneFp fmt32 addF old b
  | 9 => laneFp fmtBf16 addF old b
  | 10 => laneFp fmt32 (minMaxF false) old b
  | 11 => laneFp fmt32 (minMaxF true) old b
  | 14 => (mergeT (tripleOf old) (tripleOf b)).1.bits + old / 2 ^ 96 * 2 ^ 96
  | _ => old

/-- A list cut into pieces of n bytes, as numbers. -/
def piecesOf (n : Nat) (l : List Byte) : List Nat := (List.range (l.length / n)).map (fun i => leNat ((l.drop (n * i)).take n))

/-- The addends of an EXA128 atomic: FP32 lanes of `xadd` in line form, a binary64 or integer operand in
element form, EXA128 lanes of `xaddx`. -/
def exaAddends (r : AtomReq) (ex : Int) : List (Int × Bool) :=
  if r.aop = 13 then (piecesOf 16 r.operand).map (fun x => (sInt 128 x, false))
  else if r.line then (piecesOf 4 r.operand).map (fun x => exaConv (decodeF fmt32 x) ex)
  else
    let x := leNat r.operand
    [exaConv (if r.isInt then intF (sInt 64 x) else decodeF fmt64 x) ex]

/-- The bytes that the target's old bytes become, and how many lanes saturated. -/
def atomBytes (r : AtomReq) (ex : Int) (old : List Byte) : List Byte × Nat :=
  let n := lanew r.aop
  let ls := piecesOf n old
  if r.aop = 12 ∨ r.aop = 13 then
    let z := List.zipWith exaAdd ls (exaAddends r ex)
    ((z.map (fun x => leBytes 16 x.1)).flatten, (z.filter (fun x => x.2)).length)
  else
    let bs := piecesOf n r.operand
    ((List.zipWith (fun a b => leBytes n (laneOp r.aop a b r.cmp.toNat)) ls bs).flatten, 0)

/-! The unit. -/

/-- What an atomic unit finds: why it refuses (R454), or the old value. -/
inductive AtomOutcome where
  | done (old : Nat)
  | refused (status : Byte)
deriving DecidableEq, Repr

/-- The header line at a local offset (R457): the scale exponent, unless it is malformed or out of reach.
DEDUCED (log 20). -/
def atomHeader (a : Anat) (w : World) (d : Byte) (hdr : W64) : Option (Nat × Int) :=
  match localOff w hdr with
  | none => none
  | some o =>
    if region o ≠ .hbm ∨ o % 128 ≠ 0 ∨ (hbmStatus a w o).isSome ∨ (poisonIn w.mem w.ks w.places o 128).isSome then none
    else
      let b := rdBytes w.mem w.ks d o 128
      let w0 := wordAt b 0
      let rest := (List.range 13).all (fun i => decide (wordAt b (i + 3) = 0#64))
      if fld w0 0 4 = 1 ∧ fld w0 4 12 = 0 ∧ fld w0 32 32 = 0 ∧ fld (wordAt b 1) 1 63 = 0 ∧ fld (wordAt b 2) 48 15 = 0 ∧ rest then
        some (o, sInt 16 (fld w0 16 16))
      else none

/-- Lanes that saturated are recorded in the header (R459). -/
def recordSat (w : World) (cls part : Nat) (d : Byte) (o n : Nat) : World :=
  if n = 0 then w
  else
    let x2 := rdWord w.mem w.ks d (o + 16)
    let sum := fld x2 0 48 + n
    let y2 := if bit x2 63 then x2
      else if sum ≤ 0xFFFFFFFFFFFF then setFld x2 0 48 sum
      else setBit (setFld x2 0 48 0xFFFFFFFFFFFF) 63 true
    let y1 := setBit (rdWord w.mem w.ks d (o + 8)) 0 true
    unitCommit w cls part 7 d .whole (atOff (o + 8) (offsets (leBytes 8 y1.toNat ++ leBytes 8 y2.toNat)))

/-- Performs an atomic at a local HBM offset for a key domain (R442 to R459). -/
def performAtom (a : Anat) (w : World) (r : AtomReq) (off cls part tcls : Nat) (d : Byte) : AtomOutcome × World :=
  let n := if r.line then 128 else elemSize r.aop
  match hbmStatus a w off with
  | some s => (.refused s, w)
  | none =>
    let base := if r.line then off / 128 * 128 else off
    if (List.range 16).any (fun i => inTagged w.places (off / 128 * 128 + 8 * i)) then (.refused 2#8, w)
    else if (poisonIn w.mem w.ks w.places base n).isSome then (.refused 6#8, w)
    else
      let go (ex : Int) (h : Nat) : AtomOutcome × World :=
        let old := rdBytes w.mem w.ks d base n
        let z := atomBytes r ex old
        let w1 := unitCommit w cls part tcls d .whole (atOff base (offsets z.1))
        (.done (leNat old), recordSat w1 cls part d h z.2)
      if r.aop = 12 ∨ r.aop = 13 then
        match atomHeader a w d r.hdr with
        | none => (.refused 2#8, w)
        | some (o, ex) => go ex o
      else go 0 0

end Sys2Proof.Machine
end

