-- ==== Sys2Proof/Machine/StorePerf.lean ====
section
/-!
DEFINITION. Performing the entries of a store buffer: stores and non-returning atomics (R395, R396, R400, R438,
R442, R452, R499), errors of their responses (R141, R142, R727), fences that wait for them (R399).
-/

namespace Sys2Proof.Machine

/-- Two entries touch a common byte. -/
def SbEntry.meets (s t : SbEntry) : Bool := s.data.any (fun b => t.touches (s.ga + w64 b.1) 1)

/-- Entry i may be performed: it has not been sent, no earlier entry touches its bytes (R396), a release store
waits for every earlier access (R400), and side-effect pages keep program order. -/
def Engine.mayPerform (x : Engine) (i : Nat) : Bool :=
  match x.sb[i]? with
  | none => false
  | some s =>
    let before := x.sb.take i
    s.sent.isNone && !(before.any (fun t => s.meets t)) && (!s.rel || decide (i = 0)) && !(s.se && before.any (fun t => t.se))

/-- A fence that waits for the store buffer is done when it is empty (R399). -/
def fenceDone (w : World) (e : Nat) : World :=
  let x := w.eng e
  match x.wait with
  | .fence inval =>
    if x.sb.isEmpty then
      let w1 := if inval then invalN w e else w
      w1.modEng e (fun y => { y with wait := .none })
    else w
  | _ => w

/-- Entry i leaves the store buffer. -/
def sbDone (w : World) (e i : Nat) : World :=
  fenceDone (w.modEng e (fun x => { x with sb := dropAt x.sb i })) e

/-- Entry i leaves with an error response (R141). -/
def sbError (w : World) (e i : Nat) (s : SbEntry) (status : Byte) : World :=
  sbDone (w.modEng e (fun x => x.lateError s.va s.pl s.size status)) e i

/-- Runs of adjacent bytes, in ascending order of address. DEDUCED (log 59). -/
def byteRuns (l : List (Nat × Byte)) (lo hi : Nat) : List (Nat × List Byte) :=
  let at' (o : Nat) : Option Byte := ((l.reverse).find? (fun b => decide (b.1 = o))).map (fun b => b.2)
  let step (acc : List (Nat × List Byte)) (o : Nat) : List (Nat × List Byte) :=
    match at' o with
    | none => acc
    | some b =>
      match acc with
      | (s, bs) :: r => if s + bs.length = o then (s, bs ++ [b]) :: r else (o, [b]) :: (s, bs) :: r
      | [] => [(o, [b])]
  (((List.range (hi - lo)).map (fun k => lo + k)).foldl step []).reverse

/-- Posted writes into host memory for the bytes of an entry (R438). -/
def hostStore (w : World) (s : SbEntry) : World :=
  let iova := fld s.ga 0 48 - 0x800000000000
  (byteRuns s.data 0 64).foldl (fun v r => v.emit (.hostWrite s.fn (iova + r.1) (some s.kdom) r.2)) w

/-- The transaction that carries an atomic to another node (R460, R493). DEDUCED (log 37). -/
def atomTxn (s : SbEntry) (r : AtomReq) : Txn :=
  let n := if r.line then 128 else elemSize r.aop
  { txnOf (if r.line then 5 else 4) s.kdom (fld s.ga 48 12) (fld s.ga 0 48) n with
      data := r.operand, ret := r.ret, aop := r.aop, isInt := r.isInt
      arg := if r.aop = 12 ∨ r.aop = 13 then r.hdr else r.cmp }

/-- Sends entry i to its node. -/
def sbSend (w : World) (e i : Nat) (s : SbEntry) (t : Txn) : World :=
  match sendTxn w (e / 26) t (.store e) with
  | (.error st, w1) => sbError w1 e i s st
  | (.ok tid, w1) => w1.modEng e (fun x => ({ x with sb := lmod x.sb i (fun y => { y with sent := some tid }) }).updateN s.ga s.data)

/-- The response of a returning atomic that reaches its engine: the exception of R454 or the old value. -/
def atomAnswer (remote : Bool) (o : AtomOutcome) : AtomResp :=
  match o with
  | .done v => ⟨0#8, 0#8, v⟩
  | .refused st => if st = 6#8 && !remote then ⟨6#8, 2#8, 0⟩ else ⟨8#8, st, 0⟩

/-- Performs the atomic of entry i at its home pier in this module (R442). -/
def performAtomEntry (a : Anat) (w : World) (e i : Nat) : World :=
  let x := w.eng e
  match x.sb[i]? with
  | some s =>
    match s.atom, localOff w s.ga with
    | some r, some off =>
      if !x.mayPerform i || !dieRuns a (homeDie off * 26) then w
      else
        let z := performAtom a w r off 0 x.part s.tcls s.kdom
        if r.ret then sbDone (z.2.modEng e (fun y => { y with atomResp := some (atomAnswer false z.1) })) e i
        else match z.1 with
          | .done _ => sbDone z.2 e i
          | .refused st => sbError z.2 e i s st
    | _, _ => w
  | none => w

/-- Performs entry i, or sends it on its way. A store to a module register is not performed here. -/
def performStore (a : Anat) (w : World) (e i : Nat) : World :=
  let x := w.eng e
  if !x.mayPerform i || !dieRuns a e then w
  else
    match x.sb[i]? with
    | none => w
    | some s =>
      match s.atom with
      | some r => if (localOff w s.ga).isSome then w else sbSend w e i s (atomTxn s r)
      | none =>
        match placeOf w s.ga with
        | .remote => sbSend w e i s (storeTxn s)
        | .host _ =>
          if w.pcieUp then sbDone ((hostStore w s).modEng e (fun y => y.updateN s.ga s.data)) e i
          else sbError w e i s 4#8
        | .regs _ => w
        | .hbm off =>
          match hbmStatus a w off with
          | none => sbDone (engCommit w e s.cls s.tcls s.kdom s.tag (atOff off s.data)) e i
          | some st => if s.cls = 0 then sbDone w e i else sbError w e i s st
        | .reserved => sbDone w e i

/-- Performs every entry of a store buffer that this module can perform by itself, in order, `n` times over.
DEDUCED (log 72). -/
def drainLocal (a : Anat) (e : Nat) : Nat → World → World
  | 0, w => w
  | n + 1, w =>
    let x := w.eng e
    match (List.range x.sb.length).find? (fun i => x.mayPerform i && (match x.sb[i]? with
        | some s => (match placeOf w s.ga with
          | .remote | .regs _ => false
          | _ => true)
        | none => false)) with
    | none => w
    | some i =>
      let at' := (x.sb[i]?).bind (fun s => s.atom)
      drainLocal a e n (if at'.isSome then performAtomEntry a w e i else performStore a w e i)

/-- The store buffer's local entries are performed. DEDUCED (log 23). -/
def drainE : EM Unit := do
  let env ← read
  modify (fun w => drainLocal env.anat env.e ((w.eng env.e).sb.length) w)

/-- The STATUS of a response as an exception or a late error reports it (R494). -/
def statusReport (s : Byte) : Byte := if s = 7#8 ∨ s = 8#8 then 2#8 else if s = 10#8 then 0#8 else s

/-- `LATE_ERR_APPEND`: entry `idx`, a store that has left the engine, receives an error response. -/
def execLateErrAppend (e : Fin 104) (idx : Nat) (status : Byte) (s : State) : Res :=
  .next { s with w :=
    match (s.w.eng e.val).sb[idx]? with
    | some t =>
      match t.sent with
      | some tid =>
        if statusReport status = 0#8 then s.w
        else sbError (txnDrop s.w tid) e.val idx t (statusReport status)
      | none => s.w
    | none => s.w }

end Sys2Proof.Machine
end

