-- ==== Sys2Proof/Machine/VecMem.lean ====
section
/-!
DEFINITION. Vector loads and stores (chapter 04, opcodes 0x21 and 0x22): addresses (R176), tags (R180, R181),
block stores (R186), faults at an element (R187, R188).
-/

namespace Sys2Proof.Machine

/-- An access the vector or tile unit makes: never to a side-effect page (R182). DEDUCED (log 19). -/
def vectorLoad : LoadKind := ⟨1, false, false, false⟩

/-- A piece of a vector or tile store, checked and translated. -/
structure Piece where
  va : W64
  t : TlbEntry
  ga : W64
  bytes : List Byte
  act : TagAct
deriving DecidableEq, Repr

/-- Checks and translates a store of bytes of one word or line; `guard`: a word tagged KEYH, STAT or CODE is not written
(R181). DEDUCED (log 106). -/
def placePiece (guard : Bool) (va : W64) (bytes : List Byte) : EM Piece := do
  let t ← translate va .store
  let env ← read
  let x ← getE
  let w ← get
  let ga := t.ga va.toNat
  let n := bytes.length
  if t.se then priv 2#8 va
  match placeOf w ga with
  | .reserved => accessErr 1#8 va
  | .regs _ => priv 2#8 va
  | .hbm off =>
    match hbmStatus env.anat w off with
    | some s => accessErr s va
    | none => do
      if t.tagged w then do
        let m := viewMem w x ga n
        let tags := (List.range ((off + n - 1) / 8 - off / 8 + 1)).map (fun i => tagAt m w.ks w.places ((off / 8 + i) * 8))
        if guard && tags.any (fun g => decide (g = 5#4) || decide (g = 6#4) || decide (g = 7#4)) then tagFault va
        return ⟨va, t, ga, bytes, .raw⟩
      else return ⟨va, t, ga, bytes, .whole⟩
  | _ => return ⟨va, t, ga, bytes, .whole⟩

/-- Checks and translates a store of bytes of one word or line by the vector or tile unit (R181, R182, R186). -/
def checkPiece (va : W64) (bytes : List Byte) : EM Piece := placePiece true va bytes

/-- The 64-byte blocks that pieces write, in the order of first write: one store-buffer entry each, whose
address is the lowest byte written (R186, R232). -/
def blockEntries (x : Engine) (cls : Nat) (ps : List Piece) : List SbEntry :=
  ps.foldl (fun (acc : List SbEntry) (p : Piece) =>
    let base : W64 := (p.ga >>> 6) <<< 6
    let d := (offsets p.bytes).map (fun b => ((p.ga - base).toNat + b.1, b.2))
    let same (s : SbEntry) : Bool := decide (s.ga = base) && decide (s.kdom = p.t.kdom) && decide (s.tag = p.act)
    if acc.any same then
      acc.map (fun s => if same s then { s with data := s.data ++ d, va := if p.va.toNat < s.va.toNat then p.va else s.va } else s)
    else
      acc ++ [{ va := p.va, ga := base, kdom := p.t.kdom, data := d, tag := p.act, pl := x.core.pl, size := 6, rel := false
                se := false, cls := cls, tcls := p.t.tcls, fn := x.hostFn p.t.ctx, atom := none, sent := none }]) []

/-- The pieces of one instruction retire: into the store buffer, or into W lines. -/
def retirePieces (cls : Nat) (ps : List Piece) : EM Unit := do
  let x ← getE
  if x.speculating then
    ps.forM (fun p => specStore p.t p.va (offsets p.bytes) p.act ⟨cls, false, false, false⟩)
  else modE (fun y => (blockEntries x cls ps).foldl Engine.pushStore y)

/-- A trap of element i: everything below i stays done, and `VSTART` holds i (R187). -/
def atElement {α : Type} (i : Nat) (va : W64) (done : EM Unit) (act : EM α) : EM α :=
  tryCatch act (fun x =>
    match x with
    | .trap t => do
      done
      modC (fun c => c.sysSet 0x102 (w64 i))
      throw (.trap { t with faddr := va, keep := true })
    | y => throw y)

/-! Addresses (R176, R177). -/

/-- The addressing forms of loads and stores. -/
inductive AMode where
  | unit | strided | indexed | seg | segStrided | reg | mask
deriving DecidableEq, Repr

/-- Fields per structure (R177). -/
def fieldsOf (m : AMode) (o : VM) : Nat :=
  match m with
  | .seg | .segStrided => o.nf.toNat + 2
  | _ => 1

/-- The fields that a form requires to be zero, and its group rules (R177 to R179). -/
def vmOk (m : AMode) (o : VM) (t : VT) (load : Bool) : Bool :=
  let n := fieldsOf m o
  let idx := t.groupFor (16 * 2 ^ o.fn.toNat)
  maskOk o.vm o.ms &&
  (match m with
   | .seg | .segStrided => decide (o.nf ≠ 3#2) && groupOk o.vd.toNat t.g && decide (o.vd.toNat + n * t.g ≤ 32)
   | .reg => decide (o.nf = 0#2) && !o.vm
   | .mask => decide (o.nf = 0#2) && !o.vm && maskReg o.vd
   | _ => decide (o.nf = 0#2) && groupOk o.vd.toNat t.g) &&
  (match m with
   | .indexed => decide (o.fn.toNat < 3) && groupOk o.vi.toNat idx &&
      !(load && groupsMeet o.vd.toNat t.g o.vi.toNat idx)
   | _ => decide (o.fn = 0#6) && decide (o.vi = 0#5))

/-- The address of field f of element i. -/
def vmAddr (m : AMode) (o : VM) (c : Core) (b stride : W64) (i f : Nat) : W64 :=
  let t := c.vt
  let e := t.ew / 8
  match m with
  | .unit => b + w64 (i * e)
  | .strided => b + w64 i * stride
  | .indexed =>
    let iw := 16 * 2 ^ o.fn.toNat
    b + w64 (c.elt o.vi.toNat iw i)
  | .seg => b + w64 ((i * fieldsOf m o + f) * e)
  | .segStrided => b + w64 i * stride + w64 (f * e)
  | .reg | .mask => b + w64 (8 * i)

/-- The elements or words an instruction covers: their number and their width in bytes. -/
def vmCount (m : AMode) (t : VT) : Nat × Nat :=
  match m with
  | .reg | .mask => (128, 8)
  | _ => (t.vl, t.ew / 8)

/-- Element i is active for a memory instruction. -/
def vmActive (m : AMode) (o : VM) (c : Core) (i : Nat) : Bool :=
  match m with
  | .reg | .mask => decide ((c.vt).vstart ≤ i)
  | _ => decide ((c.vt).vstart ≤ i) && decide (i < (c.vt).vl) && (!o.vm || bit (c.mreg o.ms.toNat) i)

/-- The base and, for the strided forms, the stride, their tags checked. -/
def vmBase (m : AMode) (o : VM) : EM (W64 × W64) := do
  let c ← getC
  let b := if o.base then c.ix1 else c.ix0
  checkTag .addr b.t 0#64
  match m with
  | .strided | .segStrided => do return (b.v, ← indexReg c.acc)
  | _ => return (b.v, 0#64)

/-! Loads. -/

/-- One element's bytes as a vector load reads them: a KEYH word reads as zero (R180). The flag says that. -/
def loadElement (va : W64) (n : Nat) : EM (Nat × Bool) := do
  if va.toNat % n ≠ 0 then alignFault va
  let t ← translate va .load
  let l ← loadVia t va n vectorLoad
  return if l.tag = 5#4 then (0, true) else (leNat l.bytes, false)

/-- The core with element i of every field written, or a register's or mask's word. -/
def putLoaded (m : AMode) (o : VM) (k : Core) (i : Nat) (vals : List Nat) : Core :=
  match m with
  | .reg => k.setVreg o.vd.toNat (setFld (k.vreg o.vd.toNat) (64 * i) 64 (vals.getD 0 0))
  | .mask => k.setMreg o.vd.toNat (setFld (k.mreg o.vd.toNat) (64 * i) 64 (vals.getD 0 0))
  | _ => (List.range (fieldsOf m o)).foldl (fun a f => a.setElt (o.vd.toNat + f * a.vt.g) a.vt.ew i (vals.getD f 0)) k

/-- `VSTAT.DIRTY` at a fault of element i of a load: set when an element below i was written (R156, R187).
DEDUCED (log 103). -/
def loadedBelow (m : AMode) (o : VM) (c : Core) (i : Nat) : EM Unit :=
  if (List.range i).any (fun j => vmActive m o c j || (decide (c.vt.vstart ≤ j) && c.vt.mu)) then
    modC (fun k => k.sysSet 0x104 (k.sysGet 0x104 ||| 1#64))
  else pure ()

/-- The elements of a load in a list, in order; the addresses and masks are those of the core c at issue. -/
def loadElements (m : AMode) (o : VM) (c : Core) (b : W64 × W64) : List Nat → EM Unit
  | [] => pure ()
  | i :: r => do
    if vmActive m o c i then do
      let vals ← (List.range (fieldsOf m o)).mapM (fun f => do
        let va := vmAddr m o c b.1 b.2 i f
        atElement i va (loadedBelow m o c i) (loadElement va (vmCount m c.vt).2))
      modC (fun k =>
        let k1 := putLoaded m o k i (vals.map (fun v => v.1))
        if vals.any (fun v => v.2) then k1.sysSet 0x104 (k1.sysGet 0x104 ||| 2#64) else k1)
    else if decide (c.vt.vstart ≤ i) && c.vt.mu then modC (fun k => putLoaded m o k i [])
    loadElements m o c b r

/-- A vector load (R176 to R190). -/
def vecLoad (e : Fin 104) (o : VM) (m : AMode) (s : State) : Res :=
  seqInstr 1 4 1 e (do
    let c ← getC
    need (vmOk m o c.vt true)
    let b ← vmBase m o
    loadElements m o c b (List.range (vmCount m c.vt).1)
    vecDone true FFlags.none) s

def execVl (e : Fin 104) (o : VM) (s : State) : Res := vecLoad e o .unit s
def execVls (e : Fin 104) (o : VM) (s : State) : Res := vecLoad e o .strided s
def execVlx (e : Fin 104) (o : VM) (s : State) : Res := vecLoad e o .indexed s
def execVlseg (e : Fin 104) (o : VM) (s : State) : Res := vecLoad e o .seg s
def execVlsseg (e : Fin 104) (o : VM) (s : State) : Res := vecLoad e o .segStrided s
def execVlr (e : Fin 104) (o : VM) (s : State) : Res := vecLoad e o .reg s
def execVlm (e : Fin 104) (o : VM) (s : State) : Res := vecLoad e o .mask s

/-! Stores. -/

/-- The value that a store takes from element i, field f. -/
def storedValue (m : AMode) (o : VM) (c : Core) (i f : Nat) : Nat :=
  match m with
  | .reg => fld (c.vreg o.vd.toNat) (64 * i) 64
  | .mask => fld (c.mreg o.vd.toNat) (64 * i) 64
  | _ => c.elt (o.vd.toNat + f * c.vt.g) c.vt.ew i

/-- The pieces of the elements in a list, each element whole: a trap of element i first retires what lies
below it. -/
def vecPieces (m : AMode) (o : VM) (c : Core) (b : W64 × W64) (n : Nat) : List Nat → List Piece → EM (List Piece)
  | [], acc => return acc
  | i :: r, acc =>
    if vmActive m o c i then do
      let ps ← (List.range (fieldsOf m o)).mapM (fun f => do
        let va := vmAddr m o c b.1 b.2 i f
        atElement i va (retirePieces 1 acc) (do
          if va.toNat % n ≠ 0 then alignFault va
          checkPiece va (leBytes n (storedValue m o c i f))))
      vecPieces m o c b n r (acc ++ ps)
    else vecPieces m o c b n r acc

/-- A vector store; it waits while the store buffer is full. -/
def vecStore (e : Fin 104) (o : VM) (m : AMode) (s : State) : Res :=
  seqInstr 1 4 1 e (do
    let c ← getC
    let t := c.vt
    need (vmOk m o t false)
    let b ← vmBase m o
    let x ← getE
    if x.sbRoom = 0 then throw .wait
    let cnt := vmCount m t
    let ps ← vecPieces m o c b cnt.2 (List.range cnt.1) []
    retirePieces 1 ps
    vecDone false FFlags.none) s

def execVs (e : Fin 104) (o : VM) (s : State) : Res := vecStore e o .unit s
def execVss (e : Fin 104) (o : VM) (s : State) : Res := vecStore e o .strided s
def execVsx (e : Fin 104) (o : VM) (s : State) : Res := vecStore e o .indexed s
def execVsseg (e : Fin 104) (o : VM) (s : State) : Res := vecStore e o .seg s
def execVssseg (e : Fin 104) (o : VM) (s : State) : Res := vecStore e o .segStrided s
def execVsr (e : Fin 104) (o : VM) (s : State) : Res := vecStore e o .reg s
def execVsm (e : Fin 104) (o : VM) (s : State) : Res := vecStore e o .mask s

end Sys2Proof.Machine
end

