-- ==== Sys2Proof/Machine/Atomics.lean ====
section
/-!
DEFINITION. The atomic instructions (chapter 11, opcode 0x3B SUB 7), their performance at the home pier and the
delivery of a returning one's response.
-/

namespace Sys2Proof.Machine

/-- The operation reads `IX1` (R449). -/
def aopIx1 (aop : Nat) : Bool := decide (aop = 2) || decide (aop = 3) || decide (aop = 12) || decide (aop = 13)

/-- The operation is on FP32 or BF16 lanes. -/
def aopFp (aop : Nat) : Bool := decide (8 ≤ aop) && decide (aop ≤ 11)

/-- The encodings of R449, by operation. -/
def aopOk (aop : Nat) (o : AOp) : Bool :=
  decide (o.low = 0#6) && decide (o.base ≠ 3#2) && !(o.ret && (o.line || decide (aop = 12))) &&
  !(o.line && (decide (aop = 2) || decide (aop = 3))) && !(!o.line && (decide (aop = 13) || decide (aop = 14))) &&
  !(decide (o.base = 1#2) && aopIx1 aop)

/-- Target size Z (R447). -/
def targetSize (aop : Nat) (line : Bool) : Nat := if line then (if aop = 12 then 512 else 128) else elemSize aop

/-- The element operand from `ACC` (R448): its bytes, and whether it is an integer. -/
def atomOperand (aop : Nat) : EM (List Byte × Bool) := do
  let c ← getC
  if aop = 12 then do
    if c.acc.t = 0#4 || c.acc.t = 2#4 then return (leBytes 8 c.acc.v.toNat, false)
    else if c.acc.t = 1#4 then return (leBytes 8 c.acc.v.toNat, true)
    else tagFault 0#64
  else if aopFp aop then do
    checkTag .flt c.acc.t 0#64
    let n := lanew aop
    if c.acc.t = 2#4 then
      return (leBytes n (encodeF (if aop = 9 then fmtBf16 else fmt32) .near (decodeF fmt64 c.acc.v.toNat)).1, false)
    else return (leBytes n c.acc.v.toNat, false)
  else do
    checkTag .sub c.acc.t 0#64
    return (leBytes (lanew aop) c.acc.v.toNat, false)

/-- The checks of R444 on a page an atomic acts on or reads. -/
def atomPage (t : TlbEntry) (va : W64) : EM Unit := do
  let env ← read
  let w ← get
  if t.se then priv 2#8 va
  match placeOf w (t.ga va.toNat) with
  | .reserved => accessErr 1#8 va
  | .regs _ => priv 2#8 va
  | .host _ => accessErr 2#8 va
  | .hbm off => do
    if !populated env.anat.part off then accessErr 3#8 va
    if t.tagged w then tagFault va
  | .remote => pure ()

/-- The node that holds an address of a unit of this module or another: none for this module's HBM. -/
def nodeOf (w : World) (ga : W64) : Option Nat := if (localOff w ga).isSome then none else some (fld ga 48 12)

/-- The header's global address (R458): HBM of the target's module, an untagged page. DEDUCED (log 20). -/
def atomHdr (target : W64) : EM W64 := do
  let c ← getC
  let h := c.ix1.v
  let t ← translate h .atom
  let w ← get
  let ga := t.ga h.toNat
  if nodeOf w ga ≠ nodeOf w target || t.se || t.tagged w then accessErr 2#8 h
  if !decide (region (fld ga 0 48) = .hbm) then accessErr 2#8 h
  return ga

/-- The entry that carries an atomic on n bytes at an offset into the target. -/
def atomEntry (x : Engine) (t : TlbEntry) (va : W64) (k n size : Nat) (r : AtomReq) : SbEntry :=
  { storeEntry x t (va + w64 k) (offsets (List.replicate n 0#8)) .whole size 0 false with
      ga := t.ga va.toNat + w64 k, atom := some r }

/-- log2 of a target size of 2, 4, 8, 16 or 128. -/
def log2Size (n : Nat) : Nat := Nat.log2 n

/-- What an atomic instruction has found when it comes to act: its target's leaf and address, its operand's bytes and kind,
and the global address of its header (R447, R448, R458). -/
structure AtomPlan where
  t : TlbEntry
  ea : W64
  src : List Byte
  isInt : Bool
  hdr : W64
deriving DecidableEq, Repr

/-- The request that carries bytes of the operand. -/
def AtomPlan.req (p : AtomPlan) (o : AOp) (aop : Nat) (ix1 : W64) (bytes : List Byte) : AtomReq :=
  { aop := aop, line := o.line, ret := o.ret, operand := bytes
    cmp := if aop = 2 then (ix1.setWidth 32).setWidth 64 else ix1, hdr := p.hdr, isInt := p.isInt }

/-- The checks of an atomic instruction in their order: encoding, tags, alignment, source line, target, header (R444 to R449,
R458). DEDUCED (log 21). -/
def atomPrep (aop : Nat) (o : AOp) : EM AtomPlan := do
  need (aopOk aop o)
  let c ← getC
  let z := targetSize aop o.line
  let b := if o.base = 0#2 then c.ix0 else if o.base = 1#2 then c.ix1 else ⟨c.sp, 3#4⟩
  checkTag .addr b.t 0#64
  if aopIx1 aop then checkTag (if aop = 2 ∨ aop = 3 then .sub else .addr) c.ix1.t 0#64
  let opd : List Byte × Bool ← (do
    if o.line then do
      checkTag .addr c.acc.t 0#64
      return ([], false)
    else atomOperand aop)
  let ea := b.v + sx64 o.disp * w64 z
  if ea.toNat % z ≠ 0 then alignFault ea
  if o.line && decide (c.acc.v.toNat % 128 ≠ 0) then alignFault c.acc.v
  parkIf 2 ea
  let src : List Byte ← (do
    if o.line then do
      let ts ← translate c.acc.v .load
      atomPage ts c.acc.v
      return (← loadVia ts c.acc.v 128 scalarLoad).bytes
    else return opd.1)
  let t ← translate ea (if o.ret then .atomRet else .atom)
  atomPage t ea
  let hdr ← (do if aop = 12 ∨ aop = 13 then atomHdr (t.ga ea.toNat) else return 0#64)
  return ⟨t, ea, src, opd.2, hdr⟩

/-- The entries of a non-returning atomic: one for each target line (R449, R452). DEDUCED (log 21). -/
def atomEntries (x : Engine) (p : AtomPlan) (o : AOp) (aop : Nat) : List SbEntry :=
  let ix1 := x.core.ix1.v
  if aop = 12 && o.line then
    (List.range 4).map (fun i => atomEntry x p.t p.ea (128 * i) 128 7 (p.req o aop ix1 ((p.src.drop (32 * i)).take 32)))
  else
    let z := targetSize aop o.line
    [atomEntry x p.t p.ea 0 z (log2Size z) (p.req o aop ix1 p.src)]

/-- A returning atomic acts behind every tile instruction: its entry goes to the home pier, through the store buffer for
this module's HBM and as a transaction for another node's, and the engine waits for the response (R450, R453). -/
def atomReturning (p : AtomPlan) (o : AOp) (aop : Nat) : EM Unit := do
  let env ← read
  modE (fun y => y.commitAll)
  let y ← getE
  if y.sbRoom = 0 then throw .wait
  let z := targetSize aop o.line
  let r := p.req o aop y.core.ix1.v p.src
  let en := atomEntry y p.t p.ea 0 z (log2Size z) r
  let w ← get
  if (localOff w en.ga).isSome then
    modE (fun k => { k with sb := k.sb ++ [en], wait := .atomic aop p.ea })
    throw .wait
  else
    if y.pendingStores.any (fun q => q.meets en) then throw .wait
    match sendTxn w (env.e / 26) (atomTxn en r) (.atomic env.e) with
    | (.error st, w1) => do set w1; accessErr st p.ea
    | (.ok _, w1) => do
      set (w1.modEng env.e (fun k => { k with wait := .atomic aop p.ea }))
      throw .wait

/-- An atomic instruction (R446 to R452). A returning one waits for its response; a non-returning one retires
into the store buffer. -/
def atomInstr (e : Fin 104) (o : AOp) (aop : Nat) (s : State) : Res :=
  seqInstr 0 4 1 e (do
    let p ← atomPrep aop o
    let x ← getE
    if o.ret then
      if x.atomResp.isSome then throw .wait
      atomReturning p o aop
    else do
      if x.sbRoom = 0 then throw .wait
      modE (fun k => (atomEntries k p o aop).foldl Engine.pushStore k)) s

def execAmoAddW (e : Fin 104) (o : AOp) (s : State) : Res := atomInstr e o 0 s
def execAmoAddD (e : Fin 104) (o : AOp) (s : State) : Res := atomInstr e o 1 s
def execAmoCasW (e : Fin 104) (o : AOp) (s : State) : Res := atomInstr e o 2 s
def execAmoCasD (e : Fin 104) (o : AOp) (s : State) : Res := atomInstr e o 3 s
def execAmoMinD (e : Fin 104) (o : AOp) (s : State) : Res := atomInstr e o 4 s
def execAmoMaxD (e : Fin 104) (o : AOp) (s : State) : Res := atomInstr e o 5 s
def execAmoMinuD (e : Fin 104) (o : AOp) (s : State) : Res := atomInstr e o 6 s
def execAmoMaxuD (e : Fin 104) (o : AOp) (s : State) : Res := atomInstr e o 7 s
def execAmoFaddS (e : Fin 104) (o : AOp) (s : State) : Res := atomInstr e o 8 s
def execAmoFaddB (e : Fin 104) (o : AOp) (s : State) : Res := atomInstr e o 9 s
def execAmoFminS (e : Fin 104) (o : AOp) (s : State) : Res := atomInstr e o 10 s
def execAmoFmaxS (e : Fin 104) (o : AOp) (s : State) : Res := atomInstr e o 11 s
def execAmoXadd (e : Fin 104) (o : AOp) (s : State) : Res := atomInstr e o 12 s
def execAmoXaddx (e : Fin 104) (o : AOp) (s : State) : Res := atomInstr e o 13 s
def execAmoSmerge (e : Fin 104) (o : AOp) (s : State) : Res := atomInstr e o 14 s

/-- `PIER_ATOMIC`: the home pier performs the atomic in entry `idx` of an engine's store buffer. -/
def execPierAtomic (e : Fin 104) (idx : Nat) (s : State) : Res :=
  .next { s with w := performAtomEntry s.anat s.w e.val idx }

/-- The accumulator and Z after a returning atomic (R453). DESIGN CHOICE (log 22). -/
def Core.atomResult (c : Core) (aop v nan : Nat) : Core :=
  if aopFp aop then
    let x := decodeF (if aop = 9 then fmtBf16 else fmt32) v
    let y : W64 := if isNanV x then quietNan (Config.nanBits nan) else w64 (encodeF fmt64 .near x).1
    { c with acc := ⟨y, 2#4⟩ }
  else
    let c1 := { c with acc := ⟨w64 v, 1#4⟩ }
    if aop = 2 then { c1 with st := setBit c1.st 0 (decide (v = fld c.ix1.v 0 32)) }
    else if aop = 3 then { c1 with st := setBit c1.st 0 (decide (v = c.ix1.v.toNat)) }
    else c1

/-- The machine checks that waited for the response are taken (R138). -/
def takeHeldChecks (a : Anat) (w : World) (e : Nat) : World :=
  (w.eng e).mcPend.foldl (fun v m => machineCheckNow a v e m.1 m.2) (w.modEng e (fun x => { x with mcPend := [] }))

/-- The response of a returning atomic is delivered; an error is raised at the atomic (R453, R454). -/
def deliverAtomic (a : Anat) (w : World) (e aop : Nat) (va : W64) (r : AtomResp) : World :=
  let w0 := w.modEng e (fun x => { x with wait := .none, atomResp := none })
  if r.code = 0#8 then
    let w1 := w0.modEng e (fun y =>
      let c := y.core.atomResult aop r.val w.freeCtr
      ({ y with core := { c with pc := c.pc + 4#64, seq := c.seq + 1 } }).retire 1 w.freeCtr)
    { w1 with freeCtr := w1.freeCtr + 1 }
  else takeTrap a w0 w0 e 0 4 (trapOf r.code r.sub (if r.code = 6#8 then (va >>> 3) <<< 3 else va))

/-- `ATOMIC_RESPONSE`: the response that has arrived is delivered. -/
def execAtomicResponse (e : Fin 104) (s : State) : Res :=
  .next { s with w :=
    match (s.w.eng e.val).wait, (s.w.eng e.val).atomResp with
    | .atomic aop va, some r => takeHeldChecks s.anat (deliverAtomic s.anat s.w e.val aop va r) e.val
    | _, _ => s.w }

end Sys2Proof.Machine
end

