-- ==== Sys2Proof/Machine/SysOps.lean ====
section
/-!
DEFINITION. The operations that writes of system registers start: maintenance of the caches (R353 to R355),
invalidation of translations (R435, R436), speculation (R402 to R408), software prefetch descriptors (R392).
-/

namespace Sys2Proof.Machine

/-! Cache maintenance. -/

/-- An M line is written back and becomes E (R353). -/
def cleanLine (w : World) (e : Nat) (c : CLine) : World :=
  if c.st = .m then
    let w1 := w.modEng e (fun y => { (y.count 0x34A 1) with ec := modLine y.ec (ecSet c.line) c.line (fun d => { d with st := .e }) })
    pierAccess w1 c.line 7 c.part c.tcls c.kdom true false false
  else w

/-- CLEAN, and with `flush` FLUSH, of the line at `CMO_ADDR`. -/
def cmoClean (flush : Bool) : EM Unit := do
  let va := (← getC).sysGet 0x344
  let t ← translate va .clean
  let env ← read
  let w ← get
  let ga := t.ga va.toNat
  match placeOf w ga with
  | .reserved => accessErr 1#8 va
  | .hbm off =>
    match hbmStatus env.anat w off with
    | some s => accessErr s va
    | none => pure ()
  | _ => pure ()
  let line := lineOf w ga
  match findLine (w.eng env.e).ec (ecSet line) line with
  | none => pure ()
  | some c =>
    if c.kdom ≠ t.kdom then set (ecDrop w env.e c)
    else
      let w1 := cleanLine w env.e c
      if flush then
        match findLine (w1.eng env.e).ec (ecSet line) line with
        | some d => set (ecDrop w1 env.e d)
        | none => set w1
      else set w1
  if flush then modE (fun x => x.dropL1 line)

/-- ZERO of the line at `CMO_ADDR` (R353, R355). DEDUCED (log 23). -/
def cmoZero : EM Unit := do
  let va := (← getC).sysGet 0x344
  let t ← translate va .atom
  if t.se then priv 2#8 va
  drainE
  let env ← read
  let w ← get
  let ga := (t.ga va.toNat >>> 7) <<< 7
  match placeOf w ga with
  | .reserved => accessErr 1#8 va
  | .regs _ => priv 2#8 va
  | .hbm off =>
    match hbmStatus env.anat w off with
    | some s => accessErr s va
    | none => set (engCommit w env.e 0 t.tcls t.kdom .whole (atOff off (offsets (List.replicate 128 0#8))))
  | _ => accessErr 2#8 va

/-- A write of `CMO_OP`. -/
def cmoOp (op : Nat) : EM Unit := do
  let env ← read
  match op with
  | 0 => cmoClean false
  | 1 => cmoClean true
  | 2 => modify (fun w => invalN w env.e)
  | 3 => modE (fun x => { x with l1i := [] })
  | 4 => cmoZero
  | _ => illegal

/-! Invalidation of translations. -/

/-- An entry survives an invalidation: operation, context, address. -/
def tlbKeep (op ctx va : Nat) (walk : Bool) (t : TlbEntry) : Bool :=
  match op with
  | 0 => false
  | 1 => decide (t.ctx ≠ ctx)
  | 2 => decide (t.ctx ≠ ctx) || decide (t.va ≠ va / 2 ^ t.size * 2 ^ t.size)
  | _ => !walk || decide (t.ctx ≠ ctx)

def Engine.tlbInv (x : Engine) (op ctx va : Nat) : Engine :=
  { x with
    tlbI := x.tlbI.filter (tlbKeep op ctx va false), tlbD := x.tlbD.filter (tlbKeep op ctx va false)
    tlb2 := x.tlb2.filter (tlbKeep op ctx va false), walk := x.walk.filter (tlbKeep op ctx va true) }

/-- The engines that a scope covers: this engine, its die, the module. -/
def tlbScope (e scope : Nat) : List Nat :=
  match scope with
  | 0 => [e]
  | 1 => (List.range 26).map (fun k => e / 26 * 26 + k)
  | _ => List.range 104

/-- The dies whose translation units a scope covers. -/
def dieScope (e scope : Nat) : List Nat :=
  match scope with
  | 0 => []
  | 1 => [e / 26]
  | _ => [0, 1, 2, 3]

/-- The engines that an invalidation reaches: those of its scope whose die runs. -/
def tlbReach (a : Anat) (e scope : Nat) : List Nat := (tlbScope e scope).filter (fun k => decide (k = e) || dieRuns a k)

/-- The entries that an invalidation removes, of engines and of the dies' translation units, with the counts of R440. -/
def tlbRemove (a : Anat) (w : World) (e op scope ctx va : Nat) : World :=
  let u1 := (tlbReach a e scope).foldl (fun q k => q.modEng k (fun x =>
    let y := x.tlbInv op ctx va
    if k = e then y else y.count 0x315 1)) w
  (dieScope e scope).foldl (fun q d =>
    let t := q.tlb d
    q.setTlb d { leaves := t.leaves.filter (tlbKeep op ctx va false), walk := t.walk.filter (tlbKeep op ctx va true) }) u1

/-- A write of `TLB_INV` (R435, R436). Stores translated by a removed entry are performed first. DEDUCED (log 23). -/
def tlbInv (v : W64) : EM Unit := do
  let op := fld v 0 3
  let scope := fld v 4 3
  need (decide (op ≤ 3) && decide (scope ≤ 2))
  let env ← read
  let es := tlbReach env.anat env.e scope
  modify (fun w => es.foldl (fun u k => if (u.eng k).sb.isEmpty then u else drainLocal env.anat k ((u.eng k).sb.length) u) w)
  let w ← get
  if es.any (fun k => !(w.eng k).sb.isEmpty) then throw .wait
  let va := ((← getC).sysGet 0x304).toNat
  modify (fun u => tlbRemove env.anat u env.e op scope (fld v 16 16) va)

/-! Speculation. -/

/-- The cycles spent parked are counted when the park ends (R401). -/
def Engine.unpark (x : Engine) (n : Nat) : Engine :=
  if x.spec.state = 2 then x.count 0x38A (Config.stallCycles n) else x

/-- The written bytes of a W line of this module's HBM join the line, which becomes M (R407 phase 2). -/
def commitW (w : World) (e : Nat) (l : WLine) (off : Nat) : World :=
  let bytes := (offsets l.data).filter (fun b => bit l.mask b.1)
  let w1 := granuleWritten w (off / 4096 * 4096)
  let w2 := conflictAt w1 off
  let m1 := wrBytes w2.ks l.kdom w2.freeCtr w2.mem (atOff off bytes)
  let m2 := (List.range 16).foldl (fun m i =>
    if bit l.tset i && inTagged w2.places (off + 8 * i) then setTag w2.ks w2.places w2.freeCtr m (off + 8 * i) (l.tags.getD i 0#4) else m) m1
  let m3 := { m2 with poison := m2.poison.filter (fun s => decide (covered (atOff off bytes) (s * 32) 32 < 32)) }
  touchWrite { w2 with mem := m3, freeCtr := w2.freeCtr + 1 } e (off / 128) 5 7 l.kdom

/-- The entries by which a W line of another node or of host memory enters the store buffer (R407 phase 3). -/
def wEntries (l : WLine) : List SbEntry :=
  ([0, 64].map (fun o => (o, (offsets l.data).filter (fun b => bit l.mask b.1 && decide (o ≤ b.1) && decide (b.1 < o + 64))))).filterMap
    (fun p => match p.2 with
      | [] => none
      | (k, _) :: _ => some
        { va := l.va + w64 k, ga := l.ga + w64 p.1, kdom := l.kdom, data := p.2.map (fun b => (b.1 - p.1, b.2)), tag := .whole, pl := 2#2
          size := 6, rel := false, se := false, cls := 1, tcls := 7, fn := l.fn, atom := none, sent := none })

/-- A commit (R407). -/
def specCommit (w : World) (e : Nat) : World :=
  let x := w.eng e
  if x.spec.lost then
    w.modEng e (fun y =>
      let z := (y.unpark w.freeCtr).discardSpec
      { z with spec := { z.spec with failed := true } })
  else
    let ls := x.spec.wl.reverse
    let w1 := { (w.modEng e (fun y => (y.unpark w.freeCtr).endSpec)) with freeCtr := w.freeCtr + 1 }
    let w2 := ls.foldl (fun v l =>
      match localOff v l.ga with
      | some off => if region off = .hbm then commitW v e l off else v
      | none => v) w1
    let far := ls.filter (fun l => match localOff w l.ga with
      | some off => decide (region off ≠ .hbm)
      | none => true)
    w2.modEng e (fun y => (far.foldl (fun z l => (wEntries l).foldl Engine.pushStore z) y).count 0x388 1)

/-- A write of `SPEC_CTL` (R402). -/
def specCtl (v : W64) : EM Unit := do
  let x ← getE
  let b := fld v 0 3
  need (decide (b = 0) || decide (b = 1) || decide (b = 2) || decide (b = 4))
  let env ← read
  match b with
  | 1 => do
    need (decide (x.spec.state = 0))
    modE (fun y => { y with spec := { Spec.idle with state := 1, failed := y.spec.failed } })
  | 2 => if x.spec.state = 0 then pure () else modify (fun w => specCommit w env.e)
  | 4 =>
    if x.spec.state = 0 then pure ()
    else do
      let n ← freshM
      modE (fun y => (y.unpark n).discardSpec)
  | _ => pure ()

/-! Software prefetch descriptors. -/

/-- A translation present in a TLB of the engine, whose page may be prefetched (R388). -/
def pfLeaf (w : World) (x : Engine) (ctx va : Nat) (pl : BitVec 2) : Option TlbEntry :=
  let hit := (tlbUsable w x.tlbD ctx va .load).orElse (fun _ => tlbUsable w x.tlb2 ctx va .load)
  match hit with
  | some t => if t.pf && !t.se && (permFault w t pl .load).isNone && decide (rdWord w.mem w.ks t.tkdom t.ent = leafMarks w t .load) then some t else none
  | none => none

/-- A software descriptor read from this module's HBM (R392), unless it cannot be read or is malformed. -/
def readPfDesc (a : Anat) (w : World) (x : Engine) (va : W64) : Option PfDesc :=
  let ctx := x.core.ctx x.core.pl
  if va.toNat % 64 ≠ 0 ∨ x.ecMask 4 = 0 ∨ 32 ≤ x.pfOut.length ∨ fld va 57 7 ≠ 0 then none
  else
    match pfLeaf w x ctx va.toNat x.core.pl with
    | none => none
    | some t =>
      match placeOf w (t.ga va.toNat) with
      | .hbm off =>
        if (hbmStatus a w off).isSome ∨ (poisonIn w.mem w.ks w.places off 64).isSome then none
        else
          let b := rdBytes w.mem w.ks t.kdom off 64
          let keyh := (List.range 8).any (fun i => t.tagged w && decide (tagAt w.mem w.ks w.places (off + 8 * i) = 5#4))
          let w0 := wordAt b 0
          let ok := decide (fld w0 0 4 = 1) && decide (fld w0 4 16 = 0) && decide (fld w0 53 11 = 0) &&
            decide (1 ≤ fld w0 36 16) && decide (1 ≤ fld w0 20 16) &&
            (List.range 5).all (fun i => decide (wordAt b (i + 3) = 0#64)) && !keyh
          if ok then
            some { ctx := ctx, pl := x.core.pl, base := wordAt b 1, stride := wordAt b 2, rows := fld w0 20 16, rowb := fld w0 36 16
                   next := 0, pier := bit w0 52 }
          else none
      | _ => none

/-- A write of `PF_TDESC`. DEDUCED (log 24). -/
def pfTdesc (v : W64) : EM Unit := do
  let env ← read
  let w ← get
  let x ← getE
  if 4 ≤ x.pfd.length then modC (fun c => c.sysSet 0x362 (c.sysGet 0x362 ||| 0x40#64))
  else match readPfDesc env.anat w x v with
    | some d => modE (fun y => { y with pfd := y.pfd ++ [d] })
    | none => modC (fun c => c.sysSet 0x362 (c.sysGet 0x362 ||| 0x80#64))

end Sys2Proof.Machine
end

