-- ==== Sys2Proof/Machine/System.lean ====
section
/-!
DEFINITION. `SREAD`, `SWRITE`, `SSET`, `SCLR` (R80, R99 to R101) and the commands that are a write of one
register.
-/

namespace Sys2Proof.Machine

/-! Values. -/

/-- `FEAT0` to `FEAT7` (R92 to R98, R252). -/
def featReg (a : Anat) (e n : Nat) : W64 :=
  match n with
  | 0 => packW [(60, 1), (56, 1), (40, if a.part = .a36 then 12 else 16), (32, if a.part = .d48 then 1 else 0), (0, e / 26)]
  | 1 => 0x0000200818040403#64
  | 2 => packW [(24, 32), (16, 8), (12, 3), (8, 4), (4, 12), (0, 13)]
  | 3 => packW [(56, 13), (48, 2), (40, 128), (32, 128), (24, 2), (16, 4), (8, 17), (0, 16)]
  | 4 => packW [(40, 0x3F), (24, 7), (16, 3), (0, 0x8FFF)]
  | 5 => packW [(48, 8), (40, 16), (32, 64), (24, 12), (16, 57), (8, 0x0F)]
  | 6 => 0x7574697262616353#64
  | _ => 0x73#64

/-- `IRQ_PEND` (R135): level sources 0 to 5 by their conditions, event sources 6 to 10 as latched. -/
def irqPend (a : Anat) (w : World) (e : Nat) : BitVec 11 :=
  let x := w.eng e
  let c := x.core
  let soft := c.sysGet 0x214
  let bell := match a.logicalOf e with
    | some l => decide ((w.log l).head ≠ (w.log l).tail)
    | none => false
  (x.irq &&& 0x7C0#11) ||| BitVec.ofNat 11
    ((decide ((c.sysGet 0x21A).toNat ≤ w.time.toNat)).toNat + 2 * (decide ((c.sysGet 0x219).toNat ≤ w.time.toNat)).toNat +
     4 * (!x.lateErr.isEmpty).toNat + 8 * (bit soft 0).toNat + 16 * (bit soft 1).toNat + 32 * bell.toNat)

/-- `LATE_ERR_ADDR` and `LATE_ERR_INFO` (R144). -/
def lateErrReg (x : Engine) (k : Nat) (pl : BitVec 2) : W64 :=
  match x.lateErr[k / 2]? with
  | none => 0#64
  | some r =>
    if k % 2 = 0 then (if r.pl = 0#2 && decide (pl = 1#2) then 0#64 else r.addr)
    else packW [(63, 1), (16, r.status.toNat), (8, r.pl.toNat), (0, r.size.toNat)]

/-- `SPEC_STAT` (R402). -/
def specStat (s : Spec) : W64 :=
  packW [(32, s.wl.length), (18, s.failed.toNat), (17, s.lost.toNat), (16, s.conflict.toNat), (8, s.parkCode.toNat), (4, s.parkWhy), (0, s.state)]

/-- `KS_STAT` (R519). -/
def ksStat (k : Keystone) : W64 :=
  packW [(16, k.ready.toNat), (8, k.erasing.isSome.toNat), (0, (k.erasing.map (fun x => x.dom.toNat)).getD 0)]

/-- The word that `MWIN_DATA` shows (R157). -/
def Core.mwinGet (c : Core) : W64 :=
  let s := c.sysGet 0x108
  w64 (fld (c.mreg (fld s 8 3)) (64 * fld s 0 7) 64)

/-- `MWIN_SEL` after an access to `MWIN_DATA`. -/
def Core.mwinNext (c : Core) : Core :=
  let s := c.sysGet 0x108
  if bit s 11 then c.sysSet 0x108 (setFld s 0 7 (fld s 0 7 + 1)) else c

/-- The value a system register reads as. -/
def sysValue (a : Anat) (w : World) (e n : Nat) : W64 :=
  let x := w.eng e
  let c := x.core
  if n < 8 then featReg a e n
  else if 0x222 ≤ n ∧ n < 0x232 then lateErrReg x (n - 0x222) c.pl
  else match n with
    | 0x010 => packW [(16, (a.logicalOf e).getD 0x7F), (0, e)]
    | 0x012 => c.instret
    | 0x109 => c.mwinGet
    | 0x198 => setBit (c.sysGet 0x198) 2 x.leased
    | 0x200 => c.spTask
    | 0x201 => c.spSup
    | 0x202 => c.spMon
    | 0x210 => (irqPend a w e).setWidth 64
    | 0x218 => w.time
    | 0x220 => setFld (c.sysGet 0x220) 0 4 x.lateErr.length
    | 0x301 => w64 w.places.ctxtBase
    | 0x302 => match w.nodeId with
      | some n => packW [(63, 1), (0, n)]
      | none => 0#64
    | 0x362 => setFld (c.sysGet 0x362) 0 3 x.pfd.length
    | 0x381 => specStat x.spec
    | 0x382 => x.spec.parkAddr
    | 0x400 => w64 w.places.tagrBase
    | 0x401 => w64 w.places.tagrSize
    | 0x402 => w64 w.places.tagtBase
    | 0x403 => ksStat w.ks
    | _ => match sysReg n with
      | some r => if r.spec.ctr then sgetD x.ctrs n 0#64 else c.sysGet n
      | none => 0#64

/-! Writes. -/

/-- The three ways of changing a register. -/
inductive SysAct where
  | write | setBits | clrBits
deriving DecidableEq, Repr

/-- The value a change leaves in a register's fields (R6, R101). -/
def SysAct.apply (k : SysAct) (r : RegSpec) (old v : W64) : W64 :=
  match k with
  | .write => regWrite r old v
  | .setBits => regSset r old v
  | .clrBits => regSclr r old v

/-- A tile shape that R204 accepts. -/
def tsOk (v : W64) : Bool :=
  decide (v &&& ~~~ 0x1FFFFF#64 = 0#64) && decide (fld v 0 8 ≤ 128) && decide (fld v 8 8 % 16 = 0) && decide (fld v 8 8 ≤ 128)

/-- An accumulator shape that R206 accepts. -/
def asOk (v : W64) : Bool :=
  decide (v &&& ~~~ 0xFFFF#64 = 0#64) && decide (fld v 0 8 ≤ 128) && decide (fld v 8 8 ≤ 128)

/-- A register's own rule on the value that a change would leave; a reserved bit counts for a whole write. -/
def sysAccepts (n : Nat) (k : SysAct) (v new : W64) : Bool :=
  let z := if k = .write then v else new
  if 0x180 ≤ n ∧ n < 0x190 then tsOk z
  else if 0x190 ≤ n ∧ n < 0x194 then asOk z
  else match n with
    | 0x101 => vtypeOk z
    | 0x140 => decide (z &&& ~~~ 0xFFF01FF000F#64 = 0#64) && decide (fld z 16 9 ≤ 256) && decide (fld z 0 4 ≤ 8)
    | 0x142 => decide (z &&& ~~~ 0xFFFFFFFF0001FFFF#64 = 0#64) && decide (fld z 32 32 % 64 = 0) && decide (fld z 0 17 % 64 = 0) &&
        decide (1 ≤ fld z 0 17) && decide (fld z 0 17 ≤ 65536)
    | 0x1BC => decide (z &&& ~~~ 0xF03#64 = 0#64) && decide (fld z 0 2 ≠ 3)
    | 0x1C0 => decide (fld z 0 2 ≤ 1)
    | 0x360 => decide (z &&& ~~~ 0xFF007F07#64 = 0#64) && decide (1 ≤ fld z 8 7) && decide (fld z 8 7 ≤ 64)
    | _ => true

/-- Sets a bit of a sticky status register. -/
def Core.sticky (c : Core) (n i : Nat) : Core := c.sysSet n (setBit (c.sysGet n) i true)

/-- The bits of `IRQ_EN` that a level may change: those of sources targeted at level 0 only at level 0 (R139). -/
def irqEnMask (c : Core) : W64 := if c.pl = 0#2 then 0x7FF#64 else c.sysGet 0x212 &&& 0x7FF#64

/-- A context that matches the engine (R425). -/
def trySetCtx (v : W64) : EM Unit := do
  let env ← read
  let w ← get
  let x ← getE
  let ctx := fld v 0 16
  if ctx = 0 && decide (x.core.pl = 0#2) then modC (fun c => c.sysSet 0x300 0#64)
  else match ctxMatch env.anat w ctx x.who with
    | .ok _ => modC (fun c => c.sysSet 0x300 (w64 ctx))
    | .error f => do
      modE (fun y => y.recordTF f)
      raise 7#8 f.sub 0#64

/-- A change of a register that holds a value of its own, with what it brings about. DEDUCED (log 19). -/
def sysStore (n : Nat) (k : SysAct) (v new : W64) : EM Unit := do
  if 0x180 ≤ n ∧ n < 0x198 then modC (fun q => (q.sysSet n new).sticky 0x198 0)
  else match n with
    | 0x012 => modC (fun q => { q with instret := new })
    | 0x100 => modC (fun q => (q.sysSet n (w64 (min (fld new 0 14) q.vt.vlmax))).sticky 0x104 0)
    | 0x101 => modC (fun q => (q.setVtype new).sticky 0x104 0)
    | 0x103 => modC (fun q => (q.sysSet n new).sticky 0x104 0)
    | 0x109 => modC (fun q =>
        let s := q.sysGet 0x108
        ((q.setMreg (fld s 8 3) (setFld (q.mreg (fld s 8 3)) (64 * fld s 0 7) 64 new.toNat)).mwinNext).sticky 0x104 0)
    | 0x200 => modC (fun q => { q with spTask := new })
    | 0x201 => modC (fun q => { q with spSup := new })
    | 0x202 => modC (fun q => { q with spMon := new })
    | 0x208 => modC (fun q => if q.pl = 0#2 then q.sysSet n new else q.sysSet n ((q.sysGet n &&& 0xE#64) ||| (new &&& 1#64)))
    | 0x210 => modE (fun x => { x with irq := x.irq &&& (new.setWidth 11) })
    | 0x211 => modC (fun q => q.sysSet n ((q.sysGet n &&& ~~~ irqEnMask q) ||| (new &&& irqEnMask q)))
    | 0x214 => modC (fun q => if q.pl = 0#2 then q.sysSet n new else q.sysSet n ((q.sysGet n &&& 2#64) ||| (new &&& 1#64)))
    | 0x220 => modE (fun x =>
        let y := { x with core := x.core.sysSet n (new &&& 0x8000#64) }
        if k = .write && bit v 12 then { y with lateErr := y.lateErr.drop 1 } else y)
    | 0x300 => trySetCtx new
    | 0x303 => if k = .write then tlbInv v else pure ()
    | 0x345 => if k = .write then cmoOp (fld v 0 3) else pure ()
    | 0x346 => modC (fun q => q.sysSet n (if bit v 63 && decide (k ≠ .setBits) then new &&& ~~~ 0xC000000000000000#64 else new))
    | 0x361 => if k = .write then pfTdesc v else pure ()
    | 0x362 => modC (fun q => q.sysSet n (new &&& 0xC0#64))
    | 0x380 => if k = .write then specCtl v else pure ()
    | 0x381 => modE (fun x => { x with spec := { x.spec with failed := bit new 18 } })
    | _ =>
      match sysReg n with
      | some r => if r.spec.ctr then modE (fun x => { x with ctrs := sset x.ctrs n new }) else modC (fun q => q.sysSet n new)
      | none => pure ()

/-- Older tile instructions commit before the tile and format registers are reached (R211, R263, R286). DEDUCED (log 28). -/
def tileWait (n : Nat) : EM Unit := if 0x180 ≤ n ∧ n < 0x1C0 then modE (fun x => x.commitAll) else pure ()

/-- A write whose effect a discard could not take back waits until it is the oldest instruction. DEDUCED (log 28). -/
def outsideCore (n : Nat) : Bool :=
  decide (n = 0x210) || decide (n = 0x220) || decide (n = 0x303) || decide (n = 0x345) || decide (n = 0x361) ||
    decide (n = 0x380) || decide (n = 0x381) || (match sysReg n with
      | some r => r.spec.ctr
      | none => false)

/-- The register of a number, or ILLEGAL for a reserved one. -/
def sysFind (n : Nat) : EM SysReg :=
  match sysReg n with
  | some r => pure r
  | none => illegal

/-- `SREAD` n. -/
def sysReadE (n : Nat) : EM Unit := do
  let r ← sysFind n
  let c ← getC
  if r.rd < c.pl.toNat then priv 1#8 0#64
  tileWait n
  let env ← read
  let w ← get
  setAcc (sysValue env.anat w env.e n) 1#4
  if n = 0x109 then modC (fun q => q.mwinNext)

/-- `SWRITE`, `SSET` and `SCLR` n. -/
def sysWriteE (n : Nat) (k : SysAct) : EM Unit := do
  let r ← sysFind n
  match r.wr with
  | none => illegal
  | some l => do
    let c ← getC
    if l < c.pl.toNat then priv 1#8 0#64
    let v ← useAcc .addr
    tileWait n
    if outsideCore n then modE (fun x => x.commitAll)
    let env ← read
    let w ← get
    let new := k.apply r.spec (sysValue env.anat w env.e n) v
    need (sysAccepts n k v new)
    sysStore n k v new

/-- A register access: bits [22:12] are zero (R80). -/
def sysInstr (e : Fin 104) (o : YOp) (body : Nat → EM Unit) (s : State) : Res :=
  seqInstr 0 4 3 e (do
    need (decide (o.opf = 0#11))
    body o.fn.toNat) s

def execSread (e : Fin 104) (o : YOp) (s : State) : Res := sysInstr e o sysReadE s
def execSwrite (e : Fin 104) (o : YOp) (s : State) : Res := sysInstr e o (fun n => sysWriteE n .write) s
def execSset (e : Fin 104) (o : YOp) (s : State) : Res := sysInstr e o (fun n => sysWriteE n .setBits) s
def execSclr (e : Fin 104) (o : YOp) (s : State) : Res := sysInstr e o (fun n => sysWriteE n .clrBits) s

/-! Writes of one register, each an `SWRITE` of that register's number. -/

/-- `SWRITE` of a fixed register, with the operand field of the instruction. DEDUCED (log 28). -/
def swriteOf (e : Fin 104) (n : Nat) (f : BitVec 11) (s : State) : Res :=
  sysInstr e ⟨f, BitVec.ofNat 12 n⟩ (fun m => sysWriteE m .write) s

def execFcsrWrite (e : Fin 104) (f : BitVec 11) (s : State) : Res := swriteOf e 0x1C0 f s
def execVtypeWrite (e : Fin 104) (f : BitVec 11) (s : State) : Res := swriteOf e 0x101 f s
def execVlWrite (e : Fin 104) (f : BitVec 11) (s : State) : Res := swriteOf e 0x100 f s
def execRouteCfgWrite (e : Fin 104) (f : BitVec 11) (s : State) : Res := swriteOf e 0x140 f s
def execRouteRowsWrite (e : Fin 104) (f : BitVec 11) (s : State) : Res := swriteOf e 0x142 f s
def execTsWrite (e : Fin 104) (n : BitVec 4) (f : BitVec 11) (s : State) : Res := swriteOf e (0x180 + n.toNat) f s
def execAsWrite (e : Fin 104) (n : BitVec 2) (f : BitVec 11) (s : State) : Res := swriteOf e (0x190 + n.toNat) f s
def execTrndWrite (e : Fin 104) (f : BitVec 11) (s : State) : Res := swriteOf e 0x1BC f s
def execTransCtxWrite (e : Fin 104) (f : BitVec 11) (s : State) : Res := swriteOf e 0x300 f s
def execPfCtlWrite (e : Fin 104) (f : BitVec 11) (s : State) : Res := swriteOf e 0x360 f s
def execPfTdesc (e : Fin 104) (f : BitVec 11) (s : State) : Res := swriteOf e 0x361 f s

/-- An access to `MWIN_DATA` (R157): 0 `SREAD`, 1 `SWRITE`, 2 `SSET`, 3 `SCLR`. -/
def execMwinData (e : Fin 104) (k : BitVec 2) (f : BitVec 11) (s : State) : Res :=
  sysInstr e ⟨f, 0x109#12⟩ (fun n =>
    if k = 0#2 then sysReadE n
    else sysWriteE n (if k = 1#2 then .write else if k = 2#2 then .setBits else .clrBits)) s

/-- A write of `TLB_INV` whose operation must be the command's. -/
def execTlbInvAll (e : Fin 104) (f : BitVec 11) (s : State) : Res := swriteOf e 0x303 f s
def execTlbInvCtx (e : Fin 104) (f : BitVec 11) (s : State) : Res := swriteOf e 0x303 f s
def execTlbInvAddress (e : Fin 104) (f : BitVec 11) (s : State) : Res := swriteOf e 0x303 f s
def execTlbInvWalk (e : Fin 104) (f : BitVec 11) (s : State) : Res := swriteOf e 0x303 f s

def execClean (e : Fin 104) (f : BitVec 11) (s : State) : Res := swriteOf e 0x345 f s
def execFlush (e : Fin 104) (f : BitVec 11) (s : State) : Res := swriteOf e 0x345 f s
def execInvalN (e : Fin 104) (f : BitVec 11) (s : State) : Res := swriteOf e 0x345 f s
/-- DESIGN CHOICE (log 4). -/
def execIsync (e : Fin 104) (f : BitVec 11) (s : State) : Res := swriteOf e 0x345 f s
def execZero (e : Fin 104) (f : BitVec 11) (s : State) : Res := swriteOf e 0x345 f s

def execSpecBegin (e : Fin 104) (f : BitVec 11) (s : State) : Res := swriteOf e 0x380 f s
def execSpecCommit (e : Fin 104) (f : BitVec 11) (s : State) : Res := swriteOf e 0x380 f s
def execSpecDiscard (e : Fin 104) (f : BitVec 11) (s : State) : Res := swriteOf e 0x380 f s

end Sys2Proof.Machine
end

