-- ==== Sys2Proof/Machine/Traps.lean ====
section
/-!
DEFINITION. Calls, returns and the interrupt enable (chapter 03, opcode 0x39), interrupts (R135, R136, R246),
machine checks, and the commands that raise their sources.
-/

namespace Sys2Proof.Machine

/-- An instruction of opcode 0x39 without a service number. -/
def noFields (o : YOp) : EM Unit := need (decide (o.opf = 0#11) && decide (o.fn = 0#12))

/-- PRIV with SUB 3 at level 2 (R111). -/
def notTask : EM Unit := do
  let c ← getC
  if c.pl = 2#2 then priv 3#8 0#64

/-- `svc` and `mon`: an exception whose frame holds the next instruction and whose INFO the service number. -/
def serviceCall (code : Byte) (o : YOp) : EM Unit :=
  throw (.trap { trapOf code 0#8 0#64 with info := o.fn.setWidth 16, next := true })

def execSvc (e : Fin 104) (o : YOp) (s : State) : Res :=
  seqInstr 0 4 1 e (do
    need (decide (o.opf = 0#11))
    serviceCall 0x0D#8 o) s

def execMon (e : Fin 104) (o : YOp) (s : State) : Res :=
  seqInstr 0 4 1 e (do
    need (decide (o.opf = 0#11))
    notTask
    serviceCall 0x0E#8 o) s

/-- A check of `rte` that fails is taken at the current level (R115). -/
def rteFault {α : Type} (sub : Byte) : EM α := throw (.trap { trapOf 2#8 sub 0#64 with here := true })

/-- The bits of `ST` that are not reserved (R58). -/
def stMask : W64 := 0x38F#64

/-- The words that `rte` restores, in frame order (R118, R132). -/
def Core.restore (c : Core) (l : List TWord) : Core :=
  let g (i : Nat) : TWord := l.getD i TWord.zero
  let c1 := c.setSp (c.sp + 96#64)
  { c1.sysSet 0x102 (g 9).v with
      pc := (g 0).v, st := (g 1).v, acc := g 2, ix0 := g 3, ix1 := g 4, prl := g 5, prh := g 6, pend := [] }

/-- The frame at the stack pointer of the current level (R118, R131), each word with the tag rules of a load (R61, R65).
DEDUCED (log 105). -/
def frameWords (sp : W64) : EM (List TWord) :=
  (List.range 12).mapM (fun i => do
    let r ← loadMem (sp + w64 (8 * i)) 8 scalarLoad
    checkTag .move r.tag (sp + w64 (8 * i))
    return (⟨w64 (leNat r.bytes), r.tag⟩ : TWord))

/-- `rte` (R131, R132). -/
def execRte (e : Fin 104) (o : YOp) (s : State) : Res :=
  instr 0 4 14 e (do
    noFields o
    notTask
    modE (fun x => x.commitAll)
    let c ← getC
    let l ← frameWords c.sp
    let st := l.getD 1 TWord.zero
    let pc := l.getD 0 TWord.zero
    if st.t ≠ 6#4 then rteFault 4#8
    if pc.t ≠ 7#4 then rteFault 5#8
    if fld st.v 8 2 < c.pl.toNat then rteFault 6#8
    if fld st.v 8 2 = 3 ∨ st.v &&& ~~~ stMask ≠ 0#64 then rteFault 7#8
    modC (fun k => k.restore l)
    return some pc.v) s

/-- `ei` and `di`. -/
def setIe (e : Fin 104) (o : YOp) (b : Bool) (s : State) : Res :=
  seqInstr 0 4 1 e (do
    noFields o
    notTask
    modE (fun x => x.commitAll)
    modC (fun c => { c with st := setBit c.st 7 b })) s

def execEi (e : Fin 104) (o : YOp) (s : State) : Res := setIe e o true s
def execDi (e : Fin 104) (o : YOp) (s : State) : Res := setIe e o false s

/-! Interrupts. -/

/-- Source s can be taken at the current level (R136): its target level. -/
def irqTarget (a : Anat) (w : World) (e s : Nat) : Option (BitVec 2) :=
  let c := (w.eng e).core
  let t : BitVec 2 := if bit (c.sysGet 0x212) s then 1#2 else 0#2
  if bit (irqPend a w e) s && bit (c.sysGet 0x211) s && (decide (t.toNat < c.pl.toNat) || (decide (c.pl = t) && c.ie)) then some t
  else none

/-- The source that is taken: the highest `IRQ_PRIO`, then the lowest number. -/
def irqChoose (a : Anat) (w : World) (e : Nat) : Option (Nat × BitVec 2) :=
  let pr (s : Nat) : Nat := fld ((w.eng e).core.sysGet 0x213) (2 * s) 2
  (List.range 11).foldl (fun best s =>
    match irqTarget a w e s with
    | none => best
    | some t =>
      match best with
      | none => some (s, t)
      | some b => if pr b.1 < pr s then some (s, t) else best) none

/-- The entry of an interrupt, with `TILEINFO`. -/
def enterIrq (a : Anat) (w : World) (e : Nat) (src : Nat × BitVec 2) (info : W64) : World :=
  enterEvent a w e
    { code := BitVec.ofNat 8 src.1, intr := true, asyn := false, sub := 0#8, unit := 0, info := 0#16, faddr := 0#64
      tileInfo := info, src := (w.eng e).core.pl, tgt := src.2 } (lateChoice w)

/-- `TILEINFO` of a discarded tile instruction (R120, R248). DESIGN CHOICE (log 33). -/
def TileOp.discardInfo (t : TileOp) (elapsed : Nat) : W64 :=
  setBit t.info 63 true ||| (if t.pass then packW [(16, min elapsed t.len)] else 0#64)

/-- The interrupt is taken at the oldest tile instruction, which is discarded with every younger one (R246).
DEDUCED (log 29). -/
def discardForIrq (a : Anat) (w : World) (e : Nat) (src : Nat × BitVec 2) (t : TileOp) (elapsed : Nat) : World :=
  let w0 := w.lose e ((w.eng e).tq.drop 1)
  let w1 := w0.modEng e (fun x =>
    let y := ({ x.discardAll with wait := .none }).count 0x19F 1
    if t.pass then (y.count 0x19C (min elapsed t.len)).count 0x1A6 (Config.free w0.freeCtr % (t.skip + 1)) else y)
  enterIrq a { w1 with freeCtr := w1.freeCtr + 1 } e src (t.discardInfo elapsed)

/-- Interrupts can be taken: the engine runs and stands between two instructions, or in `pause`, `fence.s` or a
load that waits for its data. DEDUCED (log 26). -/
def irqOpen (a : Anat) (w : World) (e : Nat) : Bool :=
  let x := w.eng e
  (a.logicalOf e).isSome && dieRuns a e && w.eclk && x.locked.isNone &&
    (match x.wait with
     | .none | .pause | .fenceS | .resp _ | .mark _ => true
     | _ => false)

/-- `INTERRUPT_TAKE`: the interrupt that can be taken is taken; `elapsed` is how much of its pass the oldest tile
instruction has done. -/
def execInterruptTake (e : Fin 104) (elapsed : BitVec 13) (s : State) : Res :=
  .next { s with w :=
    match irqChoose s.anat s.w e.val with
    | none => s.w
    | some src =>
      if irqOpen s.anat s.w e.val then
        match (s.w.eng e.val).tq with
        | [] => enterIrq s.anat (s.w.modEng e.val (fun x => { x with wait := .none })) e.val src 0#64
        | t :: _ =>
          if t.pass && decide (t.len - elapsed.toNat ≤ 2048) then s.w.modEng e.val (fun x => { x with wait := .tile })
          else discardForIrq s.anat s.w e.val src t elapsed.toNat
      else s.w }

/-- `TILE_COMMIT`: the oldest tile instruction commits; an interrupt that waited for it is taken, and younger
instructions are discarded. -/
def execTileCommit (e : Fin 104) (s : State) : Res :=
  .next { s with w :=
    let x := s.w.eng e.val
    match x.tq with
    | [] => s.w
    | t :: _ =>
      if !dieRuns s.anat e.val || !s.w.eclk then s.w
      else
        let w1 := s.w.setEng e.val x.commitOldest
        match x.wait with
        | .tile =>
          match irqChoose s.anat w1 e.val with
          | none => w1.modEng e.val (fun y => { y with wait := .none })
          | some src =>
            let w2 := (s.w.lose e.val (x.tq.drop 1)).modEng e.val (fun y =>
              (({ y with wait := .none, tq := [], core := t.after }).count 0x19C t.busy).count 0x1A6 t.skip)
            enterIrq s.anat w2 e.val src 0#64
        | _ => w1 }

/-- `TILE_WAIT_EXPIRE`: 4096 cycles have passed since the decision to wait (R246). -/
def execTileWaitExpire (e : Fin 104) (elapsed : BitVec 13) (s : State) : Res :=
  .next { s with w :=
    let x := s.w.eng e.val
    match x.wait, x.tq with
    | .tile, t :: _ =>
      match irqChoose s.anat s.w e.val with
      | none => s.w.modEng e.val (fun y => { y with wait := .none })
      | some src => discardForIrq s.anat s.w e.val src t elapsed.toNat
    | _, _ => s.w }

/-! Sources. -/

/-- An event source of an engine's interrupt controller becomes pending (R135). -/
def World.raiseIrq (w : World) (e s : Nat) : World := w.modEng e (fun x => { x with irq := x.irq ||| BitVec.ofNat 11 (2 ^ s) })

/-- Time passes until `TIME` reaches a value. DEDUCED (log 27). -/
def World.timeTo (w : World) (v : W64) : World :=
  if w.timeRun && decide (w.time.toNat < v.toNat) then { w with time := v } else w

/-- DEDUCED (log 27). -/
def execTimerMon (e : Fin 104) (s : State) : Res :=
  .next { s with w := s.w.timeTo ((s.w.eng e.val).core.sysGet 0x21A) }

/-- DEDUCED (log 27); DESIGN CHOICE (log 102). -/
def execTimerSup (e : Fin 104) (s : State) : Res :=
  .next { s with w := s.w.timeTo ((s.w.eng e.val).core.sysGet 0x219) }

/-- A pre-emption request for the task of an engine. -/
def execPreemptionRequest (e : Fin 104) (s : State) : Res :=
  .next { s with w := if (s.anat.logicalOf e.val).isSome then s.w.raiseIrq e.val 10 else s.w }

/-- An internal state error of an engine: MACHINE_CHECK with SUB 2. -/
def execInternalStateError (e : Fin 104) (s : State) : Res :=
  .next { s with w :=
    if (s.anat.logicalOf e.val).isSome && dieRuns s.anat e.val then machineCheck s.anat s.w e.val 2#8 0#64 else s.w }

end Sys2Proof.Machine
end

