-- ==== Sys2Proof/Machine/Fences.lean ====
section
/-!
DEFINITION. Fences, acquire loads and release stores (opcode 0x3A, R145, R146, R395 to R400).
-/

namespace Sys2Proof.Machine

/-- `fence` and `fence.n`: with W in PRED it waits until every earlier store is performed; with N = 1 and R in
SUCC every N line goes once its predecessors are performed (R399). -/
def execFence (e : Fin 104) (f : BitVec 23) (s : State) : Res :=
  seqInstr 0 4 1 e (do
    let pred := fld f 4 4
    let succ := fld f 0 4
    let n := bit f 8
    need (decide (fld f 9 14 = 0) && decide (pred < 4) && decide (succ < 4))
    need (n || (decide (pred ≠ 0) && decide (succ ≠ 0)))
    let env ← read
    modE (fun x => x.commitAll)
    let x ← getE
    let inval := n && decide (succ % 2 = 1)
    if decide (2 ≤ pred) && !x.sb.isEmpty then modE (fun y => { y with wait := .fence inval })
    else if inval then modify (fun w => invalN w env.e)) s

/-- The outcome of `fence.s` once the store buffer is empty (R145). -/
def fenceSEnd : EM Unit := do
  let x ← getE
  match x.lateErr with
  | [] => pure ()
  | r :: _ => raise 0x0A#8 r.status r.addr

/-- `fence.s`: waits for the store buffer, then completes or raises LATE_STORE. -/
def execFenceS (e : Fin 104) (f : BitVec 23) (s : State) : Res :=
  seqInstr 0 4 1 e (do
    need (decide (f = 0#23))
    modE (fun x => x.commitAll)
    let x ← getE
    if x.sb.isEmpty then fenceSEnd
    else do
      modE (fun y => { y with wait := .fenceS })
      throw .wait) s

/-- `FENCE_S_DRAINED`: the store buffer of a waiting `fence.s` is empty. -/
def execFenceSDrained (e : Fin 104) (s : State) : Res :=
  let x := s.w.eng e.val
  if x.wait = .fenceS ∧ x.sb.isEmpty then
    seqInstr 0 4 1 e fenceSEnd { s with w := s.w.setEng e.val { x with wait := .none } }
  else .next s

/-- The base and displacement of `ld.aq` and `st.rl` (R400). -/
def acqAddr (f : BitVec 23) : EM W64 := do
  need (decide (fld f 0 12 = 0) && decide (fld f 21 2 ≠ 3))
  let c ← getC
  let b : TWord := if fld f 21 2 = 0 then c.ix0 else if fld f 21 2 = 1 then c.ix1 else ⟨c.sp, 3#4⟩
  checkTag .addr b.t 0#64
  return b.v + sx64 (f.extractLsb' 12 9) * 8#64

/-- `ld.aq`: a load that reads its target and, where that is another node's or host memory, drops every N line. -/
def execLdAq (e : Fin 104) (f : BitVec 23) (s : State) : Res :=
  seqInstr 0 4 1 e (do
    let a ← acqAddr f
    if fld a 0 3 ≠ 0 then alignFault a
    let t ← translate a .load
    let l ← loadVia t a 8 { scalarLoad with acq := true }
    checkTag .move l.tag a
    let v := w64 (leNat l.bytes)
    let env ← read
    let w ← get
    match placeOf w (t.ga a.toNat) with
    | .remote => modify (fun u => invalN u env.e)
    | .host _ => modify (fun u => invalN u env.e)
    | _ => pure ()
    modC (fun c => ({ c with acc := ⟨v, l.tag⟩ }).setZN v)) s

/-- `st.rl`: a store that is performed only after every earlier access. -/
def execStRl (e : Fin 104) (f : BitVec 23) (s : State) : Res :=
  seqInstr 0 4 1 e (do
    let c ← getC
    need (decide (fld f 0 12 = 0) && decide (fld f 21 2 ≠ 3))
    checkTag .move c.acc.t 0#64
    let a ← acqAddr f
    storeMemE a 8 c.acc.v c.acc.t true) s

end Sys2Proof.Machine
end

