-- ==== Sys2Proof/Machine/TileFile.lean ====
section
/-!
DEFINITION. The tile file (chapter 05): shapes (R203 to R206), renamed writes (R213), reuse latches (R221),
shape faults (R240), and how a tile instruction issues and waits for its commit (R214, R215).
-/

namespace Sys2Proof.Machine

/-! Shapes. -/

/-- The fields of `TSn` (R203). -/
structure TShape where
  rows : Nat
  rowb : Nat
  fmt : Nat
  skew : Bool
deriving DecidableEq, Repr

def Core.ts (c : Core) (n : Nat) : TShape :=
  let v := c.sysGet (0x180 + n)
  ⟨fld v 0 8, fld v 8 8, fld v 16 4, bit v 20⟩

/-- The fields of `ASn` (R206): rows and columns. -/
def Core.ash (c : Core) (n : Nat) : Nat × Nat :=
  let v := c.sysGet (0x190 + n)
  (fld v 0 8, fld v 8 8)

/-- Storage width of a tile's elements. -/
def TShape.w (t : TShape) : Nat := codeWidth t.fmt

/-- Element count of a row (R223). -/
def TShape.e (t : TShape) : Nat := t.rowb * 8 / t.w

def TShape.unshaped (t : TShape) : Bool := decide (t.rows = 0) || decide (t.rowb = 0)

/-- Scale bytes of a row (R260). -/
def TShape.scales (t : TShape) : Nat := if codeBlock t.fmt = 0 then 0 else t.e / codeBlock t.fmt

/-- A reserved format code, or an element count that is no multiple of the block (R252, R262). -/
def TShape.badFmt (t : TShape) : Bool :=
  decide (t.w = 0) || (decide (codeBlock t.fmt ≠ 0) && decide (t.e % codeBlock t.fmt ≠ 0))

/-! Slots. -/

def emptySlot : TileSlot := ⟨[], []⟩

/-- The contents of a tile register. -/
def Core.tile (c : Core) (n : Nat) : TileSlot := sgetD c.tf.slots (c.tf.tmap.getD n 0) emptySlot

def TileSlot.row (t : TileSlot) (r : Nat) : BitVec 1024 := sgetD t.rows r 0#1024

def TileSlot.scaleRow (t : TileSlot) (r : Nat) : BitVec 128 := sgetD t.scale r 0#128

/-- A slot whose rows and scale rows are given by functions of the row; a zero row is not listed. -/
def slotOf (n : Nat) (row : Nat → BitVec 1024) (scale : Nat → BitVec 128) : TileSlot :=
  { rows := (List.range n).filterMap (fun r => if row r = 0#1024 then none else some (r, row r))
    scale := (List.range n).filterMap (fun r => if scale r = 0#128 then none else some (r, scale r)) }

/-- The latch no longer names a slot. -/
def dropLatch (l : Option Nat) (slot : Nat) : Option Nat := if l.map (fun x => x % 100) = some slot then none else l

/-- A tile write commits (R213): the spare slot takes the contents and the register's name. -/
def Core.writeTile (c : Core) (d : Nat) (t : TileSlot) : Core :=
  let f := c.tf
  let old := f.tmap.getD d 0
  let slots := if t = emptySlot then sdel f.slots f.spare else sset f.slots f.spare t
  { c with tf := { f with tmap := f.tmap.set d f.spare, spare := old, slots := slots
                          latch0 := dropLatch f.latch0 old, latch1 := dropLatch f.latch1 old } }

/-- Element (m, n) of an accumulator. -/
def Core.accElt (c : Core) (d m n : Nat) : BitVec 48 := sgetD (sgetD c.tf.accs (c.tf.amap.getD d 0) []) (128 * m + n) 0#48

/-- An accumulator's contents from a function of row and column. -/
def accOf (f : Nat → Nat → BitVec 48) : Store (BitVec 48) :=
  (List.range 16384).filterMap (fun i => let v := f (i / 128) (i % 128); if v = 0#48 then none else some (i, v))

/-- An accumulator write commits (R213, R242): the shadow of the half takes the contents and the register's
name. -/
def Core.writeAcc (c : Core) (d : Nat) (h1 : Bool) (a : Store (BitVec 48)) : Core :=
  let f := c.tf
  let old := f.amap.getD d 0
  let s := if h1 then f.shadow1 else f.shadow0
  let accs := if a = [] then sdel f.accs s else sset f.accs s a
  { c with tf := { f with amap := f.amap.set d s, accs := accs
                          shadow0 := if h1 then f.shadow0 else old, shadow1 := if h1 then old else f.shadow1 } }

/-! Faults. -/

/-- SHAPE with a subcode. DEDUCED (log 30). -/
def shapeFault {α : Type} (sub : Nat) : EM α := raise 9#8 (BitVec.ofNat 8 sub) 0#64

/-- SHAPE with the first condition that holds (R240). DEDUCED (log 31). -/
def shapeCheck (l : List (Nat × Bool)) : EM Unit :=
  match l.find? (fun p => p.2) with
  | some p => shapeFault p.1
  | none => pure ()

/-- In split mode the task reaches neither `T8` to `T15` nor `A2` and `A3` (R244, SUB 10). -/
def splitNames (x : Engine) (ts acs : List Nat) : Bool :=
  x.leased && (ts.any (fun t => decide (8 ≤ t)) || acs.any (fun a => decide (2 ≤ a)))

/-- A trap inside a row's accesses: `FADDR` is the row's first byte, and the work had started (R231, R248). -/
def atRow {α : Type} (va info : W64) (act : EM α) : EM α :=
  tryCatch act (fun x =>
    match x with
    | .trap t => throw (.trap { t with faddr := va, tile := info })
    | y => throw y)

/-! Issue. -/

/-- What a tile instruction that has done its work waits to commit. -/
structure TileWork where
  pass : Bool
  len : Nat
  info : W64
  busy : Nat
  skip : Nat
deriving DecidableEq, Repr

/-- Work that is no pass. -/
def plainWork (info : W64) : TileWork := ⟨false, 0, info, 0, 0⟩

/-- `TILEINFO` without PASS_CYCLE: tile register, accumulator, half (R248). DEDUCED (log 30). -/
def tileInfo (treg acc : Nat) (h hs : Bool) : W64 :=
  packW [(63, 1), (57, h.toNat), (56, (h && hs).toNat), (8, treg), (4, acc)]

/-- The cycles that a tile instruction of engine e has waited under the accumulator interlock (R217), and, for a pass, those it
has lost to bank conflicts, are a matter of timing: `TCNT_INTERLOCK` and `TCNT_BANKCONF` count a free number of them.
DESIGN CHOICE (log 9). -/
def World.tileWaited (w : World) (e : Nat) (pass : Bool) : World :=
  let u := Config.free w.freeCtr
  { w.modEng e (fun x => (x.count 0x19D (u % 2 ^ 48)).count 0x19E (if pass then u / 2 ^ 48 else 0)) with freeCtr := w.freeCtr + 1 }

/-- A tile instruction that enters the tile queue; it waits while the queue is full (R214). DEDUCED (log 29). -/
def tileInstr (e : Fin 104) (body : EM TileWork) (s : State) : Res :=
  let body' : EM TileWork := do
    let x ← getE
    if 8 ≤ x.tq.length then throw .wait
    let r ← body
    modC (fun c => c.sticky 0x198 0)
    modify (fun w => w.tileWaited e.val r.pass)
    return r
  let enter (r : TileWork) (before : Core) (x : Engine) : Engine :=
    { x with tq := x.tq ++ [{ before := before, after := x.core, pass := r.pass, len := r.len, info := r.info
                              busy := r.busy, skip := r.skip, held := [], younger := 1 }] }
  .next { s with w := runWith 2 4 1 e body' (fun _ c => c.pc + 4#64) enter s.anat s.w }

/-- A tile store: the oldest instruction, done when it retires (R232). DEDUCED (log 29). -/
def tileStoreInstr (e : Fin 104) (body : EM Unit) (s : State) : Res :=
  seqInstr 2 4 1 e (do
    modE (fun x => x.commitAll)
    body
    modify (fun w => w.tileWaited e.val false)
    modC (fun c => c.sticky 0x198 0)) s

end Sys2Proof.Machine
end

