-- ==== Sys2Proof/Machine/TileMem.lean ====
section
/-!
DEFINITION. Tile loads and stores, tile and accumulator management (opcodes 0x30 and 0x31, R229 to R233), and the
read-out of accumulators (R279, R280).
-/

namespace Sys2Proof.Machine

/-! Fields and bases. -/

/-- The fields of format T that an instruction uses. -/
structure TUse where
  td : Bool
  ta : Bool
  tb : Bool
  ad : Bool
  h : Bool
  p : Bool
  base : Bool
deriving DecidableEq, Repr

/-- ILLEGAL unless every field that is not used is zero, and HS is 0 where H is 0 (R230). -/
def tFields (o : TOp) (u : TUse) : EM Unit :=
  need (decide (o.low = 0#4) && (u.td || decide (o.td = 0#4)) && (u.ta || decide (o.ta = 0#4)) &&
    (u.tb || decide (o.tb = 0#4)) && (u.ad || decide (o.ad = 0#2)) && (u.h || !o.h) && (o.h || !o.hs) &&
    (u.p || !o.p) && (u.base || !o.base))

/-- The address base B, its tag checked (R231). -/
def tBase (o : TOp) : EM W64 := do
  let c ← getC
  let b := if o.base then c.ix1 else c.ix0
  checkTag .addr b.t 0#64
  return b.v

/-! Rows in memory. -/

/-- An access of the tile unit. -/
def tileLoad (last : Bool) : LoadKind := ⟨2, last, false, false⟩

/-- Reads n bytes from an 8-byte-aligned address, word by word; a word tagged KEYH reads as zero, which the flag
reports (R231). -/
def readWords (k : LoadKind) (va : W64) (n : Nat) : EM (List Byte × Bool) := do
  let ps ← (List.range ((n + 7) / 8)).mapM (fun i => do
    let a := va + w64 (8 * i)
    let m := min 8 (n - 8 * i)
    let t ← translate a .load
    let l ← loadVia t a m k
    return if l.tag = 5#4 then (List.replicate m 0#8, true) else (l.bytes, false))
  return ((ps.map (fun p => p.1)).flatten, ps.any (fun p => p.2))

/-- A KEYH word was read: `TSTAT.KEYH_READ` (R209). -/
def keyhRead (b : Bool) : EM Unit := if b then modC (fun c => c.sticky 0x198 1) else pure ()

/-- Reads one operand row, 16-byte aligned. -/
def readRow (k : LoadKind) (info va : W64) (n : Nat) : EM (List Byte) := do
  let r ← atRow va info (do
    if va.toNat % 16 ≠ 0 then alignFault va
    readWords k va n)
  keyhRead r.2
  return r.1

/-- Checks one row to be stored, word by word. -/
def rowPieces (info va : W64) (bytes : List Byte) : EM (List Piece) :=
  atRow va info (do
    if va.toNat % 16 ≠ 0 then alignFault va
    (List.range ((bytes.length + 7) / 8)).mapM (fun i =>
      checkPiece (va + w64 (8 * i)) ((bytes.drop (8 * i)).take 8)))

/-- A piece lies in this module's HBM. -/
def Piece.local (p : Piece) (w : World) : Bool :=
  match placeOf w p.ga with
  | .hbm _ => true
  | _ => false

/-- A piece written at once to local device memory (R232). -/
def pieceCommit (e : Nat) (w : World) (p : Piece) : World :=
  match localOff w p.ga with
  | some off => engCommit w e 2 p.t.tcls p.t.kdom p.act (atOff off (offsets p.bytes))
  | none => w

/-- Writes checked pieces (R232): those of local memory at once, the others into the store buffer, all of them into
W lines where the task is speculative. Older stores to the same bytes are performed first (R396). -/
def tileStore (ps : List Piece) : EM Unit := do
  let env ← read
  let x0 ← getE
  if x0.speculating then
    ps.forM (fun p => specStore p.t p.va (offsets p.bytes) p.act (tileLoad false))
  else do
    drainE
    let x ← getE
    if x.sbRoom = 0 || x.sb.any (fun s => ps.any (fun p => s.touches p.ga p.bytes.length)) then throw .wait
    let w ← get
    let here := ps.filter (fun p => p.local w)
    let away := ps.filter (fun p => !p.local w)
    modify (fun v => here.foldl (pieceCommit env.e) v)
    retirePieces 2 away

/-! 0x30: loads and stores. -/

/-- A tile's contents from the memory image of its rows: element bytes, then scale bytes (R261). -/
def tileOf (t : TShape) (rows : List (List Byte)) : TileSlot :=
  slotOf t.rows (fun r => BitVec.ofNat 1024 (leNat ((rows.getD r []).take t.rowb)))
    (fun r => BitVec.ofNat 128 (leNat ((rows.getD r []).drop t.rowb)))

/-- The memory image of a tile's row. -/
def rowImage (t : TShape) (x : TileSlot) (r : Nat) : List Byte :=
  leBytes t.rowb (x.row r).toNat ++ leBytes t.scales (x.scaleRow r).toNat

/-- `tld`: rows of TSd, `ACC` bytes apart. -/
def tileLoadInstr (e : Fin 104) (o : TOp) (last : Bool) (s : State) : Res :=
  tileInstr e (do
    tFields o ⟨true, false, false, false, false, false, true⟩
    let c ← getC
    let x ← getE
    let b ← tBase o
    let st ← indexReg c.acc
    let d := o.td.toNat
    let t := c.ts d
    shapeCheck [(1, t.unshaped), (2, t.badFmt), (10, splitNames x [d] [])]
    let info := tileInfo d 0 false false
    let rows ← (List.range t.rows).mapM (fun r => readRow (tileLoad last) info (b + w64 r * st) (t.rowb + t.scales))
    modC (fun k => k.writeTile d (tileOf t rows))
    return plainWork info) s

def execTld (e : Fin 104) (o : TOp) (s : State) : Res := tileLoadInstr e o false s
def execTldLast (e : Fin 104) (o : TOp) (s : State) : Res := tileLoadInstr e o true s

/-- `tst`. -/
def execTstTile (e : Fin 104) (o : TOp) (s : State) : Res :=
  tileStoreInstr e (do
    tFields o ⟨false, true, false, false, false, false, true⟩
    let c ← getC
    let x ← getE
    let b ← tBase o
    let st ← indexReg c.acc
    let a := o.ta.toNat
    let t := c.ts a
    shapeCheck [(1, t.unshaped), (2, t.badFmt), (10, splitNames x [a] [])]
    let info := tileInfo a 0 false false
    let ps ← (List.range t.rows).mapM (fun r => rowPieces info (b + w64 r * st) (rowImage t (c.tile a) r))
    tileStore ps.flatten) s

/-- The elements of an accumulator image (R233). -/
def imageElts : Nat → List Byte → Store (BitVec 48)
  | i, a :: b :: c :: d :: e :: f :: r =>
    let v := BitVec.ofNat 48 (leNat [a, b, c, d, e, f])
    if v = 0#48 then imageElts (i + 1) r else (i, v) :: imageElts (i + 1) r
  | _, _ => []

/-- The shadow an instruction that is bound to no half takes: that of H0, or that of H1 where an uncommitted
instruction holds it and H1 is not leased (R242). -/
def Engine.shadowH1 (x : Engine) : Bool := !x.leased && x.tq.any (fun t => decide (t.before.tf.shadow0 ≠ t.after.tf.shadow0))

/-- A trap inside an image: `FADDR` is the word's address. -/
def imageWords (b info : W64) : EM (List Byte) := do
  let ps ← (List.range 12288).mapM (fun i => do
    let a := b + w64 (8 * i)
    atRow a info (readWords (tileLoad false) a 8))
  keyhRead (ps.any (fun p => p.2))
  return (ps.map (fun p => p.1)).flatten

/-- `tlda`. -/
def execTlda (e : Fin 104) (o : TOp) (s : State) : Res :=
  tileInstr e (do
    tFields o ⟨false, false, false, true, false, false, true⟩
    let x ← getE
    let b ← tBase o
    let d := o.ad.toNat
    shapeCheck [(10, splitNames x [] [d])]
    if b.toNat % 64 ≠ 0 then alignFault b
    let info := tileInfo 0 d false false
    let l ← imageWords b info
    modC (fun k => k.writeAcc d x.shadowH1 (imageElts 0 l))
    return plainWork info) s

/-- `tsta`. -/
def execTsta (e : Fin 104) (o : TOp) (s : State) : Res :=
  tileStoreInstr e (do
    tFields o ⟨false, false, false, true, false, false, true⟩
    let c ← getC
    let x ← getE
    let b ← tBase o
    let d := o.ad.toNat
    shapeCheck [(10, splitNames x [] [d])]
    if b.toNat % 64 ≠ 0 then alignFault b
    let info := tileInfo 0 d false false
    let l := ((List.range 16384).map (fun i => leBytes 6 (c.accElt d (i / 128) (i % 128)).toNat)).flatten
    let ps ← (List.range 12288).mapM (fun i => do
      let a := b + w64 (8 * i)
      atRow a info (checkPiece a ((l.drop (8 * i)).take 8)))
    tileStore ps) s

/-! 0x31: management. -/

/-- `tzero`. -/
def execTzero (e : Fin 104) (o : TOp) (s : State) : Res :=
  tileInstr e (do
    tFields o ⟨true, false, false, false, false, false, false⟩
    let x ← getE
    let d := o.td.toNat
    shapeCheck [(10, splitNames x [d] [])]
    modC (fun k => k.writeTile d emptySlot)
    return plainWork (tileInfo d 0 false false)) s

/-- `tmov`: the shaped part and the scale bytes (R205, R260). DEDUCED (log 31). -/
def execTmov (e : Fin 104) (o : TOp) (s : State) : Res :=
  tileInstr e (do
    tFields o ⟨true, true, false, false, false, false, false⟩
    let c ← getC
    let x ← getE
    let d := o.td.toNat
    let a := o.ta.toNat
    shapeCheck [(10, splitNames x [d, a] [])]
    let t := c.ts a
    let src := c.tile a
    let new := slotOf 128 (fun r => if r < t.rows then BitVec.ofNat 1024 ((src.row r).toNat % 2 ^ (8 * t.rowb)) else 0#1024) src.scaleRow
    modC (fun k => (k.writeTile d new).sysSet (0x180 + d) (k.sysGet (0x180 + a)))
    return plainWork (tileInfo d 0 false false)) s

/-- `tzacc`. -/
def execTzacc (e : Fin 104) (o : TOp) (s : State) : Res :=
  tileInstr e (do
    tFields o ⟨false, false, false, true, false, false, false⟩
    let x ← getE
    let d := o.ad.toNat
    shapeCheck [(10, splitNames x [] [d])]
    modC (fun k => k.writeAcc d x.shadowH1 [])
    return plainWork (tileInfo 0 d false false)) s

/-! Read-out (R279, R280). -/

/-- An FP32 register field as a value. -/
def fp32Val (x : Nat) : FVal := decodeF fmt32 x

/-- The read-out multiplier of an accumulator (R265). -/
def Core.oscale (c : Core) (d : Nat) : FVal := fp32Val (fld (c.sysGet (0x1BA + d / 2)) (d % 2 * 32) 32)

/-- The value v of an element: read in the accumulator's view and multiplied, both in W48. -/
def Core.readOut (c : Core) (d m n : Nat) : FVal :=
  let x := c.accElt d m n
  let y := if bit (c.sysGet 0x1BC) (8 + d) then (encodeF fmtW48 .near (intF x.toInt)).1 else x.toNat
  decodeF fmtW48 (finish fmtW48 .near (mulF (decodeF fmtW48 y) (c.oscale d))).1

/-- The rounding mode under `TRND.RM` of element i, with draw base `b`. -/
def Core.readMode (c : Core) (b i : Nat) : RMode :=
  match fld (c.sysGet 0x1BC) 0 2 with
  | 1 => .zero
  | 2 => .stoch (c.draw (b + i))
  | _ => .near

/-- Draws of `tcvt` and `tstf` (R274). -/
def reserveRead : EM Nat := do
  let c ← getC
  if fld (c.sysGet 0x1BC) 0 2 = 2 then reserveDraws 16384 else return 0

/-- Conversion into an integer format with saturation (R267 to R269): ties and modes as for a floating-point
rounding at the unit. -/
def toIntRound (w : Nat) (md : RMode) (v : FVal) : Nat :=
  let hi : Int := 2 ^ (w - 1) - 1
  let lo : Int := -(2 ^ (w - 1) : Int)
  match v with
  | .nan _ => 0
  | .inf neg => ofInt w (if neg then lo else hi)
  | .fin neg m e =>
    let whole := truncF m e
    let sh := (-e).toNat
    let rem := if e ≥ 0 then 0 else m % 2 ^ sh
    let half := 2 ^ sh / 2
    let nearUp := decide (sh ≠ 0) && (decide (rem > half) || (decide (rem = half) && decide (whole % 2 = 1)))
    let big := decide ((if neg then whole + (rem ≠ 0 : Bool).toNat > 2 ^ (w - 1) else whole + (rem ≠ 0 : Bool).toNat ≥ 2 ^ (w - 1)))
    let up := match md with
      | .near => nearUp
      | .zero => false
      | .up => decide (rem ≠ 0)
      | .stoch r => if big then nearUp else decide (r.toNat < rem * 2 ^ 32 / 2 ^ sh)
    let a : Int := whole + up.toNat
    let i := if neg then -a else a
    ofInt w (if i > hi then hi else if i < lo then lo else i)

/-- An element converted to a format code that has no block scales. -/
def toCode (code : Nat) (md : RMode) (v : FVal) : Nat :=
  match codeFmt code 0 with
  | some f => (encodeF f md v).1
  | none => toIntRound (codeWidth code) md v

/-- v / 2^x for a scale exponent x. -/
def unscale (v : FVal) (x : Int) : FVal :=
  match v with
  | .fin n m e => .fin n m (e - x)
  | y => y

/-- ⌊log₂⌋ of a nonzero magnitude. -/
def floorLog2 (v : FVal) : Int :=
  match v with
  | .fin _ m e => (bitLen m : Int) - 1 + e
  | _ => 0

/-- The largest element exponent of an element encoding (R280). -/
def emaxOf (f : Fmt) : Int :=
  if f = fmtE4M3 then 8 else if f = fmtE5M2 then 15 else if f = fmtE3M2 then 4 else 2

/-- The larger of two finite magnitudes. -/
def maxAbs (a b : FVal) : FVal :=
  match cmpF (absF a) (absF b) with
  | .lt => absF b
  | _ => absF a

/-- a / s of finite values, converted: the exact quotient rounded once. -/
def divTo (f : Fmt) (md : RMode) (a s : FVal) : Nat := (finish f md (divF a s)).1

/-- The smallest E5M3 code whose value is at least a / 6 (R280). -/
def dsfScale (a : FVal) : Nat :=
  ((List.range 256).find? (fun c => match cmpF (mulF (scaleVal 15 c) (intF 6)).v a with
    | .lt => false
    | _ => true)).getD 255

/-- A block converted into a block-scaled format: scale byte and elements (R280). -/
def cvtBlock (code : Nat) (f : Fmt) (vs : List (FVal × RMode)) : Nat × List Nat :=
  let bad := vs.any (fun v => match v.1 with
    | .fin _ _ _ => false
    | _ => true)
  let a := vs.foldl (fun m v => maxAbs m v.1) (.fin false 0 0)
  let zero := match a with
    | .fin _ m _ => decide (m = 0)
    | _ => false
  let zeros := vs.map (fun _ => 0)
  if bad then (0xFF, zeros)
  else if zero then (0, zeros)
  else if code = 15 then
    let sc := dsfScale a
    (sc, vs.map (fun v => divTo f v.2 v.1 (scaleVal 15 sc)))
  else
    let x := max (-127) (min 127 (floorLog2 a - emaxOf f))
    ((x + 127).toNat, vs.map (fun v => (encodeF f v.2 (unscale v.1 x)).1))

/-- Blocks of n of a list, `k` of them. -/
def splitBlocks {α : Type} (n : Nat) : Nat → List α → List (List α)
  | 0, _ => []
  | k + 1, l => l.take n :: splitBlocks n k (l.drop n)

/-- Elements of width w packed into a row, with logical element c at position (c + r) mod E where the row is
skewed (R225). -/
def packRow (w e r : Nat) (skew : Bool) (l : List Nat) : BitVec 1024 :=
  let pos (c : Nat) : Nat := if skew then (c + r) % e else c
  ((List.range e).foldl (fun acc c => acc ||| BitVec.ofNat 1024 (l.getD c 0 % 2 ^ w * 2 ^ (w * pos c))) 0#1024)

/-- One row of `tcvt`: the elements and the scale bytes. -/
def cvtRow (t : TShape) (sub r : Nat) (vs : List (FVal × RMode)) : BitVec 1024 × BitVec 128 :=
  let b := codeBlock t.fmt
  if b = 0 then (packRow t.w t.e r t.skew (vs.map (fun v => toCode t.fmt v.2 v.1)), 0#128)
  else
    let f := (codeFmt t.fmt sub).getD fmtE2M1
    let bs := (splitBlocks b (t.e / b) vs).map (cvtBlock t.fmt f)
    (packRow t.w t.e r t.skew (bs.map (fun x => x.2)).flatten,
     BitVec.ofNat 128 (leNat (bs.map (fun x => BitVec.ofNat 8 x.1))))

/-- `tcvt`. -/
def execTcvt (e : Fin 104) (o : TOp) (s : State) : Res :=
  tileInstr e (do
    tFields o ⟨true, false, false, true, false, false, false⟩
    let c ← getC
    let x ← getE
    let d := o.td.toNat
    let a := o.ad.toNat
    let t := c.ts d
    let sh := c.ash a
    let sub := fld (c.sysGet (0x1A8 + d)) 32 4
    shapeCheck [(1, t.unshaped || decide (sh.1 = 0) || decide (sh.2 = 0)),
      (2, t.badFmt || (decide (t.fmt = 10) && decide (4 ≤ sub))), (10, splitNames x [d] [a]),
      (11, decide (t.rows ≠ sh.1) || decide (t.e < sh.2))]
    let b ← reserveRead
    let row (r : Nat) : BitVec 1024 × BitVec 128 :=
      cvtRow t sub r ((List.range t.e).map (fun n =>
        (if n < sh.2 then c.readOut a r n else .fin false 0 0, c.readMode b (128 * r + n))))
    modC (fun k => k.writeTile d (slotOf t.rows (fun r => (row r).1) (fun r => (row r).2)))
    return plainWork (tileInfo d a false false)) s

/-- `tstf`. -/
def execTstf (e : Fin 104) (o : TOp) (s : State) : Res :=
  tileStoreInstr e (do
    tFields o ⟨false, false, false, true, false, false, true⟩
    let c ← getC
    let x ← getE
    let bs ← tBase o
    let st ← indexReg c.acc
    let a := o.ad.toNat
    let sh := c.ash a
    shapeCheck [(1, decide (sh.1 = 0) || decide (sh.2 = 0)), (10, splitNames x [] [a])]
    let b ← reserveRead
    let info := tileInfo 0 a false false
    let ps ← (List.range sh.1).mapM (fun m =>
      rowPieces info (bs + w64 m * st)
        ((List.range sh.2).map (fun n => leBytes 4 (encodeF fmt32 (c.readMode b (128 * m + n)) (c.readOut a m n)).1)).flatten)
    tileStore ps.flatten) s

end Sys2Proof.Machine
end

