-- ==== Sys2Proof/Machine/Array.lean ====
section
/-!
DEFINITION. The matrix array: operands and chunks (R222 to R225, R257 to R262), accumulation (R218, R277, R278),
pass length (R226, R302), shape checks (R240), register-form and memory-streamed passes (opcodes 0x32 to 0x35;
R235 to R239, R290 to R305).
-/

namespace Sys2Proof.Machine

/-! Rows of operands. -/

/-- A row of an operand: its logical elements with their block scales, and whether zero-skip would skip it (R300). -/
structure Row where
  vals : List FVal
  zero : Bool
deriving DecidableEq, Repr

/-- INT8 or INT4. -/
def codeInt (code : Nat) : Bool := decide (code = 8) || decide (code = 9)

/-- An element's value without its block scale (R254, R256, R258). -/
def eltVal (code sub x : Nat) : FVal :=
  match codeFmt code sub with
  | some f => decodeF f x
  | none => intF (sInt (codeWidth code) x)

/-- A row of `e` elements packed in `bits`, its scale bytes in `scales`; logical element c stands at position
(c + rot) mod e (R225). -/
def rowOf (code sub e rot bits scales : Nat) : Row :=
  let w := codeWidth code
  let b := codeBlock code
  let raw := (List.range e).map (fun c => eltVal code sub (bits / 2 ^ (w * ((c + rot) % e)) % 2 ^ w))
  let sc (c : Nat) : Nat := scales / 2 ^ (8 * (c / b)) % 256
  if b = 0 then ⟨raw, raw.all isZeroV⟩
  else ⟨raw.mapIdx (fun c x => (mulF x (scaleVal code (sc c))).v),
        raw.all isZeroV && (decide (code = 15) || (List.range e).all (fun c => decide (sc c ≠ 0xFF)))⟩

/-- Row r of a tile register. -/
def Core.opRow (c : Core) (n sub r : Nat) : Row :=
  let t := c.ts n
  rowOf t.fmt sub t.e (if t.skew then r else 0) ((c.tile n).row r).toNat ((c.tile n).scaleRow r).toNat

/-- Row r of a tile register, or of the pair that starts there. -/
def Core.opPair (c : Core) (pair : Bool) (n sub r : Nat) : Row :=
  let a := c.opRow n sub r
  if pair then
    let b := c.opRow (n + 1) sub r
    ⟨a.vals ++ b.vals, a.zero && b.zero⟩
  else a

/-- Bytes of a row's elements in memory, and of the row with its scales (R261). -/
def elemBytes (code k : Nat) : Nat := (k * codeWidth code + 7) / 8

def memRowBytes (code k : Nat) : Nat := elemBytes code k + (if codeBlock code = 0 then 0 else k / codeBlock code)

/-- A row read from memory. -/
def memRow (code sub k rot : Nat) (l : List Byte) : Row :=
  rowOf code sub k rot (leNat (l.take (elemBytes code k))) (leNat (l.drop (elemBytes code k)))

/-! Chunks. -/

/-- One chunk: the stationary rows that are on, with the logical positions of their elements where the operand is
structured (R292), and the streaming rows that are on, present and not skipped. -/
structure Chunk where
  x : List (Option (Row × List Nat))
  y : List (Option Row)
deriving DecidableEq, Repr

/-- Structure of the stationary operand: dense, 2:4 or 1:4. -/
inductive Struct where
  | dense | two | one
deriving DecidableEq, Repr

/-- Logical elements for each stored one. -/
def Struct.ratio (s : Struct) : Nat :=
  match s with
  | .dense => 1
  | .two => 2
  | .one => 4

/-- Logical positions of the stored elements from their index bits (R292). -/
def Struct.positions (s : Struct) (k bits : Nat) : List Nat :=
  match s with
  | .dense => []
  | .two => (List.range k).map (fun j => 4 * (j / 2) + bits / 2 ^ (2 * j) % 4)
  | .one => (List.range k).map (fun j => 4 * j + bits / 2 ^ (2 * j) % 4)

/-- The products of a stationary and a streaming row (R222, R293). -/
def products (x : Row × List Nat) (y : Row) : List FVal :=
  if x.2.isEmpty then List.zipWith (fun a b => (mulF a b).v) x.1.vals y.vals
  else List.zipWith (fun a p => (mulF a (y.vals.getD p (.fin false 0 0))).v) x.1.vals x.2

/-- Neighbours added. -/
def pairSum (f : FVal → FVal → FVal) : List FVal → List FVal
  | a :: b :: r => f a b :: pairSum f r
  | l => l

/-- A binary tree of n levels. -/
def treeSum (f : FVal → FVal → FVal) : Nat → List FVal → FVal
  | 0, l => l.headD (.fin false 0 0)
  | n + 1, l => treeSum f n (pairSum f l)

/-- A result rounded to W48. -/
def w48 (x : Exact) : FVal := decodeF fmtW48 (finish fmtW48 .near x).1

/-- The chunk sum over 2^lv leaves (R277 step 2, R278). -/
def chunkSum (int : Bool) (lv : Nat) (l : List FVal) : FVal :=
  let leaves := l ++ List.replicate (2 ^ lv - l.length) (.fin false 0 0)
  treeSum (fun a b => if int then (addF a b).v else w48 (addF a b)) lv leaves

/-- An integer value. -/
def FVal.toInt : FVal → Int
  | .fin n m e => if n then -(truncF m e : Int) else truncF m e
  | _ => 0

/-- An accumulator element after a chunk sum is added (R277 steps 3 and 4, R278). -/
def accAdd (int : Bool) (q : FVal) (old : BitVec 48) (sum : FVal) : BitVec 48 :=
  if int then
    let t := old.toInt + sum.toInt
    BitVec.ofInt 48 (max (-(2 ^ 47 : Int)) (min (2 ^ 47 - 1) t))
  else
    let c := w48 (mulF sum q)
    BitVec.ofNat 48 (finish fmtW48 .near (addF (decodeF fmtW48 old.toNat) c)).1

/-- The working copy after a chunk; a row or column that takes no part keeps its elements (R298, R301). -/
def accChunk (int : Bool) (lv : Nat) (q : FVal) (acc : List (List (BitVec 48))) (ch : Chunk) : List (List (BitVec 48)) :=
  acc.mapIdx (fun m row =>
    match (ch.x.getD m none) with
    | none => row
    | some x => row.mapIdx (fun n a =>
      match (ch.y.getD n none) with
      | none => a
      | some y => accAdd int q a (chunkSum int lv (products x y))))

/-- What every multiply-family instruction comes down to. -/
structure Pass where
  int : Bool
  /-- tree levels: 7 for the whole array, 6 for a half -/
  lv : Nat
  /-- T_X × T_Y -/
  q : FVal
  m : Nat
  n : Nat
  /-- streaming rows per cycle -/
  rho : Nat
  zero : Bool
deriving DecidableEq, Repr

/-- A working copy with the streaming cycles and the skipped rows so far. -/
structure PassAcc where
  el : List (List (BitVec 48))
  cyc : Nat
  skip : Nat
deriving DecidableEq, Repr

/-- Streaming cycles of a chunk with n rows (R226, R302). -/
def chunkCycles (rho n : Nat) : Nat := max 1 ((n + rho - 1) / rho)

def PassAcc.add (p : Pass) (a : PassAcc) (ch : Chunk) : PassAcc :=
  let used := (ch.y.filter (fun r => r.isSome)).length
  { el := accChunk p.int p.lv p.q a.el ch, cyc := a.cyc + chunkCycles p.rho used, skip := a.skip + (ch.y.length - used) }

/-- The chunks of a pass, in ascending order. -/
def runChunks (p : Pass) (chunk : Nat → EM Chunk) : Nat → Nat → PassAcc → EM PassAcc
  | 0, _, a => return a
  | k + 1, c, a => do
    let ch ← chunk c
    runChunks p chunk k (c + 1) (a.add p ch)

/-- The working copy at the start of a pass. -/
def Core.passStart (c : Core) (d : Nat) (p : Pass) : PassAcc :=
  { el := (List.range p.m).map (fun m => (List.range p.n).map (fun n => if p.zero then 0#48 else c.accElt d m n))
    cyc := 0, skip := 0 }

/-- `AMAXd` after a commit (R208). -/
def amaxUpdate (int : Bool) (old : W64) (el : List (List (BitVec 48))) : W64 :=
  el.flatten.foldl (fun v x =>
    let f := if int then intF x.toInt else decodeF fmtW48 x.toNat
    if isNanV f then setBit v 63 true
    else setFld v 0 32 (max (fld v 0 32) (encodeF fmt32 .up (absF f)).1)) old

/-- The commit of a multiply-family instruction (R208, R213, R266). -/
def Core.commitPass (c : Core) (d : Nat) (h1 : Bool) (p : Pass) (a : PassAcc) : Core :=
  let new := accOf (fun m n => if m < p.m ∧ n < p.n then (a.el.getD m []).getD n 0#48 else c.accElt d m n)
  let c1 := c.writeAcc d h1 new
  let c2 := if p.zero then c1.sysSet (0x190 + d) (packW [(0, p.m), (8, p.n)]) else c1
  let c3 := c2.sysSet (0x194 + d) (amaxUpdate p.int (c2.sysGet (0x194 + d)) a.el)
  c3.sysSet 0x1BC (setBit (c3.sysGet 0x1BC) (8 + d) p.int)

/-! Pass length and reuse latches (R221, R226, R302). -/

/-- Streaming rows that enter per cycle (R223, R295). -/
def rhoOf (code : Nat) (st : Struct) : Nat :=
  let r := match codeWidth code with
    | 8 => 2
    | 4 => 4
    | _ => 1
  match st with
  | .one => r / 2
  | _ => r

/-- Load cycles of stationary rows: m rows of k elements of `bits` bits. -/
def loadCycles (m k bits : Nat) : Nat := (m * k * bits + 4095) / 4096

/-- The latches after a full-array pass has loaded one tile (100) or a pair (200), or a half its own, and whether the
latches serve it. DEDUCED (log 32). -/
def latchFull (f : TileFile) (code a : Nat) (b : Option Nat) : Bool × TileFile :=
  let hit := f.latch0 = some (code + a) && (match b with
    | some s => decide (f.latch1 = some (code + s))
    | none => true)
  (hit, if hit then f else { f with latch0 := some (code + a), latch1 := b.map (fun s => code + s) })

/-- A latch that holds rows of the whole array loses them when a half loads others. DEDUCED (log 32). -/
def dropFull (l : Option Nat) : Option Nat := if l.any (fun x => decide (100 ≤ x)) then none else l

/-- DEDUCED (log 32). -/
def latchHalf (f : TileFile) (h1 : Bool) (a : Nat) : Bool × TileFile :=
  let own := if h1 then f.latch1 else f.latch0
  if own.map (fun x => x % 100) = some a then (true, f)
  else (false, if h1 then { f with latch1 := some a, latch0 := dropFull f.latch0 }
    else { f with latch0 := some a, latch1 := dropFull f.latch1 })

/-- A memory-streamed pass loads its own stationary rows into the cells of its half or of the whole array. -/
def latchStream (f : TileFile) (h hs : Bool) : TileFile :=
  if !h then { f with latch0 := none, latch1 := none }
  else if hs then { f with latch1 := none, latch0 := dropFull f.latch0 }
  else { f with latch0 := none, latch1 := dropFull f.latch1 }

/-! Shape checks. -/

/-- Different classes, integer with floating point, different integer codes, or FP32 (R240, SUB 7). DEDUCED (log 32). -/
def classBad (x y : Nat) : Bool :=
  decide (x = 0) || decide (y = 0) || decide (codeWidth x ≠ codeWidth y) ||
    ((codeInt x || codeInt y) && decide (x ≠ y))

/-- A reserved element encoding on an MX8 operand (R259). DEDUCED (log 31). -/
def subBad (code sub : Nat) : Bool := decide (code = 10) && decide (4 ≤ sub)

/-- Stationary formats of a structured form (R294). -/
def structFmt (st : Struct) (code : Nat) : Bool :=
  match st with
  | .dense => true
  | .two => decide (code = 3) || decide (code = 4) || decide (code = 7)
  | .one => decide (code = 7)

/-- ASd is unshaped, or is not (m, n), where the form accumulates. -/
def Core.accUnshaped (c : Core) (d : Nat) (zero : Bool) : Bool :=
  !zero && (decide ((c.ash d).1 = 0) || decide ((c.ash d).2 = 0))

def Core.accDiffers (c : Core) (d m n : Nat) (zero : Bool) : Bool := !zero && decide (c.ash d ≠ (m, n))

/-- In split mode the task's passes run on H0 only (SUB 10). -/
def splitArray (x : Engine) (o : TOp) : Bool := x.leased && (!o.h || o.hs)

/-- The product of the tensor scales in two registers, rounded in W48 (R277 step 3). -/
def tensorScale (a b : W64) : FVal := w48 (mulF (fp32Val (fld a 0 32)) (fp32Val (fld b 0 32)))

/-- The predicate bit of row r in the pair of registers that starts at `reg` (R287). -/
def Core.pred (c : Core) (reg r : Nat) : Bool := bit (c.sysGet (reg + r / 64)) (r % 64)

/-- The shadow of a pass (R242). -/
def Engine.passShadow (x : Engine) (o : TOp) : Bool := if o.h then o.hs else x.shadowH1

/-! Register forms (0x32, 0x34). -/

/-- Which rows take part: the enables of R288 (or of R303). -/
structure Enables where
  zskip : Bool
  rpred : Bool
  cpred : Bool
  bmap : Bool
deriving DecidableEq, Repr

def Enables.off : Enables := ⟨false, false, false, false⟩

/-- What a register-form multiply comes to: its shape faults in order (R240), and the registers and work with which it enters
the tile queue. -/
structure RegForm where
  faults : List (Nat × Bool)
  after : Core
  work : TileWork

/-- A register-form multiply of an engine: dense or structured, zero-initialising or not, with or without predicates. -/
def Engine.regForm (x : Engine) (o : TOp) (st : Struct) (zero preds : Bool) : RegForm :=
  let c := x.core
  let a := o.ta.toNat
  let b := o.tb.toNat
  let d := o.ad.toNat
  let dense := decide (st = .dense)
  let px := dense && o.p
  let tx := c.ts a
  let ty := c.ts b
  let more (n : Nat) (on : Bool) : List Nat := if on && decide (n < 15) then [n, n + 1] else [n]
  let xs := more a (o.p || !dense)
  let ys := more b o.p
  let kx := tx.e * (if px then 2 else 1)
  let ky := ty.e * (if o.p then 2 else 1)
  let kl := kx * st.ratio
  let subX := fld (c.sysGet (0x1A8 + a)) 32 4
  let subY := fld (c.sysGet (0x1A8 + b)) 32 4
  let same (n : Nat) : Bool := decide (n < 15) && decide (c.sysGet (0x180 + n) = c.sysGet (0x181 + n))
  let ctl := if preds then c.sysGet 0x1A4 else 0#64
  let en : Enables := ⟨bit ctl 0, bit ctl 1, bit ctl 2, bit ctl 3⟩
  let on (m : Nat) : Bool := !en.rpred || c.pred 0x1A0 m
  let onY (n : Nat) : Bool := !en.cpred || c.pred 0x1A2 n
  let present (n : Nat) : Bool := !en.bmap || bit (c.sysGet 0x1A5) (n / 16)
  let slot (n : Nat) : Nat := c.tf.tmap.getD n 0
  let lt := if dense && o.h then latchHalf c.tf o.hs (slot a)
    else if dense && !o.p then latchFull c.tf 100 (slot a) none
    else latchFull c.tf 200 (slot a) (some (slot (a + 1)))
  let mOn := ((List.range tx.rows).filter on).length
  let l0 := if lt.1 then 0 else loadCycles mOn kx (tx.w + if dense then 0 else 2)
  let rho := rhoOf ty.fmt st
  let nOn := ((List.range ty.rows).filter onY).length
  let fill := l0 + (if ty.skew then 0 else 127) + 32
  let pMax := fill + chunkCycles rho nOn
  let tm := c.ts (a + 1)
  let faults : List (Nat × Bool) := [
    (1, xs.any (fun n => (c.ts n).unshaped) || ys.any (fun n => (c.ts n).unshaped) || c.accUnshaped d zero),
    (2, (if px then xs else [a]).any (fun n => (c.ts n).badFmt) || ys.any (fun n => (c.ts n).badFmt) ||
        subBad tx.fmt subX || subBad ty.fmt subY),
    (3, decide (kl ≠ ky)),
    (4, decide ((if o.h then 64 else 128) < kx)),
    (5, c.accDiffers d tx.rows ty.rows zero),
    (6, tx.skew),
    (7, classBad tx.fmt ty.fmt),
    (8, o.p && (o.tb.getLsbD 0 || !same b || (dense && (o.ta.getLsbD 0 || o.h || !same a || decide (tx.w ≠ 16))))),
    (9, decide (8192 < pMax)),
    (10, splitArray x o || splitNames x (xs ++ ys) [d]),
    (12, !dense && (o.ta.getLsbD 0 || decide (tm.rows ≠ tx.rows) ||
        decide (tm.rowb < ((kx + 3) / 4 + 15) / 16 * 16) || !structFmt st tx.fmt))]
  let p : Pass :=
    { int := codeInt tx.fmt, lv := if o.h then 6 else 7
      q := tensorScale (c.sysGet (0x1A8 + a)) (c.sysGet (0x1A8 + b)), m := tx.rows, n := ty.rows, rho := rho, zero := zero }
  let yrow (n : Nat) : Option Row :=
    if onY n && present n then
      let r := c.opPair o.p b subY n
      if en.zskip && r.zero then none else some r
    else none
  let ch : Chunk :=
    { x := (List.range tx.rows).map (fun m =>
        if on m then some (c.opPair px a subX m, st.positions kx ((c.tile (a + 1)).row m).toNat) else none)
      y := (List.range ty.rows).map yrow }
  let r := (c.passStart d p).add p ch
  { faults := faults
    after := ({ c with tf := lt.2 }).commitPass d (x.passShadow o) p r
    work := { pass := true, len := pMax, info := tileInfo a d o.h o.hs, busy := fill + r.cyc, skip := r.skip } }

/-- A register-form multiply. -/
def regPass (e : Fin 104) (o : TOp) (st : Struct) (zero preds : Bool) (s : State) : Res :=
  tileInstr e (do
    tFields o ⟨false, true, true, true, true, true, false⟩
    let x ← getE
    let f := x.regForm o st zero preds
    shapeCheck f.faults
    modC (fun _ => f.after)
    return f.work) s

def execTmma (e : Fin 104) (o : TOp) (s : State) : Res := regPass e o .dense false false s
def execTmmaz (e : Fin 104) (o : TOp) (s : State) : Res := regPass e o .dense true false s
def execTmmap (e : Fin 104) (o : TOp) (s : State) : Res := regPass e o .dense false true s
def execTmmapz (e : Fin 104) (o : TOp) (s : State) : Res := regPass e o .dense true true s
def execTmmas (e : Fin 104) (o : TOp) (s : State) : Res := regPass e o .two false true s
def execTmmasz (e : Fin 104) (o : TOp) (s : State) : Res := regPass e o .two true true s
def execTmmaq (e : Fin 104) (o : TOp) (s : State) : Res := regPass e o .one false true s
def execTmmaqz (e : Fin 104) (o : TOp) (s : State) : Res := regPass e o .one true true s

/-! Memory-streamed passes (0x33, 0x35). -/

/-- The words of a pass descriptor, 64-byte aligned; on a tagged page each is DESC or RAW (R231, R239). DEDUCED (log 30). -/
def readDesc (b : W64) (n : Nat) : EM (List W64) := do
  if b.toNat % 64 ≠ 0 then alignFault b
  (List.range n).mapM (fun i => do
    let a := b + w64 (8 * i)
    let t ← translate a .load
    let l ← loadVia t a 8 (tileLoad false)
    if l.tagged && decide (l.tag ≠ 0#4) && decide (l.tag ≠ 4#4) then tagFault a
    return w64 (leNat l.bytes))

/-- Word 0 of a pass descriptor (R235). -/
structure PassHead where
  ver : Nat
  kind : Nat
  m : Nat
  n : Nat
  k : Nat
  cx : Nat
  cy : Nat
  skew : Bool
deriving DecidableEq, Repr

def passHead (w : W64) : PassHead :=
  ⟨fld w 0 4, fld w 4 4, fld w 16 8, fld w 24 8, fld w 32 8, fld w 40 4, fld w 44 4, bit w 48⟩

/-- Malformed in word 0 but for KIND (R235, R240 SUB 2, R252, R259, R262). DEDUCED (log 31). -/
def PassHead.bad (h : PassHead) (subX subY : Nat) : Bool :=
  decide (h.ver ≠ 1) || decide (h.m = 0) || decide (128 < h.m) || decide (h.n = 0) ||
  decide (128 < h.n) || decide (h.k = 0) || decide (codeWidth h.cx = 0) || decide (codeWidth h.cy = 0) ||
  subBad h.cx subX || subBad h.cy subY || (decide (codeBlock h.cx ≠ 0) && decide (h.k % codeBlock h.cx ≠ 0)) ||
  (decide (codeBlock h.cy ≠ 0) && decide (h.k % codeBlock h.cy ≠ 0))

/-- A memory-streamed pass whose descriptor is `d`: its chunks' rows are read by `chunk`, `count` of them. -/
def streamPass (o : TOp) (h : PassHead) (st : Struct) (zero extraBad : Bool) (count mOn nOn : Nat)
    (chunk : W64 → Nat → EM Chunk) : EM TileWork := do
  let c ← getC
  let x ← getE
  let a := o.ad.toNat
  let xs := c.sysGet 0x1B8
  let ys := c.sysGet 0x1B9
  let rho := rhoOf h.cy st
  let extra := if st = .dense then 0 else 2
  let fill := loadCycles mOn h.k (codeWidth h.cx + extra) + (if h.skew then 0 else 127) + 32
  let pMax := fill + count * chunkCycles rho nOn
  shapeCheck [
    (1, c.accUnshaped a zero),
    (2, extraBad || decide (count = 0) || h.bad (fld xs 32 4) (fld ys 32 4)),
    (4, decide ((if o.h then 64 else 128) < h.k)),
    (5, c.accDiffers a h.m h.n zero),
    (7, classBad h.cx h.cy),
    (9, decide (8192 < pMax)),
    (10, splitArray x o || splitNames x [] [a]),
    (12, !structFmt st h.cx)]
  modC (fun k => { k with tf := latchStream k.tf o.h o.hs })
  let u ← freshM
  let info := tileInfo 0 a o.h o.hs
  let p : Pass := { int := codeInt h.cx, lv := if o.h then 6 else 7, q := tensorScale xs ys, m := h.m, n := h.n, rho := rho, zero := zero }
  let r ← runChunks p (chunk (info ||| packW [(16, Config.free u % pMax)])) count 0 (c.passStart a p)
  modC (fun k => k.commitPass a (x.passShadow o) p r)
  return { pass := true, len := pMax, info := info, busy := fill + r.cyc, skip := r.skip }

/-- Chunk i of a K-loop pass (R236). -/
def kloopChunk (c : Core) (w : Nat → W64) (info : W64) (i : Nat) : EM Chunk := do
  let h := passHead (w 0)
  let xs ← (List.range h.m).mapM (fun m => do
    let l ← readRow (tileLoad false) info (w 1 + w64 i * w 3 + w64 m * w 2) (memRowBytes h.cx h.k)
    return some (memRow h.cx (fld (c.sysGet 0x1B8) 32 4) h.k 0 l, ([] : List Nat)))
  let ys ← (List.range h.n).mapM (fun n => do
    let l ← readRow (tileLoad false) info (w 4 + w64 i * w 6 + w64 n * w 5) (memRowBytes h.cy h.k)
    return some (memRow h.cy (fld (c.sysGet 0x1B9) 32 4) h.k (if h.skew then n else 0) l))
  return ⟨xs, ys⟩

/-- A K-loop pass (KIND 1; R236). -/
def kloop (e : Fin 104) (o : TOp) (zero : Bool) (s : State) : Res :=
  tileInstr e (do
    tFields o ⟨false, false, false, true, true, false, true⟩
    let c ← getC
    let b ← tBase o
    let d ← readDesc b 8
    let w (i : Nat) : W64 := d.getD i 0#64
    let h := passHead (w 0)
    streamPass o h .dense zero (decide (h.kind ≠ 1)) (fld (w 7) 0 16) h.m h.n (kloopChunk c w)) s

def execTmmak (e : Fin 104) (o : TOp) (s : State) : Res := kloop e o false s
def execTmmakz (e : Fin 104) (o : TOp) (s : State) : Res := kloop e o true s

/-- The fields of a convolution descriptor (R237). -/
structure Conv where
  inH : Nat
  inW : Nat
  inC : Nat
  outH : Nat
  outW : Nat
  padH : Nat
  padW : Nat
  dilH : Nat
  dilW : Nat
  strH : Nat
  strW : Nat
  fh : Nat
  fw : Nat
  p0 : Nat
  c0 : Nat
  cch : Nat
deriving DecidableEq, Repr

def convOf (w : Nat → W64) : Conv :=
  { inH := fld (w 2) 0 16, inW := fld (w 2) 16 16, inC := fld (w 2) 32 16, outH := fld (w 2) 48 16
    outW := fld (w 3) 48 16, padH := fld (w 3) 32 8, padW := fld (w 3) 40 8, dilH := fld (w 3) 24 4, dilW := fld (w 3) 28 4
    strH := fld (w 3) 16 4, strW := fld (w 3) 20 4, fh := fld (w 3) 0 8, fw := fld (w 3) 8 8
    p0 := fld (w 4) 0 32, c0 := fld (w 4) 32 16, cch := fld (w 4) 48 16 }

/-- A field outside its range, or R237 or R262 broken. -/
def Conv.bad (v : Conv) (h : PassHead) : Bool :=
  [v.inH, v.inW, v.inC, v.outH, v.outW, v.dilH, v.dilW, v.strH, v.strW, v.fh, v.fw, v.cch].any (fun x => decide (x = 0)) ||
  decide (h.k % 32 ≠ 0) || decide (v.c0 % 32 ≠ 0) || decide (v.inC % 32 ≠ 0) || decide (v.inC < v.c0 + v.cch * h.k) ||
  h.skew || decide (codeBlock h.cx ≠ 0) || decide (codeBlock h.cy ≠ 0) || decide (h.kind ≠ 2)

/-- The input pixel of output pixel p under filter position (fr, fs), or none for a padded one (R238). -/
def Conv.pixel (v : Conv) (fr fs p : Nat) : Option Nat :=
  let oh := p / v.outW
  let ow := p % v.outW
  let ih : Int := (oh * v.strH + fr * v.dilH : Nat) - (v.padH : Int)
  let iw : Int := (ow * v.strW + fs * v.dilW : Nat) - (v.padW : Int)
  if oh ≥ v.outH ∨ ih < 0 ∨ ih ≥ v.inH ∨ iw < 0 ∨ iw ≥ v.inW then none
  else some (ih.toNat * v.inW + iw.toNat)

/-- Chunk i of a convolution pass (R237, R238). -/
def convChunk (w : Nat → W64) (info : W64) (i : Nat) : EM Chunk := do
  let h := passHead (w 0)
  let v := convOf w
  let bytes (code n : Nat) : W64 := w64 (n * codeWidth code / 8)
  let f := i / v.cch
  let ch := v.c0 + i % v.cch * h.k
  let xs ← (List.range h.m).mapM (fun m => do
    let l ← readRow (tileLoad false) info (w 5 + w64 m * w 6 + bytes h.cx (f * v.inC + ch)) (elemBytes h.cx h.k)
    return some (memRow h.cx 0 h.k 0 l, ([] : List Nat)))
  let ys ← (List.range h.n).mapM (fun n => do
    match v.pixel (f / v.fw) (f % v.fw) (v.p0 + n) with
    | none => return some (memRow h.cy 0 h.k 0 [])
    | some p => do
      let l ← readRow (tileLoad false) info (w 1 + bytes h.cy (p * v.inC + ch)) (elemBytes h.cy h.k)
      return some (memRow h.cy 0 h.k 0 l))
  return ⟨xs, ys⟩

/-- A convolution pass (KIND 2; R237, R238). -/
def convPass (e : Fin 104) (o : TOp) (zero : Bool) (s : State) : Res :=
  tileInstr e (do
    tFields o ⟨false, false, false, true, true, false, true⟩
    let b ← tBase o
    let d ← readDesc b 8
    let w (i : Nat) : W64 := d.getD i 0#64
    let h := passHead (w 0)
    let v := convOf w
    streamPass o h .dense zero (v.bad h) (v.fh * v.fw * v.cch) h.m h.n (convChunk w)) s

def execTconv (e : Fin 104) (o : TOp) (s : State) : Res := convPass e o false s
def execTconvz (e : Fin 104) (o : TOp) (s : State) : Res := convPass e o true s

/-- Structure of the stationary operand of a sparse K-loop pass. -/
def sparseStruct (w : Nat → W64) : Struct :=
  match fld (w 7) 16 2 with
  | 1 => .two
  | 2 => .one
  | _ => .dense

/-- Stationary row m, and streaming row n, takes part in a sparse K-loop pass (R303). -/
def Core.sparseX (c : Core) (w : Nat → W64) (m : Nat) : Bool := !bit (w 7) 19 || c.pred 0x1A0 m
def Core.sparseY (c : Core) (w : Nat → W64) (n : Nat) : Bool := !bit (w 7) 20 || c.pred 0x1A2 n

/-- Chunk i of a sparse K-loop pass (R303, R304). -/
def sparseChunk (c : Core) (w : Nat → W64) (info : W64) (i : Nat) : EM Chunk := do
  let h := passHead (w 0)
  let st := sparseStruct w
  let kl := h.k * st.ratio
  let subX := fld (c.sysGet 0x1B8) 32 4
  let subY := fld (c.sysGet 0x1B9) 32 4
  let bm ← (if bit (w 7) 21 then do
      let va := w 11 + w64 i
      let r ← atRow va info (do
        let t ← translate va .load
        let l ← loadVia t va 1 (tileLoad false)
        return if l.tag = 5#4 then (0, true) else (leNat l.bytes, false))
      keyhRead r.2
      return r.1
    else return 0xFF)
  let xs ← (List.range h.m).mapM (fun m => do
    if c.sparseX w m then do
      let l ← readRow (tileLoad false) info (w 1 + w64 i * w 3 + w64 m * w 2) (memRowBytes h.cx h.k)
      let idx ← (if st = .dense then return [] else do
        let q ← readRow (tileLoad false) info (w 8 + w64 i * w 10 + w64 m * w 9) ((h.k + 3) / 4)
        return st.positions h.k (leNat q))
      return some (memRow h.cx subX h.k 0 l, idx)
    else return none)
  let ys ← (List.range h.n).mapM (fun n => do
    if c.sparseY w n && (bm / 2 ^ (n / 16)) % 2 = 1 then do
      let l ← readRow (tileLoad false) info (w 4 + w64 i * w 6 + w64 n * w 5) (memRowBytes h.cy kl)
      let r := memRow h.cy subY kl (if h.skew then n else 0) l
      return if bit (w 7) 18 && r.zero then none else some r
    else return none)
  return ⟨xs, ys⟩

/-- A sparse K-loop pass (KIND 3; R303, R304). -/
def sparsePass (e : Fin 104) (o : TOp) (zero : Bool) (s : State) : Res :=
  tileInstr e (do
    tFields o ⟨false, false, false, true, true, false, true⟩
    let c ← getC
    let b ← tBase o
    let d ← readDesc b 16
    let w (i : Nat) : W64 := d.getD i 0#64
    let h := passHead (w 0)
    let st := sparseStruct w
    streamPass o h st zero (decide (h.kind ≠ 3) || decide (fld (w 7) 16 2 = 3)) (fld (w 7) 0 16)
      ((List.range h.m).filter (c.sparseX w)).length ((List.range h.n).filter (c.sparseY w)).length (sparseChunk c w)) s

def execTmmaks (e : Fin 104) (o : TOp) (s : State) : Res := sparsePass e o false s
def execTmmaksz (e : Fin 104) (o : TOp) (s : State) : Res := sparsePass e o true s

end Sys2Proof.Machine
end

