-- ==== Sys2Proof/Machine/Unit.lean ====
section
/-!
DEFINITION. Memory as the units of a die reach it (R437, R526, R533): the DMA and channel unit, the batch gatherer,
the ingest and crypto unit and Tail. A read of another node waits for its data; a job runs again from its start
when the data has come.
-/

namespace Sys2Proof.Machine

/-- For whom a unit works: die, job number, context, tenant, function of host accesses, pier class and partition. -/
structure UnitEnv where
  a : Anat
  die : Nat
  ref : Nat
  ctx : Nat
  who : Tenant
  fn : Nat
  cls : Nat
  part : Nat
deriving DecidableEq, Repr

/-- Why a unit's access fails, in the numbers of R530: 2 TRANSLATION, 3 ACCESS, 4 DATA_ERR, 9 TAG_WRITE, with DETAIL
and the offset of the failing byte in the transfer. -/
structure UFault where
  status : Nat
  detail : Nat
  off : Nat
deriving DecidableEq, Repr

inductive UErr where
  | wait
  | fail (f : UFault)
deriving DecidableEq, Repr

/-- A unit's program. -/
abbrev UM := ReaderT UnitEnv (EStateM UErr World)

def uFail {α : Type} (status detail off : Nat) : UM α := throw (.fail ⟨status, detail, off⟩)

/-- The function whose requester ID a tenant's host accesses use (R438). -/
def Tenant.fn (t : Tenant) : Nat := if t.oper then 0 else 1 + t.id

def World.ubuf (w : World) (r : Nat) : UnitBuf := sgetD w.ubufs r UnitBuf.none

/-- Translation through the die's unit (R437); a side-effect page gives ACCESS with DETAIL 2 (R526). -/
def uTrans (va : W64) (k : Acc) (off : Nat) : UM TlbEntry := do
  let u ← read
  let w ← get
  let r := unitTranslate u.a w u.die u.ctx u.who va k
  set r.2
  match r.1 with
  | .error f => uFail 2 f.sub.toNat off
  | .ok t => do
    modify (fun v =>
      let b := v.ubuf u.ref
      if b.doms.contains t.kdom then v else { v with ubufs := sset v.ubufs u.ref { b with doms := t.kdom :: b.doms } })
    if t.se then uFail 3 2 off else return t

/-- The pieces of a range of n bytes that lie in one 128-byte line each: offset and length. -/
def linePieces (va n : Nat) : List (Nat × Nat) :=
  ((List.range ((va % 128 + n + 127) / 128)).map (fun i =>
    let lo := max va ((va / 128 + i) * 128)
    (lo - va, min (va + n) ((va / 128 + i + 1) * 128) - lo))).filter (fun p => decide (0 < p.2))

/-- Data read through a tagged page: a KEYH word reads as zero, which the flag reports (R533). DEDUCED (log 19). -/
def dataOnly (w : World) (m : Memory) (kdom : Byte) (off n : Nat) (tagged : Bool) : List Byte × Bool :=
  let l := rdBytes m w.ks kdom off n
  if tagged then
    let key (i : Nat) : Bool := decide (tagAt m w.ks w.places ((off + i) / 8 * 8) = 5#4)
    (l.mapIdx (fun i b => if key i then 0#8 else b), (List.range n).any key)
  else (l, false)

/-- Reads n bytes that lie in one line. DEDUCED (log 93). -/
def uReadPiece (va : W64) (n off : Nat) : UM (List Byte × Bool) := do
  let u ← read
  let t ← uTrans va .load off
  let w ← get
  let ga := t.ga va.toNat
  match placeOf w ga with
  | .reserved => uFail 3 1 off
  | .regs _ => uFail 3 2 off
  | .hbm o =>
    match hbmStatus u.a w o with
    | some s => uFail 3 s.toNat off
    | none =>
      match poisonIn w.mem w.ks w.places o n with
      | some s => uFail 4 s.toNat off
      | none => do
        set (pierAccess w (o / 128) u.cls u.part t.tcls t.kdom false true false)
        return dataOnly w w.mem t.kdom o n (t.tagged w)
  | .host iova => do
    if !w.pcieUp then uFail 3 4 off
    let f := fresh w
    set (f.2.emit (.hostRead u.fn iova n))
    match Config.hostStatus f.1 % 4 with
    | 1 => uFail 3 2 off
    | 2 => uFail 3 4 off
    | 3 => uFail 4 2 off
    | _ => return ((List.range n).map (Config.hostByte f.1), false)
  | .remote =>
    let base : W64 := (ga >>> 7) <<< 7
    match (w.ubuf u.ref).reads.find? (fun r => decide (r.ga = base) && decide (r.kdom = t.kdom)) with
    | some r =>
      if r.status = 0#8 then return ((r.bytes.drop (ga - base).toNat).take n, false)
      else if r.status = 10#8 then return ((r.bytes.drop (ga - base).toNat).take n, true)
      else if r.status = 6#8 then uFail 4 2 off
      else uFail 3 (statusReport r.status).toNat off
    | none => do
      if w.txns.any (fun p => match p.2.who with
        | .unit _ r => decide (r = u.ref) && decide (p.2.t.opc = 1) && decide (p.2.t.dst = fld base 48 12) && decide (p.2.t.addr = fld base 0 48)
        | _ => false) then throw .wait
      match sendTxn w u.die (txnOf 1 t.kdom (fld base 48 12) (fld base 0 48) 128) (.unit u.die u.ref) with
      | (.error s, w1) => do set w1; uFail 3 s.toNat off
      | (.ok _, w1) => do set w1; throw .wait

/-- Reads n bytes from an address; `off` is the first one's offset in the transfer. -/
def uRead (va : W64) (n off : Nat) : UM (List Byte × Bool) := do
  let ps ← (linePieces va.toNat n).mapM (fun p => uReadPiece (va + w64 p.1) p.2 (off + p.1))
  return ((ps.map (fun p => p.1)).flatten, ps.any (fun p => p.2))

/-- One 64-bit word. -/
def uWord (va : W64) (k : Nat) : UM W64 := do
  let r ← uRead (va + w64 (8 * k)) 8 0
  return w64 (leNat r.1)

/-- The WRM transactions that carry bytes of one line to another node. DEDUCED (log 37). -/
def wrmTxns (ga : W64) (kdom : Byte) (l : List Byte) : List Txn :=
  let bs : List (W64 × Byte) := (offsets l).map (fun b => (ga + w64 b.1, b.2))
  let low (x : W64) : W64 := (x >>> 6) <<< 6
  let blks : List W64 := (bs.map (fun b => low b.1)).eraseDups
  blks.map (fun base =>
    let d := (bs.filter (fun b => decide (low b.1 = base))).map (fun b => ((b.1 - base).toNat, b.2))
    { txnOf 3 kdom (fld base 48 12) (fld base 0 48) 64 with mask := blockMask d, data := blockBytes d })

/-- Sends the transactions of a unit's writes. -/
def sendAll (die ref : Nat) : List Txn → World → Except Byte Unit × World
  | [], w => (.ok (), w)
  | t :: r, w =>
    match sendTxn w die t (.unit die ref) with
    | (.error s, w1) => (.error s, w1)
    | (.ok _, w1) => sendAll die ref r w1

/-- Whether a line of HBM covers a word tagged KEYH, STAT or CODE (R533). -/
def lineSealed (w : World) (o : Nat) : Bool :=
  (List.range 16).any (fun i =>
    let q := o / 128 * 128 + 8 * i
    inTagged w.places q && (let g := tagAt w.mem w.ks w.places q
      decide (g = 5#4) || decide (g = 6#4) || decide (g = 7#4)))

/-- Writes bytes that lie in one line; `raw` leaves the XTS layer of host memory out (R542). -/
def uWritePiece (raw : Bool) (va : W64) (l : List Byte) (off : Nat) : UM Unit := do
  let u ← read
  let t ← uTrans va .store off
  let w ← get
  let ga := t.ga va.toNat
  match placeOf w ga with
  | .reserved => uFail 3 1 off
  | .regs _ => uFail 3 2 off
  | .hbm o =>
    match hbmStatus u.a w o with
    | some s => uFail 3 s.toNat off
    | none => do
      let tg := t.tagged w
      if tg && lineSealed w o then uFail 9 0 off
      set (unitCommit w u.cls u.part t.tcls t.kdom (if tg then .raw else .whole) (atOff o (offsets l)))
  | .host iova => do
    if !w.pcieUp then uFail 3 4 off
    set (w.emit (.hostWrite u.fn iova (if raw then none else some t.kdom) l))
  | .remote => do
    match sendAll u.die u.ref (wrmTxns ga t.kdom l) w with
    | (.error s, w1) => do set w1; uFail 3 s.toNat off
    | (.ok _, w1) => set w1

/-- Writes bytes at an address. -/
def uWrite (raw : Bool) (va : W64) (l : List Byte) (off : Nat) : UM Unit :=
  (linePieces va.toNat l.length).forM (fun p => uWritePiece raw (va + w64 p.1) ((l.drop p.1).take p.2) (off + p.1))

/-- Writes of a job that have not been answered. -/
def unitWrites (w : World) (ref : Nat) : Bool :=
  w.txns.any (fun p => match p.2.who with
    | .unit _ r => decide (r = ref) && decide (p.2.t.opc ≠ 1)
    | _ => false)

/-- What has arrived for a job is used up. -/
def clearUbuf (w : World) (ref : Nat) : World := { w with ubufs := sdel w.ubufs ref }

/-- Runs a unit's program: its answer, the fault, or nothing while it waits. -/
def runUnit {α : Type} (u : UnitEnv) (act : UM α) (w : World) : Option (Except UFault α) × World :=
  match act u w with
  | .ok r w1 => (some (.ok r), w1)
  | .error (.fail f) w1 => (some (.error f), w1)
  | .error .wait w1 => (none, w1)

/-- The state with the module as a command leaves it. DESIGN CHOICE (log 2). -/
def toWorld (s : State) (w : World) : Host.Outcome State Fault Refusal := .next { s with w := w }

/-- A unit of a die can work: the die runs and its clock is not held (R550). -/
def unitRuns (a : Anat) (w : World) (d : Nat) : Bool := dieRuns a (26 * d) && w.eclk

end Sys2Proof.Machine
end

