-- ==== Sys2Proof/Machine/Gatherer.lean ====
section
/-!
DEFINITION. The batch gatherer of a die (R319 to R330): requests, launches, blocks, completion words, and the
leases of the engines' second halves (R243 to R245).
-/

namespace Sys2Proof.Machine

/-! Registers. -/

def bgOn (w : World) (d : Nat) : Bool := bit (w.reg (bgBase d) 0#64) 0

/-- Counter i of `BG_REQ`, `BG_REFUSED`, `BG_LAUNCH_FILL`, `BG_LAUNCH_DEADLINE`, `BG_ROWS`, `BG_LATE`,
`BG_HALF_ERR`, `BG_DONE_LOST`. -/
def bgCount (w : World) (d i n : Nat) : World := w.countReg (bgBase d + 0x100 + 8 * i) n

def World.setGath (w : World) (d : Nat) (g : Gath) : World := { w with gaths := sset w.gaths d g }

def World.modGath (w : World) (d : Nat) (f : Gath → Gath) : World := w.setGath d (f (w.gath d))

/-- The job number of a die's gatherer. -/
def bgRef (d : Nat) : Nat := 5000 + d

/-! Queue entries (R322). -/

/-- The words of a queue's entry, in memory of key domain 0. -/
def bgEntry (w : World) (d q : Nat) : List W64 :=
  let base := fld (w.reg (bgBase d + 8) 0#64) 12 36 * 4096 + 64 * q
  (List.range 8).map (fun i => rdWord w.mem w.ks 0#8 (base + 8 * i))

/-- The fields of an entry that the gatherer uses. -/
structure BgQ where
  valid : Bool
  maxb : Nat
  deadline : Nat
  fill : Nat
  skew : Bool
  ofmt : Nat
  cx : Nat
  cw : Nat
  wBase : W64
  wStride : W64
  n : Nat
  k : Nat
  wScale : W64
  xScale : W64
  oScale : W64
  ctx : Nat
deriving DecidableEq, Repr

/-- DEDUCED (log 34). -/
def bgQOf (l : List W64) : BgQ :=
  let w (i : Nat) : W64 := l.getD i 0#64
  { valid := bit (w 0) 4 && decide (fld (w 0) 0 4 = 1), maxb := fld (w 0) 48 4, deadline := fld (w 0) 32 16
    fill := fld (w 0) 24 8, skew := bit (w 0) 20, ofmt := fld (w 0) 16 4, cx := fld (w 0) 12 4, cw := fld (w 0) 8 4
    wBase := w 1, wStride := w 2, n := fld (w 3) 32 32, k := fld (w 3) 0 32, wScale := w64 (fld (w 4) 32 32)
    xScale := w64 (fld (w 4) 0 32), oScale := w64 (fld (w 5) 0 32), ctx := fld (w 6) 0 16 }

/-- An entry that accepts requests: VALID, and every field in its range. DEDUCED (log 34). -/
def BgQ.good (q : BgQ) : Bool :=
  q.valid && decide (1 ≤ q.maxb) && decide (q.maxb ≤ 4) && decide (q.deadline ≠ 0) && decide (q.fill ≠ 0) && decide (q.fill ≤ 128) &&
  decide (q.ofmt ≤ 2) && !classBad q.cx q.cw && decide (codeWidth q.cx ≠ 0) && decide (codeBlock q.cw = 0) &&
  decide (codeBlock q.cx = 0) && decide (q.n ≠ 0) && decide (q.k ≠ 0) && decide (q.k % 64 = 0)

/-- The entry of a queue as the gatherer reads it; one that cannot be read is not valid. -/
def bgQueue (a : Anat) (w : World) (d q : Nat) : BgQ :=
  let base := fld (w.reg (bgBase d + 8) 0#64) 12 36 * 4096 + 64 * q
  let e := bgQOf (bgEntry w d q)
  if tableBad a w base 64 then { e with valid := false } else e

/-! Submission. -/

/-- The request's reserved fields are zero and VER is 1 (R323). -/
def bgReqOk (w0 : W64) : Bool := decide (w0 &&& ~~~ 0x13F000F#64 = 0#64) && decide (fld w0 0 4 = 1)

/-- `tgsub` (R323, R324). DEDUCED (log 31). -/
def execTgsub (e : Fin 104) (o : TOp) (s : State) : Res :=
  seqInstr 2 4 24 e (do
    tFields o ⟨false, false, false, false, false, false, true⟩
    let b ← tBase o
    parkIf 5 b
    modE (fun x => x.commitAll)
    let r ← atRow b 0#64 (do
      if b.toNat % 32 ≠ 0 then alignFault b
      readWords (tileLoad false) b 32)
    keyhRead r.2
    let env ← read
    let x ← getE
    let w ← get
    let d := env.e / 26
    let w0 := wordAt r.1 0
    let q := bgQueue env.anat w d (fld w0 16 6)
    let g := w.gath d
    let st : Nat :=
      if !bgOn w d then 1
      else if !bgReqOk w0 then 3
      else if !q.good then 2
      else if q.ctx ≠ x.core.ctx x.core.pl then 4
      else if 512 ≤ g.pend.length then 5
      else 0
    if st = 0 then do
      let req : BgReq :=
        { queue := fld w0 16 6, seq := g.next, logical := (env.anat.logicalOf env.e).getD 0x7F, oper := x.who.oper, tenant := x.who.id
          notify := bit w0 24, x := wordAt r.1 1, y := wordAt r.1 2, done := wordAt r.1 3, time := w.time }
      set (bgCount (w.setGath d { g with pend := g.pend ++ [req], next := g.next + 1 }) d 0 1)
    else set (bgCount w d 1 1)
    setAcc (w64 st) 1#4) s

/-! Launches (R325). -/

/-- Requests complete with STATUS 5 (R321, R325, R328); the launch time of a batch that never was is open.
DEDUCED (log 34). -/
def bgWithdraw (w : World) (d : Nat) (p : BgReq → Bool) : World :=
  let g := w.gath d
  let u := w.freeCtr
  let ctx (r : BgReq) : Nat := (bgQOf (bgEntry w d r.queue)).ctx
  let gone := (g.pend.filter p).map (fun r => ({ req := r, ctx := ctx r, status := 5, rows := 0, launch := Config.free u % 2 ^ 40 } : BgFin))
  { w.setGath d { g with pend := g.pend.filter (fun r => !p r), fin := g.fin ++ gone } with freeCtr := u + 1 }

/-- The oldest request of a queue. -/
def bgOldest (g : Gath) (q : Nat) : Option BgReq := g.pend.find? (fun r => decide (r.queue = q))

/-- A queue launches now: enough requests, or its oldest has waited for DEADLINE. -/
def bgReady (w : World) (g : Gath) (q : Nat) (e : BgQ) : Bool :=
  match bgOldest g q with
  | none => false
  | some r =>
    let n := (g.pend.filter (fun x => decide (x.queue = q))).length
    decide ((g.batches.filter (fun b => decide (b.queue = q))).length < e.maxb) &&
      (decide (e.fill ≤ n) || decide (r.time.toNat + e.deadline ≤ w.time.toNat))

/-- A batch of the oldest requests of a queue. -/
def bgLaunch (w : World) (d q : Nat) (e : BgQ) : World :=
  let g := w.gath d
  let mine := g.pend.filter (fun r => decide (r.queue = q))
  let rows := mine.take 128
  let nb := (e.n + 127) / 128
  let b : BgBatch := { id := g.next, queue := q, entry := bgEntry w d q, rows := rows.map (fun r => (r, 0)), launch := w.time, left := nb, started := false }
  let g1 := { g with
    pend := g.pend.filter (fun r => !rows.contains r)
    batches := g.batches ++ [b]
    blocks := g.blocks ++ (List.range nb).map (fun i => ⟨g.next, i, none, 0⟩)
    next := g.next + 1 }
  bgCount (bgCount (w.setGath d g1) d (if e.fill ≤ mine.length then 2 else 3) 1) d 4 rows.length

/-- The queue whose launch comes next: of those that launch, the one whose oldest request is oldest. -/
def bgNext (a : Anat) (w : World) (d : Nat) : Option (Nat × BgQ) :=
  let g := w.gath d
  let cand := ((List.range 64).map (fun q => (q, bgQueue a w d q))).filter (fun p => bgReady w g p.1 p.2)
  cand.foldl (fun best p =>
    match best, bgOldest g p.1 with
    | none, _ => some p
    | some b, some r =>
      (match bgOldest g b.1 with
       | some s => if r.seq < s.seq then some p else some b
       | none => some p)
    | some b, none => some b) none

/-- The launches of one evaluation. -/
def bgLaunches (a : Anat) (d : Nat) : Nat → World → World
  | 0, w => w
  | n + 1, w =>
    match bgNext a w d with
    | none => w
    | some p => bgLaunches a d n (bgLaunch w d p.1 p.2)

/-! Halves. -/

/-- A block on a half that has left the pool waits again (R330). -/
def bgReclaim (w : World) (d : Nat) : World :=
  let ok := bgPool w d
  w.modGath d (fun g => { g with blocks := g.blocks.map (fun b => if b.half.all ok.contains then b else { b with half := none }) })

/-- A batch starts its first pass now (R320, `BG_LATE`). -/
def bgStart (w : World) (d id : Nat) : World :=
  let g := w.gath d
  match g.batches.find? (fun b => decide (b.id = id) && !b.started) with
  | none => w
  | some b =>
    let w1 := w.setGath d { g with batches := g.batches.map (fun x => if x.id = id then { x with started := true } else x) }
    match b.rows with
    | [] => w1
    | r :: _ => if r.1.time.toNat + (bgQOf b.entry).deadline < w.time.toNat then bgCount w1 d 5 1 else w1

/-- Waiting blocks, older batches first and in ascending b, go to free halves in ascending physical engine. -/
def bgPlace (w : World) (d : Nat) : World :=
  (bgPool w d).foldl (fun v e =>
    let g := v.gath d
    if g.blocks.any (fun b => decide (b.half = some e)) then v
    else
      match g.blocks.find? (fun b => b.half.isNone) with
      | none => v
      | some b =>
        bgStart (v.setGath d { g with blocks := g.blocks.map (fun x => if x = b then { x with half := some e } else x) }) d b.batch) w

/-- `BG_EVALUATE`. -/
def execBgEvaluate (d : Fin 4) (s : State) : Res :=
  .next { s with w :=
   (if unitRuns s.anat s.w d.val then
      let bad (r : BgReq) : Bool := !(bgQueue s.anat s.w d.val r.queue).good
      let w1 := if (s.w.gath d.val).pend.any bad then bgWithdraw s.w d.val bad else s.w
      bgPlace (bgReclaim (bgLaunches s.anat d.val 512 w1) d.val) d.val
    else s.w) }

/-! A block. -/

/-- The environment in which the gatherer works for a request. -/
def bgEnv (a : Anat) (d ctx : Nat) (who : Tenant) (part : Nat) : UnitEnv :=
  { a := a, die := d, ref := bgRef d, ctx := ctx, who := who, fn := who.fn, cls := 2, part := part }

def BgReq.who (r : BgReq) : Tenant := ⟨r.oper, r.tenant⟩

/-- Reads an operand row of 64 elements: 16-byte aligned (R231). -/
def bgRow (va : W64) (code : Nat) : UM (List Byte × Bool) := do
  if va.toNat % 16 ≠ 0 then uFail 2 0 0
  uRead va (elemBytes code 64) 0

/-- The STATUS of R328 for a failed access: 3 for poisoned or uncorrectable data. -/
def bgStatus (f : UFault) (other : Nat) : Nat := if f.status = 4 then 3 else other

/-- A row's chunks of one request, or the STATUS with which it is off. DEDUCED (log 34). -/
def bgXRow (q : BgQ) (r : BgReq) : UM (Except Nat (List Row)) := do
  let act : UM (Except Nat (List Row)) := do
    let ls ← (List.range (q.k / 64)).mapM (fun c => bgRow (r.x + w64 (c * elemBytes q.cx 64)) q.cx)
    if ls.any (fun l => l.2) then return .error 3
    else return .ok (ls.map (fun l => memRow q.cx 0 64 0 l.1))
  tryCatch act (fun e =>
    match e with
    | .wait => throw .wait
    | .fail f => return .error (bgStatus f 1))

/-- The chunks of weight row n, or the STATUS with which the batch ends. DEDUCED (log 34). -/
def bgWRow (q : BgQ) (n : Nat) : UM (Except Nat (List Row)) := do
  let act : UM (Except Nat (List Row)) := do
    let ls ← (List.range (q.k / 64)).mapM (fun c => bgRow (q.wBase + w64 n * q.wStride + w64 (c * elemBytes q.cw 64)) q.cw)
    if ls.any (fun l => l.2) then return .error 3
    else return .ok (ls.map (fun l => memRow q.cw 0 64 (if q.skew then n % 128 else 0) l.1))
  tryCatch act (fun e =>
    match e with
    | .wait => throw .wait
    | .fail f => return .error (bgStatus f 2))

/-- An output element (R277, R326): the chunks added in order from +0, multiplied and converted to nearest-even. -/
def bgElt (q : BgQ) (x y : List Row) : Nat :=
  let int := codeInt q.cx
  let t := tensorScale q.xScale q.wScale
  let a := (List.zip x y).foldl (fun acc p => accAdd int t acc (chunkSum int 6 (products (p.1, []) p.2))) 0#48
  let v := decodeF fmtW48 (if int then (encodeF fmtW48 .near (intF a.toInt)).1 else a.toNat)
  let m := w48 (mulF v (fp32Val q.oScale.toNat))
  toCode q.ofmt .near m

/-- The result of a block: the rows' STATUS, or the STATUS that ends the batch. -/
def bgBlock (q : BgQ) (rows : List (BgReq × Nat)) (b : Nat) (env : BgReq → UnitEnv) : UM (Except Nat (List Nat)) := do
  let nb := min 128 (q.n - 128 * b)
  let xs ← rows.mapM (fun r =>
    if r.2 = 0 then withReader (fun _ => env r.1) (bgXRow q r.1) else return (.error r.2 : Except Nat (List Row)))
  let ws ← (List.range nb).mapM (fun n => bgWRow q (128 * b + n))
  match ws.findSome? (fun x => match x with
    | .error s => some s
    | .ok _ => none) with
  | some s => return .error s
  | none => do
    let wr := ws.map (fun x => match x with
      | .ok l => l
      | .error _ => [])
    let ow := codeWidth q.ofmt / 8
    let sts ← ((rows.map (fun r => r.1)).zip xs).mapM (fun p =>
      match p.2 with
      | .error s => (pure s : UM Nat)
      | .ok x => do
        let bytes := (wr.map (fun y => leBytes ow (bgElt q x y))).flatten
        tryCatch (do
          withReader (fun _ => env p.1) (uWrite false (p.1.y + w64 (128 * b * ow)) bytes 0)
          return 0) (fun e =>
            match e with
            | .wait => throw .wait
            | .fail f => return bgStatus f 1))
    return .ok sts

/-- A batch ends: every row gets its completion word. -/
def bgEnd (g : Gath) (id : Nat) : Gath :=
  match g.batches.find? (fun b => decide (b.id = id)) with
  | none => g
  | some b =>
    { g with
      batches := g.batches.filter (fun x => decide (x.id ≠ id))
      blocks := g.blocks.filter (fun x => decide (x.batch ≠ id))
      fin := g.fin ++ b.rows.map (fun r =>
        { req := r.1, ctx := (bgQOf b.entry).ctx, status := r.2, rows := b.rows.length, launch := b.launch.toNat % 2 ^ 40 }) }

/-- A batch ends with one STATUS for every row. -/
def bgFail (g : Gath) (id st : Nat) : Gath :=
  bgEnd { g with batches := g.batches.map (fun b => if b.id = id then { b with rows := b.rows.map (fun r => (r.1, st)) } else b) } id

/-- `BG_BLOCK_DONE`: the block that runs on the half of engine `e` of its die has ended its last pass. -/
def execBgBlockDone (e : Fin 104) (s : State) : Res :=
  .next { s with w :=
    let d := e.val / 26
    let g := s.w.gath d
    match g.blocks.find? (fun b => decide (b.half = some e.val)) with
    | none => s.w
    | some k =>
      match g.batches.find? (fun b => decide (b.id = k.batch)) with
      | none => s.w
      | some b =>
        if !unitRuns s.anat s.w d || !(bgPool s.w d).contains e.val then s.w
        else
          let q := bgQOf b.entry
          let part := (s.w.eng e.val).part
          let env (r : BgReq) : UnitEnv := bgEnv s.anat d q.ctx r.who part
          let first : BgReq → UnitEnv := env
          let start : UnitEnv := match b.rows with
            | r :: _ => first r.1
            | [] => bgEnv s.anat d q.ctx ⟨true, 0⟩ part
          match runUnit start (bgBlock q b.rows k.b env) s.w with
          | (none, w1) => w1
          | (some (.error _), w1) => w1
          | (some (.ok r), w1) =>
            let w2 := clearUbuf w1 (bgRef d)
            bgPlace (w2.modGath d (fun y =>
              match r with
              | .error st => bgFail y b.id st
              | .ok sts =>
                let y1 := { y with
                  blocks := y.blocks.filter (fun x => decide (x ≠ k))
                  batches := y.batches.map (fun x =>
                    if x.id = b.id then { x with left := x.left - 1, rows := (x.rows.zip sts).map (fun z => (z.1.1, z.2)) } else x) }
                if b.left ≤ 1 then bgEnd y1 b.id else y1)) d }

/-- Raises an interrupt source on a logical engine. -/
def irqLogical (a : Anat) (w : World) (l src : Nat) : World :=
  match a.physOf l with
  | some p => w.raiseIrq p src
  | none => w

/-- `BG_COMPLETION_WORD`: completion `i` of a die's gatherer is written (R328). It waits for the Y writes. -/
def execBgCompletionWord (d : Fin 4) (i : Nat) (s : State) : Res :=
  .next { s with w :=
    let g := s.w.gath d.val
    match g.fin[i]? with
    | none => s.w
    | some f =>
      if !unitRuns s.anat s.w d.val || unitWrites s.w (bgRef d.val) then s.w
      else
        let v := packW [(63, 1), (48, f.status), (40, f.rows), (0, f.launch)]
        let act : UM Unit := do
          if f.req.done.toNat % 8 ≠ 0 then uFail 2 0 0
          uWrite false f.req.done (leBytes 8 v.toNat) 0
        match runUnit (bgEnv s.anat d.val f.ctx f.req.who 0) act s.w with
        | (none, w1) => w1
        | (some r, w1) =>
          let w2 := w1.modGath d.val (fun y => { y with fin := dropAt y.fin i })
          let w3 := match r with
            | .ok _ => w2
            | .error _ => bgCount w2 d.val 7 1
          if f.req.notify then irqLogical s.anat w3 f.req.logical 7 else w3 }

/-- `BG_HALF_ERR`: a machine check in the leased half of an engine (R329). -/
def execBgHalfErr (e : Fin 104) (s : State) : Res :=
  .next { s with w :=
    let d := e.val / 26
    if !(bgPool s.w d).contains e.val || !dieRuns s.anat e.val then s.w
    else
      let w1 := bgCount (s.w.modGath d (fun g => { g with out := e.val :: g.out })) d 6 1
      let g := w1.gath d
      match g.blocks.find? (fun b => decide (b.half = some e.val)) with
      | none => w1
      | some k =>
        if 1 ≤ k.fails then w1.setGath d (bgFail g k.batch 4)
        else w1.setGath d { g with blocks := g.blocks.map (fun x => if x = k then { x with half := none, fails := 1 } else x) } }

/-- `BG_CTL_WRITE`: disabling withdraws the requests that have not been launched (R321). -/
def bgCtlWrite (w : World) (d : Nat) (v : W64) : World :=
  let w1 := w.setReg (bgBase d) (v &&& 1#64)
  if bit v 0 then w1 else bgWithdraw w1 d (fun _ => true)

def execBgCtlWrite (d : Fin 4) (v : W64) (s : State) : Res :=
  .next { s with w := if dieRuns s.anat (26 * d.val) then bgCtlWrite s.w d.val v else s.w }

/-! Leases. -/

/-- `TILE_LEASE_WRITE` (R243); it takes effect at the engine's next task start. DEDUCED (log 35). -/
def execTileLeaseWrite (e : Fin 104) (v : W64) (s : State) : Res :=
  .next { s with w :=
   (if dieRuns s.anat e.val && !engShut s.anat e.val then s.w.setReg (engBase e.val + 0x800) (v &&& 0xF#64) else s.w) }

/-- Whether the engine's next task start puts a lease in force. -/
def leaseNext (w : World) (e : Nat) : Bool := decide (fld (w.reg (engBase e + 0x800) 0#64) 0 4 = 1)

end Sys2Proof.Machine
end

