-- ==== Sys2Proof/Machine/Gcm.lean ====
section
/-!
DEFINITION. AES-256-GCM (FIPS 197, SP 800-38D), which authenticates key blobs and ingest and egress chunks (R517,
R536).
-/

namespace Sys2Proof.Machine

/-! AES-256. -/

/-- Word k of the key schedule from the words before it, most recent first. -/
def aes256Word (k : Nat) (w : List (List Nat)) : List Nat :=
  let t := w.getD 0 []
  let back := w.getD 7 []
  let t1 :=
    if k % 8 = 0 then
      [aesSub (t.getD 1 0) ^^^ [1, 2, 4, 8, 16, 32, 64].getD (k / 8 - 1) 0, aesSub (t.getD 2 0), aesSub (t.getD 3 0), aesSub (t.getD 0 0)]
    else if k % 8 = 4 then t.map aesSub
    else t
  xorL back t1

/-- The 60 words of the schedule, most recent first. -/
def aes256Words (key : List Nat) : List (List Nat) :=
  let w0 := ((List.range 8).map (fun i => (key.drop (4 * i)).take 4)).reverse
  iter (fun i w => aes256Word (8 + i) w :: w) 52 w0

/-- The 15 round keys of a key of 32 bytes. -/
def aes256Keys (key : List Nat) : List (List Nat) :=
  let ws := (aes256Words key).reverse
  (List.range 15).map (fun r => ((ws.drop (4 * r)).take 4).flatten)

/-- The rounds after the first key addition. -/
def aes256Rounds : List (List Nat) → List Nat → List Nat
  | [], st => st
  | [k], st => xorL (aesShift st) k
  | k :: r, st => aes256Rounds r (xorL (aesMix (aesShift st)) k)

/-- A block of 16 bytes encrypted under the round keys. -/
def aes256Block (keys : List (List Nat)) (b : List Nat) : List Nat :=
  match keys with
  | [] => b
  | k :: r => aes256Rounds r (xorL b k)

/-! GHASH. Blocks are numbers whose most significant bit is the field's bit 0. -/

/-- Bytes as a number, the first byte most significant. -/
def beNat (l : List Nat) : Nat := l.foldl (fun a b => a * 256 + b) 0

/-- The product in the field of GCM: `n` bits of `x` left, from the most significant. -/
def ghMul (x : Nat) : Nat → Nat → Nat → Nat
  | 0, _, z => z
  | n + 1, v, z =>
    ghMul x n (if v % 2 = 1 then v / 2 ^^^ 0xE1 * 2 ^ 120 else v / 2) (if x.testBit n then z ^^^ v else z)

/-- Bytes in blocks of 16, the last filled with zeros. -/
def blocks16 : Nat → List Nat → List Nat
  | 0, _ => []
  | f + 1, l => if l.isEmpty then [] else beNat ((l ++ List.replicate 16 0).take 16) :: blocks16 f (l.drop 16)

def ghash (h : Nat) (l : List Nat) : Nat := l.foldl (fun y x => ghMul (y ^^^ x) 128 h 0) 0

/-! GCM with a 96-bit IV and a 128-bit tag. -/

/-- Byte values of a number of n bytes, most significant first. -/
def beList (n x : Nat) : List Nat := ((leBytes n x).reverse).map (fun b => b.toNat)

/-- The 32 bytes of a key. -/
def keyBytes (key : Nat) : List Nat := (leBytes 32 key).map (fun b => b.toNat)

/-- Data combined with the key stream of counters from `ctr` on. -/
def gcmStream (keys : List (List Nat)) (iv : List Nat) : Nat → Nat → List Nat → List Nat
  | 0, _, _ => []
  | f + 1, ctr, l =>
    if l.isEmpty then []
    else xorL (l.take 16) (aes256Block keys (iv ++ beList 4 ctr)) ++ gcmStream keys iv f (ctr + 1) (l.drop 16)

/-- The tag of a ciphertext with its additional data. -/
def gcmTag (keys : List (List Nat)) (iv aad ct : List Nat) : List Nat :=
  let h := beNat (aes256Block keys (List.replicate 16 0))
  let s := ghash h (blocks16 aad.length aad ++ blocks16 ct.length ct ++ [aad.length * 8 * 2 ^ 64 + ct.length * 8])
  xorL (aes256Block keys (iv ++ beList 4 1)) (beList 16 s)

def natsOf (l : List Byte) : List Nat := l.map (fun b => b.toNat)
def bytesOf (l : List Nat) : List Byte := l.map (fun n => BitVec.ofNat 8 n)

/-- Encrypts under a key of 32 bytes: ciphertext and tag. DEDUCED (log 42). -/
def gcmSeal (key : Nat) (iv aad pt : List Byte) : List Byte × List Byte :=
  let keys := aes256Keys (keyBytes key)
  let ct := gcmStream keys (natsOf iv) (pt.length + 1) 2 (natsOf pt)
  (bytesOf ct, bytesOf (gcmTag keys (natsOf iv) (natsOf aad) ct))

/-- Decrypts, where the tag verifies. -/
def gcmOpen (key : Nat) (iv aad ct tag : List Byte) : Option (List Byte) :=
  let keys := aes256Keys (keyBytes key)
  if bytesOf (gcmTag keys (natsOf iv) (natsOf aad) (natsOf ct)) = tag then
    some (bytesOf (gcmStream keys (natsOf iv) (ct.length + 1) 2 (natsOf ct)))
  else none

end Sys2Proof.Machine
end

