-- ==== Sys2Proof/Machine/Inflate.lean ====
section
/-!
DEFINITION. Decompression of DEFLATE streams (RFC 1951) as ingest supports them (R539).
-/

namespace Sys2Proof.Machine

/-! Bits. -/

/-- The bits of bytes, least significant first. -/
def bitsOf (l : List Byte) : List Bool := (l.map (fun b => (List.range 8).map (fun i => b.getLsbD i))).flatten

/-- The next n bits as a number, least significant first. -/
def takeNum : Nat → List Bool → Option (Nat × List Bool)
  | 0, l => some (0, l)
  | _ + 1, [] => none
  | n + 1, b :: r => (takeNum n r).map (fun p => (b.toNat + 2 * p.1, p.2))

/-! Canonical Huffman codes. -/

/-- A code word: its length, value and symbol. -/
structure HuffSym where
  len : Nat
  code : Nat
  sym : Nat
deriving DecidableEq, Repr

/-- The codes of the symbols of one length, in ascending symbol from `first`. -/
def huffLen (lens : List Nat) (n first : Nat) : List HuffSym :=
  let syms := (List.range lens.length).filter (fun s => decide (lens.getD s 0 = n))
  ((List.range syms.length).zip syms).map (fun p => ⟨n, first + p.1, p.2⟩)

/-- Canonical codes of code lengths up to `k` more than `n`, the next code of length n + 1 being `first`. -/
def huffFrom (lens : List Nat) : Nat → Nat → Nat → List HuffSym
  | 0, _, _ => []
  | k + 1, n, first =>
    let here := huffLen lens (n + 1) first
    here ++ huffFrom lens k (n + 1) (2 * (first + here.length))

/-- A set of code lengths as codes; none where it claims more codes than there are. -/
def huffTable (lens : List Nat) : Option (List HuffSym) :=
  let sum := lens.foldl (fun a n => if n = 0 then a else a + 2 ^ (15 - n)) 0
  if sum > 2 ^ 15 then none else some (huffFrom lens 15 0 0)

/-- Reads one symbol; at most `k` more bits. -/
def huffRead (t : List HuffSym) : Nat → Nat → Nat → List Bool → Option (Nat × List Bool)
  | 0, _, _, _ => none
  | _ + 1, _, _, [] => none
  | k + 1, n, code, b :: r =>
    let c := 2 * code + b.toNat
    match t.find? (fun x => decide (x.len = n + 1) && decide (x.code = c)) with
    | some x => some (x.sym, r)
    | none => huffRead t k (n + 1) c r

def huffSym (t : List HuffSym) (l : List Bool) : Option (Nat × List Bool) := huffRead t 15 0 0 l

/-! Lengths and distances. -/

/-- Base and extra bits of length codes 257 to 285. -/
def lenCode (s : Nat) : Option (Nat × Nat) :=
  if s < 257 then none
  else if s < 265 then some (s - 254, 0)
  else if s < 285 then
    let e := (s - 261) / 4
    some (3 + (4 + (s - 261) % 4) * 2 ^ e, e)
  else if s = 285 then some (258, 0)
  else none

/-- Base and extra bits of distance codes 0 to 29. -/
def distCode (s : Nat) : Option (Nat × Nat) :=
  if s < 4 then some (s + 1, 0)
  else if s < 30 then
    let e := s / 2 - 1
    some (1 + (2 + s % 2) * 2 ^ e, e)
  else none

/-- Copies n bytes from `d` back; the output stands most recent byte first. -/
def copyBack (d : Nat) : Nat → List Byte → List Byte
  | 0, o => o
  | n + 1, o => copyBack d n (o.getD (d - 1) 0#8 :: o)

/-! Blocks. -/

/-- A stream's rest and its output so far, most recent byte first. -/
abbrev Flate := List Bool × List Byte

/-- The symbols of a compressed block. -/
def flateSyms (lit dist : List HuffSym) : Nat → Flate → Option Flate
  | 0, _ => none
  | n + 1, (l, o) =>
    match huffSym lit l with
    | none => none
    | some (s, l1) =>
      if s < 256 then flateSyms lit dist n (l1, BitVec.ofNat 8 s :: o)
      else if s = 256 then some (l1, o)
      else
        match lenCode s with
        | none => none
        | some (lb, le) =>
          match takeNum le l1 with
          | none => none
          | some (lx, l2) =>
            match huffSym dist l2 with
            | none => none
            | some (ds, l3) =>
              match distCode ds with
              | none => none
              | some (db, de) =>
                match takeNum de l3 with
                | none => none
                | some (dx, l4) =>
                  if db + dx ≤ o.length then flateSyms lit dist n (l4, copyBack (db + dx) (lb + lx) o) else none

/-- A stored block; `pad` bits are skipped to reach a byte boundary. -/
def flateStored (total : Nat) (x : Flate) : Option Flate :=
  let pad := (x.1.length % 8)
  let l := x.1.drop pad
  match takeNum 16 l with
  | none => none
  | some (n, l1) =>
    match takeNum 16 l1 with
    | none => none
    | some (m, l2) =>
      if n + m ≠ 0xFFFF ∨ l2.length < 8 * n ∨ total = 0 then none
      else
        let bs := (List.range n).map (fun i => ((takeNum 8 (l2.drop (8 * i))).map (fun p => BitVec.ofNat 8 p.1)).getD 0#8)
        some (l2.drop (8 * n), bs.reverse ++ x.2)

/-- Code lengths of a dynamic block, in the order read, from code-length codes. -/
def flateLens (t : List HuffSym) (want : Nat) : Nat → List Nat → List Bool → Option (List Nat × List Bool)
  | 0, _, _ => none
  | n + 1, acc, l =>
    if acc.length = want then some (acc, l)
    else if want < acc.length then none
    else
      match huffSym t l with
      | none => none
      | some (s, l1) =>
        if s < 16 then flateLens t want n (acc ++ [s]) l1
        else
          let (bits, base, v) : Nat × Nat × Option Nat :=
            if s = 16 then (2, 3, acc.getLast?) else if s = 17 then (3, 3, some 0) else (7, 11, some 0)
          match v, takeNum bits l1 with
          | some y, some (k, l2) => flateLens t want n (acc ++ List.replicate (base + k) y) l2
          | _, _ => none

/-- The order in which code-length code lengths are given. -/
def clOrder : List Nat := [16, 17, 18, 0, 8, 7, 9, 6, 10, 5, 11, 4, 12, 3, 13, 2, 14, 1, 15]

/-- The n numbers of 3 bits that start a dynamic block. -/
def clRead : Nat → List Bool → Option (List Nat × List Bool)
  | 0, l => some ([], l)
  | n + 1, l =>
    match takeNum 3 l with
    | none => none
    | some (x, l1) => (clRead n l1).map (fun p => (x :: p.1, p.2))

/-- A block with its own codes. -/
def flateDynamic (total : Nat) (x : Flate) : Option Flate :=
  match takeNum 14 x.1 with
  | none => none
  | some (h, l) =>
    let nl := h % 32 + 257
    let nd := h / 32 % 32 + 1
    let nc := h / 1024 + 4
    if nl > 286 ∨ nd > 30 then none
    else
      match clRead nc l with
      | none => none
      | some (cs, l1) =>
        let lens := (List.range 19).map (fun s =>
          (((List.range nc).zip cs).find? (fun p => decide (clOrder.getD p.1 99 = s))).map (fun p => p.2) |>.getD 0)
        match huffTable lens with
        | none => none
        | some t =>
          match flateLens t (nl + nd) (nl + nd + 1) [] l1 with
          | none => none
          | some (ls, l2) =>
            match huffTable (ls.take nl), huffTable (ls.drop nl) with
            | some a, some b => flateSyms a b (total + 1) (l2, x.2)
            | _, _ => none

/-- The fixed codes. -/
def fixedLit : List HuffSym :=
  huffFrom (List.replicate 144 8 ++ List.replicate 112 9 ++ List.replicate 24 7 ++ List.replicate 8 8) 15 0 0

def fixedDist : List HuffSym := huffFrom (List.replicate 30 5) 15 0 0

/-- The blocks of a stream: whatever follows the final block's last byte is an error. -/
def flateBlocks (total : Nat) : Nat → Flate → Option (List Byte)
  | 0, _ => none
  | n + 1, x =>
    match takeNum 3 x.1 with
    | none => none
    | some (h, l) =>
      let r := match h / 2 with
        | 0 => flateStored (total + 1) (l, x.2)
        | 1 => flateSyms fixedLit fixedDist (total + 1) (l, x.2)
        | 2 => flateDynamic total (l, x.2)
        | _ => none
      match r with
      | none => none
      | some y =>
        if h % 2 = 1 then (if y.1.length < 8 then some y.2.reverse else none)
        else flateBlocks total n y

/-- The output of a raw DEFLATE stream, or none where it is corrupt. -/
def inflate (l : List Byte) : Option (List Byte) :=
  let b := bitsOf l
  flateBlocks b.length (b.length + 1) (b, [])

end Sys2Proof.Machine
end

