-- ==== Sys2Proof/Machine/Zstd.lean ====
section
/-!
DEFINITION. Decompression of Zstandard frames (RFC 8878) as ingest supports them (R539).
-/

namespace Sys2Proof.Machine

/-! Streams read backward, most significant bit first: the number whose low `n` bits are left. -/

/-- A backward bit stream. -/
structure ZBits where
  x : Nat
  n : Nat
deriving DecidableEq, Repr

/-- The stream of bytes, whose last byte marks the end with its highest set bit. -/
def zOpen (l : List Byte) : Option ZBits :=
  match l.getLast? with
  | none => none
  | some b => if b = 0#8 then none else some ⟨leNat l, 8 * (l.length - 1) + b.toNat.log2⟩

/-- The next k bits, with zeros after the stream's end. -/
def ZBits.peek (z : ZBits) (k : Nat) : Nat :=
  if k ≤ z.n then z.x / 2 ^ (z.n - k) % 2 ^ k else z.x % 2 ^ z.n * 2 ^ (k - z.n)

/-- The next k bits, where the stream has them. -/
def ZBits.take (z : ZBits) (k : Nat) : Option (Nat × ZBits) :=
  if k ≤ z.n then some (z.peek k, { z with n := z.n - k }) else none

/-! Finite state entropy tables. -/

/-- A cell: its symbol, bits to read and base of the next state. -/
structure ZCell where
  sym : Nat
  nb : Nat
  base : Nat
deriving DecidableEq, Repr

/-- A table of 2^`log` cells. -/
structure ZTab where
  log : Nat
  cells : Array ZCell
deriving DecidableEq, Repr

/-- Places n cells of symbol s from `pos` on, below `high`. -/
def zSpread (size high s : Nat) : Nat → Nat → Nat → Array Nat → Nat × Array Nat
  | 0, _, pos, t => (pos, t)
  | _ + 1, 0, pos, t => (pos, t)
  | f + 1, n + 1, pos, t =>
    let next := (pos + size / 2 + size / 8 + 3) % size
    if pos < high then zSpread size high s f n next (t.setIfInBounds pos s)
    else zSpread size high s f (n + 1) next t

/-- The table of a normalised distribution, where −1 stands for "less than one". -/
def zTable (log : Nat) (dist : List Int) : ZTab :=
  let size := 2 ^ log
  let low := (List.range dist.length).filter (fun s => decide (dist.getD s 0 = -1))
  let high := size - low.length
  let t0 : Array Nat := (List.range low.length).foldl (fun t i => t.setIfInBounds (size - 1 - i) (low.getD i 0)) (Array.replicate size 0)
  let t1 := ((List.range dist.length).foldl (fun p s => zSpread size high s (2 * size) (dist.getD s 0).toNat p.1 p.2) (0, t0)).2
  let start : Array Nat := (dist.map (fun d => if d = -1 then 1 else d.toNat)).toArray
  let fin := t1.toList.foldl (fun (p : Array ZCell × Array Nat) s =>
    let next := p.2.getD s 1
    let nb := log - next.log2
    (p.1.push ⟨s, nb, next * 2 ^ nb - size⟩, p.2.setIfInBounds s (next + 1))) (#[], start)
  ⟨log, fin.1⟩

def ZTab.cell (t : ZTab) (s : Nat) : ZCell := t.cells.getD s ⟨0, 0, 0⟩

/-- The zero-probability symbols that a repeat code adds: their number and the bits used. -/
def zRepeats (x : Nat) : Nat → Nat → Nat × Nat
  | 0, at' => (0, at')
  | f + 1, at' =>
    let r := x / 2 ^ at' % 4
    if r = 3 then
      let p := zRepeats x f (at' + 2)
      (3 + p.1, p.2)
    else (r, at' + 2)

/-- The probabilities of a table description, most recent first, with the bits read. -/
def zProbs (x maxSym : Nat) : Nat → Nat → Nat → List Int → Option (List Int × Nat)
  | 0, _, _, _ => none
  | f + 1, rem, at', acc =>
    if rem = 0 then some (acc, at')
    else if maxSym < acc.length then none
    else
      let bits := (rem + 1).log2 + 1
      let v := x / 2 ^ at' % 2 ^ bits
      let half := 2 ^ (bits - 1)
      let thr := 2 ^ bits - 1 - (rem + 1)
      let small := v % half < thr
      let val := if small then v % half else if half ≤ v then v - thr else v
      let used := if small then bits - 1 else bits
      let p : Int := (val : Int) - 1
      if rem < p.natAbs then none
      else if p = 0 then
        let z := zRepeats x 100 (at' + used)
        zProbs x maxSym f rem z.2 (List.replicate (z.1 + 1) 0 ++ acc)
      else zProbs x maxSym f (rem - p.natAbs) (at' + used) (p :: acc)

/-- A table description: the table and the bytes it takes. -/
def zDescr (l : List Byte) (maxLog maxSym : Nat) : Option (ZTab × Nat) :=
  let x := leNat (l.take 300)
  let log := x % 16 + 5
  if l.isEmpty || decide (maxLog < log) then none
  else
    match zProbs x maxSym 600 (2 ^ log) 4 [] with
    | none => none
    | some (d, at') =>
      if maxSym + 1 < d.length ∨ 8 * l.length < at' then none
      else some (zTable log d.reverse, (at' + 7) / 8)

/-! Huffman tables of literals. -/

/-- A Huffman table: the longest code's bits, and for each value of so many bits the symbol and its bits. -/
structure ZHuf where
  bits : Nat
  tab : Array (Nat × Nat)
deriving DecidableEq, Repr

/-- The table of the symbols' weights, of which the last is implied. -/
def zHuf (ws : List Nat) : Option ZHuf :=
  let sum := ws.foldl (fun a v => if v = 0 then a else a + 2 ^ (v - 1)) 0
  if sum = 0 ∨ 255 < ws.length then none
  else
    let bits := sum.log2 + 1
    let left := 2 ^ bits - sum
    if 11 < bits ∨ 2 ^ left.log2 ≠ left then none
    else
      let all := ws ++ [left.log2 + 1]
      let row (v : Nat) : List (Nat × Nat) :=
        (((List.range all.length).filter (fun s => decide (all.getD s 0 = v))).map (fun s =>
          List.replicate (2 ^ (v - 1)) (s, bits + 1 - v))).flatten
      some ⟨bits, (((List.range bits).map (fun i => row (i + 1))).flatten).toArray⟩

/-- Weights from two interleaved states of one table. -/
def zWeights (t : ZTab) : Nat → Nat → Nat → ZBits → List Nat → Option (List Nat)
  | 0, _, _, _, _ => none
  | f + 1, s1, s2, z, acc =>
    let c := t.cell s1
    let acc1 := c.sym :: acc
    if z.n < c.nb then some ((t.cell s2).sym :: acc1).reverse
    else zWeights t f s2 (c.base + z.peek c.nb) { z with n := z.n - c.nb } acc1

/-- A Huffman tree description: the table and the bytes it takes. -/
def zTree (l : List Byte) : Option (ZHuf × Nat) :=
  match l with
  | [] => none
  | h :: r =>
    if h.toNat < 128 then
      let part := r.take h.toNat
      if part.length < h.toNat then none
      else do
        let d ← zDescr part 6 255
        let z ← zOpen (part.drop d.2)
        let a ← z.take d.1.log
        let b ← a.2.take d.1.log
        let ws ← zWeights d.1 256 a.1 b.1 b.2 []
        let t ← zHuf ws
        return (t, 1 + h.toNat)
    else
      let n := h.toNat - 127
      let part := r.take ((n + 1) / 2)
      if part.length < (n + 1) / 2 then none
      else do
        let ws := ((part.map (fun b => [b.toNat / 16, b.toNat % 16])).flatten).take n
        let t ← zHuf ws
        return (t, 1 + (n + 1) / 2)

/-- The symbols of one Huffman stream, `n` at most. -/
def zSyms (t : ZHuf) : Nat → ZBits → Array Byte → Option (Array Byte)
  | 0, z, acc => if z.n = 0 then some acc else none
  | n + 1, z, acc =>
    if z.n = 0 then some acc
    else
      let c := t.tab.getD (z.peek t.bits) (0, 0)
      if z.n < c.2 then none else zSyms t n { z with n := z.n - c.2 } (acc.push (BitVec.ofNat 8 c.1))

/-- One stream that gives n symbols. -/
def zStream (t : ZHuf) (l : List Byte) (n : Nat) (acc : Array Byte) : Option (Array Byte) := do
  let z ← zOpen l
  let r ← zSyms t n z acc
  if r.size = acc.size + n then some r else none

/-! Literals. -/

/-- What later blocks of a frame may use again: the Huffman table and the three sequence tables. -/
structure ZCtx where
  huf : Option ZHuf
  ll : Option ZTab
  of : Option ZTab
  ml : Option ZTab
  rep : Nat × Nat × Nat
deriving DecidableEq, Repr

def ZCtx.start : ZCtx := ⟨none, none, none, none, (1, 4, 8)⟩

/-- Literals compressed with a Huffman table. -/
def zHufLits (t : ZHuf) (four : Bool) (part : List Byte) (n : Nat) : Option (Array Byte) :=
  if four then do
    let s (i : Nat) : Nat := leNat ((part.drop (2 * i)).take 2)
    let body := part.drop 6
    if part.length < 6 + s 0 + s 1 + s 2 then none
    let q := (n + 3) / 4
    if n < 3 * q then none
    let a ← zStream t (body.take (s 0)) q #[]
    let b ← zStream t ((body.drop (s 0)).take (s 1)) q a
    let c ← zStream t ((body.drop (s 0 + s 1)).take (s 2)) q b
    zStream t (body.drop (s 0 + s 1 + s 2)) (n - 3 * q) c
  else zStream t part n #[]

/-- The literals section: the literals, the table in force, and the rest of the block. -/
def zLiterals (c : ZCtx) (l : List Byte) : Option (Array Byte × ZCtx × List Byte) :=
  match l with
  | [] => none
  | h :: _ =>
    let kind := fld h 0 2
    let sf := fld h 2 2
    if kind < 2 then do
      let (len, n) := if sf % 2 = 0 then (1, fld h 3 5) else if sf = 1 then (2, leNat (l.take 2) / 16) else (3, leNat (l.take 3) / 16)
      let r := l.drop len
      if l.length < len then none
      else if kind = 0 then
        if r.length < n then none else some ((r.take n).toArray, c, r.drop n)
      else
        match r with
        | [] => none
        | b :: r1 => some (Array.replicate n b, c, r1)
    else do
      let (len, k) := if sf < 2 then (3, 10) else if sf = 2 then (4, 14) else (5, 18)
      if l.length < len then none
      let v := leNat (l.take len) / 16
      let n := v % 2 ^ k
      let csz := v / 2 ^ k % 2 ^ k
      let part := (l.drop len).take csz
      if part.length < csz then none
      let (t, used) ← (if kind = 2 then zTree part else c.huf.map (fun t => (t, 0)))
      let out ← zHufLits t (decide (sf ≠ 0)) (part.drop used) n
      return (out, { c with huf := some t }, l.drop (len + csz))

/-! Sequences. -/

def zLLBase : List (Nat × Nat) :=
  (List.range 16).map (fun n => (n, 0)) ++
  [(16, 1), (18, 1), (20, 1), (22, 1), (24, 2), (28, 2), (32, 3), (40, 3), (48, 4), (64, 6), (128, 7), (256, 8),
   (512, 9), (1024, 10), (2048, 11), (4096, 12), (8192, 13), (16384, 14), (32768, 15), (65536, 16)]

def zMLBase : List (Nat × Nat) :=
  (List.range 32).map (fun n => (n + 3, 0)) ++
  [(35, 1), (37, 1), (39, 1), (41, 1), (43, 2), (47, 2), (51, 3), (59, 3), (67, 4), (83, 4), (99, 5), (131, 7),
   (259, 8), (515, 9), (1027, 10), (2051, 11), (4099, 12), (8195, 13), (16387, 14), (32771, 15), (65539, 16)]

def zLLDist : List Int :=
  [4, 3, 2, 2, 2, 2, 2, 2, 2, 2, 2, 2, 2, 1, 1, 1, 2, 2, 2, 2, 2, 2, 2, 2, 2, 3, 2, 1, 1, 1, 1, 1, -1, -1, -1, -1]
def zOFDist : List Int :=
  [1, 1, 1, 1, 1, 1, 2, 2, 2, 1, 1, 1, 1, 1, 1, 1, 1, 1, 1, 1, 1, 1, 1, 1, -1, -1, -1, -1, -1]
def zMLDist : List Int :=
  [1, 4, 3, 2, 2, 2, 2, 2, 2] ++ List.replicate 37 1 ++ List.replicate 7 (-1)

/-- A sequence table by its mode: predefined, one symbol, described, or the last one again. -/
def zSeqTab (mode : Nat) (l : List Byte) (dflt : ZTab) (maxLog maxSym : Nat) (last : Option ZTab) : Option (ZTab × List Byte) :=
  match mode with
  | 0 => some (dflt, l)
  | 1 =>
    match l with
    | [] => none
    | b :: r => if maxSym < b.toNat then none else some (⟨0, #[⟨b.toNat, 0, 0⟩]⟩, r)
  | 2 => (zDescr l maxLog maxSym).map (fun d => (d.1, l.drop d.2))
  | _ => last.map (fun t => (t, l))

/-- The offset of a sequence and the recent offsets after it. -/
def zOffset (v ll : Nat) (rep : Nat × Nat × Nat) : Nat × (Nat × Nat × Nat) :=
  let (a, b, c) := rep
  if 3 < v then (v - 3, (v - 3, a, b))
  else
    match (if ll = 0 then v + 1 else v) with
    | 1 => (a, rep)
    | 2 => (b, (b, a, c))
    | 3 => (c, (c, a, b))
    | _ => (a - 1, (a - 1, a, b))

/-- Copies n bytes from `off` back, one at a time. -/
def zCopy (off : Nat) : Nat → Array Byte → Array Byte
  | 0, a => a
  | n + 1, a => zCopy off n (a.push (a.getD (a.size - off) 0#8))

/-- Runs n sequences: states, recent offsets, next literal; `start` is where the frame's output began. -/
def zRun (ll of ml : ZTab) (lits : Array Byte) (win start : Nat) :
    Nat → Nat × Nat × Nat → Nat × Nat × Nat → Nat → ZBits → Array Byte → Option (Array Byte × (Nat × Nat × Nat) × Nat)
  | 0, _, rep, li, z, out => if z.n = 0 then some (out, rep, li) else none
  | n + 1, (sl, so, sm), rep, li, z, out => do
    let cl := ll.cell sl
    let co := of.cell so
    let cm := ml.cell sm
    if 31 < co.sym then none
    let (ov, z1) ← z.take co.sym
    let bm := zMLBase.getD cm.sym (0, 0)
    let (mv, z2) ← z1.take bm.2
    let bl := zLLBase.getD cl.sym (0, 0)
    let (lv, z3) ← z2.take bl.2
    let litLen := bl.1 + lv
    let (off, rep') := zOffset (2 ^ co.sym + ov) litLen rep
    if lits.size < li + litLen then none
    let out1 := out ++ (lits.extract li (li + litLen))
    if off = 0 ∨ win < off ∨ out1.size < start + off then none
    let out2 := zCopy off (bm.1 + mv) out1
    if n = 0 then zRun ll of ml lits win start 0 (0, 0, 0) rep' (li + litLen) z3 out2
    else do
      let (a, z4) ← z3.take cl.nb
      let (b, z5) ← z4.take cm.nb
      let (c, z6) ← z5.take co.nb
      zRun ll of ml lits win start n (cl.base + a, co.base + c, cm.base + b) rep' (li + litLen) z6 out2

/-- The number of sequences and the rest. -/
def zCount (l : List Byte) : Option (Nat × List Byte) :=
  match l with
  | [] => none
  | a :: r =>
    if a.toNat < 128 then some (a.toNat, r)
    else if a.toNat < 255 then
      match r with
      | b :: r1 => some ((a.toNat - 128) * 256 + b.toNat, r1)
      | _ => none
    else
      match r with
      | b :: c :: r1 => some (b.toNat + c.toNat * 256 + 0x7F00, r1)
      | _ => none

/-- A compressed block. -/
def zBlock (c : ZCtx) (win start : Nat) (l : List Byte) (out : Array Byte) : Option (ZCtx × Array Byte) := do
  let (lits, c1, r) ← zLiterals c l
  let (n, r1) ← zCount r
  if n = 0 then
    if r1.isEmpty then some (c1, out ++ lits) else none
  else
    match r1 with
    | [] => none
    | m :: r2 =>
      if fld m 0 2 ≠ 0 then none
      else do
        let (tl, r3) ← zSeqTab (fld m 6 2) r2 (zTable 6 zLLDist) 9 35 c1.ll
        let (tof, r4) ← zSeqTab (fld m 4 2) r3 (zTable 5 zOFDist) 8 31 c1.of
        let (tm, r5) ← zSeqTab (fld m 2 2) r4 (zTable 6 zMLDist) 9 52 c1.ml
        let z ← zOpen r5
        let (sl, z1) ← z.take tl.log
        let (so, z2) ← z1.take tof.log
        let (sm, z3) ← z2.take tm.log
        let (out1, rep, li) ← zRun tl tof tm lits win start n (sl, so, sm) c1.rep 0 z3 out
        return ({ c1 with ll := some tl, of := some tof, ml := some tm, rep := rep }, out1 ++ lits.extract li lits.size)

/-- The blocks of a frame: the output and what follows the last block. -/
def zBlocks (win start : Nat) : Nat → ZCtx → List Byte → Array Byte → Option (Array Byte × List Byte)
  | 0, _, _, _ => none
  | f + 1, c, l, out =>
    if l.length < 3 then none
    else
      let h := leNat (l.take 3)
      let size := h / 8
      let r := l.drop 3
      let maxB := if win < 131072 then win else 131072
      let go (c' : ZCtx) (o : Array Byte) (rest : List Byte) : Option (Array Byte × List Byte) :=
        if out.size + maxB < o.size then none
        else if h % 2 = 1 then some (o, rest) else zBlocks win start f c' rest o
      if maxB < size then none
      else
        match h / 2 % 4 with
        | 0 => if r.length < size then none else go c (out ++ (r.take size).toArray) (r.drop size)
        | 1 =>
          match r with
          | [] => none
          | b :: r1 => go c (out ++ Array.replicate size b) r1
        | 2 =>
          if r.length < size then none
          else
            match zBlock c win start (r.take size) out with
            | none => none
            | some (c', o) => go c' o (r.drop size)
        | _ => none

/-! The content checksum: XXH64 with seed 0. -/

def xxP1 : W64 := 0x9E3779B185EBCA87#64
def xxP2 : W64 := 0xC2B2AE3D27D4EB4F#64
def xxP3 : W64 := 0x165667B19E3779F9#64
def xxP4 : W64 := 0x85EBCA77C2B2AE63#64
def xxP5 : W64 := 0x27D4EB2F165667C5#64

def xxRound (acc x : W64) : W64 := (acc + x * xxP2).rotateLeft 31 * xxP1

def xxMerge (h v : W64) : W64 := (h ^^^ xxRound 0#64 v) * xxP1 + xxP4

/-- The 8-, 4- and 1-byte steps of the tail. -/
def xxTail : Nat → List Byte → W64 → W64
  | 0, _, h => h
  | f + 1, l, h =>
    if 8 ≤ l.length then xxTail f (l.drop 8) ((h ^^^ xxRound 0#64 (wordAt l 0)).rotateLeft 27 * xxP1 + xxP4)
    else if 4 ≤ l.length then xxTail f (l.drop 4) ((h ^^^ w64 (leNat (l.take 4)) * xxP1).rotateLeft 23 * xxP2 + xxP3)
    else
      match l with
      | [] => h
      | b :: r => xxTail f r ((h ^^^ w64 b.toNat * xxP5).rotateLeft 11 * xxP1)

/-- The 32-byte stripes. -/
def xxStripes : Nat → List Byte → W64 × W64 × W64 × W64 → W64 × W64 × W64 × W64
  | 0, _, v => v
  | f + 1, l, (a, b, c, d) =>
    xxStripes f (l.drop 32) (xxRound a (wordAt l 0), xxRound b (wordAt l 1), xxRound c (wordAt l 2), xxRound d (wordAt l 3))

def xxh64 (l : List Byte) : W64 :=
  let n := l.length
  let h0 :=
    if 32 ≤ n then
      let (a, b, c, d) := xxStripes (n / 32) l (xxP1 + xxP2, xxP2, 0#64, 0#64 - xxP1)
      xxMerge (xxMerge (xxMerge (xxMerge (a.rotateLeft 1 + b.rotateLeft 7 + c.rotateLeft 12 + d.rotateLeft 18) a) b) c) d
    else xxP5
  let h1 := xxTail 40 (l.drop (n / 32 * 32)) (h0 + w64 n)
  let h2 := (h1 ^^^ (h1 >>> 33)) * xxP2
  let h3 := (h2 ^^^ (h2 >>> 29)) * xxP3
  h3 ^^^ (h3 >>> 32)

/-! Frames. -/

/-- One frame after its magic number: the output with the frame's added, and the rest. DEDUCED (log 45). -/
def zFrame (l : List Byte) (out : Array Byte) : Option (Array Byte × List Byte) :=
  match l with
  | [] => none
  | d :: r =>
    let fcs := fld d 6 2
    let single := bit d 5
    let nd := [0, 1, 2, 4].getD (fld d 0 2) 0
    let nf := if fcs = 0 then single.toNat else [1, 2, 4, 8].getD fcs 0
    let nw := if single then 0 else 1
    if bit d 3 || decide (r.length < nw + nd + nf) then none
    else
      let wb := leNat (r.take nw)
      let dict := leNat ((r.drop nw).take nd)
      let size := leNat ((r.drop (nw + nd)).take nf) + (if fcs = 1 then 256 else 0)
      let wbase := 2 ^ (10 + wb / 8)
      let win := if single then size else wbase + wbase / 8 * (wb % 8)
      if dict ≠ 0 ∨ 0x800000 < win then none
      else
        match zBlocks win out.size l.length ZCtx.start (r.drop (nw + nd + nf)) out with
        | none => none
        | some (o, rest) =>
          let got := o.extract out.size o.size
          if nf ≠ 0 ∧ got.size ≠ size then none
          else if bit d 2 then
            if rest.length < 4 ∨ leNat (rest.take 4) ≠ (xxh64 got.toList).toNat % 2 ^ 32 then none
            else some (o, rest.drop 4)
          else some (o, rest)

/-- Frames until the data ends. -/
def zFrames : Nat → List Byte → Array Byte → Option (Array Byte)
  | 0, _, _ => none
  | f + 1, l, out =>
    if l.isEmpty then some out
    else
      let m := leNat (l.take 4)
      if l.length < 8 then none
      else if m / 16 = 0x184D2A5 then
        let n := leNat ((l.drop 4).take 4)
        if l.length < 8 + n then none else zFrames f (l.drop (8 + n)) out
      else if m = 0xFD2FB528 then
        match zFrame (l.drop 4) out with
        | none => none
        | some (o, rest) => zFrames f rest o
      else none

/-- The output of one or more frames; none where the data is corrupt or not supported. DEDUCED (log 45). -/
def unzstd (l : List Byte) : Option (List Byte) :=
  if l.isEmpty then none else (zFrames (l.length + 1) l #[]).map (fun a => a.toList)

end Sys2Proof.Machine
end

