-- ==== Sys2Proof/Machine/Channels.lean ====
section
/-!
DEFINITION. The channel table (chapter 13): entries and their states (R521 to R526), doorbells of channels and task
queues (R527 to R529, R544), rings and completions (R530 to R533), COPY, INGEST and EGRESS descriptors
(R534 to R541), interruption (R550).
-/

namespace Sys2Proof.Machine

/-! Entries. -/

def Chan.word (c : Chan) (k : Nat) : W64 := c.words.getD k 0#64

def Chan.type (c : Chan) : Nat := fld (c.word 0) 4 4
def Chan.die (c : Chan) : Nat := fld (c.word 0) 30 2
def Chan.kdom (c : Chan) : Byte := (c.word 0).extractLsb' 40 8
def Chan.slot (c : Chan) : Nat := fld (c.word 0) 36 4
def Chan.who (c : Chan) : Tenant := ⟨bit (c.word 0) 23, fld (c.word 0) 24 6⟩
def Chan.ringLog (c : Chan) : Nat := fld (c.word 3) 8 5
def Chan.dringLog (c : Chan) : Nat := fld (c.word 6) 0 5
def Chan.bufSize (c : Chan) : Nat := fld (c.word 6) 32 32

/-- A channel that has not been loaded. -/
def Chan.off : Chan :=
  { words := [], st := 0, head := 0#16, tail := 0#16, dprod := 0#16, dcons := 0#16, clap := false, last := 0, staged := none, res := none }

/-- Word k of channel n's entry in the table (R521). -/
def ctWord (w : World) (n k : Nat) : W64 := rdWord w.mem w.ks 0#8 (w.places.ctBase + 128 * n + 8 * k)

def ctWords (w : World) (n : Nat) : List W64 := (List.range 8).map (ctWord w n)

/-- Word 4 as the unit writes it (R522). -/
def Chan.word4 (c : Chan) : W64 :=
  packW [(48, c.head.toNat), (32, c.tail.toNat), (16, c.clap.toNat), (8, c.last), (0, c.st)]

/-- Writes into the channel table travel as the unit's own, under key domain 0. -/
def ctStore (w : World) (n k : Nat) (v : W64) : World :=
  unitCommit w 3 0 7 0#8 .whole (atOff (w.places.ctBase + 128 * n + 8 * k) (offsets (leBytes 8 v.toNat)))

def World.chan (w : World) (n : Nat) : Chan := sgetD w.chans n Chan.off

def World.setChan (w : World) (n : Nat) (c : Chan) : World := { w with chans := sset w.chans n c }

/-- A change of a channel that its unit writes to word 4. -/
def putChan (w : World) (n : Nat) (c : Chan) : World := ctStore (w.setChan n c) n 4 c.word4

/-- Words 0 to 7 of an entry are well formed (R523). DEDUCED (log 38). -/
def entryOk (a : Anat) (l : List W64) : Bool :=
  let c : Chan := { Chan.off with words := l }
  let log := c.ringLog
  let d := a.dies.getD c.die ⟨false, true, false⟩
  decide (fld (c.word 0) 0 4 = 1) && decide (1 ≤ c.type) && decide (c.type ≤ 4) && decide (4 ≤ log) && decide (log ≤ 16) &&
    (decide (c.type ≠ 2) || (decide (4 ≤ c.dringLog) && decide (c.dringLog ≤ 16) && decide (0 < c.bufSize) &&
      decide (c.bufSize % 4096 = 0) && decide (c.bufSize ≤ 0x1000000))) &&
    !((decide (c.type = 2) || decide (c.type = 3)) && decide (c.slot = 0)) && !d.lost

/-- Outstanding entries that a ring holds at most (R531). -/
def ringLimit (log : Nat) : Nat := if log < 16 then 2 ^ log else 65535

/-! The die's channel cache (R525). -/

/-- Counter i of the DMA and channel unit (R551). DEDUCED (log 44). -/
def dmaCount (w : World) (d i n : Nat) : World := w.countReg (dieBase d + 0x900100 + 8 * i) n

/-- Counter i of the ingest and crypto unit (R551). DEDUCED (log 44). -/
def ingCount (w : World) (d i n : Nat) : World := w.countReg (dieBase d + 0xA00100 + 8 * i) n

/-- Channel n becomes the most recent of a die's cache: the least recent that is not RUNNING leaves a full cache.
DEDUCED (log 38). -/
def ccPut (w : World) (d n : Nat) : Option World :=
  let l := (sgetD w.ccache d []).filter (fun x => decide (x ≠ n))
  if l.length < 256 then some { w with ccache := sset w.ccache d (n :: l) }
  else
    match (l.reverse).find? (fun x => decide ((w.chan x).st ≠ 2)) with
    | none => none
    | some v => some { w with ccache := sset w.ccache d (n :: l.filter (fun x => decide (x ≠ v))) }

/-- The entry is cached, loaded again where it was not; none while it must wait. -/
def ccTouch (w : World) (d n : Nat) : Option World :=
  let miss := !(sgetD w.ccache d []).contains n
  (ccPut w d n).map (fun v => if miss then dmaCount v d 4 1 else v)

/-! Doorbells. -/

/-- A function's doorbells reach the module: the link is up and not degraded (R553), and no
function-level reset is under way (R569). -/
def fnLive (w : World) (f : Nat) : Bool :=
  w.pcieUp && !bit (w.reg 0x2E000 0#64) 4 && (decide (f = 0) || w.host.vfEn) && !(w.fn f).flr

/-- Whether a page or tenant reaches what a tenant or the operator owns (R528). -/
def reaches (by' : Tenant) (own : Tenant) : Bool := by'.oper || (!own.oper && decide (own.id = by'.id))

/-- START and RELOAD (R523, R525): the entry as loaded. DEDUCED (log 38). -/
def chanLoad (w : World) (n : Nat) (start : Bool) : Chan :=
  let old := w.chan n
  let l := ctWords w n
  let w4 := l.getD 4 0#64
  let w7 := l.getD 7 0#64
  let c : Chan :=
    if (sget w.chans n).isSome then { old with words := l, clap := bit w4 16 }
    else { Chan.off with
      words := l, head := w4.extractLsb' 48 16, tail := w4.extractLsb' 32 16, clap := bit w4 16, last := fld w4 8 8
      dprod := w7.extractLsb' 48 16, dcons := w7.extractLsb' 32 16 }
  if start then { c with st := if c.head = c.tail then 1 else 2 } else c

/-- The entry a doorbell is checked against: as loaded, or at START and RELOAD as it stands in the table. -/
def bellEntry (w : World) (cmd n : Nat) : Chan :=
  if cmd = 1 ∨ cmd = 3 ∨ (sget w.chans n).isNone then { w.chan n with words := ctWords w n } else w.chan n

/-- A channel doorbell: the refusal status of R529, 0 when it is accepted; none while it must wait. DEDUCED (log 39). -/
def chanBell (a : Anat) (w : World) (by' : Tenant) (shut : Bool) (cmd n : Nat) (v : BitVec 16) : Option (Nat × World) :=
  let old := w.chan n
  let c := bellEntry w cmd n
  let own := c.who
  let wOk (r : Option World) (f : World → World) : Option (Nat × World) := r.map (fun x => (0, f x))
  if 5 ≤ cmd then some (6, w)
  else if shut || !reaches by' own || decide (c.type = 4) then some (1, w)
  else if cmd = 1 ∨ cmd = 3 then
    if !entryOk a c.words || tableBad a w (w.places.ctBase + 128 * n) 128 then some (2, w)
    else if (cmd = 1 ∧ (old.st = 1 ∨ old.st = 2)) ∨ (cmd = 3 ∧ old.st = 2) then some (5, w)
    else
      if !dieRuns a (26 * a.super) || !dieRuns a (26 * c.die) then none
      else
        let l := chanLoad w n (decide (cmd = 1))
        let clear : World := { w with ccache := w.ccache.map (fun p => (p.1, p.2.filter (fun x => decide (x ≠ n)))) }
        wOk (ccPut clear c.die n) (fun x => putChan x n l)
  else if old.st = 0 then some (2, w)
  else if !dieRuns a (26 * c.die) then none
  else
    match cmd with
    | 0 =>
      if ringLimit c.ringLog < (v - old.head).toNat ∨ (v - old.head).toNat < (old.tail - old.head).toNat then some (3, w)
      else
        let st := if old.st = 1 ∧ v ≠ old.head then 2 else old.st
        wOk (ccTouch w c.die n) (fun x => putChan x n { old with tail := v, st := st })
    | 2 =>
      if old.st = 3 then some (5, w)
      else
        wOk (ccTouch w c.die n) (fun x =>
          putChan (if old.res.isNone then clearUbuf x n else x) n { old with st := 3, staged := none })
    | _ =>
      if (old.dprod - old.dcons).toNat < (v - old.dcons).toNat then some (3, w)
      else
        wOk (ccTouch w c.die n) (fun x =>
          ctStore (x.setChan n { old with dcons := v }) n 7 (packW [(48, old.dprod.toNat), (32, v.toNat)]))

/-- A task-queue doorbell (R528, R544). -/
def taskBell (a : Anat) (w : World) (by' : Tenant) (shut : Bool) (l : Nat) (t : BitVec 16) : Nat × World :=
  let q := w.log l
  let own : Tenant := ⟨bit q.cfg 23, fld q.cfg 24 6⟩
  if 96 ≤ l then (4, w)
  else if shut || !reaches by' own then (1, w)
  else if (a.physOf l).isNone then (4, w)
  else if ringLimit (fld q.cfg 0 5) < (t - q.head).toNat ∨ (t - q.head).toNat < (q.tail - q.head).toNat then (3, w)
  else (0, w.modLog l (fun x => { x with tail := t }))

/-- A refused doorbell is counted and recorded (R529). -/
def dbRefuse (w : World) (f st kind target : Nat) : World :=
  (w.countReg (dbPage f + 0x18) 1).setReg (dbPage f + 0x10) (packW [(63, 1), (16, st), (12, kind), (0, target)])

/-- What a doorbell answered, with its refusal recorded in the page of its function (R529). -/
def bellEnd (f kind target : Nat) (r : Nat × World) : World := if r.1 = 0 then r.2 else dbRefuse r.2 f r.1 kind target

/-- The tenant for which a function rings: the physical function reaches everything. -/
def pageTenant (f : Nat) : Tenant := ⟨decide (f = 0), f - 1⟩

/-- The TDI of a virtual function is in ERROR (R568). -/
def tdiShut (w : World) (f : Nat) : Bool := decide (f ≠ 0) && decide ((w.fn f).tdi = 3)

/-- The physical function's command is refused because the tenant's TDI is locked (R568). -/
def tdiLocked (w : World) (own : Tenant) : Bool :=
  !own.oper && (decide ((w.fn (1 + own.id)).tdi = 1) || decide ((w.fn (1 + own.id)).tdi = 2))

/-- A channel doorbell that has reached a function's page. DEDUCED (log 39). -/
def dbChanIn (a : Anat) (w : World) (f cmd n : Nat) (v : BitVec 16) : World :=
  match chanBell a w (pageTenant f) (tdiShut w f) cmd n v with
  | none => w
  | some r => bellEnd f 0 n r

/-- A channel doorbell rung by a function. DEDUCED (log 40). -/
def dbChan (a : Anat) (w : World) (f cmd n : Nat) (v : BitVec 16) : World :=
  if !fnLive w f then w
  else if f = 0 ∧ (cmd = 1 ∨ cmd = 2 ∨ cmd = 3) ∧ tdiLocked w (bellEntry w cmd n).who then w.countReg 0x2E120 1
  else dbChanIn a w f cmd n v

/-- A task-queue doorbell that has reached a function's page. DEDUCED (log 40). -/
def dbTaskIn (a : Anat) (w : World) (f l : Nat) (t : BitVec 16) : World :=
  bellEnd f 1 l (taskBell a w (pageTenant f) (tdiShut w f) l t)

/-- A task-queue doorbell rung by a function. -/
def dbTask (a : Anat) (w : World) (f l : Nat) (t : BitVec 16) : World := if !fnLive w f then w else dbTaskIn a w f l t

def execTail (f : Fin 65) (ch : BitVec 12) (v : BitVec 16) (s : State) : Res :=
  toWorld s (dbChan s.anat s.w f.val 0 ch.toNat v)
def execStart (f : Fin 65) (ch : BitVec 12) (s : State) : Res :=
  toWorld s (dbChan s.anat s.w f.val 1 ch.toNat 0#16)
def execStop (f : Fin 65) (ch : BitVec 12) (s : State) : Res :=
  toWorld s (dbChan s.anat s.w f.val 2 ch.toNat 0#16)
def execReload (f : Fin 65) (ch : BitVec 12) (s : State) : Res :=
  toWorld s (dbChan s.anat s.w f.val 3 ch.toNat 0#16)
def execDcons (f : Fin 65) (ch : BitVec 12) (v : BitVec 16) (s : State) : Res :=
  toWorld s (dbChan s.anat s.w f.val 4 ch.toNat v)
def execDbTask (f : Fin 65) (l : BitVec 7) (v : BitVec 16) (s : State) : Res :=
  toWorld s (dbTask s.anat s.w f.val l.toNat v)

/-- `TQ_CFG` takes a value whose LOG2 is in range (R544). -/
def tqCfgWrite (w : World) (l : Nat) (v : W64) : World :=
  if fld v 0 5 < 4 ∨ 16 < fld v 0 5 then w
  else w.modLog l (fun q => { q with cfg := v &&& 0xFFFF00003F80001F#64 })

/-- A write by the physical function is refused while the owner's TDI is locked (R568). -/
def tqHost (w : World) (l : Nat) (f : World → World) : World :=
  let cfg := (w.log l).cfg
  if tdiLocked w ⟨bit cfg 23, fld cfg 24 6⟩ then w.countReg 0x2E120 1 else f w

def execTqCfgWrite (l : Fin 96) (v : W64) (s : State) : Res :=
  toWorld s (if fnLive s.w 0 then tqHost s.w l.val (fun w => tqCfgWrite w l.val v) else s.w)

/-! Descriptors. -/

/-- For whom a channel works (R526). -/
def chanEnv (a : Anat) (n : Nat) (c : Chan) : UnitEnv :=
  { a := a, die := c.die, ref := n, ctx := fld (c.word 0) 48 16, who := c.who, fn := c.who.fn, cls := 3, part := fld (c.word 0) 32 4 }

/-- The channel's next descriptor. -/
def descRead (c : Chan) : UM (List W64) := do
  let base := c.word 1 + w64 (64 * (c.head.toNat % 2 ^ c.ringLog))
  let r ← uRead base 64 0
  return (List.range 8).map (wordAt r.1)

/-- A descriptor's end with a status. -/
def resFail (f : UFault) (bytes : Nat) : ChanRes :=
  { status := f.status, detail := f.detail, off := f.off, bytes := bytes, w1 := 0#64, entry := none, phase := 0 }

def resStop (status : Nat) : ChanRes := resFail ⟨status, 0, 0⟩ 0

def resDone (keyh : Bool) (bytes : Nat) (w1 : W64) : ChanRes :=
  { status := if keyh then 10 else 0, detail := 0, off := 0, bytes := bytes, w1 := w1, entry := none, phase := 0 }

/-- A channel of a type that processes its next descriptor now. -/
def chanReady (a : Anat) (w : World) (n type : Nat) : Option Chan :=
  match sget w.chans n with
  | none => none
  | some c =>
    if c.st = 2 ∧ c.type = type ∧ c.head ≠ c.tail ∧ c.res.isNone ∧ c.staged.isNone ∧ unitRuns a w c.die then some c else none

/-! COPY. -/

/-- The nibbles or larger elements of a group moved by q positions (R535). -/
def rotGroup (l : List Nat) (q : Nat) : List Nat :=
  let e := l.length
  (List.range e).map (fun p => l.getD ((p + (e - q % e)) % e) 0)

/-- Elements of `w` bits out of bytes, and back. -/
def eltsOf (w : Nat) (l : List Byte) : List Nat :=
  if w = 4 then (l.map (fun b => [b.toNat % 16, b.toNat / 16])).flatten
  else (List.range (8 * l.length / w)).map (fun i => leNat ((l.drop (i * (w / 8))).take (w / 8)))

def bytesOfElts (w : Nat) (l : List Nat) : List Byte :=
  if w = 4 then (List.range (l.length / 2)).map (fun i => BitVec.ofNat 8 (l.getD (2 * i) 0 + 16 * l.getD (2 * i + 1) 0))
  else (l.map (leBytes (w / 8))).flatten

/-- A row's element bytes in the skewed layout. -/
def skewRow (w e q : Nat) (l : List Byte) : List Byte :=
  let g := e * w / 8
  ((List.range (l.length / g)).map (fun i => bytesOfElts w (rotGroup (eltsOf w ((l.drop (i * g)).take g)) q))).flatten

/-- A COPY descriptor's fields are in their ranges (R534, R535). DEDUCED (log 43). -/
def copyOk (d : List W64) : Bool :=
  let d0 := d.getD 0 0#64
  let d3 := d.getD 3 0#64
  let e := fld d0 16 16
  let w := [4, 8, 16, 32].getD (fld d0 8 2) 4
  decide (fld d0 0 4 = 1) && decide (fld d3 32 32 ≠ 0) && decide (fld d3 0 32 ≠ 0) &&
    (!bit d0 12 || decide (fld (d.getD 6 0#64) 16 7 < 96)) &&
    (!bit d0 4 || (decide (e ≠ 0) && decide (fld d0 32 8 < 128) && decide (e * w % 8 = 0) && decide (fld d3 0 32 % (e * w / 8) = 0)))

/-- Lines written are placed in an engine's cache as deposited data (R341). DEDUCED (log 43). -/
def deposit (w : World) (e : Nat) (t : TlbEntry) (va : W64) (n : Nat) : World :=
  (linePieces va.toNat n).foldl (fun v p =>
    let line := lineOf v (t.ga (va.toNat + p.1))
    if hbmLine line then
      let m : EMiss := ⟨line, 3, t.tcls, t.kdom, false, false, none, 0⟩
      match findLine (v.eng e).ec (ecSet line) line with
      | some _ => v
      | none => ecFill (v.modEng e (fun y => { y with misses := y.misses ++ [m] })) e m
    else v) w

/-- Deposits the lines of a row, page by page. DEDUCED (log 43). -/
def depositRow (e : Nat) (va : W64) (n : Nat) : UM Unit :=
  (linePieces va.toNat n).forM (fun p => do
    let t ← uTrans (va + w64 p.1) .store 0
    modify (fun w => deposit w e t (va + w64 p.1) p.2))

/-- A COPY descriptor. DEDUCED (log 42). -/
def copyBody (c : Chan) : UM ChanRes := do
  let u ← read
  let d ← descRead c
  if !copyOk d then return resStop 1
  let d0 := d.getD 0 0#64
  let rows := fld (d.getD 3 0#64) 32 32
  let rowb := fld (d.getD 3 0#64) 0 32
  let trail := fld (d.getD 6 0#64) 0 16
  let len := rowb + trail
  let w := [4, 8, 16, 32].getD (fld d0 8 2) 4
  let src (r : Nat) : W64 := d.getD 1 0#64 + w64 r * d.getD 4 0#64
  let dst (r : Nat) : W64 := d.getD 2 0#64 + w64 r * d.getD 5 0#64
  let rd : UM (Except UFault (List (List Byte × Bool))) :=
    tryCatch (do return .ok (← (List.range rows).mapM (fun r => uRead (src r) len (r * len)))) (fun e =>
      match e with
      | .wait => throw .wait
      | .fail f => return .error f)
  match ← rd with
  | .error f => do
    modify (fun v => dmaCount v u.die 0 f.off)
    return resFail f 0
  | .ok l => do
    modify (fun v => dmaCount v u.die 0 (rows * len))
    let out := l.mapIdx (fun r x =>
      if bit d0 4 then skewRow w (fld d0 16 16) ((fld d0 32 8 + r) % 128) (x.1.take rowb) ++ x.1.drop rowb else x.1)
    let wr : UM (Option UFault) :=
      tryCatch (do
        let _ ← (out.mapIdx (fun r x => (r, x))).mapM (fun p => uWrite false (dst p.1) p.2 (p.1 * len))
        return none) (fun e =>
          match e with
          | .wait => throw .wait
          | .fail f => return some f)
    match ← wr with
    | some f => do
      modify (fun v => dmaCount v u.die 1 f.off)
      return resFail f f.off
    | none => do
      modify (fun v => dmaCount v u.die 1 (rows * len))
      if bit d0 12 then
        match u.a.physOf (fld (d.getD 6 0#64) 16 7) with
        | some e => (List.range rows).forM (fun r => depositRow e (dst r) len)
        | none => pure ()
      return resDone (l.any (fun x => x.2)) (rows * len) 0#64

/-- A descriptor's program run for its channel. -/
def runDesc (a : Anat) (w : World) (n : Nat) (c : Chan) (act : UM ChanRes) : World :=
  match runUnit (chanEnv a n c) act w with
  | (none, w1) => w1
  | (some (.ok r), w1) => w1.setChan n { c with res := some r }
  | (some (.error f), w1) => w1.setChan n { c with res := some (resFail f 0) }

/-- `COPY_DESCRIPTOR`. -/
def execCopyDescriptor (ch : BitVec 12) (s : State) : Res :=
  toWorld s (
    match chanReady s.anat s.w ch.toNat 1 with
    | none => s.w
    | some c => runDesc s.anat s.w ch.toNat c (copyBody c))

/-! INGEST. -/

/-- A domain's transport slot. -/
def KDom.slot (d : KDom) (i : Nat) : KSlot := sgetD d.slots i KSlot.empty

/-- The slot holds a key of a USE and the domain is granted to the channel's owner (R530, KEY). -/
def keyUsable (w : World) (c : Chan) (use : BitVec 2) : Bool :=
  let sl := (w.ks.get c.kdom.toNat).slot c.slot
  kdGranted w c.kdom c.who && sl.present && decide (sl.use = use)

/-- A header's fields (R536), from its 32 bytes. -/
structure ChunkHdr where
  ver : Nat
  comp : Nat
  slot : Nat
  kdom : Byte
  plen : Nat
  ulen : Nat
  iv : List Byte
deriving DecidableEq, Repr

/-- DEDUCED (log 43). -/
def hdrOf (l : List Byte) : ChunkHdr :=
  let h := leNat (l.take 2)
  { ver := h % 16, comp := h / 16 % 16, slot := h / 256 % 16, kdom := l.getD 2 0#8, plen := leNat ((l.drop 4).take 4)
    ulen := leNat ((l.drop 8).take 4), iv := (l.drop 12).take 12 }

/-- Stages 1 to 3 of R538: the verified chunk, or the status with which the descriptor ends. DEDUCED (log 42). -/
def ingestBody (c : Chan) : UM (Except ChanRes Staged) := do
  let d ← descRead c
  let d0 := d.getD 0 0#64
  let src := d.getD 1 0#64
  let fpAddr := d.getD 3 0#64
  let fp := bit d0 4
  if fld d0 0 4 ≠ 1 ∨ src.toNat % 16 ≠ 0 ∨ (fp ∧ fpAddr.toNat % 32 ≠ 0) then return .error (resStop 1)
  let hb ← uRead src 32 0
  let h := hdrOf hb.1
  if h.ver ≠ 1 ∨ 2 < h.comp then return .error (resStop 1)
  if h.plen = 0 ∨ 262144 < h.plen ∨ h.ulen = 0 ∨ c.bufSize < h.ulen ∨ (h.comp = 0 ∧ h.ulen ≠ h.plen) ∨
      fld (d.getD 2 0#64) 0 32 ≠ h.plen + 48 then return .error (resStop 7)
  let w ← get
  if h.slot ≠ c.slot ∨ h.kdom ≠ c.kdom ∨ !keyUsable w c 1#2 then return .error (resStop 8)
  let body ← uRead (src + 32#64) (h.plen + 16) 32
  let key := ((w.ks.get c.kdom.toNat).slot c.slot).key
  match gcmOpen key h.iv hb.1 (body.1.take h.plen) (body.1.drop h.plen) with
  | none => return .error (resStop 5)
  | some pt => return .ok ⟨h.comp, h.ulen, fp, fpAddr, pt⟩

/-- `INGEST_DESCRIPTOR`: stages 1 to 3. -/
def execIngestDescriptor (ch : BitVec 12) (s : State) : Res :=
  toWorld s (
    let n := ch.toNat
    match chanReady s.anat s.w n 2 with
    | none => s.w
    | some c =>
      match runUnit (chanEnv s.anat n c) (ingestBody c) s.w with
      | (none, w1) => w1
      | (some (.ok (.ok g)), w1) => w1.setChan n { c with staged := some g }
      | (some (.ok (.error r)), w1) => w1.setChan n { c with res := some r }
      | (some (.error f), w1) => w1.setChan n { c with res := some (resFail f 0) })

/-- The output of a chunk, or DECOMP. DEDUCED (log 45). -/
def decompress (g : Staged) : Option (List Byte) :=
  match g.comp with
  | 0 => some g.data
  | 1 => unzstd g.data
  | _ => inflate g.data

/-- Stages 4 to 6 of R538 but the destination entry, which follows once the data is written. -/
def destBody (c : Chan) (g : Staged) : UM ChanRes := do
  let ent := c.word 5 + w64 (16 * (c.dprod.toNat % 2 ^ c.dringLog))
  let buf ← uWord ent 0
  if buf.toNat % 4096 ≠ 0 then return resStop 1
  match decompress g with
  | none => return resStop 6
  | some out =>
    if out.length ≠ g.ulen then return resStop 7
    uWrite false buf out 0
    if g.fp then uWrite false g.fpAddr (sha256 out) 0
    return { resDone false g.ulen (packW [(48, c.dprod.toNat)]) with
      entry := some (ent + 8#64, packW [(48, c.head.toNat), (0, g.ulen)]) }

/-- `INGEST_DEST_TAKE`: the destination ring has room and the chunk is decompressed into its buffer. -/
def execIngestDestTake (ch : BitVec 12) (s : State) : Res :=
  toWorld s (
    let n := ch.toNat
    let c := s.w.chan n
    match c.staged with
    | none => s.w
    | some g =>
      if c.res.isSome || decide (c.st ≠ 2) || !unitRuns s.anat s.w c.die ||
          decide (ringLimit c.dringLog ≤ (c.dprod - c.dcons).toNat) then s.w
      else
        let w1 := runDesc s.anat s.w n c (destBody c g)
        if g.fp && (match (w1.chan n).res with
          | some r => decide (r.status = 0)
          | none => false) then ingCount w1 c.die 5 1 else w1)

/-! EGRESS. -/

/-- An EGRESS descriptor (R541). DEDUCED (log 42). -/
def egressBody (c : Chan) : UM ChanRes := do
  let d ← descRead c
  let d0 := d.getD 0 0#64
  let len := fld (d.getD 2 0#64) 0 32
  let dst := d.getD 3 0#64
  if fld d0 0 4 ≠ 1 ∨ dst.toNat % 16 ≠ 0 then return resStop 1
  if len = 0 ∨ 262144 < len then return resStop 7
  let w ← get
  if !keyUsable w c 2#2 then return resStop 8
  let pt ← uRead (d.getD 1 0#64) len 0
  let w1 ← get
  let dom := w1.ks.get c.kdom.toNat
  let sl := dom.slot c.slot
  if sl.ctr = 0xFFFFFFFFFFFFFFFF#64 then return resStop 8
  set { w1 with ks := { w1.ks with dom := sset w1.ks.dom c.kdom.toNat { dom with slots := sset dom.slots c.slot { sl with ctr := sl.ctr + 1#64 } } } }
  let iv := leBytes 4 sl.salt.toNat ++ leBytes 8 sl.ctr.toNat
  let hdr := leBytes 2 (1 + c.slot * 256) ++ [c.kdom, 0#8] ++ leBytes 4 len ++ leBytes 4 len ++ iv ++ leBytes 8 (d.getD 4 0#64).toNat
  let r := gcmSeal sl.key iv hdr pt.1
  uWrite true dst (hdr ++ r.1 ++ r.2) 0
  return resDone pt.2 (len + 48) sl.ctr

/-- `EGRESS_DESCRIPTOR`. -/
def execEgressDescriptor (ch : BitVec 12) (s : State) : Res :=
  toWorld s (
    match chanReady s.anat s.w ch.toNat 3 with
    | none => s.w
    | some c => runDesc s.anat s.w ch.toNat c (egressBody c))

/-! Completion. -/

/-- A status that stops the channel (R530). -/
def stops (st : Nat) : Bool := decide (st ≠ 0) && decide (st ≠ 10)

/-- The completion record of descriptor HEAD. -/
def Chan.record (c : Chan) (r : ChanRes) : List Byte :=
  let lap := if c.ringLog < 16 then bit c.head c.ringLog else c.clap
  let w0 := packW [(63, (!lap).toNat), (48, r.status), (32, c.head.toNat), (0, r.bytes)]
  let w1 := if stops r.status then packW [(56, r.detail), (0, r.off % 2 ^ 48)] else r.w1
  leBytes 8 w0.toNat ++ leBytes 8 w1.toNat

/-- The first error of the descriptor's writes to other nodes ends it (R499, R530). DEDUCED (log 41). -/
def lateRes (w : World) (n : Nat) (r : ChanRes) : ChanRes × World :=
  match (w.ubuf n).werr with
  | some s =>
    if stops r.status then (r, w)
    else (resFail ⟨3, (statusReport s).toNat, Config.free w.freeCtr % 2 ^ 48⟩ 0, { w with freeCtr := w.freeCtr + 1 })
  | none => (r, w)

/-- The counters of a descriptor's end (R551). DEDUCED (log 44). -/
def endCount (w : World) (c : Chan) (r : ChanRes) : World :=
  let d := c.die
  let ok := !stops r.status
  let w1 := dmaCount w d (if ok then 2 else 3) 1
  let w2 := if ok && decide (c.type = 2) then
      ingCount (ingCount (ingCount w1 d 0 1) d 1 (match c.staged with
        | some g => g.data.length + 48
        | none => 0)) d 2 r.bytes
    else w1
  let w3 := if ok && decide (c.type = 3) then ingCount (ingCount w2 d 6 1) d 7 r.bytes else w2
  let w4 := if r.status = 5 then ingCount w3 d 3 1 else if r.status = 6 then ingCount w3 d 4 1 else w3
  if r.status = 10 then ingCount w4 d 8 1 else w4

/-- HEAD, word 4 and the notification (R524, R531, R532). DEDUCED (log 41). -/
def endDesc (a : Anat) (w : World) (n : Nat) (c : Chan) (r : ChanRes) : World :=
  let head := c.head + 1#16
  let ok := !stops r.status
  let dprod := if ok && r.entry.isSome then c.dprod + 1#16 else c.dprod
  let st := if c.st = 3 ∨ !ok then 3 else if head = c.tail then 1 else 2
  let c1 : Chan := { c with
    head := head, clap := if head = 0#16 then !c.clap else c.clap, dprod := dprod, st := st, last := r.status, staged := none, res := none }
  let w1 := putChan (endCount (clearUbuf w n) c r) n c1
  let w2 := if dprod = c.dprod then w1 else ctStore w1 n 7 (packW [(48, dprod.toNat), (32, c.dcons.toNat)])
  let w3 := if bit (c.word 0) 8 then msixSend w2 c.who.fn (fld (c.word 3) 32 11) else w2
  if bit (c.word 0) 9 then irqLogical a w3 (fld (c.word 3) 0 7) 6 else w3

/-- The steps of R532, each once the writes before it have been answered. -/
def endSteps (a : Anat) (n : Nat) (c : Chan) : Nat → ChanRes → World → World
  | 0, _, w => w
  | f + 1, r0, w =>
    if unitWrites w n then w.setChan n { c with res := some r0 }
    else
      let p := lateRes w n r0
      let r := p.1
      let env := chanEnv a n c
      if r.phase = 0 then
        match (if stops r.status then none else r.entry) with
        | none => endSteps a n c f { r with phase := 1 } p.2
        | some e =>
          match runUnit env (uWrite true e.1 (leBytes 8 e.2.toNat) 0) p.2 with
          | (none, w1) => w1
          | (some (.ok _), w1) => endSteps a n c f { r with phase := 1 } w1
          | (some (.error g), w1) => endSteps a n c f { resFail g 0 with phase := 1 } w1
      else if r.phase = 1 then
        let va := c.word 2 + w64 (16 * (c.head.toNat % 2 ^ c.ringLog))
        match runUnit env (uWrite true va (c.record r) 0) p.2 with
        | (none, w1) => w1
        | (some _, w1) => endSteps a n c f { r with phase := 2 } w1
      else endDesc a w n c r0

/-- `DESCRIPTOR_COMPLETION`. -/
def execDescriptorCompletion (ch : BitVec 12) (s : State) : Res :=
  toWorld s (
    let n := ch.toNat
    let c := s.w.chan n
    match c.res with
    | none => s.w
    | some r => if unitRuns s.anat s.w c.die then endSteps s.anat n c 4 r s.w else s.w)

/-! Interruption. -/

/-- A channel's current descriptor ends with ABORTED and the channel stops (R520, R568, R569). DEDUCED (log 41). -/
def abortChan (w : World) (n : Nat) : World :=
  let c := w.chan n
  if c.st = 2 then
    let keep := match c.res with
      | some r => decide (r.phase = 2)
      | none => false
    putChan w n { c with st := 3, staged := none, res := if keep then c.res else some (resStop 11) }
  else if c.st = 1 then putChan w n { c with st := 3 }
  else w

/-- Every loaded channel that meets a test is aborted. -/
def abortChans (w : World) (p : Nat → Chan → Bool) : World :=
  w.chans.foldl (fun v x => if p x.1 x.2 then abortChan v x.1 else v) w

/-- The channels of a lost die stop, and staged chunks are dropped (R524, R550). -/
def chansDieLost (a : Anat) (w : World) (d : Nat) : World :=
  w.chans.foldl (fun v x =>
    if x.2.die = d ∧ x.2.st ≠ 0 then
      let c : Chan := { x.2 with st := 3, last := 11, staged := none, res := none }
      let v1 := clearUbuf (v.setChan x.1 c) x.1
      if (hbmStatus a v1 (v1.places.ctBase + 128 * x.1 + 32)).isNone then ctStore v1 x.1 4 c.word4 else v1
    else v) { w with ccache := sdel w.ccache d }

end Sys2Proof.Machine
end

