-- ==== Sys2Proof/Machine/Keystone.lean ====
section
/-!
DEFINITION. Keystone and the key-handle instructions (R514 to R520).
-/

namespace Sys2Proof.Machine

def World.setDom (w : World) (k : Nat) (d : KDom) : World := { w with ks := { w.ks with dom := sset w.ks.dom k d } }

/-- Keystone writes a domain's STATE into its entry of the key-domain table (R509). -/
def kdtState (w : World) (k st : Nat) : World :=
  let off := w.places.kdtBase + 64 * k
  storeWord w 0#8 .whole off (setFld (rdWord w.mem w.ks 0#8 off) 4 3 st)

/-- A change of a domain's state in Keystone. -/
def setDomState (w : World) (k st : Nat) : World := kdtState (w.setDom k { w.ks.get k with state := st }) k st

/-- A channel's descriptor uses a domain (R520 step 2). -/
def chanTouches (w : World) (k : Byte) (n : Nat) (c : Chan) : Bool :=
  decide (c.kdom = k) || (w.ubuf n).doms.contains k

/-- Steps 1 and 2 of R520. DEDUCED (log 46). -/
def eraseStart (w : World) (e : Nat) (k : Byte) (renew : Bool) : World :=
  let w1 := setDomState { w with ks := { w.ks with erasing := some ⟨k, e, renew⟩ } } k.toNat 2
  abortChans w1 (fun n c => chanTouches w k n c)

/-- A destroyed slot: its generation has advanced (R515). DEDUCED (log 46). -/
def KSlot.destroy (s : KSlot) : KSlot := { KSlot.empty with gen := s.gen + 1#32 }

/-- The 15 transport slots destroyed. -/
def KDom.destroy (d : KDom) : KDom :=
  { d with
    gen := d.gen + 1, slots := (List.range 15).map (fun i => (i + 1, (d.slot (i + 1)).destroy)), imp := none, lastCtr := none }

/-- Steps 3 to 5 of R520. DEDUCED (log 46). -/
def eraseEnd (w : World) (x : Erase) : World :=
  let w1 := dropDomain w x.dom
  let d := w1.ks.get x.dom.toNat
  let d1 := if x.renew then d.destroy else { d.destroy with imp := d.imp, lastCtr := d.lastCtr }
  let w2 := w1.setDom x.dom.toNat d1
  setDomState { w2 with ks := { w2.ks with erasing := none } } x.dom.toNat (if x.renew then 1 else 0)

/-- Keystone is busy for this engine: an erase that another engine asked for is under way and has not ended yet. When
it ends is a matter of time, which nothing fixes. -/
def ksBusy : EM Bool := do
  let env ← read
  let w ← get
  if !w.ks.ready then return true
  match w.ks.erasing with
  | none => return false
  | some x =>
    if x.e = env.e then return false
    else do
      let n ← freshM
      if Config.free n % 2 = 0 then return true
      else do
        modify (fun v => eraseEnd v x)
        return false

/-- The checks that every key-handle instruction makes, in its function code's turn (R516). -/
def ksFields (o : YOp) (fn : BitVec 12) : EM Unit := do
  need (decide (o.opf = 0#11) && decide (o.fn = fn))
  let c ← getC
  need (decide (c.pl = 0#2))
  modE (fun x => x.commitAll)

/-- `kdreset` and `kdfree`: the first issue starts the erase, and the instruction issues again until it has ended. -/
def kdErase (fn : BitVec 12) (renew : Bool) (e : Fin 104) (o : YOp) (s : State) : Res :=
  seqInstr 0 4 64 e (do
    ksFields o fn
    let k := (← useAcc .sub).extractLsb' 0 8
    let busy ← ksBusy
    let w ← get
    match w.ks.erasing with
    | some x =>
      if busy then setAcc 7#64 1#4
      else do
        set (eraseEnd w x)
        setAcc 0#64 1#4
    | none =>
      if busy then setAcc 7#64 1#4
      else if k = 0#8 then setAcc 1#64 1#4
      else do
        set (eraseStart w e.val k renew)
        throw .wait) s

def execKdreset (e : Fin 104) (o : YOp) (s : State) : Res := kdErase 0#12 true e o s
def execKdfree (e : Fin 104) (o : YOp) (s : State) : Res := kdErase 4#12 false e o s

/-- A handle (R515). -/
def handleOf (k : Byte) (slot : Nat) (use : BitVec 2) (gen : BitVec 32) : W64 :=
  packW [(60, 1), (52, k.toNat), (48, slot), (46, use.toNat), (0, gen.toNat)]

/-- The status of a blob (R517, R518), or the domain, slot number and slot to import it into with its COUNTER.
DEDUCED (log 46). -/
def blobCheck (w : World) (b : List Byte) : Except Nat (Nat × Nat × KSlot × W64) :=
  let h := leNat (b.take 2)
  let k := leNat ((b.drop 2).take 1)
  let use := h / 16 % 16
  let slot := h / 256 % 16
  let ctr := w64 (leNat ((b.drop 4).take 8))
  let d := w.ks.get k
  if h % 16 ≠ 1 ∨ (use ≠ 1 ∧ use ≠ 2) ∨ slot = 0 then .error 2
  else if k = 0 ∨ d.state ≠ 1 then .error 1
  else
    match d.imp with
    | none => .error 6
    | some ik =>
      match gcmOpen ik (b.take 12) (b.take 16) ((b.drop 16).take 32) ((b.drop 48).take 16) with
      | none => .error 3
      | some pt =>
        if (match d.lastCtr with
          | some c => decide (ctr.toNat ≤ c.toNat)
          | none => false) then .error 4
        else
          let old := d.slot slot
          .ok (k, slot, { present := true, use := BitVec.ofNat 2 use, salt := 0#32, ctr := 0#64
                          gen := if old.present then old.gen + 1#32 else old.gen, key := leNat pt }, ctr)

/-- The 64 bytes of a key blob, which is 64-byte aligned (R517); a KEYH word of it is read as it stands (R65).
DEDUCED (log 46). -/
def readBlob (va : W64) : EM (List Byte) := do
  if va.toNat % 64 ≠ 0 then alignFault va
  let ps ← (List.range 8).mapM (fun i => do
    let a := va + w64 (8 * i)
    let t ← translate a .load
    let l ← loadVia t a 8 ⟨0, false, false, false⟩
    return l.bytes)
  return ps.flatten

/-- `khload`. -/
def execKhload (e : Fin 104) (o : YOp) (s : State) : Res :=
  seqInstr 0 4 400 e (do
    ksFields o 1#12
    let c ← getC
    checkTag .addr c.ix0.t 0#64
    checkTag .addr c.ix1.t 0#64
    let b ← readBlob c.ix0.v
    if (← ksBusy) then setAcc 7#64 1#4
    else do
      let w ← get
      match blobCheck w b with
      | .error st => setAcc (w64 st) 1#4
      | .ok (k, slot, sl, ctr) => do
        storeMemE c.ix1.v 8 (handleOf (BitVec.ofNat 8 k) slot sl.use sl.gen) 5#4 false
        let u ← freshM
        modify (fun v =>
          let d := v.ks.get k
          v.setDom k { d with lastCtr := some ctr, slots := sset d.slots slot { sl with salt := BitVec.ofNat 32 (Config.free u) } })
        setAcc 0#64 1#4) s

/-- The handle at [`IX0`], which must be tagged KEYH. -/
def handleWord : EM W64 := do
  let c ← getC
  checkTag .addr c.ix0.t 0#64
  let l ← loadMem c.ix0.v 8 scalarLoad
  if l.tag ≠ 5#4 then tagFault c.ix0.v
  return w64 (leNat l.bytes)

/-- A handle's status (R516, R518): none for a well-formed handle of an ACTIVE domain. DEDUCED (log 46). -/
def handleStatus (w : World) (h : W64) : Option Nat :=
  if fld h 60 4 ≠ 1 ∨ fld h 48 4 = 0 ∨ fld h 46 2 = 0 ∨ fld h 46 2 = 3 ∨ fld h 32 14 ≠ 0 then some 2
  else if fld h 52 8 = 0 ∨ (w.ks.get (fld h 52 8)).state ≠ 1 then some 1
  else none

/-- The slot a handle names. -/
def handleSlot (w : World) (h : W64) : KSlot := (w.ks.get (fld h 52 8)).slot (fld h 48 4)

/-- A handle is current (R515, R516). -/
def handleCurrent (w : World) (h : W64) : Bool :=
  let s := handleSlot w h
  s.present && decide (s.use.toNat = fld h 46 2) && decide (s.gen.toNat = fld h 0 32)

/-- `khdrop`. -/
def execKhdrop (e : Fin 104) (o : YOp) (s : State) : Res :=
  seqInstr 0 4 64 e (do
    ksFields o 2#12
    let h ← handleWord
    if (← ksBusy) then setAcc 7#64 1#4
    else do
      let w ← get
      match handleStatus w h with
      | some st => setAcc (w64 st) 1#4
      | none =>
        if handleCurrent w h then do
          let k := fld h 52 8
          let d := w.ks.get k
          set (w.setDom k { d with slots := sset d.slots (fld h 48 4) (d.slot (fld h 48 4)).destroy })
          setAcc 0#64 1#4
        else setAcc 5#64 1#4) s

/-- `khinfo`. -/
def execKhinfo (e : Fin 104) (o : YOp) (s : State) : Res :=
  seqInstr 0 4 32 e (do
    ksFields o 3#12
    let h ← handleWord
    if (← ksBusy) then setAcc 7#64 1#4
    else do
      let w ← get
      match handleStatus w h with
      | some st => setAcc (w64 st) 1#4
      | none => setAcc (setFld h 0 32 (handleCurrent w h).toNat) 1#4) s

end Sys2Proof.Machine
end

