-- ==== Sys2Proof/Machine/Tasks.lean ====
section
/-!
DEFINITION. Task control and messages (R544 to R549): starting a task (R57, R158, R212, R243, R263, R286, R306,
R409, R424), completing it, doorbells from engines, messages between engines.
-/

namespace Sys2Proof.Machine

/-- The levels and fields of a task-control instruction (R546). -/
def taskFields (o : YOp) (fn : BitVec 12) (taskOk : Bool) : EM Unit := do
  need (decide (o.opf = 0#11) && decide (o.fn = fn))
  let c ← getC
  need (taskOk || decide (c.pl ≠ 2#2))

/-- A status in `ACC`. -/
def status (n : Nat) : EM Unit := setAcc (w64 n) 1#4

/-! Task start. -/

/-- `ENG_TENANT` as last written (R424). -/
def tenantReg (w : World) (e : Nat) : W64 := w.reg (engBase e + 0x810) 0x100#64

def tenantOf (v : W64) : Tenant := ⟨bit v 8, fld v 0 6⟩

/-- System registers that take their reset value at task start, and counters that become zero. -/
def startClears (n : Nat) : Bool :=
  (decide (0x100 ≤ n) && decide (n ≤ 0x104)) || (decide (0x140 ≤ n) && decide (n ≤ 0x143)) ||
    (decide (0x180 ≤ n) && decide (n ≤ 0x1BF))

def startCounters (n : Nat) : Bool :=
  decide (n = 0x11) || (decide (0x144 ≤ n) && decide (n ≤ 0x147)) || (decide (0x19C ≤ n) && decide (n ≤ 0x19F)) ||
    decide (n = 0x1A6) || decide (n = 0x221)

/-- The core at task start: registers, flags, vector and tile state cleared (R57, R158, R212, R263, R286, R306). -/
def Core.start (c : Core) : Core :=
  { c with
    acc := TWord.zero, ix0 := TWord.zero, ix1 := TWord.zero, prl := TWord.zero, prh := TWord.zero, pend := [], instret := 0#64
    st := setFld c.st 0 4 0, sys := c.sys.filter (fun p => !startClears p.1), v := [], m := [], tf := TileFile.reset }

/-- The engine at task start: its counters, the lease and `ENG_TENANT` as last written, no speculation. -/
def Engine.start (x : Engine) (lease : Bool) (tenant : W64) : Engine :=
  let y := x.discardSpec
  { y with core := y.core.start, ctrs := y.ctrs.filter (fun p => !startCounters p.1), leased := lease, tenant := tenant }

/-- TASK_ENTRY (R547 step 3). -/
def taskEvent (c : Core) : Event :=
  { code := 0x0C#8, intr := false, asyn := false, sub := 0#8, unit := 0, info := 0#16, faddr := 0#64, tileInfo := 0#64
    src := c.pl, tgt := trapTarget c 0x0C#8 false }

/-- A task starts on an engine from its descriptor at `va` (R547). DEDUCED (log 47). -/
def taskStart (a : Anat) (w : World) (e l : Nat) (d : List W64) (va : W64) (ctx : Nat) : World :=
  let x := w.eng e
  let tn := tenantReg w e
  let q := w.log l
  let msgs := if tn = x.tenant then q.msgs else []
  let w1 := w.modLog l (fun y => { y with
    head := y.head + 1#16, task := some ⟨va, d.getD 4 0#64, d.getD 5 0#64, ctx⟩, msgs := msgs })
  let y := x.start (leaseNext w e) tn
  let ev := taskEvent x.core
  let frame : Core := { (y.core.sysSet 0x300 (w64 ctx)) with spTask := d.getD 2 0#64, pc := d.getD 1 0#64, st := 0x200#64 }
  let w2 := (w1.setEng e { y with core := frame }).modGath (e / 26) (fun g => { g with out := g.out.filter (fun z => decide (z ≠ e)) })
  let w3 := enterEvent a w2 e ev (lateChoice w2)
  if (w3.eng e).locked.isSome then w3 else w3.modEng e (fun z => { z with core := { z.core with acc := ⟨va, 3#4⟩ } })

/-- An access of the engine through a context and tenant other than its own, at level 1's permissions (R547, R548).
DEDUCED (log 47). -/
def viaCtx {α : Type} (ctx : Nat) (tn : W64) (act : EM α) : EM α := do
  let x ← getE
  let back : EM Unit := modE (fun y => { y with
    tenant := x.tenant, core := { (y.core.sysSet 0x300 (x.core.sysGet 0x300)) with st := setFld y.core.st 8 2 x.core.pl.toNat } })
  modE (fun y => { y with tenant := tn, core := { (y.core.sysSet 0x300 (w64 ctx)) with st := setFld y.core.st 8 2 1 } })
  let r ← tryCatch act (fun z => do
    back
    throw z)
  back
  return r

/-- What `tnext` does, and whether it started a task. DEDUCED (log 107). -/
def tnextBody (o : YOp) : EM Bool := do
  taskFields o 0#12 false
  modE (fun x => x.commitAll)
  let env ← read
  let w ← get
  match env.anat.logicalOf env.e with
  | none => do
    status 1
    return false
  | some l =>
    let q := w.log l
    let ctx := fld q.cfg 48 16
    let tn := tenantReg w env.e
    if q.head = q.tail then do
      status 1
      return false
    else
      match ctxMatch env.anat w ctx (tenantOf tn) with
      | .error _ => do
        status 3
        return false
      | .ok _ => do
        let va := q.base + w64 (64 * (q.head.toNat % 2 ^ fld q.cfg 0 5))
        if va.toNat % 64 ≠ 0 then alignFault va
        let r ← viaCtx ctx tn (readWords ⟨0, false, false, false⟩ va 64)
        let d := (List.range 8).map (wordAt r.1)
        if fld (d.getD 0 0#64) 0 4 ≠ 1 then do
          modify (fun v => v.modLog l (fun y => { y with head := y.head + 1#16 }))
          status 2
          return false
        else do
          modify (fun v => taskStart env.anat v env.e l d va ctx)
          return true

/-- A new task counts its own instructions and cycles only (R103). -/
def Engine.freshCounts (x : Engine) : Engine :=
  { x with core := { x.core with instret := 0#64 }, ctrs := sdel x.ctrs 0x11 }

/-- `tnext`. -/
def execTnext (e : Fin 104) (o : YOp) (s : State) : Res :=
  toWorld s (
   (runWith 0 4 8 e (tnextBody o) (fun started c => if started then c.pc else c.pc + 4#64)
      (fun started _ x => if started then x.freshCounts else x) s.anat s.w))

/-! Completion of a task. -/

/-- The end of `tdone`: the vector when the write succeeded, and no current task. DEDUCED (log 47). -/
def tdoneEnd (w : World) (l : Nat) (ok : Bool) : World :=
  let q := w.log l
  let w1 := w.modLog l (fun y => { y with task := none })
  match q.task with
  | none => w1
  | some t =>
    let fn : Nat := if bit q.cfg 23 then 0 else 1 + fld q.cfg 24 6
    if ok && bit t.vector 12 then msixSend w1 fn (fld t.vector 0 11) else w1

/-- The completion word's write: whether it succeeded, or none when its response is awaited. DEDUCED (log 47). -/
def doneWrite (va : W64) (v : W64) : EM (Option Bool) := do
  if fld va 0 3 ≠ 0 then return some false
  let t ← translate va .store
  let env ← read
  let w ← get
  if t.se then return some false
  let ga := t.ga va.toNat
  match placeOf w ga with
  | .reserved | .regs _ => return some false
  | .hbm off =>
    if (hbmStatus env.anat w off).isSome then return some false
    let tg := t.tagged w
    let old := tagAt w.mem w.ks w.places off
    if tg && (decide (old = 5#4) || decide (old = 6#4) || decide (old = 7#4)) then return some false
    set (engCommit w env.e 0 t.tcls t.kdom (if tg then .raw else .whole) (atOff off (offsets (leBytes 8 v.toNat))))
    return some true
  | .host iova => do
    if !w.pcieUp then return some false
    let q := (env.anat.logicalOf env.e).map (fun l => (w.log l).cfg)
    let fn : Nat := match q with
      | some c => if bit c 23 then 0 else 1 + fld c 24 6
      | none => 0
    set (w.emit (.hostWrite fn iova none (leBytes 8 v.toNat)))
    return some true
  | .remote => do
    let x := { txnOf 2 t.kdom (fld ga 48 12) (fld ga 0 48) 8 with data := leBytes 8 v.toNat }
    match sendTxn w (env.e / 26) x (.msg env.e) with
    | (.error _, w1) => do
      set w1
      return some false
    | (.ok _, w1) => do
      set w1
      return none

/-- `tdone`. -/
def execTdone (e : Fin 104) (o : YOp) (s : State) : Res :=
  seqInstr 0 4 4 e (do
    taskFields o 1#12 false
    let v ← useAcc .sub
    modE (fun x => x.commitAll)
    let env ← read
    let w ← get
    match env.anat.logicalOf env.e with
    | none => status 1
    | some l =>
      let q := w.log l
      match q.task with
      | none => status 1
      | some t => do
        let word := packW [(63, 1), (48, fld v 0 8), (40, l), (0, fld w.time 0 40)]
        let ok ← tryCatch (viaCtx (fld q.cfg 48 16) (w.eng env.e).tenant (doneWrite t.doneAddr word)) (fun z =>
          match z with
          | .trap _ => return some false
          | y => throw y)
        match ok with
        | none => do
          modE (fun x => { x with wait := .reply true })
          throw .wait
        | some b => do
          modify (fun u => tdoneEnd u l b)
          status (if b then 0 else 2)) s

/-! Doorbells from engines. -/

/-- `dbell`. DEDUCED (log 40). -/
def execDbell (e : Fin 104) (o : YOp) (s : State) : Res :=
  seqInstr 0 4 4 e (do
    taskFields o 2#12 false
    let v ← useAcc .sub
    let c ← getC
    checkTag .sub c.ix0.t 0#64
    modE (fun x => x.commitAll)
    let env ← read
    let x ← getE
    let w ← get
    let cmd := fld v 16 3
    let target := fld c.ix0.v 0 12
    let val : BitVec 16 := v.extractLsb' 0 16
    if bit c.ix0.v 12 then do
      let r := if 5 ≤ cmd then (6, w) else if 1 ≤ cmd then (5, w) else taskBell env.anat w x.who false target val
      set (bellEnd x.who.fn 1 target r)
      status r.1
    else
      match chanBell env.anat w x.who false cmd target val with
      | none => throw .wait
      | some r => do
        set (bellEnd x.who.fn 0 target r)
        status r.1) s

/-! Messages. -/

/-- A message reaches a logical engine of this module (R549): its status. -/
def deliverMsg (a : Anat) (w : World) (l : Nat) (m : Msg) : Nat × World :=
  match a.physOf l with
  | none => (3, w)
  | some p =>
    if !kdGranted w m.kdom (w.eng p).who then (2, w)
    else if 16 ≤ (w.log l).msgs.length then (1, w)
    else (0, (w.modLog l (fun q => { q with msgs := q.msgs ++ [m] })).raiseIrq p 7)

/-- `msend`. -/
def execMsend (e : Fin 104) (o : YOp) (s : State) : Res :=
  seqInstr 0 4 4 e (do
    taskFields o 3#12 true
    let v ← useAcc .sub
    let c ← getC
    checkTag .addr c.ix0.t 0#64
    let va := c.ix0.v
    if va.toNat % 64 ≠ 0 then alignFault va
    parkIf 5 va
    modE (fun x => x.commitAll)
    let t ← translate va .load
    let b ← readWords ⟨0, false, false, false⟩ va 64
    let env ← read
    let w ← get
    let me := w.nodeId.getD 0
    let src : Nat := (env.anat.logicalOf env.e).getD 0x7F
    let m : Msg := { node := BitVec.ofNat 12 me, kdom := t.kdom, src := BitVec.ofNat 7 src, body := b.1 }
    if bit v 24 && decide (fld v 12 12 ≠ me) then
      let x := { txnOf 6 t.kdom (fld v 12 12) (fld v 0 7) 64 with data := b.1, aop := src }
      match sendTxn w (env.e / 26) x (.msg env.e) with
      | (.error st, w1) => do
        set w1
        status (if st = 4#8 then 4 else 2)
      | (.ok _, w1) => do
        set (w1.modEng env.e (fun y => { y with wait := .reply false }))
        throw .wait
    else do
      let r := deliverMsg env.anat w (fld v 0 7) m
      set r.2
      status r.1) s

/-- The status that a response gives `msend` (R494, R549). DEDUCED (logs 37, 48). -/
def msendStatus (st : Byte) : Nat :=
  match st.toNat with
  | 0 => 0
  | 9 => 1
  | 7 => 2
  | 2 => 3
  | _ => 4

/-- The response of a message or completion word that an engine waits for. -/
def replyArrives (a : Anat) (w : World) (e : Nat) (st : Byte) : World :=
  match (w.eng e).wait with
  | .reply done =>
    let w0 := match done, a.logicalOf e with
      | true, some l => tdoneEnd w l (decide (st = 0#8))
      | _, _ => w
    let n := if done then (if st = 0#8 then 0 else 2) else msendStatus st
    let w1 := w0.modEng e (fun x =>
      let c := x.core
      ({ x with wait := .none, core := { c with acc := ⟨w64 n, 1#4⟩, pc := c.pc + 4#64, seq := c.seq + 1 } }).retire 4 w.freeCtr)
    takeHeldChecks a { w1 with freeCtr := w1.freeCtr + 1 } e
  | _ => w

/-- `mrecv`: the words of the body replace what they cover. DEDUCED (log 106). -/
def execMrecv (e : Fin 104) (o : YOp) (s : State) : Res :=
  seqInstr 0 4 4 e (do
    taskFields o 4#12 false
    let c ← getC
    checkTag .addr c.ix0.t 0#64
    modE (fun x => x.commitAll)
    let env ← read
    let w ← get
    let l := (env.anat.logicalOf env.e).getD 96
    match (w.log l).msgs with
    | [] => setAcc 0x8000000000000000#64 1#4
    | m :: r => do
      let va := c.ix0.v
      if va.toNat % 64 ≠ 0 then alignFault va
      let p ← placePiece false va m.body
      if (← getE).sbRoom = 0 then throw .wait
      retirePieces 0 [p]
      modify (fun v => v.modLog l (fun q => { q with msgs := r }))
      setAcc (packW [(36, m.node.toNat), (28, m.kdom.toNat), (16, m.src.toNat)]) 1#4) s

end Sys2Proof.Machine
end

