-- ==== Sys2Proof/Machine/Tail.lean ====
section
/-!
DEFINITION. Tail (R645 to R659): step marks, arming a snapshot, copies, commit, abandonment, BASE, RESTORE.
-/

namespace Sys2Proof.Machine

/-! The job. -/

/-- Logical engine l is listed in a slot. -/
def tailHas (w : World) (j l : Nat) : Bool :=
  if l < 64 then bit (w.reg (tailBase j + 8) 0#64) l else bit (w.reg (tailBase j + 16) 0#64) (l - 64)

/-- The slot a logical engine belongs to: the lowest that lists it (R645). -/
def tailSlotFor (w : World) (l : Nat) : Option Nat := (List.range 8).find? (fun j => tailHas w j l)

/-- The others that list it show CFG_ERR. -/
def tailClash (w : World) (l j : Nat) : World :=
  (List.range 8).foldl (fun v i => if i ≠ j && tailHas v i l then tailEvent v i 2 else v) w

/-- The bound logical engines of the job. -/
def tailEngines (a : Anat) (w : World) (j : Nat) : List Nat :=
  (List.range 96).filter (fun l => decide (tailSlotFor w l = some j) && (a.physOf l).isSome)

/-- K, at least 1 (R646). -/
def tailK (w : World) (j : Nat) : Nat := max 1 (fld (tailCtl w j) 16 16)

/-- A step is due (R650 step 5): K steps after the last commit, or TBOUND after it. `TIME` counts 10 ns. -/
def stepDue (w : World) (j : Nat) (s : W64) : Bool :=
  let t := w.tail j
  let tb := fld (tailCtl w j) 48 16
  decide (tailK w j ≤ (s - t.step).toNat) || (decide (tb ≠ 0) && decide (t.last.toNat + tb * 10000000 ≤ w.time.toNat)) || t.owed

/-! `stepmark`. -/

/-- Step 4: the engine's record. -/
def markOf (c : Core) (s p : W64) : TailMark :=
  { s := s, p := p, seed := c.sysGet 0x1BD, ctr := c.sysGet 0x1BF, amax := [0x194, 0x195, 0x196, 0x197].map c.sysGet }

/-- Steps 5 to 8 for a step that logical engine l marks first or after others: the world, and whether it waits. -/
def tailStep (w : World) (j : Nat) (s : W64) : World × Bool :=
  let t := w.tail j
  let verdict := t.due.find? (fun x => decide (x.1 = s))
  let due := match verdict with
    | some x => x.2
    | none => stepDue w j s
  let w1 := if verdict.isSome then w else w.modTail j (fun u => { u with due := ((s, due) :: u.due).take 64, owed := if due then false else u.owed })
  if !due then (w1, false)
  else if t.now = some s ∧ t.state = 1 then (w1, true)
  else if t.next = some s then (w1, true)
  else
    match t.state with
    | 0 => (w1.modTail j (fun u => { u with state := 1, now := some s, since := w.time }), true)
    | 1 | 2 | 3 =>
      if bit (tailCtl w j) 1 then (w1.modTail j (fun u => { u with next := if u.next.isNone then some s else u.next }), true)
      else
        let w2 := if verdict.isSome then w1 else tailEvent (w1.modTail j (fun u => { u with owed := true })) j 4
        (w2, false)
    | _ => (w1, false)

/-- `stepmark` (R650). -/
def execStepmark (e : Fin 104) (o : YOp) (s : State) : Res :=
  seqInstr 0 4 4 e (do
    need (decide (o.opf = 0#11) && decide (o.fn = 0#12))
    let st ← useAcc .sub
    let c ← getC
    checkTag .sub c.ix0.t 0#64
    parkIf 5 0#64
    modE (fun x => x.commitAll)
    modC (fun k => (k.sysSet 0x1BE st).sysSet 0x1BF (setFld (k.sysGet 0x1BF) 0 52 0))
    let env ← read
    let w ← get
    match env.anat.logicalOf env.e with
    | none => status 1
    | some l =>
      match tailSlotFor w l with
      | none => status 1
      | some j => do
        set (tailClash w l j)
        if !bit (tailCtl w j) 0 then status 1
        else if sget (w.tail j).marks l = some st then status 0
        else do
          modify (fun v => v.modTail j (fun t => { t with marks := sset t.marks l st, recs := sset t.recs l (markOf c st c.ix0.v) }))
          let r := tailStep (← get) j st
          set r.1
          if r.2 then do
            modE (fun x => { x with wait := .mark j })
            throw .wait
          else status 0) s

/-! Abandonment (R657). -/

/-- The image's page list joins the log again: the entries of the current half follow those of the list half. -/
def mergeLog (w : World) (j : Nat) : World :=
  let t := w.tail j
  let w1 := w.modTail j (fun u => { u with half := !t.half, used := t.list, list := 0 })
  (List.range t.used).foldl (fun v i =>
    let o := logEntry w j t.half i
    if (v.tail j).state = 5 then v
    else logPut v j (rdWord w.mem w.ks 0#8 o) (rdWord w.mem w.ks 0#8 (o + 8))) w1

/-- The jobs' unit number of a slot's replica. -/
def tailRef (j k : Nat) : Nat := 5010 + 2 * j + k

/-- A step that waited for the end of the snapshot begins its marking. -/
def tailNext (w : World) (j : Nat) : World :=
  w.modTail j (fun t =>
    match t.next with
    | some s => if t.state = 0 then { t with state := 1, now := some s, next := none, since := w.time } else t
    | none => t)

/-- A snapshot is abandoned with a reason. DEDUCED (log 50). -/
def abandonTail (w : World) (j reason : Nat) : World :=
  let t := w.tail j
  let armed := decide (t.state = 2) || decide (t.state = 3)
  let w1 := w.modTail j (fun u => { u with state := 0, reason := reason, now := none, reps := [], grans := [], done := 0 })
  let w2 := if armed then mergeLog w1 j else w1
  let w3 := releaseMarks (clearUbuf (clearUbuf w2 (tailRef j 0)) (tailRef j 1)) j
  tailNext (tailCount (tailEvent w3 j 1) j 1 1) j

/-! Destinations. -/

/-- A replica's channel entry, where TAIL_CHAN marks it valid (R646, R648). -/
def tailChan (w : World) (j k : Nat) : Option Nat :=
  let c := w.reg (tailBase j + 0x20) 0#64
  if bit c (16 * k + 12) then some (fld c (16 * k) 12) else none

/-- The channel as Tail uses it; its entry must be a well-formed SNAPSHOT entry. -/
def tailEntry (w : World) (ch : Nat) : Chan := { Chan.off with words := ctWords w ch }

def tailEntryOk (a : Anat) (w : World) (ch : Nat) : Bool :=
  let c := tailEntry w ch
  decide (fld (c.word 0) 0 4 = 1) && decide (c.type = 4) && dieRuns a (26 * c.die) && w.eclk

/-- For whom Tail writes a replica (R342, R526). -/
def tailEnv (a : Anat) (w : World) (j k ch : Nat) : UnitEnv :=
  let c := tailEntry w ch
  { chanEnv a (tailRef j k) c with cls := 5, part := fld (w.reg (dcBase c.die + 8) 0#64) 0 4 }

/-- Bytes of an image written at their offset in one replica. -/
def repWrite (j k : Nat) (a : Anat) (off : Nat) (l : List Byte) (w : World) : World × Bool :=
  match ((w.tail j).reps)[k]? with
  | none => (w, true)
  | some r =>
    let va := ctWord w r.ch 8 + w64 (r.start + off)
    match runUnit (tailEnv a w j k r.ch) (uWrite false va l 0) w with
    | (some (.ok _), w1) =>
      (w1.modTail j (fun t => { t with reps := lmod t.reps k (fun x => { x with bytes := (off, l) :: x.bytes }) }), true)
    | (some (.error _), w1) => (w1, false)
    | (none, w1) => (w1, true)

/-- The same bytes in every replica; a write that fails abandons the snapshot (R657, reason 3). -/
def imgWrite (a : Anat) (j off : Nat) (l : List Byte) (w : World) : World :=
  (List.range (w.tail j).reps.length).foldl (fun v k =>
    if (v.tail j).state = 3 then
      let r := repWrite j k a off l v
      if r.2 then r.1 else abandonTail r.1 j 3
    else v) w

def words (l : List W64) : List Byte := (l.map (fun x => leBytes 8 x.toNat)).flatten

/-! Arming (R652). -/

/-- A page or region to copy: the two header words, the granules with their domains, and the leaf whose SDIRTY is cleared. -/
structure TailPage where
  h0 : W64
  h1 : W64
  bytes : Nat
  grans : List (Nat × Byte)
  leaf : Option TlbEntry
deriving DecidableEq, Repr

/-- The key domain of a context's tables. -/
def ctxTables (w : World) (ctx : Nat) : Byte := (rdWord w.mem w.ks 0#8 (ctxEnt w ctx)).extractLsb' 16 8

/-- The leaf that a log entry names. DEDUCED (log 50). -/
def logLeaf (w : World) (a b : W64) : TlbEntry :=
  let ent := fld b 4 44 * 16
  let tk := ctxTables w (fld b 48 16)
  let size := match fld a 0 2 with
    | 0 => 12
    | 1 => 16
    | 2 => 21
    | _ => 30
  { ctx := fld b 48 16, va := fld a 12 45 * 4096, size := size, lvl := 0, w0 := rdWord w.mem w.ks tk ent
    w1 := rdWord w.mem w.ks tk (ent + 8), ent := ent, tkdom := tk }

/-- The page of an entry of the list; one whose leaf is gone, or whose domain belongs to another owner, is left out. -/
def listPage (w : World) (who : Tenant) (a b : W64) : Option TailPage :=
  let t := logLeaf w a b
  match t.frameOff w with
  | some o =>
    if bit t.w0 0 && bit t.w0 5 && decide (region o = .hbm) && kdGranted w t.kdom who then
      some { h0 := a, h1 := packW [(48, t.ctx), (0, t.kdom.toNat)], bytes := 2 ^ t.size
             grans := (List.range (2 ^ t.size / 4096)).map (fun i => (o / 4096 + i, t.kdom)), leaf := some t }
    else none
  | none => none

/-- The page list of the half being armed. -/
def pageList (w : World) (j : Nat) (who : Tenant) : List TailPage × Nat :=
  let t := w.tail j
  let l := (List.range t.used).map (fun i =>
    let o := logEntry w j t.half i
    listPage w who (rdWord w.mem w.ks 0#8 o) (rdWord w.mem w.ks 0#8 (o + 8)))
  (l.filterMap id, (l.filter (fun x => x.isNone)).length)

/-- An always-copied region, page by page through the job's first context. DEDUCED (log 49). -/
def alwRegion (a : Anat) (w : World) (j : Nat) (env : UnitEnv) (i : Nat) : Option TailPage × World :=
  let va := w.reg (tailBase j + 0x100 + 16 * i) 0#64
  let len := (w.reg (tailBase j + 0x108 + 16 * i) 0#64).toNat / 4096 * 4096
  let ctx := fld (w.reg (tailBase j + 0x18) 0#64) 0 16
  if va = 0#64 ∨ len = 0 then (none, w)
  else
    let step (p : List (Option (Nat × Byte)) × World) (n : Nat) : List (Option (Nat × Byte)) × World :=
      let r := unitTranslate a p.2 env.die ctx env.who (va + w64 (4096 * n)) .load
      match r.1 with
      | .error _ => (none :: p.1, r.2)
      | .ok t =>
        match localOff r.2 (t.ga (va.toNat + 4096 * n)) with
        | some o => (if region o = .hbm then some (o / 4096, t.kdom) :: p.1 else none :: p.1, r.2)
        | none => (none :: p.1, r.2)
    let r := (List.range (len / 4096)).foldl step ([], w)
    if r.1.any (fun x => x.isNone) then (none, tailCount r.2 j 4 1)
    else
      let gs := r.1.reverse.filterMap id
      let kd : Byte := (gs.head?.map (fun g => g.2)).getD 0#8
      (some { h0 := packW [(0, va.toNat / 4096 * 4096)], h1 := packW [(48, ctx), (0, kd.toNat)], bytes := len, grans := gs, leaf := none }, r.2)

/-- Every configured region. -/
def alwRegions (a : Anat) (w : World) (j : Nat) (env : UnitEnv) : List TailPage × World :=
  (List.range 16).foldl (fun p i =>
    let r := alwRegion a p.2 j env i
    match r.1 with
    | some x => (p.1 ++ [x], r.2)
    | none => (p.1, r.2)) ([], w)

/-- Engine caches keep at most S copies of a granule's lines (R652 step 3). -/
def shareGranule (w : World) (g : Nat) : World :=
  w.engines.foldl (fun v p =>
    let ls := (p.2.ec.map (fun q => q.2)).flatten.filter (fun c => decide (c.line / 32 = g) && (decide (c.st = .e) || decide (c.st = .m)))
    ls.foldl (fun u c =>
      let u1 := u.modEng p.1 (fun y => { y with ec := modLine y.ec (ecSet c.line) c.line (fun d => { d with st := .s }) })
      if c.st = .m then pierAccess (u1.modEng p.1 (fun y => y.count 0x34A 1)) c.line 7 c.part c.tcls c.kdom true false false else u1) v) w

/-- SDIRTY cleared in a leaf by compare-and-swap (R652 step 4). -/
def clearSdirty (w : World) (t : TlbEntry) : World :=
  let cur := rdWord w.mem w.ks t.tkdom t.ent
  storeWord w t.tkdom .whole t.ent (setBit cur 15 false)

/-- Invalidates the translations of the job's contexts in the whole module. -/
def tailInval (w : World) (j : Nat) : World :=
  let cs := ((List.range 4).map (fun i => fld (w.reg (tailBase j + 0x18) 0#64) (16 * i) 16)).filter (fun c => decide (c ≠ 0))
  cs.foldl (fun v c =>
    let v1 := { v with engines := v.engines.map (fun p => (p.1, p.2.tlbInv 1 c 0)) }
    [0, 1, 2, 3].foldl (fun u d =>
      let t := u.tlb d
      u.setTlb d { leaves := t.leaves.filter (tlbKeep 1 c 0 false), walk := t.walk.filter (tlbKeep 1 c 0 true) }) v1) w

/-- The engine record of an image. -/
def engRecord (l : Nat) (m : TailMark) : List Byte :=
  words ([packW [(0, 1), (8, l)], m.s, m.p, m.seed, m.ctr] ++ m.amax ++ List.replicate 7 0#64)

/-- Lays records out from an offset: headers to write, and granules to copy. -/
def layPages : Nat → List TailPage → List (Nat × List Byte) × List TailGran × Nat
  | off, [] => ([], [], off)
  | off, p :: r =>
    let gs := p.grans.mapIdx (fun i x => ({ g := x.1, kdom := x.2, dst := off + 64 + 4096 * i, data := none } : TailGran))
    let q := layPages (off + 64 + p.bytes) r
    ((off, words ([p.h0, p.h1] ++ List.replicate 6 0#64)) :: q.1, gs ++ q.2.1, q.2.2)

/-- Steps 1 to 5 of R652. -/
def tailArm (a : Anat) (w : World) (j : Nat) : World :=
  let t := w.tail j
  let s := t.now.getD 0#64
  let chs := ([0, 1].filterMap (tailChan w j))
  match chs with
  | [] => abandonTail w j 3
  | c0 :: _ =>
    if chs.any (fun c => !tailEntryOk a w c) then abandonTail w j 3
    else
      let env := tailEnv a w j 0 c0
      let pl := pageList w j env.who
      let al := alwRegions a (if pl.2 = 0 then w else tailCount w j 4 pl.2) j env
      let engs := (tailEngines a w j).filterMap (fun l => (sget t.recs l).map (fun m => (l, m)))
      let p1 := layPages 64 pl.1
      let er := engs.mapIdx (fun i x => (p1.2.2 + 128 * i, engRecord x.1 x.2))
      let p2 := layPages (p1.2.2 + 128 * engs.length) al.1
      let total := p2.2.2 + 64
      let fits := chs.all (fun c => decide ((ctWord w c 10).toNat + total ≤ (ctWord w c 9).toNat))
      if !fits then abandonTail (tailEvent al.2 j 5) j 6
      else
        let grans := p1.2.1 ++ p2.2.1
        let w1 := al.2.modTail j (fun u => { u with
          state := 3, half := !u.half, list := u.used, used := 0, grans := grans, done := 0
          reps := chs.map (fun c => { ch := c, start := (ctWord w c 10).toNat, len := total - 64, bytes := [] }) })
        let w2 := grans.foldl (fun v g => shareGranule v g.g) w1
        let w3 := tailInval ((pl.1.filterMap (fun p => p.leaf)).foldl clearSdirty w2) j
        -- the headers and engine records; word 3 of the image header differs between replicas
        let w4 := (List.range chs.length).foldl (fun v k =>
          let prev := if t.base then 0xFFFFFFFFFFFFFFFF#64 else ctWord w (chs.getD k 0) 11
          let hdr := words ([packW [(0, 1), (4, 1), (8, j)], w64 (t.seq + 1), s, prev] ++ List.replicate 4 0#64)
          if (v.tail j).state = 3 then
            let r := repWrite j k a 0 hdr v
            if r.2 then r.1 else abandonTail r.1 j 3
          else v) w3
        let w5 := (p1.1 ++ er ++ p2.1).foldl (fun v x => if (v.tail j).state = 3 then imgWrite a j x.1 x.2 v else v) w4
        releaseMarks w5 j

/-- Every bound engine of the job has marked the due step. -/
def allMarked (a : Anat) (w : World) (j : Nat) : Bool :=
  let t := w.tail j
  match t.now with
  | none => false
  | some s => (tailEngines a w j).all (fun l => decide ((sget t.recs l).map (fun m => m.s) = some s))

/-- `TAIL_ARM`. -/
def execTailArm (j : Fin 8) (s : State) : Res :=
  toWorld s (if (s.w.tail j.val).state = 1 && allMarked s.anat s.w j.val then tailArm s.anat s.w j.val else s.w)

/-- `TAIL_WAIT_EXPIRE`: the marks have not been complete for WAIT ms (R652). -/
def execTailWaitExpire (j : Fin 8) (s : State) : Res :=
  toWorld s (
    let t := s.w.tail j.val
    if t.state = 1 && !allMarked s.anat s.w j.val then
      abandonTail (s.w.timeTo (t.since + w64 (fld (tailCtl s.w j.val) 32 16 * 100000))) j.val 2
    else s.w)

/-! Copies. -/

/-- `EARLY_COPY`: a write or ownership request reaches a granule of this module's HBM (R653). -/
def execEarlyCopy (g : BitVec 29) (s : State) : Res := toWorld s (granuleWritten s.w (4096 * g.toNat))

/-- `GRANULE_COPY`: the next granule in list order reaches its place in the image. -/
def execGranuleCopy (j : Fin 8) (s : State) : Res :=
  toWorld s (
    let t := s.w.tail j.val
    match t.grans with
    | [] => s.w
    | g :: r =>
      if t.state ≠ 3 then s.w
      else if g.data.isNone && (hbmStatus s.anat s.w (4096 * g.g)).isSome then abandonTail s.w j.val 4
      else
        let d := match g.data with
          | some l => l
          | none => granuleData s.w g.g g.kdom
        let w1 := imgWrite s.anat j.val g.dst d (s.w.modTail j.val (fun u => { u with grans := r }))
        if (w1.tail j.val).state = 3 then tailCount w1 j.val 3 4096 else w1)

/-! Commit (R655). -/

/-- A replica's image bytes in order. -/
def repImage (r : TailRep) : List Byte :=
  let m : Store (List Byte) := r.bytes.foldl (fun acc x => sset acc x.1 x.2) []
  (m.map (fun x => x.2)).flatten

/-- The commit record of replica k is written. -/
def commitRep (a : Anat) (w : World) (j k : Nat) : World :=
  let t := w.tail j
  match t.reps[k]? with
  | none => w
  | some r =>
    let rec' := words [packW [(0, 1), (4, 2)], w64 (t.seq + 1), t.now.getD 0#64, w64 r.start] ++ sha256 (repImage r)
    let q := repWrite j k a r.len rec' w
    if q.2 then q.1.modTail j (fun u => { u with done := k + 1 }) else abandonTail q.1 j 3

/-- The channels, registers and counters after a commit. -/
def commitEnd (w : World) (j : Nat) : World :=
  let t := w.tail j
  let w1 := t.reps.foldl (fun v r => ctStore (ctStore v r.ch 11 (w64 (r.start + r.len))) r.ch 10 (w64 (r.start + r.len + 64))) w
  let w2 := w1.modTail j (fun u => { u with
    state := 0, seq := (u.seq + 1) % 2 ^ 32, step := u.now.getD u.step, base := false, now := none, reps := [], grans := [], list := 0
    last := w.time, done := 0 })
  tailNext (tailCount (tailEvent (clearUbuf (clearUbuf w2 (tailRef j 0)) (tailRef j 1)) j 0) j 0 1) j

/-- `SNAPSHOT_COMMIT`: with every other byte performed, replica 0 and then replica 1 take their commit records. -/
def execSnapshotCommit (j : Fin 8) (s : State) : Res :=
  toWorld s (
    let n := j.val
    let t := s.w.tail n
    let busy (w : World) : Bool := unitWrites w (tailRef n 0) || unitWrites w (tailRef n 1)
    let bad (w : World) : Bool := (w.ubuf (tailRef n 0)).werr.isSome || (w.ubuf (tailRef n 1)).werr.isSome
    let one (w : World) : World :=
      if (w.tail n).state ≠ 3 ∨ busy w then w
      else if bad w then abandonTail w n 3
      else if (w.tail n).done < (w.tail n).reps.length then commitRep s.anat w n (w.tail n).done
      else commitEnd w n
    if t.state ≠ 3 ∨ !t.grans.isEmpty then s.w else one (one (one s.w)))

/-! Commands (R656) and registers. -/

/-- BASE: the log is emptied, and the next image begins a chain. -/
def tailBaseCmd (w : World) (j : Nat) : World :=
  let t := w.tail j
  if t.state ≠ 0 ∧ t.state ≠ 5 then tailEvent w j 2
  else
    let leaves := (List.range t.used).map (fun i =>
      let o := logEntry w j t.half i
      logLeaf w (rdWord w.mem w.ks 0#8 o) (rdWord w.mem w.ks 0#8 (o + 8)))
    let w1 := tailInval (leaves.foldl clearSdirty w) j
    let w2 := ([0, 1].filterMap (tailChan w j)).foldl (fun v c => ctStore v c 10 0#64) w1
    w2.modTail j (fun u => { u with
      state := 0, half := false, used := 0, list := 0, base := true, marks := [], recs := [], due := [], owed := false, last := w.time })

/-- ABORT. -/
def tailAbortCmd (w : World) (j : Nat) : World :=
  let t := w.tail j
  if t.state = 1 ∨ t.state = 2 ∨ t.state = 3 ∨ t.state = 4 then abandonTail w j 1 else tailEvent w j 2

def execBase (j : Fin 8) (s : State) : Res := toWorld s (tailBaseCmd s.w j.val)
def execTailAbort (j : Fin 8) (s : State) : Res := toWorld s (tailAbortCmd s.w j.val)

/-- `TAIL_REG_WRITE`: `TAIL_LOG_BASE` (0), `TAIL_LOG_SIZE` (1) or `TAIL_STEP` (2), in IDLE or HALTED only (R647). -/
def tailRegWrite (w : World) (j r : Nat) (v : W64) : World :=
  let t := w.tail j
  if t.state ≠ 0 ∧ t.state ≠ 5 then tailEvent w j 2
  else
    match r with
    | 0 => w.setReg (tailBase j + 0x28) (v &&& 0xFFFFFFFFF000#64)
    | 1 => w.setReg (tailBase j + 0x30) (v &&& 0xFFFFFFF#64)
    | _ => w.setTail j { t with step := v }

def execTailRegWrite (j : Fin 8) (r : Fin 3) (v : W64) (s : State) : Res := toWorld s (tailRegWrite s.w j.val r.val v)

/-! Restore (R658, R659). -/

/-- An image found at a destination: offsets of its header and commit record, its SEQ and step, its bytes. -/
structure TailImg where
  start : Nat
  commit : Nat
  seq : Nat
  s : W64
  digest : List Byte
  bytes : List Byte
  prev : W64
deriving DecidableEq, Repr

/-- The image whose commit record lies at an offset of a region, where it is committed there. -/
def readImg (base : W64) (at' : Nat) : UM (Option TailImg) := do
  let c ← uRead (base + w64 at') 64 0
  let w0 := wordAt c.1 0
  let start := (wordAt c.1 3).toNat
  if fld w0 0 4 ≠ 1 ∨ fld w0 4 4 ≠ 2 ∨ at' < start + 64 then return none
  let b ← uRead (base + w64 start) (at' - start) 0
  let dg := (c.1.drop 32).take 32
  if sha256 b.1 = dg then
    return some { start := start, commit := at', seq := fld (wordAt c.1 1) 0 32, s := wordAt c.1 2, digest := dg, bytes := b.1, prev := wordAt b.1 3 }
  else return none

/-- The chain that ends at an offset, latest image first. -/
def readChain (base : W64) : Nat → Nat → UM (List TailImg)
  | 0, _ => return []
  | f + 1, at' => do
    match ← readImg base at' with
    | none => return []
    | some i =>
      if i.prev = 0xFFFFFFFFFFFFFFFF#64 ∨ i.start ≤ i.prev.toNat then return [i]
      else return i :: (← readChain base f i.prev.toNat)

/-- A record of an image: a page with its header, or an engine record. -/
inductive ImgRec where
  | page (off : Nat) (h0 h1 : W64) (data : List Byte)
  | eng (b : List Byte)
deriving DecidableEq, Repr

/-- The records of an image from an offset on; `alw` gives the length of a configured region by its address.
DEDUCED (log 49). -/
def imgRecs (alw : W64 → Option Nat) : Nat → Nat → List Byte → List ImgRec
  | 0, _, _ => []
  | f + 1, off, l =>
    if l.length < 64 then []
    else
      let w0 := wordAt l 0
      if w0 &&& 0xFFFFFFFFFFFF80FF#64 = 1#64 then .eng (l.take 128) :: imgRecs alw f (off + 128) (l.drop 128)
      else
        let n : Nat := match alw w0 with
          | some k => k
          | none => [4096, 65536, 0x200000, 0x40000000].getD (fld w0 0 2) 4096
        .page off w0 (wordAt l 1) ((l.drop 64).take n) :: imgRecs alw f (off + 64 + n) (l.drop (64 + n))

/-- Writes a page record through the leaves of its context; KEY where a leaf is missing or has another domain. -/
def applyPage (env : UnitEnv) (off : Nat) (h0 h1 : W64) (data : List Byte) : UM Unit :=
  withReader (fun _ => { env with ctx := fld h1 48 16 }) (do
    let u ← read
    let va := packW [(0, fld h0 12 45 * 4096)]
    (List.range (data.length / 4096)).forM (fun i => do
      let a := va + w64 (4096 * i)
      let w ← get
      let r := unitTranslate u.a w u.die u.ctx u.who a .store
      set r.2
      match r.1 with
      | .error f => if f.sub = 1#8 then uFail 8 0 off else uFail 2 f.sub.toNat off
      | .ok t =>
        if t.kdom ≠ h1.extractLsb' 0 8 then uFail 8 0 off
        else uWrite false a ((data.drop (4096 * i)).take 4096) off))

/-- The restore record of engine record k (R659); `skew` names it in a position-skew event. -/
def restRecord (b : List Byte) (s : W64) (skew : Bool) : List Byte :=
  let ctr := wordAt b 4
  words ([packW [(0, 1), (4, 3), (8, fld (wordAt b 0) 8 7), (15, skew.toNat)], wordAt b 2, wordAt b 3, s, setFld ctr 0 52 0] ++ List.replicate 3 0#64)

/-- What a restore found out: the last image's SEQ and step, its commit offset, skewed records, a conflict. -/
structure Restored where
  seq : Nat
  s : W64
  at' : Nat
  rep : Nat
  skew : Nat
  conflict : Bool
deriving DecidableEq, Repr

/-- The chains of the valid replicas. -/
def repChains (a : Anat) (w : World) (j : Nat) : List (Nat × Nat) :=
  (([0, 1].map (fun k => (k, tailChan w j k))).filterMap (fun p => p.2.map (fun c => (p.1, c)))).filter (fun p => tailEntryOk a w p.2)

/-- RESTORE as a unit's program; none when no image is committed. DEDUCED (log 50). -/
def restoreProg (a : Anat) (j : Nat) : UM (Option Restored) := do
  let w ← get
  let reps := repChains a w j
  let cs ← reps.mapM (fun p => do
    let last := (ctWord w p.2 11).toNat
    let l ← withReader (fun _ => tailEnv a w j p.1 p.2) (readChain (ctWord w p.2 8) 4096 last)
    return (p, l))
  let top (l : List TailImg) : Nat := (l.head?.map (fun i => i.seq + 1)).getD 0
  let best := cs.foldl (fun (b : Option ((Nat × Nat) × List TailImg)) x =>
    match b with
    | none => some x
    | some y => if top y.2 < top x.2 then some x else some y) none
  let conflict := match cs with
    | [x, y] => decide (top x.2 ≠ 0) && decide (top x.2 = top y.2) && decide (x.2.head?.map (fun i => i.digest) ≠ y.2.head?.map (fun i => i.digest))
    | _ => false
  match best with
  | none => return none
  | some (p, l) =>
    match l with
    | [] => return none
    | img :: _ => do
      let env := tailEnv a w j p.1 p.2
      let alw (x : W64) : Option Nat :=
        ((List.range 16).find? (fun i => decide (w.reg (tailBase j + 0x100 + 16 * i) 0#64 = x) && decide (x ≠ 0#64))).map (fun i =>
          (w.reg (tailBase j + 0x108 + 16 * i) 0#64).toNat / 4096 * 4096)
      (l.reverse).forM (fun i => (imgRecs alw i.bytes.length (i.start + 64) (i.bytes.drop 64)).forM (fun r =>
        match r with
        | .page off h0 h1 d => applyPage env off h0 h1 d
        | .eng _ => pure ()))
      let es := (imgRecs alw img.bytes.length (img.start + 64) (img.bytes.drop 64)).filterMap (fun r =>
        match r with
        | .eng b => some b
        | .page .. => none)
      let stream (b : List Byte) : Nat := fld (wordAt b 4) 52 12
      let skewed (b : List Byte) : Bool :=
        decide (wordAt b 1 ≠ img.s) || decide (1 < (es.filter (fun x => decide (stream x = stream b))).length)
      if (ctWord w p.2 9).toNat < img.commit + 64 + 64 * es.length then uFail 7 0 0
      withReader (fun _ => env) ((es.mapIdx (fun k b => (k, b))).forM (fun x =>
        uWrite false (ctWord w p.2 8 + w64 (img.commit + 64 * (x.1 + 1))) (restRecord x.2 img.s (skewed x.2)) 0))
      return some { seq := img.seq, s := img.s, at' := img.commit, rep := p.2, skew := (es.filter skewed).length, conflict := conflict }

/-- RESTORE: begins in IDLE or HALTED, and goes on while it waits for data of another node. DEDUCED (log 50). -/
def tailRestore (a : Anat) (w : World) (j : Nat) : World :=
  let t := w.tail j
  if t.state ≠ 0 ∧ t.state ≠ 5 ∧ t.state ≠ 4 then tailEvent w j 2
  else
    let w1 := if t.state = 4 then w else
      w.modTail j (fun u => { u with state := 4, half := false, used := 0, list := 0, marks := [], recs := [], due := [], owed := false })
    let clear (v : World) : World := clearUbuf (clearUbuf v (tailRef j 0)) (tailRef j 1)
    let fail (v : World) (st : Nat) : World := clear (tailEvent (v.modTail j (fun u => { u with state := 0, reason := 0x80 + st })) j 9)
    match repChains a w1 j with
    | [] => fail w1 1
    | p :: _ =>
      match runUnit (tailEnv a w1 j p.1 p.2) (restoreProg a j) w1 with
      | (none, w2) => w2
      | (some (.error f), w2) => fail w2 f.status
      | (some (.ok none), w2) => clear (tailEvent (w2.modTail j (fun u => { u with state := 0 })) j 8)
      | (some (.ok (some r)), w2) =>
        let w3 := if r.conflict then tailEvent w2 j 6 else w2
        let w4 := if r.skew = 0 then w3 else tailCount (tailEvent w3 j 7) j 5 r.skew
        let w5 := ctStore w4 r.rep 10 (w64 (r.at' + 64))
        clear (tailEvent (w5.modTail j (fun u => { u with state := 0, seq := r.seq, step := r.s, base := false, last := w.time })) j 8)

def execRestore (j : Fin 8) (s : State) : Res := toWorld s (tailRestore s.anat s.w j.val)

/-- Every snapshot whose job meets a test is abandoned. -/
def abandonTails (w : World) (reason : Nat) (p : World → Nat → Bool) : World :=
  (List.range 8).foldl (fun v j =>
    let t := v.tail j
    if (t.state = 1 ∨ t.state = 2 ∨ t.state = 3) && p v j then abandonTail v j reason else v) w

end Sys2Proof.Machine
end

