-- ==== Sys2Proof/Machine/CacheOps.lean ====
section
/-!
DEFINITION. The caches' own events (chapters 08 and 09): fills and victims of engine caches and piers, errors found
in them (R359 to R365), scrubbing, way retirement (R369), table walks (R434), prefetches (R386 to R394).
-/

namespace Sys2Proof.Machine

/-! Error records (R363, R364, R370). -/

/-- An error record after a further error: the first error since VALID was cleared is kept; kinds 1 and 4 do not set OVF. -/
def logErr (old : W64) (kind : Nat) (rec' : W64) : W64 :=
  if !bit old 63 then rec'
  else if kind = 1 ∨ kind = 4 then old
  else setBit old 62 true

/-- The kind of an error on a clean or dirty line (R360, R363). -/
def errKind (what : Nat) (dirty : Bool) : Nat :=
  match what with
  | 1 => 1
  | 2 => if dirty then 3 else 2
  | 3 => if dirty then 6 else 5
  | 4 => 4
  | 5 => 7
  | _ => 6

/-- A lost write is reported to host software with the record that describes it (R632). DEDUCED (log 96). -/
def lostWrite (w : World) (rec' : W64) : World :=
  avEvent { w with av := { w.av with lastLostWrite := rec' } } 1

/-- What only the lost line held is gone: its bytes mean nothing any more (R362). DEDUCED (log 51). -/
def forgetLine (w : World) (line : Nat) : World :=
  match sget w.mem.lines line with
  | some r =>
    { w with mem := { w.mem with lines := sset w.mem.lines line { r with mask := 0#128, base := w.freeCtr, ver := w.freeCtr } }, freeCtr := w.freeCtr + 1 }
  | none => { w with mem := { w.mem with lines := sset w.mem.lines line ⟨0#8, keyGen w.ks 0#8, 0#128, w.freeCtr, w.freeCtr⟩ }, freeCtr := w.freeCtr + 1 }

/-- Poisons a word, or outside the tagged region its sector (R361). -/
def poisonWord (w : World) (off : Nat) : World :=
  { w with mem := poisonAt w.ks w.places w.freeCtr w.mem off, freeCtr := w.freeCtr + 1 }

/-! Engine caches. -/

/-- Counter of `EC_CE`, `EC_UE`, `EC_TPAR` for what an error is. -/
def ecErrCounter (what : Nat) : Nat :=
  match what with
  | 1 => 0x34C
  | 2 => 0x34D
  | _ => 0x34E

/-- An error in a line of an engine's caches (R360, R362). DEDUCED (log 51). -/
def ecError (a : Anat) (w : World) (e : Nat) (x : CacheErr) : World :=
  let g := w.eng e
  let what := x.what.toNat
  let lvl := x.level.toNat
  let (cache, set) :=
    if lvl = 0 then (g.l1i, l1iSet x.line) else if lvl = 1 then (g.l1d, l1dSet x.line) else (g.ec, ecSet x.line)
  match findLine cache set x.line with
  | none => w
  | some c =>
    if what = 0 ∨ what = 7 ∨ lvl = 3 then w
    else
      let dirty := decide (lvl = 2) && decide (c.st = .m)
      let kind := errKind what dirty
      let word := if what ≤ 2 then x.word.toNat else 0
      let rec' := packW [(63, 1), (48, kind), (44, lvl), (32, set), (24, c.way), (16, word)]
      let w1 := w.modEng e (fun y =>
        let y1 := y.count (ecErrCounter what) 1
        { y1 with core := y1.core.sysSet 0x346 (logErr (y1.core.sysGet 0x346) kind rec') })
      let gone (v : World) : World :=
        if lvl = 2 then ecDrop v e { c with st := if c.st = .m then .e else c.st } else v.modEng e (fun y => y.dropL1 x.line)
      match kind with
      | 1 | 4 => w1
      | 2 | 5 => gone w1
      | 3 => poisonWord w1 (x.line * 128 + 8 * word)
      | 7 => if lvl = 2 then ecDrop w1 e c else gone w1
      | _ =>
        if lvl ≠ 2 then gone w1
        else machineCheck a (lostWrite (forgetLine (gone w1) x.line) rec') e 1#8 0#64

/-- A miss of an engine whose line is another node's or host memory's, filled with data that has come. -/
def fillAway (w : World) (e : Nat) (m : EMiss) : World :=
  w.modEng e (fun y => { y with misses := y.misses.filter (fun z => decide (z.line ≠ m.line)) })

/-- A prefetch is no longer outstanding. -/
def Engine.pfDone (x : Engine) (line : Nat) : Engine := { x with pfOut := x.pfOut.filter (fun p => decide (p.1 ≠ line)) }

/-- `ENGINE_CACHE_FILL`: miss `idx` is filled, or an error is found in the engine's caches. -/
def execEngineCacheFill (e : Fin 104) (idx : Nat) (err : Option CacheErr) (s : State) : Res :=
  toWorld s (
    let w := match err with
      | some x => if dieRuns s.anat e.val then ecError s.anat s.w e.val x else s.w
      | none => s.w
    match (w.eng e.val).misses[idx]? with
    | none => w
    | some m =>
      if !dieRuns s.anat e.val || m.way.isSome then w
      else if hbmLine m.line then
        let w1 := ecFill w e.val m
        if (w1.eng e.val).misses.any (fun z => decide (z.line = m.line)) then w1 else w1.modEng e.val (fun y => y.pfDone m.line)
      else (fillAway w e.val m).modEng e.val (fun y => y.pfDone m.line))

/-- `EC_VICTIM_ACK`: the dirty victim of miss `idx` has reached its home pier. -/
def execEcVictimAck (e : Fin 104) (idx : Nat) (s : State) : Res :=
  toWorld s (
    match (s.w.eng e.val).misses[idx]? with
    | none => s.w
    | some m => if dieRuns s.anat e.val then (ecVictimAck s.w e.val m).modEng e.val (fun y => if m.way.isSome then y.pfDone m.line else y) else s.w)

/-! Piers. -/

def pierUp (a : Anat) (p : Nat) : Bool := dieRuns a (26 * (p / 32))

/-- The line of an allocation placed in a way (R351, R352). -/
def pierPlace (w : World) (m : PMiss) (way : Nat) : World :=
  let c : CLine := { line := m.line, way := way, st := if m.write then .m else .e, cls := m.cls, part := m.part, tcls := m.tcls
                     reuse := if m.cls = 4 then 0 else 1, dead := false, busy := false, kdom := m.kdom, pf := 0 }
  w.modPier (pierOf m.line) (fun p => { p with sets := putLine p.sets (pierSet m.line) c })

/-- An allocation of a pier is over. -/
def pierForget (w : World) (line : Nat) : World :=
  w.modPier (pierOf line) (fun p => { p with misses := p.misses.filter (fun x => decide (x.line ≠ line)) })

/-- Makes allocation `m` (R344, R352, R357). -/
def pierAllocate (w : World) (m : PMiss) : World :=
  let p := pierOf m.line
  let d := p / 32
  let ways := (waysOf (pierMask w d m.part m.cls)).filter (fun i => !bit (pierRet w p) i)
  let set := pierSet m.line
  if ways.isEmpty then
    pierForget (pierDrop w m.line) m.line
  else
    match pickWay ways (sgetD (w.pier p).sets set []) (classPri (w.reg (dcBase d + 0x10) 0x88888888#64)) with
    | none => w
    | some (i, aged) =>
      let w1 := w.modPier p (fun x => { x with sets := sset x.sets set aged })
      match aged.find? (fun c => decide (c.way = i)) with
      | some c =>
        if c.st = .m then
          w1.modPier p (fun x => { x with
            sets := modLine x.sets set c.line (fun y => { y with busy := true })
            misses := x.misses.map (fun y => if y.line = m.line then { y with way := some i } else y) })
        else pierPlace (pierForget (pierDrop w1 c.line) m.line) m i
      | none => pierPlace (pierForget w1 m.line) m i

/-- `PIER_ALLOCATE`: allocation `idx` of a pier. -/
def execPierAllocate (p : Fin 128) (idx : Nat) (s : State) : Res :=
  toWorld s (
    match (s.w.pier p.val).misses[idx]? with
    | none => s.w
    | some m => if pierUp s.anat p.val && m.way.isNone then pierAllocate s.w m else s.w)

/-- `PIER_VICTIM_COMPLETE`: the dirty victim of allocation `idx` has been written to its stack. -/
def execPierVictimComplete (p : Fin 128) (idx : Nat) (s : State) : Res :=
  toWorld s (
    match (s.w.pier p.val).misses[idx]? with
    | none => s.w
    | some m =>
      match m.way with
      | none => s.w
      | some i =>
        if !pierUp s.anat p.val then s.w
        else
          let w1 := match (sgetD (s.w.pier p.val).sets (pierSet m.line) []).find? (fun c => decide (c.way = i)) with
            | some c => pierDrop s.w c.line
            | none => s.w
          pierPlace (pierForget w1 m.line) m i)

/-- The engines that run with a partition take a lost write of a pier as a machine check (R362). -/
def partCheck (a : Anat) (w : World) (part : Nat) : World :=
  (List.range 104).foldl (fun v e =>
    if (a.logicalOf e).isSome && dieRuns a e && decide ((v.eng e).part = part) then machineCheck a v e 1#8 0#64 else v) w

/-- An error in a line of a pier (R360, R362). DEDUCED (log 51). -/
def pierError (a : Anat) (w : World) (p : Nat) (x : CacheErr) : World :=
  let set := pierSet x.line
  let what := x.what.toNat
  match findLine (w.pier p).sets set x.line with
  | none => w
  | some c =>
    if what = 0 ∨ what = 7 then w
    else
      let dirty := decide (c.st = .m)
      let kind := errKind what dirty
      let sector := x.word.toNat % 4
      let unread := decide (what = 6)
      let u := Config.free w.freeCtr
      let part := if unread then u % 16 else c.part
      let rec' := packW [(63, 1), (52, kind), (48, part), (44, if unread then 7 else c.tcls), (40, c.way), (32, p % 32), (16, set),
        (0, if what ≤ 2 then sector else 0)]
      let off := dcBase (p / 32) + 0x18
      let w0 := { w with freeCtr := w.freeCtr + 1 }
      let w1 := (pierCount w0 p (match what with | 1 => 3 | 2 => 4 | _ => 5) 1)
      let w2 := w1.setReg off (logErr (w1.reg off 0#64) kind rec')
      let drop (v : World) (dirty' : Bool) : World :=
        pierDrop (v.modPier p (fun y => { y with sets := modLine y.sets set x.line (fun z => { z with st := if dirty' then .m else .e }) })) x.line
      match kind with
      | 1 | 4 => w2
      | 2 | 5 => drop w2 false
      | 3 => (List.range 4).foldl (fun v i => poisonWord v (x.line * 128 + 32 * sector + 8 * i)) w2
      | 7 => drop w2 true
      | _ => partCheck a (lostWrite (pierCount (forgetLine (drop w2 false) x.line) p 6 1) rec') part

/-- `PIER_SCRUB`: a pier reads its next set and handles an error found there (R365). -/
def execPierScrub (p : Fin 128) (err : Option CacheErr) (s : State) : Res :=
  toWorld s (
   (let w := s.w
    if !pierUp s.anat p.val || !bit (w.reg (dcBase (p.val / 32)) 1#64) 0 then w
    else
      let set := (w.pier p.val).scrub
      let w1 := w.modPier p.val (fun x => { x with scrub := (x.scrub + 1) % 4096 })
      match err with
      | some x => if pierOf x.line = p.val ∧ pierSet x.line = set then pierError s.anat w1 p.val x else w1
      | none => w1))

/-! Way retirement (R369). -/

/-- A retirement is journalled with an `AV_EVT` bit (R628, R661), unless it is already. DEDUCED (log 73). -/
def journalAdd (w : World) (cls : Nat) (res : List Nat) (b : Nat) : World :=
  if w.av.journal.any (fun j => decide (j.cls = cls) && decide (j.res = res)) then w
  else avEvent { w with av := { w.av with journal := w.av.journal ++ [JEntry.mk cls res w.av.minutes false] } } b

/-- Entries of the journal that meet a test become DONE. -/
def journalDone (w : World) (p : JEntry → Bool) : World :=
  { w with av := { w.av with journal := w.av.journal.map (fun j => if p j then { j with done := true } else j) } }

/-- A way is journalled and its RET bit set. -/
def wayRetire (w0 : World) (p way : Nat) : World :=
  let w := journalAdd w0 3 [p, way] 3
  let off := dcBase (p / 32) + 0x200 + 8 * (p % 32)
  let old := pierRet w p
  if bit old way then w
  else (w.setReg off (setBit (setBit old way true) 16 true)).modPier p (fun x => { x with retiring := way :: x.retiring })

def execWayRetire (p : Fin 128) (way : Fin 16) (s : State) : Res :=
  toWorld s (if pierUp s.anat p.val then wayRetire s.w p.val way.val else s.w)

/-- Every set has been treated: dirty lines are written to HBM, lines dropped. -/
def wayRetireDone (w : World) (p : Nat) : World :=
  let x := w.pier p
  if x.retiring.isEmpty then w
  else
    let ls := ((x.sets.map (fun q => q.2)).flatten).filter (fun c => x.retiring.contains c.way)
    let w1 := ls.foldl (fun v c => pierDrop v c.line) w
    let off := dcBase (p / 32) + 0x200 + 8 * (p % 32)
    let w2 := (w1.setReg off (setBit (pierRet w1 p) 16 false)).modPier p (fun y => { y with retiring := [] })
    journalDone w2 (fun j => decide (j.cls = 3) && decide (j.res.head? = some p))

def execWayRetireDone (p : Fin 128) (s : State) : Res :=
  toWorld s (if pierUp s.anat p.val then wayRetireDone s.w p.val else s.w)

/-! Table walks. -/

/-- `TABLE_WALK`: a miss of an engine's TLBs at its current level, for a load (0), store (1) or fetch (2) of an address,
walks the tables and fills them (R434); one that faults fills nothing. -/
def execTableWalk (e : Fin 104) (va : W64) (k : Fin 3) (s : State) : Res :=
  toWorld s (
   (if canIssue s.anat s.w e.val then
      let c := (s.w.eng e.val).core
      let r := engTranslate s.anat s.w e.val c.pl va (if k.val = 0 then .load else if k.val = 1 then .store else .fetch)
      match r.1 with
      | .ok _ => r.2
      | .error _ => s.w
    else s.w))

/-! Prefetches. -/

/-- Line k of a software descriptor's rows, as a device virtual address (R392). -/
def pfLine (d : PfDesc) : Nat → Nat → Nat → Option W64
  | 0, _, _ => none
  | f + 1, r, k =>
    let a := d.base + w64 r * d.stride
    let n := (a.toNat % 128 + d.rowb + 127) / 128
    if d.rows ≤ r then none
    else if k < n then some (((a >>> 7) <<< 7) + w64 (128 * k))
    else pfLine d f (r + 1) (k - n)

/-- Counters of the stream (1) and the descriptor prefetcher (2): `ISSUED` and `DROPPED`. -/
def pfIssued (which : Nat) : Nat := if which = 1 then 0x368 else 0x370
def pfDropped (which : Nat) : Nat := if which = 1 then 0x36C else 0x374

/-- A prefetch of host memory fills an N line, unless its read ends in an error (R388). -/
def pfHost (w : World) (e which : Nat) (t : TlbEntry) (ga : W64) : World :=
  let x := w.eng e
  let f := fresh w
  let w1 := f.2.emit (.hostRead (x.hostFn t.ctx) (fld ga 0 48 - 0x800000000000) 128)
  if !w.pcieUp || decide (Config.hostStatus f.1 % 4 ≠ 0) then w1.modEng e (fun y => y.count (pfDropped which) 1)
  else nFill w1 e ⟨lineOf w1 ga, 4, t.tcls, t.kdom, false, false, none, which⟩ ⟨ga, t.kdom, (List.range 128).map (Config.hostByte f.1)⟩

/-- A candidate is issued or dropped (R388, R389). DEDUCED (log 51). -/
def pfCandidate (a : Anat) (w : World) (e which : Nat) (ctx : Nat) (pl : BitVec 2) (va : W64) (pier : Bool) : World :=
  let x := w.eng e
  let drop := w.modEng e (fun y => y.count (pfDropped which) 1)
  match (if fld va 57 7 = 0 then pfLeaf w x ctx va.toNat pl else none) with
  | none => drop
  | some t =>
    let ga := (t.ga va.toNat >>> 7) <<< 7
    let line := lineOf w ga
    if 32 ≤ x.pfOut.length ∨ (!pier ∧ x.ecMask 4 = 0) then drop
    else if pier then
      match placeOf w ga with
      | .hbm off =>
        if (hbmStatus a w off).isSome then drop
        else pierAccess (w.modEng e (fun y => y.count (pfIssued which) 1)) line 4 x.part t.tcls t.kdom false false false
      | _ => drop
    else if (findLine x.ec (ecSet line) line).isSome || x.misses.any (fun m => decide (m.line = line)) then w
    else
      let issued := w.modEng e (fun y => y.count (pfIssued which) 1)
      match placeOf w ga with
      | .hbm off =>
        let keyh := t.tagged w && (List.range 16).any (fun i => decide (tagAt w.mem w.ks w.places (off + 8 * i) = 5#4))
        if (hbmStatus a w off).isSome || (poisonIn w.mem w.ks w.places off 128).isSome || keyh then
          issued.modEng e (fun y => y.count (pfDropped which) 1)
        else issued.modEng e (fun y => { y with
          pfOut := (line, which) :: y.pfOut, misses := y.misses ++ [⟨line, 4, t.tcls, t.kdom, false, false, none, which⟩] })
      | .host _ => pfHost issued e which t ga
      | .remote =>
        match sendTxn issued (e / 26) (txnOf 1 t.kdom (fld ga 48 12) (fld ga 0 48) 128) (.prefetch e ga which t.tcls) with
        | (.error _, w1) => w1.modEng e (fun y => y.count (pfDropped which) 1)
        | (.ok _, w1) => w1.modEng e (fun y => { y with pfOut := (line, which) :: y.pfOut })
      | _ => drop

/-- `PREFETCH_ISSUE`: the next candidate of a prefetcher. -/
def execPrefetchIssue (e : Fin 104) (src : PfSrc) (s : State) : Res :=
  toWorld s (
    let w := s.w
    let x := w.eng e.val
    let ctl := x.core.sysGet 0x360
    if (s.anat.logicalOf e.val).isNone || !dieRuns s.anat e.val || !w.eclk || x.locked.isSome then w
    else
      match src with
      | .stream i =>
        match x.streams[i]? with
        | none => w
        | some t =>
          if !bit ctl 0 || !t.trained || decide (fld ctl 8 7 ≤ t.issued) then w
          else
            let line : Int := (t.line : Int) + t.stride * ((t.issued + 1 : Nat) : Int)
            let w1 := w.modEng e.val (fun y => { y with streams := lmod y.streams i (fun z => { z with issued := z.issued + 1 }) })
            if line < 0 then w1.modEng e.val (fun y => y.count 0x36C 1)
            else pfCandidate s.anat w1 e.val 1 t.ctx t.pl (w64 (line.toNat * 128)) (bit ctl 2)
      | .desc i =>
        match x.pfd[i]? with
        | none => w
        | some d =>
          if !bit ctl 1 then w
          else
            match pfLine d 65536 0 d.next with
            | none => w.modEng e.val (fun y => { y with pfd := dropAt y.pfd i })
            | some va =>
              let w1 := w.modEng e.val (fun y => { y with pfd := lmod y.pfd i (fun z => { z with next := z.next + 1 }) })
              pfCandidate s.anat w1 e.val 2 d.ctx d.pl va d.pier
      | .pass va =>
        if !bit ctl 1 || decide (fld ctl 24 8 = 0) || !x.tq.any (fun t => t.pass) then w
        else pfCandidate s.anat w e.val 2 (x.core.ctx x.core.pl) x.core.pl va false)

/-- The answer to a prefetch of another node's line (R388). -/
def pfArrives (w : World) (e : Nat) (ga : W64) (kdom : Byte) (which tcls : Nat) (st : Byte) (data : List Byte) : World :=
  let line := lineOf w ga
  let w1 := w.modEng e (fun y => y.pfDone line)
  if st ≠ 0#8 then w1.modEng e (fun y => y.count (pfDropped which) 1)
  else nFill w1 e ⟨line, 4, tcls, kdom, false, false, none, which⟩ ⟨ga, kdom, data⟩

/-- `STREAM_FREE`: a stream without a demand access for 4096 cycles is freed. -/
def execStreamFree (e : Fin 104) (i : Nat) (s : State) : Res :=
  toWorld s (s.w.modEng e.val (fun x => { x with streams := dropAt x.streams i }))

end Sys2Proof.Machine
end

