-- ==== Sys2Proof/Machine/Hbm.lean ====
section
/-!
DEFINITION. The HBM front ends (R373 to R384): slots and waiting lists, the bank quota, promotion, the order of bank
accesses, refresh and calibration windows.
-/

namespace Sys2Proof.Machine

/-! Places (R373). -/

/-- Local pseudo-channel of a line of a stack. -/
def hbmPc (l : Nat) : Nat := l % 64 ^^^ l / 4096 % 64

/-- Bank of a line of a stack. -/
def hbmBank (l : Nat) : Nat := l / 64 / 8 % 16 ^^^ l / 64 / 128 % 16

/-- Row of a line of a stack. -/
def hbmRow (l : Nat) : Nat := l / 64 / 128

def World.stack (w : World) (h : Nat) : Reserve := sgetD w.hbmStacks h Reserve.reset
def World.setStack (w : World) (h : Nat) (r : Reserve) : World := { w with hbmStacks := sset w.hbmStacks h r }

/-- Counter i of global pseudo-channel g: `HFE_BANK_HOT`, `HFE_AGE_PROMOTE`, `HFE_ROW_HIT`, `HFE_ROW_MISS`,
`HFE_MERGED`, `HFE_CAL_HOLD`, `HFE_HELD_BACK`. -/
def feCount (w : World) (g i n : Nat) : World := w.countReg (hbmBase (g / 64) + 0x10000 + 0x40 * (g % 64) + 8 * i) n

/-- The stack is reached: its die runs and it is not lost. -/
def stackUp (a : Anat) (w : World) (h : Nat) : Bool := dieRuns a (26 * (h / 6)) && !w.stacksLost.contains h

/-! Requests. -/

/-- A requester may take a slot on a bank (R376). -/
def feQuota (f : FrontEnd) (req bank : Nat) : Bool :=
  decide ((f.slots.filter (fun x => decide (x.req = req) && decide (hbmBank x.line = bank))).length < 8)

/-- Writes outrank reads from 32 slots with writes until 16 or fewer remain (R378). -/
def FrontEnd.settle (f : FrontEnd) : FrontEnd :=
  let n := (f.slots.filter (fun x => x.write)).length
  { f with writes := if 32 ≤ n then true else if n ≤ 16 then false else f.writes }

/-- `HFE_HOTLOG` keeps the first refusal. -/
def hotLog (w : World) (g req bank : Nat) : World :=
  let off := hbmBase (g / 64) + 8
  if bit (w.reg off 0#64) 63 then w else w.setReg off (packW [(63, 1), (40, req), (32, g % 64), (0, bank)])

/-- A request reaches a front end: it merges with a write in a slot, takes a slot, waits, or is held back at its pier.
Back-pressure of a perturbation entry makes it wait (R593). DESIGN CHOICE (log 25). -/
def feRequest (w : World) (g req line : Nat) (write : Bool) : World :=
  let f := w.fe g
  let bank := hbmBank line
  let x : HReq := { req := req, line := line, write := write, time := w.time, seq := f.next, started := false, promoted := false }
  if f.slots.any (fun y => decide (y.line = line) && y.write && (!write || !y.started)) && !f.wait.any (fun y => decide (y.line = line)) then feCount w g 4 1
  else
    let ok := feQuota f req bank
    let free := decide (f.slots.length < 64) && ok && !f.wait.any (fun y => decide (y.line = line))
    let r := if free then pertEvent w (g / 384) 2 2 [g % 384] else (false, w)
    if free && !r.1 then
      r.2.setFe g { f with slots := f.slots ++ [x], next := f.next + 1 }.settle
    else
      let w1 := if ok then r.2 else hotLog (feCount w g 0 1) g req bank
      if 256 ≤ f.wait.length ∨ 64 ≤ (f.wait.filter (fun y => decide (y.req = req))).length then feCount w1 g 6 1
      else w1.setFe g { f with wait := f.wait ++ [x], next := f.next + 1 }

/-- `HBM_REQUEST`: a request for a local HBM offset. -/
def execHbmRequest (req : Byte) (off : BitVec 41) (write : Bool) (s : State) : Res :=
  toWorld s (
    let h := homeStack off.toNat
    let l := stackOffset off.toNat / 128
    if populated s.anat.part off.toNat && stackUp s.anat s.w h && decide (req.toNat < 184) then
      feRequest s.w (64 * h + hbmPc l) req.toNat l write
    else s.w)

/-! Bank accesses. -/

/-- A request's row is being copied into its spare (R630). -/
def rowCopying (w : World) (g : Nat) (l : Nat) : Bool :=
  (w.stack (g / 64)).copying.contains (g % 64, hbmBank l, hbmRow l)

/-- A request can start: its bank is free, no earlier request for its line is in a slot (R379). -/
def feCan (w : World) (g : Nat) (f : FrontEnd) (x : HReq) : Bool :=
  !x.started && !f.slots.any (fun y => y.started && decide (hbmBank y.line = hbmBank x.line)) &&
    !f.slots.any (fun y => decide (y.line = x.line) && decide (y.seq < x.seq)) && !rowCopying w g x.line

/-- The oldest of the requests that meet a test. -/
def feOldest (l : List HReq) (p : HReq → Bool) : Option HReq :=
  (l.filter p).foldl (fun b x => match b with
    | none => some x
    | some y => if x.seq < y.seq then some x else some y) none

/-- Of one rank, reads before writes, or writes before reads once 32 slots hold writes. -/
def feRank (f : FrontEnd) (l : List HReq) (p : HReq → Bool) : Option HReq :=
  (feOldest l (fun x => p x && (x.write == f.writes))).orElse (fun _ => feOldest l p)

/-- The next bank access (R378). -/
def feNext (w : World) (g : Nat) : Option HReq :=
  let f := w.fe g
  let l := f.slots.filter (feCan w g f)
  (feOldest l (fun x => x.promoted)).orElse (fun _ =>
    (feRank f l (fun x => decide (sget f.rows (hbmBank x.line) = some (hbmRow x.line)))).orElse (fun _ => feRank f l (fun _ => true)))

/-- The pseudo-channel starts bank accesses: no window of its channel is open and it is not powered down. -/
def feOpen (a : Anat) (w : World) (g : Nat) : Bool :=
  stackUp a w (g / 64) && !(w.fe g).cal && decide ((w.stack (g / 64)).pcGone ≠ some (g % 64))

/-- A slot that has come free is refilled: a promoted request first, then the oldest that the quota admits. -/
def feRefill (f : FrontEnd) : FrontEnd :=
  let pick := (feOldest f.wait (fun x => x.promoted)).orElse (fun _ => feOldest f.wait (fun x => feQuota f x.req (hbmBank x.line)))
  match pick with
  | none => f.settle
  | some x => { f with slots := f.slots ++ [x], wait := f.wait.filter (fun y => decide (y ≠ x)) }.settle

/-- Free slots are refilled, as many as wait. -/
def feFill (f : FrontEnd) : FrontEnd := iter (fun _ z => if z.slots.length < 64 then feRefill z else z) f.wait.length f

/-- `BANK_ACCESS_START`. A forced retry of a perturbation entry abandons the access, with its row closed (R593). -/
def execBankAccessStart (g : Fin 1536) (s : State) : Res :=
  toWorld s (
    if !feOpen s.anat s.w g.val then s.w
    else
      let w0 := s.w.setFe g.val (feFill (s.w.fe g.val))
      match feNext w0 g.val with
      | none => w0
      | some x =>
        let f := w0.fe g.val
        let b := hbmBank x.line
        let hit := decide (sget f.rows b = some (hbmRow x.line))
        let w1 := feCount (pertEvent w0 (g.val / 384) 1 2 [g.val % 384]).2 g.val (if hit then 2 else 3) 1
        let r := pertEvent w1 (g.val / 384) 4 2 [g.val % 384]
        r.2.setFe g.val (
          if r.1 then { f with rows := sdel f.rows b }
          else { f with
            rows := sset f.rows b (hbmRow x.line), slots := f.slots.map (fun y => if y = x then { y with started := true } else y) }))

/-- `BANK_ACCESS_DONE`: the oldest started access of a bank transfers its line; waiting reads of the line are served by it. -/
def execBankAccessDone (g : Fin 1536) (bank : Fin 16) (s : State) : Res :=
  toWorld s (
    let f := s.w.fe g.val
    match feOldest f.slots (fun x => x.started && decide (hbmBank x.line = bank.val)) with
    | none => s.w
    | some x =>
      let same (y : HReq) : Bool := !x.write && decide (y ≠ x) && decide (y.line = x.line) && !y.write &&
        !(f.slots ++ f.wait).any (fun z => z.write && decide (z.line = x.line) && decide (z.seq < y.seq))
      let n := ((f.slots ++ f.wait).filter same).length
      let f1 := { f with slots := f.slots.filter (fun y => decide (y ≠ x) && !same y), wait := f.wait.filter (fun y => !same y) }
      let w1 := s.w.setFe g.val (iter (fun _ z => if z.slots.length < 64 then feRefill z else z) (n + 1) f1)
      if n = 0 then w1 else feCount w1 g.val 4 n)

/-- `AGE_PROMOTE`: the oldest request that is not promoted reaches 4 µs. -/
def execAgePromote (g : Fin 1536) (s : State) : Res :=
  toWorld s (
    let f := s.w.fe g.val
    match feOldest (f.slots ++ f.wait) (fun x => !x.promoted && !x.started) with
    | none => s.w
    | some x =>
      let up (y : HReq) : HReq := if y = x then { y with promoted := true } else y
      feCount ((s.w.timeTo (x.time + 400#64)).setFe g.val { f with slots := f.slots.map up, wait := f.wait.map up }) g.val 1 1)

/-- `REFRESH`: a bank that no access uses is refreshed, which closes its row. DEDUCED (log 24). -/
def execRefresh (g : Fin 1536) (bank : Fin 16) (s : State) : Res :=
  toWorld s (
    let f := s.w.fe g.val
    if stackUp s.anat s.w (g.val / 64) && !f.slots.any (fun x => x.started && decide (hbmBank x.line = bank.val)) then
      s.w.setFe g.val { f with rows := sdel f.rows bank.val }
    else s.w)

/-! Calibration windows (R382). -/

/-- The window of a channel opens or closes on both its pseudo-channels. -/
def calSet (w : World) (h c : Nat) (b : Bool) : World :=
  [64 * h + 2 * c, 64 * h + 2 * c + 1].foldl (fun v g => v.setFe g { v.fe g with cal := b }) w

/-- The next value of `TIME`, from now on, that is `r` modulo 3,200,000. -/
def nextWindow (t : W64) (r : Nat) : W64 := t + w64 ((r + 3200000 - t.toNat % 3200000) % 3200000)

/-- `CAL_WINDOW_START`. -/
def execCalWindowStart (h : Fin 24) (c : Fin 32) (s : State) : Res :=
  toWorld s (
    if !stackUp s.anat s.w h.val || !s.w.timeRun || (List.range 32).any (fun i => (s.w.fe (64 * h.val + 2 * i)).cal) then s.w
    else calSet (s.w.timeTo (nextWindow s.w.time (100000 * c.val + 4000 * h.val))) h.val c.val true)

/-- `CAL_WINDOW_END`; the window has lasted at most 1.5 µs, in cycles of 1 ns. DEDUCED (log 24). -/
def execCalWindowEnd (h : Fin 24) (c : Fin 32) (s : State) : Res :=
  toWorld s (
    let g := 64 * h.val + 2 * c.val
    if !(s.w.fe g).cal then s.w
    else
      let n := Config.free s.w.freeCtr % 1501
      let w1 := { calSet s.w h.val c.val false with freeCtr := s.w.freeCtr + 1 }
      feCount (feCount w1 g 5 n) (g + 1) 5 n)

end Sys2Proof.Machine
end

