-- ==== Sys2Proof/Machine/TxnEnd.lean ====
section
/-!
DEFINITION. The end of an outstanding transaction at its requester (R494).
-/

namespace Sys2Proof.Machine

/-- The die on which a transaction entered the link layer (R498). -/
def TxnWho.die (a : Anat) (x : TxnWho) : Nat :=
  match x with
  | .load e _ | .store e | .atomic e | .msg e | .prefetch e _ _ _ => e / 26
  | .unit d _ => d
  | .mgmt => a.super

/-- The global address a transaction names. -/
def Txn.ga (t : Txn) : W64 := packW [(60, 1), (48, t.dst), (0, t.addr)]

/-- What a unit of a die takes from the end of its transaction: data of a read, or the first error of its writes. -/
def unitArrives (w : World) (ref : Nat) (t : Txn) (st : Byte) (data : List Byte) : World :=
  let b := w.ubuf ref
  let b1 : UnitBuf :=
    if t.opc = 1 then { b with reads := b.reads ++ [⟨t.ga, t.kdom, t.size, data, st⟩] }
    else if statusReport st = 0#8 then b else { b with werr := some (b.werr.getD st) }
  { w with ubufs := sset w.ubufs ref b1 }

/-- The store-buffer entry that transaction k carries. -/
def sbOf (x : Engine) (k : Nat) : Option Nat := x.sb.findIdx? (fun s => decide (s.sent = some k))

/-- Outstanding transaction k ends with a STATUS and the data returned. -/
def completeTxn (a : Anat) (w : World) (k : Nat) (st : Byte) (data : List Byte) : World :=
  match sget w.txns k with
  | none => w
  | some o =>
    let w0 := txnDrop w k
    let w1 := if st = 10#8 then portCount w0 o.port 13 1 else w0
    let rep := statusReport st
    match o.who with
    | .load e ga =>
      if (w1.eng e).wait = .resp k then
        w1.modEng e (fun x =>
          if rep = 0#8 then { x with wait := .none, rbuf := ⟨ga, o.t.kdom, data⟩ :: x.rbuf }
          else { x with wait := .none, rerr := some rep })
      else w1
    | .store e =>
      match sbOf (w1.eng e) k with
      | none => w1
      | some i =>
        match (w1.eng e).sb[i]? with
        | none => w1
        | some s => if rep = 0#8 then sbDone w1 e i else sbError w1 e i s rep
    | .atomic e =>
      w1.modEng e (fun x =>
        match x.wait with
        | .atomic _ _ => { x with atomResp := some (atomAnswer true (if rep = 0#8 then .done (leNat data) else .refused rep)) }
        | _ => x)
    | .msg e => replyArrives a w1 e st
    | .prefetch e ga pf tcls => pfArrives w1 e ga o.t.kdom pf tcls rep data
    | .unit _ ref => unitArrives w1 ref o.t st data
    | .mgmt => w1

end Sys2Proof.Machine
end

