-- ==== Sys2Proof/Machine/Ports.lean ====
section
/-!
DEFINITION. Turroth ports (chapter 12): states and loss (R482, R502), lanes and rotation (R465 to R472), replay and credit
(R477 to R481), flits (R473 to R476, R487).
-/

namespace Sys2Proof.Machine

/-- The die of a port runs (R32). -/
def portRuns (a : Anat) (p : Nat) : Bool := dieRuns a (26 * (p / 8))

/-! Events and states. -/

/-- A `LNK_EVT` bit; vector 1 is sent when no bit of any port was set (R561). -/
def lnkEvent (w : World) (p b : Nat) : World :=
  let any := (List.range 32).any (fun q => decide (w.reg (portBase q + 0x10) 0#64 ≠ 0#64))
  let old := w.reg (portBase p + 0x10) 0#64
  let w1 := w.setReg (portBase p + 0x10) (setBit old b true)
  let w2 := if old = 0#64 then w1.note 1 (w64 (2 ^ p)) else w1
  if any then w2 else msixSend w2 0 1

/-- A port that has left its session: lanes dark, nothing under way; what HELLO told of the partner stays readable. -/
def Port.stop (x : Port) (st reason : Nat) : Port :=
  { Port.reset with state := st, reason := reason, nid := x.nid, pport := x.pport, gen := x.gen, dev := x.dev, sw := x.sw }

/-- A BAR0 offset of a route entry (R497): its die and node. -/
def routeOf (off : Nat) : Option (Nat × Nat) :=
  let d := off / 0x1000000 - 1
  let o := off % 0x1000000
  let q := (o - 0x800000) / 0x10000
  let r := o % 0x10000
  if off < 0x1000000 ∨ 0x5000000 ≤ off ∨ o < 0x800000 ∨ 0x880000 ≤ o ∨ r < 0x8000 ∨ 0x9000 ≤ r then none
  else some (d, 512 * q + (r - 0x8000) / 8)

/-- LOST sets in each VALID route entry that lists no UP port (R502). -/
def markAllLost (w : World) : World :=
  { w with bar0 := w.bar0.map (fun x =>
      if (routeOf x.1).isSome && bit x.2 63 && (upPorts w x.2).isEmpty then (x.1, setBit x.2 62 true) else x) }

/-- An answer to a request of another node leaves (R493, R498): data with RSPD, otherwise CMP; one that has no route is
lost. -/
def sendAnswer (w : World) (d : Nat) (dst : Nat) (kdom : Byte) (tid : Nat) (st : Byte) (data : List Byte) : World :=
  let t := { txnOf (if data.isEmpty then 0x11 else 0x10) kdom dst 0 data.length with
    tid := tid, status := st, data := data, src := w.nodeId.getD 0 }
  match choosePort w d t with
  | (.error _, w1) => w1
  | (.ok p, w1) => portSend w1 p { t with sealed := bit (w1.reg (routeOff d dst) 0#64) 61 }

/-- A transaction that waits at a lost port and is not this node's request: it leaves by another port, or a request is
answered and a response is discarded (R498, R502). DEDUCED (log 57). -/
def rerouteOther (w : World) (d : Nat) (t : Txn) : World :=
  match choosePort w d t with
  | (.ok p, w1) => portSend w1 p t
  | (.error st, w1) => if 0x10 ≤ t.opc then w1 else sendAnswer w1 d t.src t.kdom t.tid st []

/-- An outstanding transaction of a lost port: a read is sent again by another port, every other ends with STATUS 4
(R502). DEDUCED (log 57). -/
def rerouteOwn (a : Anat) (w : World) (k : Nat) : World :=
  match sget w.txns k with
  | none => w
  | some o =>
    if o.t.opc = 1 then
      match choosePort w (o.who.die a) o.t with
      | (.ok p, w1) => txnGo { w1 with txns := sset w1.txns k { o with port := p, sent := false } } k
      | (.error _, w1) => completeTxn a w1 k 4#8 []
    else completeTxn a w k 4#8 []

/-- What follows when a port leaves UP or RETRAIN (R502): `q` is what waited in its egress queue. DEDUCED (log 57). -/
def portLoss (a : Anat) (w : World) (p : Nat) (q : List Txn) : World :=
  let me := w.nodeId.getD 0
  let own := (w.txns.filter (fun x => decide (x.2.port = p))).map (fun x => x.1)
  let others := q.filter (fun t => decide (t.src ≠ me) || decide (0x10 ≤ t.opc))
  let w1 := own.foldl (fun v k => rerouteOwn a v k) w
  let w2 := others.foldl (fun v t => rerouteOther v (p / 8) t) w1
  markAllLost w2

/-- A port goes to DISABLED, DOWN or REFUSED (R482, R486, R501). DEDUCED (log 53). -/
def portLeave (a : Anat) (w : World) (p st reason : Nat) : World :=
  let x := w.port p
  let w1 := w.setPort p (x.stop st reason)
  let w2 := if st = 5 then lnkEvent (portCount w1 p 11 1) p 1 else if st = 6 then lnkEvent w1 p 3 else w1
  if x.state = 3 ∨ x.state = 4 then portLoss a w2 p x.egress else w2

/-- A port starts lane training: its die runs, it is enabled and the node id is valid (R482, R483). -/
def portTrain (a : Anat) (w : World) (p : Nat) : World :=
  if portRuns a p && bit (lnkCtl w p) 0 && w.nodeId.isSome && !w.pwr.refStop then w.modPort p (fun x => x.stop 1 x.reason) else w

/-- A rotation in progress is given up: the lane carries its data again (R470). DEDUCED (log 52). -/
def rotEnd (r : Rot) (l : List Lane) : Rot × List Lane :=
  if r.phase = 0 then (r, l)
  else ({ r with phase := 0 }, lmod (lmod l r.lane (fun _ => ⟨r.lane, 0⟩)) 8 (fun _ => ⟨15, 1⟩))

def Port.rotAbort (x : Port) : Port :=
  let a := rotEnd x.rotRx x.rx
  let b := rotEnd x.rotTx x.tx
  { x with rotRx := a.1, rx := a.2, rotTx := b.1, tx := b.2 }

/-- An UP port enters RETRAIN (R482). -/
def toRetrain (w : World) (p : Nat) : World :=
  if (w.port p).state = 3 then lnkEvent (w.modPort p (fun x => { x.rotAbort with state := 4 })) p 2 else w

/-- `LNK_ENABLE`. -/
def lnkEnable (a : Anat) (w : World) (p : Nat) (on : Bool) : World :=
  let old := lnkCtl w p
  let w1 := w.setReg (portBase p) (setBit old 0 on)
  if on then (if (w1.port p).state = 0 then portTrain a w1 p else w1)
  else if (w.port p).state = 0 then w1
  else portLeave a w1 p 0 9

/-- A write of `LNK_CTL` (R505). -/
def lnkCtlWrite (a : Anat) (w : World) (p : Nat) (v : W64) : World :=
  let w1 := w.setReg (portBase p) (setBit (lnkCtl w p) 1 (bit v 1))
  let w2 := lnkEnable a w1 p (bit v 0)
  if bit v 8 then toRetrain w2 p else w2

def execLnkEnable (p : Fin 32) (on : Bool) (s : State) : Res :=
  toWorld s (if portRuns s.anat p.val then lnkEnable s.anat s.w p.val on else s.w)

def execRetrain (p : Fin 32) (s : State) : Res :=
  toWorld s (if portRuns s.anat p.val then toRetrain s.w p.val else s.w)

/-! Lanes. -/

def Lane.works (l : Lane) : Bool := decide (l.st ≠ 4) && decide (l.st ≠ 5)

/-- The lanes of a direction when those of a list work (R471, R472): their state, whether the direction runs at half
width, whether rotation has stopped. -/
def laneLayout (ok : List Bool) : List Lane × Bool × Bool :=
  let w := (List.range 9).filter (fun i => ok.getD i false)
  let bad (i : Nat) : Lane := if ok.getD i false then ⟨15, 5⟩ else ⟨15, 4⟩
  if 8 ≤ w.length then
    let miss := (List.range 8).find? (fun i => !ok.getD i false)
    let low := (List.range 8).map (fun i => if ok.getD i false then Lane.mk i 0 else ⟨15, 4⟩)
    match miss with
    | some k => (low ++ [⟨k, 0⟩], false, true)
    | none => (low ++ [if ok.getD 8 false then ⟨15, 1⟩ else ⟨15, 4⟩], false, !ok.getD 8 false)
  else
    let place (i : Nat) : Lane :=
      match w.findIdx? (fun j => decide (j = i)) with
      | some n => if n < 4 then ⟨n, 0⟩ else if n = 4 then ⟨15, 1⟩ else bad i
      | none => bad i
    ((List.range 9).map place, true, true)

/-- The lanes of one direction replaced. -/
def Port.setDir (x : Port) (rx : Bool) (l : List Lane) (half stopped : Bool) : Port :=
  if rx then { x with rx := l, halfRx := half, rotRx := { Rot.idle with stopped := stopped } }
  else { x with tx := l, halfTx := half, rotTx := { Rot.idle with stopped := stopped } }

def Port.dir (x : Port) (rx : Bool) : List Lane := if rx then x.rx else x.tx
def Port.half (x : Port) (rx : Bool) : Bool := if rx then x.halfRx else x.halfTx

/-- A lane of an UP or RETRAIN port fails in a direction (R471, R472). -/
def laneFail (a : Anat) (w : World) (p i : Nat) (rx : Bool) : World :=
  let x := w.port p
  let l := x.dir rx
  let old := l.getD i Lane.dark
  if !(x.state = 3 ∨ x.state = 4) || !old.works then w
  else
    let ok := (l.map Lane.works).set i false
    let n := (ok.filter (fun b => b)).length
    let spare := l.getD 8 Lane.dark
    let w1 := lnkEvent w p 5
    let count (v : World) : World :=
      avEvent { v with av := { v.av with lanes := v.av.minutes :: v.av.lanes } } 8
    if n < 4 then portLeave a w1 p 5 2
    else if !x.half rx && decide (8 ≤ n) && (decide (i = 8) || decide (spare.st = 1) || decide (spare.carries = i)) then
      -- lane 8 takes over, or has failed itself, or holds the lane's data already
      let l1 := if i = 8 then l.set 8 ⟨15, 4⟩
        else (l.set i ⟨15, 4⟩).set 8 ⟨if old.carries = 15 then spare.carries else old.carries, 0⟩
      if i = 8 ∧ spare.carries ≠ 15 then
        let y := laneLayout ok
        toRetrain (w1.modPort p (fun z => z.setDir rx y.1 y.2.1 y.2.2)) p
      else
        let w2 := w1.modPort p (fun z => z.setDir rx l1 false true)
        if i = 8 then w2 else count w2
    else
      let y := laneLayout ok
      let w2 := w1.modPort p (fun z => z.setDir rx y.1 y.2.1 y.2.2)
      toRetrain (if y.2.1 && !x.half rx then lnkEvent w2 p 4 else w2) p

def execLaneFail (p : Fin 32) (lane : Fin 9) (rx : Bool) (s : State) : Res :=
  toWorld s (if portRuns s.anat p.val then laneFail s.anat s.w p.val lane.val rx else s.w)

/-- `LANE_TRAIN_LOCKED`: the lanes locked and deskewed in each direction (R466, R482). -/
def lanesLocked (m : BitVec 9) : List Bool := (List.range 9).map (fun i => bit m i)

/-- A port enters NEGOTIATE: a new SESSION is drawn and HELLO is sent with the allocation in force (R484, R506). -/
def toNegotiate (w : World) (p : Nat) : World :=
  let u := w.freeCtr
  let v := w.reg (portBase p + 0x18) vcbufReset
  let w1 := { w with freeCtr := u + 1 }
  (w1.modPort p (fun x => { x with state := 2, hs := { Hs.none with own := w64 (Config.free u), due := [1] }, alloc := v })).emit (.hs p 1)

def execLaneTrainLocked (p : Fin 32) (rx tx : BitVec 9) (s : State) : Res :=
  toWorld s (
    let a := laneLayout (lanesLocked rx)
    let b := laneLayout (lanesLocked tx)
    let n (m : BitVec 9) : Nat := ((lanesLocked m).filter (fun x => x)).length
    let half (w : World) (h : Bool) : World := if h then lnkEvent w p.val 4 else w
    if (s.w.port p.val).state = 1 ∧ portRuns s.anat p.val ∧ 4 ≤ n rx ∧ 4 ≤ n tx then
      let w1 := s.w.modPort p.val (fun x => (x.setDir true a.1 a.2.1 a.2.2).setDir false b.1 b.2.1 b.2.2)
      toNegotiate (half w1 (a.2.1 || b.2.1)) p.val
    else s.w)

/-! Rotation. -/

/-- A control slot of six fields: type, byte 1, byte 2, bytes 8 to 15. -/
def ctlSlot (type b1 b2 : Nat) (v : W64) : List Byte :=
  [BitVec.ofNat 8 type, BitVec.ofNat 8 b1, BitVec.ofNat 8 b2, 0#8, 0#8, 0#8, 0#8, 0#8] ++ leBytes 8 v.toNat

def sendRot (w : World) (p k lane block : Nat) : World := w.emit (.ctl p (ctlSlot 3 k lane (w64 block)))

/-- The start of logical lane k's slot at or after a time (R469). DEDUCED (log 27). -/
def rotTime (t : W64) (p k : Nat) : W64 :=
  let m := 125000 * k + 3000 * p
  w64 (t.toNat + (m % 1000000 + 1000000 - t.toNat % 1000000) % 1000000)

/-- `LANE_ROTATION_START`: `block` is the current block. -/
def execLaneRotationStart (p : Fin 32) (k : Fin 8) (block : BitVec 32) (s : State) : Res :=
  toWorld s (
    let w := s.w.timeTo (rotTime s.w.time p.val k.val)
    let x := w.port p.val
    if !portRuns s.anat p.val || decide (x.state ≠ 3) || x.halfRx || x.halfTx || x.rotTx.stopped || decide (x.rotTx.phase ≠ 0) ||
        !bit (lnkCtl w p.val) 1 then w
    else
      let b := block.toNat + 64
      let w1 := w.modPort p.val (fun y => { y with rotTx := ⟨1, k.val, b, false⟩, tx := y.tx.set 8 ⟨k.val, 2⟩ })
      sendRot w1 p.val 0 k.val b)

/-- The receiver of an UP port takes part in a rotation that it can take part in. DEDUCED (log 52). -/
def rotOk (a : Anat) (w : World) (p : Nat) : Bool := portRuns a p && decide ((w.port p).state = 3)

/-- `ROT_PREP`: `good` tells whether lane 8 decodes block B without an uncorrectable codeword (R469 step 3, R470). -/
def execRotPrep (p : Fin 32) (k : Fin 8) (block : BitVec 32) (good : Bool) (s : State) : Res :=
  toWorld s (
    let x := s.w.port p.val
    if !rotOk s.anat s.w p.val then s.w
    else if !good || x.halfRx || x.rotRx.stopped || decide (x.rotRx.phase ≠ 0) then sendRot s.w p.val 4 k.val block.toNat
    else
      let w1 := s.w.modPort p.val (fun y => { y with
        rotRx := ⟨2, k.val, block.toNat, false⟩, rx := (y.rx.set k.val ⟨15, 3⟩).set 8 ⟨k.val, 0⟩ })
      sendRot w1 p.val 1 k.val block.toNat)

/-- `ROT_ACK`. -/
def execRotAck (p : Fin 32) (s : State) : Res :=
  toWorld s (
    let x := s.w.port p.val
    if rotOk s.anat s.w p.val && decide (x.rotTx.phase = 1) then
      s.w.modPort p.val (fun y => { y with
        rotTx := { y.rotTx with phase := 2 }, tx := (y.tx.set y.rotTx.lane ⟨15, 3⟩).set 8 ⟨y.rotTx.lane, 0⟩ })
    else s.w)

/-- Register k of a lane (R504). -/
def laneReg (p i k : Nat) : Nat := portBase p + 0x400 + 0x40 * i + 8 * k

/-- `LANE_CALIBRATION_DONE`: the receiver's recalibration of the rotating lane has ended (R469 step 4, R471).
DEDUCED (log 52). -/
def execLaneCalibrationDone (p : Fin 32) (good : Bool) (s : State) : Res :=
  toWorld s (
    let x := s.w.port p.val
    let k := x.rotRx.lane
    if !(rotOk s.anat s.w p.val && decide (x.rotRx.phase = 2)) then s.w
    else
      let w1 := s.w.countReg (laneReg p.val k 4) 1
      if good then
        sendRot (w1.modPort p.val (fun y => { y with rotRx := { y.rotRx with phase := 3 } })) p.val 2 k x.rotRx.block
      else sendRot (laneFail s.anat (w1.countReg (laneReg p.val k 5) 1) p.val k true) p.val 4 k x.rotRx.block)

/-- A direction's rotation has ended with the lane back in service (R469 step 6). -/
def rotDone (w : World) (p : Nat) (rx : Bool) : World :=
  let w1 := w.modPort p (fun x =>
    if rx then
      let r := rotEnd x.rotRx x.rx
      { x with rotRx := r.1, rx := r.2 }
    else
      let r := rotEnd x.rotTx x.tx
      { x with rotTx := r.1, tx := r.2 })
  portCount w1 p 12 1

/-- `ROT_READY`: ROT RETURN names the current block + 64, and from B′ + 2 on lane 8 carries the training pattern.
DEDUCED (log 52). -/
def execRotReady (p : Fin 32) (block : BitVec 32) (s : State) : Res :=
  toWorld s (
    let x := s.w.port p.val
    if rotOk s.anat s.w p.val && decide (x.rotTx.phase = 2) then
      rotDone (sendRot s.w p.val 3 x.rotTx.lane (block.toNat + 64)) p.val false
    else s.w)

/-- `ROT_RETURN`. -/
def execRotReturn (p : Fin 32) (s : State) : Res :=
  toWorld s (if rotOk s.anat s.w p.val && decide ((s.w.port p.val).rotRx.phase = 3) then rotDone s.w p.val true else s.w)

/-- `ROT_ABORT`: before ROT ACK the lane stays as it was; after it, the calibration has failed and the logical lane stays
on lane 8 (R470, R471). -/
def execRotAbort (p : Fin 32) (s : State) : Res :=
  toWorld s (
    let x := s.w.port p.val
    if !rotOk s.anat s.w p.val || decide (x.rotTx.phase = 0) then s.w
    else if x.rotTx.phase = 1 then
      s.w.modPort p.val (fun y =>
        let r := rotEnd y.rotTx y.tx
        { y with rotTx := r.1, tx := r.2 })
    else laneFail s.anat (s.w.countReg (laneReg p.val x.rotTx.lane 5) 1) p.val x.rotTx.lane false)

/-! Acknowledgement and replay. -/

/-- The flits up to an index have been acknowledged. -/
def Port.ackTo (x : Port) (n : Nat) : Port :=
  if x.ackIdx < n ∧ n ≤ x.txIdx then { x with ackIdx := n, kept := x.kept.filter (fun f => decide (n ≤ f.index)), replays := 0 } else x

/-- The index that a 12-bit ACK names (R474). -/
def Port.ackOf (x : Port) (ack : Nat) : Nat := x.txIdx - (x.txIdx + 4096 - ack % 4096) % 4096

/-- The transmitter sends again from an index on; the eighth replay in a row takes the port into RETRAIN (R478). -/
def replayFrom (w : World) (p idx : Nat) : World :=
  let x := w.port p
  let n := x.txIdx - idx
  let w1 := portCount (portCount ((w.modPort p (fun y => ({ y with replays := y.replays + 1 }).epoch n)).emit (.replay p idx)) p 4 1) p 0 n
  if 8 ≤ x.replays + 1 then toRetrain w1 p else w1

def nakTake (w : World) (p idx : Nat) : World :=
  let x := w.port p
  if x.ackIdx ≤ idx ∧ idx < x.txIdx then replayFrom w p idx else w

def execNak (p : Fin 32) (idx : W64) (s : State) : Res :=
  toWorld s (if rotOk s.anat s.w p.val then nakTake s.w p.val idx.toNat else s.w)

/-- `NAK_TIMEOUT`: one more NAK may be sent (R477). -/
def execNakTimeout (p : Fin 32) (s : State) : Res :=
  toWorld s (if portRuns s.anat p.val then s.w.modPort p.val (fun x => { x with nakOut := false }) else s.w)

/-- DESIGN CHOICE (log 102). -/
def execReplayTimeout (p : Fin 32) (s : State) : Res :=
  toWorld s (
    let x := s.w.port p.val
    if rotOk s.anat s.w p.val && decide (x.ackIdx < x.txIdx) then replayFrom s.w p.val x.ackIdx else s.w)

/-! Credit and pause. -/

/-- A cumulative count modulo 2^16, as the number of slots freed that it stands for (R481). -/
def creditOf (sent old c : Nat) : Nat := max old (sent - (sent + 65536 - c % 65536) % 65536)

/-- The cycles for which slots have waited for credit are a matter of timing: where some wait, `CREDIT_STALL` counts a free
number of them (R481). DESIGN CHOICE (log 9). -/
def creditStalled (w : World) (p : Nat) : World :=
  let x := w.port p
  if x.egress.any (fun t => decide (x.credit.getD t.vc 0 + x.palloc.getD t.vc 0 < x.sent.getD t.vc 0 + t.slots)) then
    { portCount w p 7 (Config.free w.freeCtr) with freeCtr := w.freeCtr + 1 }
  else w

/-- The six counts of a CREDIT slot. -/
def creditTake (w : World) (p : Nat) (counts : List Nat) : World :=
  let w1 := (creditStalled w p).modPort p (fun x => { x with
    credit := (List.range 6).map (fun v => creditOf (x.sent.getD v 0) (x.credit.getD v 0) (counts.getD v 0)) })
  portDrain p (w1.port p).egress.length w1

def execCredit (p : Fin 32) (counts : BitVec 96) (s : State) : Res :=
  toWorld s (
    if rotOk s.anat s.w p.val then creditTake s.w p.val ((List.range 6).map (fun v => fld counts (16 * v) 16)) else s.w)

/-- A PAUSE slot (R503). -/
def pauseTake (w : World) (p : Nat) (on : Bool) : World :=
  let w1 := w.modPort p (fun x => { x with paused := on })
  if on then w1 else portDrain p (w1.port p).egress.length w1

def execPauseSlot (p : Fin 32) (on : Bool) (s : State) : Res :=
  toWorld s (if rotOk s.anat s.w p.val then pauseTake s.w p.val on else s.w)

/-- The receiver has freed slots of a virtual channel: CREDIT is sent, but not by a stopped module (R481, R503); the entry
of a credit starvation withholds it (R593). -/
def slotsFreed (w : World) (p v n : Nat) : World :=
  let w1 := w.modPort p (fun x => { x with freed := lmod x.freed v (fun k => k + n) })
  if w1.held then w1
  else
    let r := pertEvent w1 (p / 8) 3 3 [16 * (p % 8) + 15]
    if r.1 then r.2
    else
      let f := (r.2.port p).freed
      r.2.emit (.ctl p ([1#8, 0#8] ++ (f.map (fun k => leBytes 2 (k % 65536))).flatten ++ [0#8, 0#8]))

/-! Flits. -/

/-- The class of slot j, 1 to 14, in a slot directory (R475). -/
def slotClass (f : NetFlit) (j : Nat) : Nat := fld f.dir (4 * (j - 1)) 3

/-- Bytes of slot j. -/
def slotBytes (f : NetFlit) (j : Nat) : List Byte := (f.slots.drop (16 * (j - 1))).take 16

/-- A fragment of a handshake message is kept until its message is complete (R488). DEDUCED (log 55). -/
def hsFrag (w : World) (p kind num : Nat) (b : List Byte) : World :=
  w.modPort p (fun x =>
    if x.state = 2 ∨ x.rekey then
      { x with hs := { x.hs with frag := (kind, num, b) :: x.hs.frag.filter (fun f => !(decide (f.1 = kind) && decide (f.2.1 = num))) } }
    else x)

/-- One control slot (R476). ROT slots are the ROT commands. -/
def ctlTake (w : World) (p : Nat) (b : List Byte) : World :=
  let at' (i n : Nat) : Nat := leNat ((b.drop i).take n)
  match at' 0 1 with
  | 1 => if (w.port p).state = 3 then creditTake w p ((List.range 6).map (fun v => at' (2 + 2 * v) 2)) else w
  | 2 => if (w.port p).state = 3 then nakTake w p (at' 8 8) else w
  | 3 => w
  | 4 => if (w.port p).state = 3 then pauseTake w p (decide (at' 1 1 = 1)) else w
  | 5 => hsFrag w p (at' 1 1) (at' 2 2) (b.drop 4)
  | _ => portCount w p 9 1

/-- The control slots of a flit, in order. -/
def ctlTakeAll (w : World) (p : Nat) (f : NetFlit) : World :=
  ((List.range 14).map (fun i => i + 1)).foldl (fun v j => if slotClass f j = 6 then ctlTake v p (slotBytes f j) else v) w

/-- One NAK, and none again before the flit arrives or 2 µs have passed (R477). -/
def sendNak (w : World) (p : Nat) : World :=
  let x := w.port p
  if x.nakOut then w
  else (w.modPort p (fun y => { y with nakOut := true })).emit (.ctl p (ctlSlot 2 0 0 (w64 x.rxIdx)))

/-- A valid CRC with an invalid tag: four within 1 ms take the port DOWN (R487). -/
def authFail (a : Anat) (w : World) (p : Nat) : World :=
  let l := w.time :: ((w.port p).auth.filter (fun t => decide (w.time.toNat - t.toNat < 100000)))
  let w1 := lnkEvent (portCount (w.modPort p (fun x => { x with auth := l })) p 6 1) p 6
  if 4 ≤ l.length then portLeave a w1 p 5 8 else sendNak w1 p

/-- The receive epoch of a valid flit (R491): a parity that is not the current epoch's names the previous one while its key
is held, otherwise the next one. DEDUCED (log 56). -/
def Port.rxEpoch (x : Port) (par : Bool) : Port :=
  if (decide (x.epRx % 2 = 1) == par) || x.prevKey then x else { x with epRx := x.epRx + 1, prevKey := true }

/-- The checks of a received flit; the flag tells whether it is valid (R473, R477, R486, R487). DEDUCED (log 56). -/
def flitCheck (a : Anat) (w : World) (p : Nat) (f : NetFlit) (data : Bool) : Bool × World :=
  let w0 := portCount w p 1 1
  let r := if data then pertEvent w0 (p / 8) 4 3 [16 * (p % 8) + 15] else (false, w0)
  if !f.crcOk || r.1 then (false, sendNak (portCount r.2 p 5 1) p)
  else if fld f.hdr 0 4 ≠ 1 then (false, portLeave a r.2 p 6 12)
  else if (w.port p).state = 3 && !f.tagOk then (false, authFail a r.2 p)
  else
    (true, r.2.modPort p (fun x =>
      let y := x.ackTo (x.ackOf (fld f.hdr 20 12))
      if y.state = 3 then y.rxEpoch (bit f.hdr 7) else y))

/-- `DATA_FLIT`. The transactions it carries are the transaction commands that follow. DESIGN CHOICE (log 54). -/
def execDataFlit (p : Fin 32) (f : NetFlit) (s : State) : Res :=
  toWorld s (
    let n := p.val
    if !rotOk s.anat s.w n then s.w
    else
      let r := flitCheck s.anat s.w n f true
      if !r.1 then r.2
      else if fld f.hdr 4 3 ≠ 1 then portCount r.2 n 9 1
      else
        let x := r.2.port n
        let w0 := portDrain n x.egress.length r.2
        if fld f.hdr 8 12 ≠ x.rxIdx % 4096 then sendNak w0 n
        else
          let k := (((List.range 14).map (fun i => i + 1)).filter (fun j => decide (slotClass f j < 6))).length
          let w1 := w0.modPort n (fun y => { y with rxIdx := y.rxIdx + 1, nakOut := false })
          ctlTakeAll (portCount w1 n 3 (16 * k)) n f)

/-- `CTL_FLIT`. -/
def execCtlFlit (p : Fin 32) (f : NetFlit) (s : State) : Res :=
  toWorld s (
    let n := p.val
    let st := (s.w.port n).state
    if !portRuns s.anat n || !(decide (st = 3) || decide (st = 2)) then s.w
    else
      let r := flitCheck s.anat s.w n f false
      if !r.1 then r.2
      else if fld f.hdr 4 3 ≠ 0 then portCount r.2 n 9 1
      else
        let w0 := portDrain n (r.2.port n).egress.length r.2
        ctlTakeAll w0 n f)

/-! Timers. -/

def execLaneTrainTimeout (p : Fin 32) (s : State) : Res :=
  toWorld s (if portRuns s.anat p.val && decide ((s.w.port p.val).state = 1) then portLeave s.anat s.w p.val 5 0 else s.w)

def execNegotiateTimeout (p : Fin 32) (s : State) : Res :=
  toWorld s (if portRuns s.anat p.val && decide ((s.w.port p.val).state = 2) then portLeave s.anat s.w p.val 5 10 else s.w)

def execRetrainTimeout (p : Fin 32) (s : State) : Res :=
  toWorld s (if portRuns s.anat p.val && decide ((s.w.port p.val).state = 4) then portLeave s.anat s.w p.val 5 3 else s.w)

/-- `RETRAIN_LOCKED`: the port is UP again, and replay resumes from the oldest unacknowledged flit (R478, R482). -/
def execRetrainLocked (p : Fin 32) (s : State) : Res :=
  toWorld s (
    let n := p.val
    let x := s.w.port n
    if portRuns s.anat n && decide (x.state = 4) then
      let w1 := lnkEvent (s.w.modPort n (fun y => { y with state := 3, replays := 0, nakOut := false })) n 0
      let w2 := if x.ackIdx < x.txIdx then replayFrom w1 n x.ackIdx else w1
      portDrain n x.egress.length w2
    else s.w)

/-- `TRAINING_BLOCK`: a block that carries a session value (R482). DEDUCED (log 53). -/
def execTrainingBlock (p : Fin 32) (session : W64) (s : State) : Res :=
  toWorld s (
    let x := s.w.port p.val
    if !portRuns s.anat p.val || !(decide (x.state = 3) || decide (x.state = 4)) then s.w
    else if session = x.hs.own ∨ session = x.hs.peer then toRetrain s.w p.val
    else portLeave s.anat s.w p.val 5 11)

def execDownRetry (p : Fin 32) (s : State) : Res :=
  toWorld s (if (s.w.port p.val).state = 5 then portTrain s.anat s.w p.val else s.w)

def execRefusedRetry (p : Fin 32) (s : State) : Res :=
  toWorld s (if (s.w.port p.val).state = 6 then portTrain s.anat s.w p.val else s.w)

/-- DEDUCED (log 53); DESIGN CHOICE (log 102). -/
def execSilenceTimeout (p : Fin 32) (s : State) : Res :=
  toWorld s (
    let st := (s.w.port p.val).state
    if portRuns s.anat p.val && (decide (st = 3) || decide (st = 4)) then portLeave s.anat s.w p.val 5 1 else s.w)

/-- `EPOCH_KEY_RETIRE` (R491). -/
def execEpochKeyRetire (p : Fin 32) (s : State) : Res :=
  toWorld s (s.w.modPort p.val (fun x => { x with prevKey := false }))

/-- A write of `LNK_VCBUF` (R506). -/
def vcbufWrite (w : World) (p : Nat) (v : W64) : World :=
  let l := (List.range 6).map (fun i => fld v (10 * i) 10)
  if l.any (fun x => decide (x < 3)) || decide (1024 < l.foldl (fun a b => a + b) 0) then lnkEvent w p 7
  else w.setReg (portBase p + 0x18) (setFld v 60 4 0)

def execLnkVcbufWrite (p : Fin 32) (v : W64) (s : State) : Res :=
  toWorld s (if portRuns s.anat p.val then vcbufWrite s.w p.val v else s.w)

/-! The handshake. -/

/-- A handshake message of the module, repeated until it is answered (R479, R488). -/
def sendHs (w : World) (p step : Nat) : World :=
  (w.modPort p (fun x => { x with hs := { x.hs with due := step :: x.hs.due.filter (fun k => decide (k ≠ step)) } })).emit (.hs p step)

/-- A message of a step arrives: it answers the module's messages of earlier steps, and its fragments are used up. -/
def hsGot (w : World) (p step : Nat) (f : Hs → Hs) : World :=
  w.modPort p (fun x =>
    let h := f x.hs
    { x with hs := { h with due := h.due.filter (fun k => decide (step ≤ k)), frag := h.frag.filter (fun g => decide (g.1 ≠ step)) } })

def execHs (p : Fin 32) (kind : Byte) (num : BitVec 16) (b : BitVec 96) (s : State) : Res :=
  toWorld s (if portRuns s.anat p.val then hsFrag s.w p.val kind.toNat num.toNat (leBytes 12 b.toNat) else s.w)

/-- The handshake runs on a port: during NEGOTIATE, or again for new keys (R491). -/
def hsRuns (a : Anat) (w : World) (p : Nat) : Bool :=
  let x := w.port p
  portRuns a p && (decide (x.state = 2) || (decide (x.state = 3) && x.rekey))

/-- The value in force of an object that takes effect at a reset. -/
def bootVal (w : World) (obj : Nat) (dflt : List Byte) : List Byte := sgetD w.dict.boot obj dflt

/-- Development partners are allowed (R489): `DEV_PARTNERS`. -/
def devAllowed (a : Anat) (w : World) : Bool :=
  decide (leNat (bootVal w 0x400101 (if a.part = .d48 then [1#8] else [0#8])) ≠ 0)

/-- The module is the initiator of the handshake (R488). -/
def initiator (w : World) (p : Nat) : Bool := decide (w.nodeId.getD 0 < (w.port p).nid)

/-- `HELLO` (R484 to R486). DEDUCED (log 55). -/
def execHello (p : Fin 32) (b : List Byte) (s : State) : Res :=
  toWorld s (
    let n := p.val
    let at' (i k : Nat) : Nat := leNat ((b.drop i).take k)
    let x := s.w.port n
    if !portRuns s.anat n || decide (x.state ≠ 2) || x.hs.hello then s.w
    else if b.length ≠ 48 ∨ 32 ≤ at' 4 1 then portLeave s.anat s.w n 6 12
    else if 1 < at' 0 1 ∨ at' 1 1 < 1 then portLeave s.anat s.w n 6 4
    else if at' 5 1 / 2 % 2 = 1 && !devAllowed s.anat s.w then portLeave s.anat s.w n 6 6
    else if at' 2 2 % 4096 = s.w.nodeId.getD 0 then portLeave s.anat s.w n 6 7
    else
      let w1 := s.w.modPort n (fun y => { y with
        nid := at' 2 2 % 4096, pport := at' 4 1, gen := 1, dev := decide (at' 5 1 / 2 % 2 = 1), sw := decide (at' 5 1 % 2 = 1)
        palloc := (List.range 6).map (fun v => at' (16 + 2 * v) 2) })
      sendHs (hsGot w1 n 1 (fun h => { h with hello := true, peer := w64 (at' 8 8) })) n 2)

/-- A partner's identity is acceptable (R489): its root, and the allow-list. DEDUCED (log 55). -/
def certOk (w : World) (p : Nat) (c : CertFacts) : Bool :=
  let allow := bootVal w 0x400301 []
  let listed := (List.range (allow.length / 48)).any (fun i => decide ((allow.drop (48 * i)).take 48 = c.digest))
  let root := match c.root with
    | none => false
    | some k => decide (k = 0#4) || ((w.port p).sw && !(bootVal w (0x400400 + k.toNat) []).isEmpty)
  root && (allow.isEmpty || listed)

/-- `CERT`. -/
def execCert (p : Fin 32) (c : CertFacts) (s : State) : Res :=
  toWorld s (
    let n := p.val
    let x := s.w.port n
    if !portRuns s.anat n || decide (x.state ≠ 2) || !x.hs.hello || x.hs.cert then s.w
    else if !certOk s.w n c then portLeave s.anat s.w n 6 5
    else
      let w1 := hsGot s.w n 2 (fun h => { h with cert := true })
      if initiator w1 n then sendHs w1 n 3 else w1)

/-- `KEM_EK`: the responder encapsulates and answers; a malformed key is refused. DEDUCED (log 55). -/
def execKemEk (p : Fin 32) (good : Bool) (s : State) : Res :=
  toWorld s (
    let n := p.val
    let x := s.w.port n
    if !hsRuns s.anat s.w n || !x.hs.cert || initiator s.w n || x.hs.kem then s.w
    else if !good then portLeave s.anat s.w n 6 12
    else sendHs (sendHs (hsGot s.w n 3 (fun h => { h with kem := true })) n 4) n 5)

/-- `KEM_CT`: the initiator has the shared secret and signs the transcript. -/
def execKemCt (p : Fin 32) (good : Bool) (s : State) : Res :=
  toWorld s (
    let n := p.val
    let x := s.w.port n
    if !hsRuns s.anat s.w n || !x.hs.cert || !initiator s.w n || x.hs.kem then s.w
    else if !good then portLeave s.anat s.w n 6 12
    else sendHs (hsGot s.w n 4 (fun h => { h with kem := true })) n 5)

/-- `SIG`: the partner's signature over the transcript (R489). During NEGOTIATE the first encrypted flit follows; in a
rekey the new keys wait for the next epoch (R491). DEDUCED (log 55). -/
def execSig (p : Fin 32) (good : Bool) (s : State) : Res :=
  toWorld s (
    let n := p.val
    let x := s.w.port n
    if !hsRuns s.anat s.w n || !x.hs.kem || x.hs.sig then s.w
    else if !good then portLeave s.anat s.w n 6 5
    else
      let w1 := hsGot s.w n 5 (fun h => { h with sig := true })
      if x.state = 2 then sendHs w1 n 6 else w1.modPort n (fun y => { y with hs := { y.hs with due := [] } }))

/-- `FIRST_ENCRYPTED_FLIT`: the port is UP, and the session's counts start (R477, R481, R488). -/
def execFirstEncryptedFlit (p : Fin 32) (tagOk : Bool) (s : State) : Res :=
  toWorld s (
    let n := p.val
    let x := s.w.port n
    if !portRuns s.anat n || decide (x.state ≠ 2) || !x.hs.sig then s.w
    else if !tagOk then authFail s.anat s.w n
    else
      lnkEvent (s.w.modPort n (fun y => { y with
        state := 3, hs := { y.hs with due := [] }, txIdx := 0, rxIdx := 0, ackIdx := 0, kept := [], nakOut := false, replays := 0
        sent := List.replicate 6 0, credit := List.replicate 6 0, freed := List.replicate 6 0, epTx := 0, epRx := 0, prevKey := false
        rekey := false, paused := false, egress := [], auth := [], epCount := 0 })) n 0)

/-- `REKEY`: steps 3 to 5 of R488 again (R491). -/
def execRekey (p : Fin 32) (s : State) : Res :=
  toWorld s (
    let n := p.val
    if !rotOk s.anat s.w n then s.w
    else
      let w1 := s.w.modPort n (fun y => { y with rekey := true, hs := { y.hs with kem := false, sig := false, frag := [] } })
      if initiator w1 n then sendHs w1 n 3 else w1)

/-- `CONTROL_MESSAGE_REPEAT`: unanswered handshake messages, ROT PREP and ROT READY are sent again (R479). -/
def execControlMessageRepeat (p : Fin 32) (s : State) : Res :=
  toWorld s (
    let n := p.val
    let x := s.w.port n
    if !portRuns s.anat n then s.w
    else
      let w1 := x.hs.due.reverse.foldl (fun v k => v.emit (.hs n k)) s.w
      let w2 := if x.rotTx.phase = 1 then sendRot w1 n 0 x.rotTx.lane x.rotTx.block else w1
      if x.rotRx.phase = 3 then sendRot w2 n 2 x.rotRx.lane x.rotRx.block else w2)

end Sys2Proof.Machine
end

