-- ==== Sys2Proof/Machine/Remote.lean ====
section
/-!
DEFINITION. Transactions that arrive at a port (R492 to R499): checks, seals, forwarding, requests performed at this node,
responses, timeouts and pair keys.
-/

namespace Sys2Proof.Machine

/-! Form. -/

/-- Size in bytes that LEN gives. -/
def netSize (t : NetTxn) : Nat := 2 ^ t.len.toNat

/-- The operation has a row in R493. -/
def opcKnown (o : Nat) : Bool := (decide (1 ≤ o) && decide (o ≤ 7)) || decide (o = 0x10) || decide (o = 0x11)

/-- Slots of a transaction as it arrived, header and seal included. -/
def netSlots (t : NetTxn) : Nat := 1 + t.sealed.toNat + (t.slots.length + 15) / 16

/-- AOP and RET of an atomic. -/
def netAop (t : NetTxn) : Nat := fld t.aux 0 4
def netRet (t : NetTxn) : Bool := bit t.aux 4

/-- Sizes, slots and reserved bits that R493 allows. DEDUCED (log 61). -/
def netOk (t : NetTxn) : Bool :=
  let n := (netSize t)
  let aligned := decide (t.addr.toNat % n = 0)
  let body := t.slots.length
  let base := decide (t.rsv = 0#6) && decide (t.nidx = 0#4) && decide (t.hops ≠ 3#2)
  base && match t.opc.toNat with
    | 1 => decide (t.aux = 0#7) && decide (n ≤ 256) && aligned && decide (body = 0)
    | 2 => decide (t.aux = 0#7) && decide (n ≤ 128) && aligned && decide (body = (n + 15) / 16 * 16)
    | 3 => decide (t.aux = 0#7) && decide (n = 64) && aligned && decide (body = 80)
    | 4 => decide (fld t.aux 5 2 = 0) && decide ((netAop t) ≤ 12) && !((netRet t) && decide ((netAop t) = 12)) &&
        decide (n = elemSize (netAop t)) && aligned && decide (body = 16)
    | 5 => decide (fld t.aux 4 3 = 0) && decide ((netAop t) ≤ 14) && decide ((netAop t) ≠ 2) && decide ((netAop t) ≠ 3) && decide (n = 128) && aligned &&
        decide (body = if (netAop t) = 12 then 48 else 144)
    | 6 | 7 => decide (t.aux = 0#7) && decide (n = 64) && decide (body = 64)
    | 0x10 => decide (n ≤ 256) && decide (body = (n + 15) / 16 * 16)
    | 0x11 => decide (body = 0)
    | _ => false

/-! Grants (R499). -/

/-- The grant table lets a node read, or with `wr` write, under a key domain. -/
def grantBit (w : World) (d : Byte) (node : Nat) (wr : Bool) : Bool :=
  let off := w.places.grtBase + 1024 * d.toNat + (if wr then 512 else 0) + node / 8
  bit (rdByte w.mem w.ks 0#8 off) (node % 8)

/-- The key domain is ACTIVE and its entry is valid (R510). -/
def kdLive (w : World) (d : Byte) : Bool :=
  decide (d ≠ 0#8) && decide ((w.ks.get d.toNat).state = 1) && decide (fld (kdtWord w d 0) 0 4 = 1) &&
    (bit (kdtWord w d 0) 8 || !w.host.unlocked)

def grantOk (w : World) (t : NetTxn) (wr : Bool) (ranges : List (Nat × Nat)) : Bool :=
  grantBit w t.kdom t.src.toNat wr && kdLive w t.kdom && ranges.all (fun r => inRanges w t.kdom r.1 r.2)

/-- Why a request for n bytes of local offsets is refused before its data is looked at. -/
def remoteStatus (a : Anat) (w : World) (t : NetTxn) (wr : Bool) (ranges : List (Nat × Nat)) : Option Byte :=
  let off := t.addr.toNat
  match region off with
  | .reserved => some 1#8
  | .host | .regs => some 2#8
  | .hbm =>
    if !populated a.part off then some 3#8
    else if !grantOk w t wr ranges then some 7#8
    else hbmStatus a w off

/-- The partition of remote requests at an offset's home pier: `DC_SRCPART.REMOTE` (R342). -/
def remotePart (w : World) (off : Nat) : Nat := fld (w.reg (dcBase (homeDie off) + 8) 0#64) 8 4

/-! Requests performed at this node. -/

/-- What a request does: its STATUS, the bytes returned, and the module after it. -/
structure Answer where
  st : Byte
  data : List Byte
  w : World
deriving DecidableEq, Repr

def doRead (a : Anat) (w : World) (t : NetTxn) : Answer :=
  let off := t.addr.toNat
  let n := (netSize t)
  match remoteStatus a w t false [(off, n)] with
  | some s => ⟨s, [], w⟩
  | none =>
    if (poisonIn w.mem w.ks w.places off n).isSome then ⟨6#8, [], w⟩
    else
      let r := dataOnly w w.mem t.kdom off n (inTagged w.places off)
      let w1 := (blocks (atOff off (offsets r.1)) 128).foldl (fun v o => pierAccess v (o / 128) 6 (remotePart w off) 7 t.kdom false true false) w
      ⟨if r.2 then 10#8 else 0#8, r.1, w1⟩

/-- A word tagged KEYH, STAT or CODE lies under one of the bytes written. -/
def coversSealed (w : World) (l : List (Nat × Byte)) : Bool :=
  (blocks l 8).any (fun q => inTagged w.places q && (let g := tagAt w.mem w.ks w.places q
    decide (g = 5#4) || decide (g = 6#4) || decide (g = 7#4)))

/-- A write of bytes at offsets within n bytes from ADDR. -/
def doWrite (a : Anat) (w : World) (t : NetTxn) (n : Nat) (l : List (Nat × Byte)) : Answer :=
  let off := t.addr.toNat
  match remoteStatus a w t true [(off, n)] with
  | some s => ⟨s, [], w⟩
  | none =>
    let b := atOff off l
    if coversSealed w b then ⟨8#8, [], w⟩
    else ⟨0#8, [], unitCommit w 6 (remotePart w off) 7 t.kdom .raw b⟩

/-- Bytes 16-byte units of a WR carry for its offsets. -/
def wrBody (t : NetTxn) : List (Nat × Byte) := offsets ((t.slots.drop (t.addr.toNat % 16)).take (netSize t))

/-- Bytes that the mask of a WRM selects. -/
def wrmBody (t : NetTxn) : List (Nat × Byte) :=
  (offsets ((t.slots.drop 16).take 64)).filter (fun x => bit (wordAt t.slots 0) x.1)

/-- The atomic that a transaction carries. DEDUCED (log 61). -/
def netAtom (t : NetTxn) (line : Bool) : AtomReq :=
  { aop := (netAop t), line := line, ret := (netRet t), isInt := t.isInt
    operand := if line then t.slots.drop 16 else t.slots.take (if (netAop t) = 12 then 8 else elemSize (netAop t))
    cmp := if line then 0#64 else wordAt t.slots 1
    hdr := if line then wordAt t.slots 0 else wordAt t.slots 1 }

/-- DEDUCED (log 61). -/
def doAtom (a : Anat) (w : World) (t : NetTxn) (line : Bool) : Answer :=
  let off := t.addr.toNat
  let r := netAtom t line
  let hdr := if (netAop t) = 12 ∨ (netAop t) = 13 then (match localOff w r.hdr with
    | some o => [(o, 128)]
    | none => []) else []
  match remoteStatus a w t true ((off, (netSize t)) :: hdr) with
  | some s => ⟨s, [], w⟩
  | none =>
    let z := performAtom a w r off 6 (remotePart w off) 7 t.kdom
    match z.1 with
    | .refused s => ⟨s, [], z.2⟩
    | .done old => ⟨0#8, if (netRet t) then leBytes (netSize t) old else [], z.2⟩

/-- A message for a logical engine (R549). DEDUCED (log 48). -/
def doMsg (a : Anat) (w : World) (t : NetTxn) : Answer :=
  if !grantOk w t true [] then ⟨7#8, [], w⟩
  else
    let r := deliverMsg a w (fld t.addr 0 7) ⟨t.src, t.kdom, t.srcEng, t.slots⟩
    ⟨match r.1 with
      | 0 => 0#8
      | 1 => 9#8
      | 2 => 7#8
      | _ => 2#8, [], r.2⟩

/-! Arrival. -/

/-- The transaction as it is sent on. -/
def netTxn (t : NetTxn) : Txn :=
  { opc := t.opc.toNat, kdom := t.kdom, dst := t.dst.toNat, src := t.src.toNat, tid := t.tid.toNat, size := (netSize t)
    addr := t.addr.toNat, mask := wordAt t.slots 0
    data := if t.opc = 3#8 ∨ t.opc = 5#8 then t.slots.drop 16
      else if t.opc = 2#8 then (t.slots.drop (t.addr.toNat % 16)).take (netSize t) else t.slots
    ret := (netRet t), aop := (netAop t)
    arg := if t.opc = 5#8 then wordAt t.slots 0 else wordAt t.slots 1
    isInt := t.isInt, status := t.aux.zeroExtend 8, hops := t.hops.toNat, sealed := t.sealed }

/-- A transaction for another node goes on with one more hop, or ends (R498). DEDUCED (log 61). -/
def forward (w : World) (p : Nat) (t : NetTxn) : World :=
  let resp := decide (0x10 ≤ t.opc.toNat)
  if t.hops = 2#2 then (if resp then w else sendAnswer w (p / 8) t.src.toNat t.kdom t.tid.toNat 4#8 [])
  else
    let x := { netTxn t with hops := t.hops.toNat + 1 }
    match choosePort w (p / 8) x with
    | (.ok q, w1) => portSend (portCount w1 p 8 1) q x
    | (.error st, w1) => if resp then w1 else sendAnswer w1 (p / 8) t.src.toNat t.kdom t.tid.toNat st []

/-- The seal slot of a transaction is good: its tag verifies under the pair key, and its counter is accepted (R497). -/
def sealGood (w : World) (t : NetTxn) : Bool :=
  let z := sgetD w.seals t.src.toNat (SealSt.mk 0 0 [])
  let c := t.ctr.toNat
  t.tagOk && w.pairKeys.contains t.src.toNat && decide (z.hi < c + 4096) && !z.seen.contains c

/-- An accepted counter is accepted no more. -/
def sealTake (w : World) (t : NetTxn) : World :=
  { w with seals := smod w.seals t.src.toNat (SealSt.mk 0 0 []) (fun z =>
      let hi := max z.hi t.ctr.toNat
      { z with hi := hi, seen := t.ctr.toNat :: z.seen.filter (fun c => decide (hi < c + 4096)) }) }

/-- A port takes a transaction: its slots are freed; malformed ones, others' and badly sealed ones go no further. What is
left for this node is handed to `act`. -/
def arrive (a : Anat) (w : World) (p : Nat) (t : NetTxn) (act : World → World) : World :=
  if !portRuns a p || decide ((w.port p).state ≠ 3) || w.pwr.gated then w
  else
    let resp := decide (0x10 ≤ t.opc.toNat)
    let w0 := slotsFreed w p ((if resp then 3 else 0) + min t.hops.toNat 2) (netSlots t)
    if !(netOk t) then
      let w1 := portCount w0 p 9 1
      if resp && opcKnown t.opc.toNat then w1 else sendAnswer w1 (p / 8) t.src.toNat t.kdom t.tid.toNat 2#8 []
    else if t.dst.toNat ≠ w.nodeId.getD 0 then forward w0 p t
    else if t.sealed then (if sealGood w0 t then act (sealTake w0 t) else portCount w0 p 14 1)
    else act w0

/-- A request arrives: it is performed and answered. A command of one operation that brings another's transaction has no
effect; one whose operation R493 does not have is malformed. -/
def request (a : Anat) (w : World) (p opc : Nat) (t : NetTxn) (act : World → Answer) : World :=
  if t.opc.toNat ≠ opc && opcKnown t.opc.toNat then w
  else arrive a w p t (fun v =>
    let r := act v
    sendAnswer r.w (p / 8) t.src.toNat t.kdom t.tid.toNat r.st r.data)

def execRd (p : Fin 32) (t : NetTxn) (s : State) : Res :=
  toWorld s (request s.anat s.w p.val 1 t (fun v => doRead s.anat v t))

def execWr (p : Fin 32) (t : NetTxn) (s : State) : Res :=
  toWorld s (request s.anat s.w p.val 2 t (fun v => doWrite s.anat v t (netSize t) (wrBody t)))

def execWrm (p : Fin 32) (t : NetTxn) (s : State) : Res :=
  toWorld s (request s.anat s.w p.val 3 t (fun v => doWrite s.anat v t 64 (wrmBody t)))

def execAtom (p : Fin 32) (t : NetTxn) (s : State) : Res :=
  toWorld s (request s.anat s.w p.val 4 t (fun v => doAtom s.anat v t false))

def execAtoml (p : Fin 32) (t : NetTxn) (s : State) : Res :=
  toWorld s (request s.anat s.w p.val 5 t (fun v => doAtom s.anat v t true))

def execMsg (p : Fin 32) (t : NetTxn) (s : State) : Res :=
  toWorld s (request s.anat s.w p.val 6 t (fun v => doMsg s.anat v t))

/-! Responses (R494, R495). -/

/-- The outstanding transaction that a TID names. DEDUCED (log 57). -/
def txnOfTid (w : World) (tid : Nat) : Option (Nat × OutTxn) := w.txns.find? (fun x => x.2.sent && decide (x.2.t.tid = tid))

/-- A response for this node completes its request; one for no outstanding request is discarded. -/
def response (a : Anat) (w : World) (p opc : Nat) (t : NetTxn) : World :=
  if t.opc.toNat ≠ opc then w
  else arrive a w p t (fun v =>
    match txnOfTid v t.tid.toNat with
    | none => v
    | some x => completeTxn a v x.1 (t.aux.zeroExtend 8) (t.slots.take (if opc = 0x10 then (netSize t) else 0)))

def execRspd (p : Fin 32) (t : NetTxn) (s : State) : Res := toWorld s (response s.anat s.w p.val 0x10 t)

def execCmpTransaction (p : Fin 32) (t : NetTxn) (s : State) : Res := toWorld s (response s.anat s.w p.val 0x11 t)

/-- `TRANSACTION_TIMEOUT`; the timer stands still while the partner has paused. -/
def execTransactionTimeout (tid : BitVec 16) (s : State) : Res :=
  toWorld s (
    match txnOfTid s.w tid.toNat with
    | none => s.w
    | some x =>
      if (s.w.port x.2.port).paused then s.w
      else completeTxn s.anat (portCount s.w x.2.port 10 1) x.1 4#8 [])

/-! Pair keys (R497). -/

/-- The transactions that wait for a node's pair key. DEDUCED (log 62). -/
def keyWaiters (w : World) (n : Nat) : List Nat :=
  (w.txns.filter (fun x => !x.2.sent && x.2.t.sealed && decide (x.2.t.dst = n))).map (fun x => x.1)

/-- `PAIR_KEY_EXCHANGE`: a new pair key with a node, unless the exchange fails; its counters start again, and what waited
is sent. -/
def execPairKeyExchange (node : BitVec 12) (ok : Bool) (s : State) : Res :=
  toWorld s (
    let n := node.toNat
    if !ok || !s.w.ks.ready then s.w
    else
      let w1 := { s.w with pairKeys := n :: s.w.pairKeys.filter (fun k => decide (k ≠ n)), seals := sdel s.w.seals n }
      (keyWaiters w1 n).foldl txnGo w1)

/-- `PAIR_KEY_TIMEOUT`: the oldest transaction that waits for a node's key ends with STATUS 2. DEDUCED (log 62). -/
def execPairKeyTimeout (node : BitVec 12) (s : State) : Res :=
  toWorld s (
    if s.w.pairKeys.contains node.toNat then s.w
    else
      match keyWaiters s.w node.toNat with
      | [] => s.w
      | k :: _ => completeTxn s.anat s.w k 2#8 [])

end Sys2Proof.Machine
end

