-- ==== Sys2Proof/Machine/Host.lean ====
section
/-!
DEFINITION. The host interface (chapter 14): link, function resets and configuration, MSI-X unmasking, the device memory
window, SPDM sessions, IDE and TDISP, and the debug unlock of R595 and R596.
-/

namespace Sys2Proof.Machine

/-! Link and functions. -/

/-- The PCIe controller works: die 0 runs (R36) and main rails are up. -/
def pcieRuns (a : Anat) (w : World) : Bool := dieRuns a 0 && decide (w.pwr.supply = 2)

/-- Memory requests are refused (R553): `HIF_STAT.DEGRADED`. -/
def hifDegraded (w : World) : Bool := bit (w.reg 0x2E000 0#64) 4

/-- A function exists for the host: the physical one, and virtual ones while VF Enable is 1. -/
def fnPresent (w : World) (f : Nat) : Bool := w.pcieUp && (decide (f = 0) || w.host.vfEn)

/-- The registers of a range return to their reset values. -/
def World.clearRegs (w : World) (lo n : Nat) : World :=
  { w with bar0 := w.bar0.filter (fun x => !(decide (lo ≤ x.1) && decide (x.1 < lo + n))) }

/-! The host's mailbox window (R669, R673). -/

def World.modDict (w : World) (f : DictSt → DictSt) : World := { w with dict := f w.dict }

def dropSeg (w : World) (key : Nat) : World := w.modDict (fun d => { d with segs := sdel d.segs key })

def mbBusy (w : World) (path : Nat) : Bool := bit (mbStat w path) 63

/-- The request that a window holds. -/
def mbReq (w : World) (path : Nat) : MbReq :=
  let c := mbCmd w path
  { cmd := c, off := w.reg (mbBase path + 8) 0#64
    data := ((List.range ((fld c 0 15 + 7) / 8)).map (fun k => leBytes 8 (w.reg (mbBase path + 0x4000 + 8 * k) 0#64).toNat)).flatten.take (fld c 0 15) }

/-- The host window is reset (R673): a started request goes on, and its response is discarded. DEDUCED (log 81). -/
def mbReset (w : World) : World :=
  let w1 := if mbBusy w 0 then w.modDict (fun d => { d with orphans := d.orphans ++ [mbReq w 0] }) else w
  dropSeg (w1.clearRegs 0x10000 0x8000) 0

/-- `LINK_UP`: the rate as `HIF_STAT.SPEED` codes it, and the lanes trained. -/
def execLinkUp (speed : BitVec 3) (width : BitVec 5) (s : State) : Res :=
  toWorld s (
    let sp := speed.toNat
    if !pcieRuns s.anat s.w || !s.w.host.perstHigh || s.w.pcieUp || !(decide (sp = 1) || decide (5 ≤ sp)) then s.w
    else
      let bad := decide (sp < 5) || decide (width.toNat < 4)
      { s.w with pcieUp := true }.setReg 0x2E000 (packW [(8, width.toNat), (4, bad.toNat), (3, (decide (6 ≤ sp)).toNat), (0, sp)]))

/-- The link leaves L0 (R569). -/
def linkDown (w : World) : World :=
  if !w.pcieUp then w
  else
    let w1 : World := { w with
      pcieUp := false, host := { w.host with fns := [], vfEn := false, bar2Log := 30, ide := [] } }
    hifEvent ((((mbReset w1).setReg 0x2E000 0#64).clearRegs 0x2C000 0x400).countReg 0x2E118 1) 0

/-- `LINK_DOWN`: a surprise-down or hot reset, or with `perst` an assertion of `PERST_N`, which holds the link down. -/
def execLinkDown (perst : Bool) (s : State) : Res :=
  toWorld s (
    let w := linkDown s.w
    if perst then { w with host := { w.host with perstHigh := false } } else w)

/-- Channels and snapshots of the owners that meet a test stop (R569, R657). DEDUCED (log 41). -/
def stopOwners (w : World) (p : Tenant → Bool) : World :=
  let job (v : World) (j : Nat) : Bool := [0, 1].any (fun k => match tailChan v j k with
    | some ch => p (tailEntry v ch).who
    | none => false)
  abandonTails (abortChans w (fun _ c => p c.who)) 5 job

/-- Import keys of a tenant's domains are destroyed (R567). -/
def dropImports (w : World) (v : Nat) : World :=
  (List.range 255).foldl (fun u i =>
    let k := i + 1
    let x := kdtWord u (BitVec.ofNat 8 k) 0
    if (u.ks.get k).imp.isSome && !bit x 8 && decide (fld x 16 6 = v) then u.setDom k { u.ks.get k with imp := none } else u) w

/-- Function-level reset of virtual function v (R569). -/
def vfReset (w : World) (v : Nat) : World :=
  let f := 1 + v
  let w1 := stopOwners w (fun t => !t.oper && decide (t.id = v))
  let w2 := ((w1.clearRegs (msixEntry f 0) 0x1C0).clearRegs (msixPba f 0) 8).clearRegs (dbPage f + 0x10) 8
  hifEvent ((dropImports w2 v).modFn f (fun _ => { HostFn.reset with flr := true })) 2

def execVfFlr (v : Fin 64) (s : State) : Res :=
  toWorld s (if fnPresent s.w (1 + v.val) && !(s.w.fn (1 + v.val)).flr then vfReset s.w v.val else s.w)

/-- `PF_FLR`: every virtual function is reset too. The physical function's sessions are no part of its configuration.
DEDUCED (log 63). -/
def execPfFlr (s : State) : Res :=
  toWorld s (
    if !s.w.pcieUp || (s.w.fn 0).flr then s.w
    else
      let w1 := stopOwners s.w (fun t => t.oper)
      let w2 := ((mbReset w1).clearRegs 0x20000 0x1000).clearRegs 0x2C000 0x20
      let w3 := w2.modFn 0 (fun x => { x with msixEn := false, busMaster := false, flr := true })
      let w4 := (List.range 64).foldl vfReset { w3 with host := { w3.host with vfEn := false } }
      hifEvent w4 1)

/-- `FLR_COMPLETE`. -/
def execFlrComplete (f : Fin 65) (s : State) : Res := toWorld s (s.w.modFn f.val (fun x => { x with flr := false }))

/-- `CONFIGURATION_REQUEST` (R555, R562, R569, R696). -/
def execConfigurationRequest (f : Fin 65) (r : CfgReq) (s : State) : Res :=
  toWorld s (
    let w := s.w
    if !w.pcieUp then w
    else if (w.fn f.val).flr || !w.dict.up then w.emit (.cpl 4 [])
    else if !fnPresent w f.val then w.emit (.cpl 3 [])
    else
      let w1 := match r with
        | .msixEnable b => w.modFn f.val (fun x => { x with msixEn := b })
        | .busMaster b => w.modFn f.val (fun x => { x with busMaster := b })
        | .vfEnable b => if f.val = 0 then { w with host := { w.host with vfEn := b } } else w
        | .bar2Size n => if f.val = 0 ∧ 30 ≤ n.toNat ∧ n.toNat ≤ 40 then { w with host := { w.host with bar2Log := n.toNat } } else w
      w1.emit (.cpl 0 []))

/-! MSI-X tables (R560, R562). -/

/-- A vector is unmasked: a pending message is sent. -/
def msixUnmask (w : World) (f v : Nat) : World :=
  let w1 := w.setReg (msixEntry f v + 8) (setBit (w.reg (msixEntry f v + 8) 0x100000000#64) 32 false)
  let x := w1.fn f
  if bit (w1.reg (msixPba f v) 0#64) (v % 64) && x.msixEn && x.busMaster && fnPresent w1 f then
    (w1.setReg (msixPba f v) (setBit (w1.reg (msixPba f v) 0#64) (v % 64) false)).emit (.msix f v)
  else w1

def execMsixUnmask (f : Fin 65) (v : Byte) (s : State) : Res :=
  toWorld s (
    if fnPresent s.w f.val && !hifDegraded s.w && decide (v.toNat < msixCount f.val) then msixUnmask s.w f.val v.toNat else s.w)

/-! BAR2 (R558, R559). -/

/-- A range of a domain contains the 2 MiB frame of an offset. -/
def rangeHas (w : World) (k off : Nat) : Bool := inRanges w (BitVec.ofNat 8 k) off 1

/-- Domains 1 to 255 that Keystone does not hold FREE, whose entry is valid and has an OPER value, and of which a range
contains an offset's frame. DEDUCED (log 63). -/
def frameDoms (w : World) (off : Nat) (oper : Bool) : List Nat :=
  ((List.range 255).map (fun i => i + 1)).filter (fun k =>
    let x := kdtWord w (BitVec.ofNat 8 k) 0
    decide ((w.ks.get k).state ≠ 0) && decide (fld x 0 4 = 1) && (bit x 8 == oper) && rangeHas w k off)

/-- The key domain of a BAR2 access: the lowest ACTIVE operator domain, otherwise domain 0. DEDUCED (log 63). -/
def bar2Dom (w : World) (off : Nat) : Byte :=
  match (frameDoms w off true).find? (fun k => decide ((w.ks.get k).state = 1)) with
  | some k => BitVec.ofNat 8 k
  | none => 0#8

/-- The local offset that a BAR2 offset reaches. -/
def bar2Off (w : World) (o : Nat) : Nat :=
  let base := fld (w.reg 0x2E008 0#64) 30 11 * 2 ^ 30
  base / 2 ^ w.host.bar2Log * 2 ^ w.host.bar2Log + o

/-- A memory request that can arrive in the window: in its size, within one 4 KiB block. -/
def bar2Fits (w : World) (o n : Nat) : Bool :=
  decide (0 < n) && decide (o % 4096 + n ≤ 4096) && decide (o + n ≤ 2 ^ w.host.bar2Log)

/-- The access is refused whatever it does: not yet in service, stopped (R618), no such memory, a
tenant frame. DEDUCED (log 63). -/
def bar2Refused (a : Anat) (w : World) (off n : Nat) : Bool :=
  !(decide (a.ready = 4) || decide (a.ready = 5)) || w.held || (hbmStatus a w off).isSome || (hbmStatus a w (off + n - 1)).isSome ||
    !(a.dies.getD (homeDie off) ⟨false, false, false⟩).up || !(frameDoms w off false).isEmpty

/-- The partition of host accesses: `DC_SRCPART.HOST`. -/
def hostPart (w : World) (off : Nat) : Nat := fld (w.reg (dcBase (homeDie off) + 8) 0#64) 0 4

def bar2Count (w : World) : World := w.countReg 0x2E108 1

/-- `BAR2_READ`. -/
def execBar2Read (o : BitVec 40) (n : BitVec 13) (s : State) : Res :=
  toWorld s (
    let w := s.w
    let len := n.toNat
    if !w.pcieUp || !bar2Fits w o.toNat len then w
    else if hifDegraded w then w.emit (.cpl 3 [])
    else
      let off := bar2Off w o.toNat
      if bar2Refused s.anat w off len then (bar2Count w).emit (.cpl 2 [])
      else
        let d := bar2Dom w off
        let l := (dataOnly w w.mem d off len (inTagged w.places off)).1
        let w1 := (blocks (atOff off (offsets l)) 128).foldl (fun v b => pierAccess v (b / 128) 3 (hostPart w off) 7 d false true false) w
        if (poisonIn w.mem w.ks w.places off len).isSome then (w1.countReg 0x2E110 1).emit (.cpl 1 l)
        else w1.emit (.cpl 0 l))

/-- Two ranges meet. -/
def meets (a n b m : Nat) : Bool := decide (a < b + m) && decide (b < a + n)

/-- The bytes lie in the tag table, the context table, the key-domain table or the grant table. DEDUCED (log 63). -/
def inTables (w : World) (off n : Nat) : Bool :=
  let p := w.places
  meets off n p.tagtBase (p.tagrSize / 16) || meets off n p.ctxtBase 0x200000 || meets off n p.kdtBase 0x4000 ||
    meets off n p.grtBase 0x40000

/-- The bytes lie in the entry of a channel whose tenant's TDI is locked (R568). -/
def inLockedChan (w : World) (off n : Nat) : Bool :=
  let b := w.places.ctBase
  meets off n b 0x80000 && (List.range 33).any (fun i =>
    let k := (max off b - b) / 128 + i
    decide (k < 4096) && meets off n (b + 128 * k) 128 && tdiLocked w (tailEntry w k).who)

/-- `BAR2_WRITE`. -/
def execBar2Write (o : BitVec 40) (l : List Byte) (s : State) : Res :=
  toWorld s (
    let w := s.w
    if !w.pcieUp || !bar2Fits w o.toNat l.length || hifDegraded w then w
    else
      let off := bar2Off w o.toNat
      let b := atOff off (offsets l)
      if bar2Refused s.anat w off l.length || inTables w off l.length || coversSealed w b then bar2Count w
      else if inLockedChan w off l.length then w.countReg 0x2E120 1
      else unitCommit w 3 (hostPart w off) 7 (bar2Dom w off) .raw b)

/-! SPDM (R564 to R567). -/

/-- The responder answers a function: the link is up and Keystone is ready. -/
def spdmUp (w : World) (f : Nat) : Bool := fnPresent w f && w.ks.ready && !(w.fn f).flr

/-- An answer with a status code. PRESUMED (log 64). -/
def spdmAnswer (w : World) (f code : Nat) : World := w.emit (.spdm f code)

/-- A request that one state of the connection accepts; otherwise it is answered UnexpectedRequest (4). PRESUMED (log 64). -/
def spdmStep (s : State) (f : Nat) (p : HostFn → Bool) (good : Bool) (g : HostFn → HostFn) : Res :=
  toWorld s (
    if !spdmUp s.w f then s.w
    else if !p (s.w.fn f) then spdmAnswer s.w f 4
    else if !good then spdmAnswer s.w f 1
    else spdmAnswer (s.w.modFn f g) f 0)

def execGetVersion (f : Fin 65) (s : State) : Res := spdmStep s f.val (fun _ => true) true (fun x => { x with spdm := 1 })

def execGetCapabilities (f : Fin 65) (s : State) : Res :=
  spdmStep s f.val (fun x => decide (x.spdm = 1)) true (fun x => { x with spdm := 2 })

/-- `NEGOTIATE_ALGORITHMS`: `common` when the requester offers the algorithms of R564. -/
def execNegotiateAlgorithms (f : Fin 65) (common : Bool) (s : State) : Res :=
  spdmStep s f.val (fun x => decide (x.spdm = 2)) common (fun x => { x with spdm := 3 })

def execGetDigests (f : Fin 65) (s : State) : Res := spdmStep s f.val (fun x => decide (x.spdm = 3)) true id

/-- `GET_CERTIFICATE`: chains exist in slots 0 and 1. -/
def execGetCertificate (f : Fin 65) (slot : BitVec 4) (s : State) : Res :=
  spdmStep s f.val (fun x => decide (x.spdm = 3)) (decide (slot.toNat ≤ 1)) id

/-- `CHALLENGE`: SPDM uses slot 0. -/
def execChallenge (f : Fin 65) (slot : BitVec 4) (s : State) : Res :=
  spdmStep s f.val (fun x => decide (x.spdm = 3)) (decide (slot = 0#4)) id

/-- `GET_MEASUREMENTS`: the number of blocks (0), blocks 1 to 5, or all (255). -/
def execGetMeasurements (f : Fin 65) (idx : Byte) (s : State) : Res :=
  spdmStep s f.val (fun x => decide (x.spdm = 3)) (decide (idx.toNat ≤ 5) || decide (idx = 255#8)) id

/-- `KEY_EXCHANGE`: `good` when its form and its DHE share are. -/
def execKeyExchange (f : Fin 65) (good : Bool) (s : State) : Res :=
  spdmStep s f.val (fun x => decide (x.spdm = 3) && decide (x.sess = 0)) good (fun x => { x with sess := 1, keyUpd := 0 })

/-- `FINISH`: `good` when its verification data is. -/
def execFinish (f : Fin 65) (good : Bool) (s : State) : Res :=
  toWorld s (
    let w := s.w
    if !spdmUp w f.val then w
    else if (w.fn f.val).sess ≠ 1 then spdmAnswer w f.val 4
    else if good then spdmAnswer (w.modFn f.val (fun x => { x with sess := 2 })) f.val 0
    else spdmAnswer (w.modFn f.val (fun x => { x with sess := 0 })) f.val 1)

/-- A function's session ends, and with the physical function's the IDE keys and the TDI locks that it set (R566).
PRESUMED (log 64). -/
def endSession (w : World) (f : Nat) : World :=
  let w1 := w.modFn f (fun x => { x with sess := 0, keyUpd := 0 })
  if f = 0 ∧ (w.fn 0).sess = 2 then
    { w1 with host := { w1.host with
        ide := [], fns := w1.host.fns.map (fun x => (x.1, { x.2 with tdi := 0, tdiStream := none })) } }
  else w1

/-- Every session of every function ends (R566). -/
def endSessions (w : World) : World := (List.range 65).foldl endSession w

def execEndSession (f : Fin 65) (s : State) : Res :=
  toWorld s (
    if !spdmUp s.w f.val then s.w
    else if (s.w.fn f.val).sess ≠ 2 then spdmAnswer s.w f.val 4
    else spdmAnswer (endSession s.w f.val) f.val 0)

def execKeyUpdate (f : Fin 65) (s : State) : Res :=
  spdmStep s f.val (fun x => decide (x.sess = 2)) true (fun x => { x with keyUpd := x.keyUpd + 1 })

def execHeartbeat (f : Fin 65) (s : State) : Res := spdmStep s f.val (fun x => decide (x.sess = 2)) true id

/-- `SET_IMPORT_KEY` (R567, R596). DESIGN CHOICE (log 65). -/
def execSetImportKey (v : Fin 64) (k : Byte) (wellFormed : Bool) (s : State) : Res :=
  toWorld s (
    let w := s.w
    let f := 1 + v.val
    let x := kdtWord w k 0
    let d := w.ks.get k.toNat
    if !spdmUp w f then w
    else if (w.fn f).sess ≠ 2 then spdmAnswer w f 4
    else if !wellFormed then spdmAnswer w f 2
    else if w.host.unlocked || decide (k = 0#8) || bit x 8 || decide (fld x 16 6 ≠ v.val) || decide (fld x 0 4 ≠ 1) || decide (d.state ≠ 1) then
      spdmAnswer w f 1
    else
      let w1 : World := { w with freeCtr := w.freeCtr + 1 }
      spdmAnswer (w1.setDom k.toNat { d with imp := some (Config.free w.freeCtr % 2 ^ 256), lastCtr := some 0#64 }) f 0)

/-! IDE, TDISP (R568). -/

/-- `IDE_KM`: the keys of a stream (0 the link stream) are set, or it is stopped. -/
def execIdeKm (stream : Fin 5) (set : Bool) (s : State) : Res :=
  toWorld s (
    let w := s.w
    if !spdmUp w 0 then w
    else if (w.fn 0).sess ≠ 2 then spdmAnswer w 0 4
    else
      let l := w.host.ide.filter (fun x => decide (x ≠ stream.val))
      spdmAnswer { w with host := { w.host with ide := if set then stream.val :: l else l } } 0 0)

/-- `TDISP`: LOCK_INTERFACE, START_INTERFACE or STOP_INTERFACE. -/
def execTdisp (v : Fin 64) (r : TdispReq) (s : State) : Res :=
  toWorld s (
    let w := s.w
    let f := 1 + v.val
    let x := w.fn f
    let go (t : Nat) (st : Option Nat) : World := spdmAnswer (w.modFn f (fun y => { y with tdi := t, tdiStream := st })) 0 0
    if !spdmUp w 0 then w
    else if (w.fn 0).sess ≠ 2 then spdmAnswer w 0 4
    else
      match r with
      | .lock stream => if x.tdi = 0 ∧ 1 ≤ stream.val ∧ w.host.ide.contains stream.val then go 1 (some stream.val) else spdmAnswer w 0 1
      | .start => if x.tdi = 1 then go 2 x.tdiStream else spdmAnswer w 0 1
      | .stop => go 0 none)

/-- A TDI enters ERROR: its tenant's channels stop. -/
def tdiError (w : World) (f : Nat) : World :=
  let w1 := w.modFn f (fun x => { x with tdi := 3 })
  hifEvent (abortChans w1 (fun _ c => !c.who.oper && decide (c.who.id = f - 1))) 3

/-- `IDE_ERR`. -/
def execIdeErr (stream : Fin 5) (s : State) : Res :=
  toWorld s (
    if !s.w.pcieUp || !s.w.host.ide.contains stream.val then s.w
    else
      let bound := ((List.range 64).map (fun i => i + 1)).filter (fun f =>
        let x := s.w.fn f
        decide (x.tdiStream = some stream.val) && (decide (x.tdi = 1) || decide (x.tdi = 2)))
      bound.foldl tdiError (hifEvent s.w 4))

/-! Debug unlock (R595, R596). -/

/-- One domain erased under R520 by an unlock: it is FREE afterwards. DESIGN CHOICE (log 65). -/
def unlockErase (w : World) (k : Nat) : World :=
  let w1 := eraseEnd (eraseStart w 0 (BitVec.ofNat 8 k) false) ⟨BitVec.ofNat 8 k, 0, false⟩
  w1.setDom k { w1.ks.get k with imp := none, lastCtr := none }

/-- `DEBUG_UNLOCK`: `good` when nonce and signature are. -/
def execDebugUnlock (good : Bool) (s : State) : Res :=
  toWorld s (
    let w := s.w
    if !spdmUp w 0 then w
    else if (w.fn 0).sess ≠ 2 then spdmAnswer w 0 4
    else if !good ∨ s.anat.part ≠ .d48 then spdmAnswer w 0 1
    else
      let w1 := ((List.range 255).map (fun i => i + 1)).foldl unlockErase w
      let w2 := endSessions (spdmAnswer w1 0 0)
      { w2 with host := { w2.host with unlocked := true, aliasKey := w2.host.aliasKey + 1 } })

end Sys2Proof.Machine
end

