-- ==== Sys2Proof/Machine/Arbiters.lean ====
section
/-!
DEFINITION. Arbitration (R571 to R584), the perturbation entries' writes (R591, R592) and the reference clock (R590).
-/

namespace Sys2Proof.Machine

/-! Instances (R578). -/

def arbDie : ArbInst → Nat
  | .router d _ _ => d.val
  | .pier p => p.val / 32
  | .span d _ => d.val
  | .agent p => p.val / 8
  | .queues p => p.val / 8
  | .pcie => 0

def arbKey : ArbInst → Nat
  | .router d k o => 10000 + (d.val * 32 + k.val) * 5 + o.val
  | .pier p => p.val
  | .span d k => 1000 + 3 * d.val + k.val
  | .agent p => 2000 + p.val
  | .queues p => 3000 + p.val
  | .pcie => 4000

/-- Requesters of an instance. -/
def arbInputs : ArbInst → Nat
  | .router _ _ _ | .pier _ | .pcie => 6
  | .span _ _ => 4
  | .agent _ => 8
  | .queues _ => 104

def arbPreempts : ArbInst → Bool
  | .queues _ | .pcie => false
  | _ => true

/-- The burst limit in force for grants that start now (R584). -/
def arbBurst (w : World) (i : ArbInst) : Nat :=
  let v := w.reg (viaBase (arbDie i)) 0x408100408#64
  let f := match i with
    | .router _ _ _ => 0
    | .pier _ => 8
    | .span _ _ => 16
    | .pcie => 24
    | .agent _ | .queues _ => 32
  max 1 (fld v f 8)

/-- Counter i of the Viaduct block: `ARB_PREEMPT`, `ARB_DISCARD_BEATS`, `ARB_BURST_END`, `EGR_PRIO_SAT`. -/
def viaCount (w : World) (d i n : Nat) : World := w.countReg (viaBase d + 0x100 + 8 * i) n

def World.arb (w : World) (i : ArbInst) : Arb := sgetD w.arbs (arbKey i) Arb.reset
def World.setArb (w : World) (i : ArbInst) (x : Arb) : World := { w with arbs := sset w.arbs (arbKey i) x }

/-! Choice. -/

/-- The first of some inputs at or after the pointer, wrapping around. -/
def rrPick (n ptr : Nat) (l : List Nat) : Option Nat :=
  ((List.range n).map (fun k => (ptr + k) % n)).find? (fun k => l.contains k)

/-- Inputs of the highest class present. -/
def topInputs (rs : List ArbReq) : List Nat :=
  let c := rs.foldl (fun m r => max m r.cls.toNat) 0
  (rs.filter (fun r => decide (r.cls.toNat = c))).map (fun r => r.input.toNat)

/-- The policy among some inputs: protected transfers first (R575), by round robin; at a requester stage the highest PRIO
(R581). -/
def arbPick (i : ArbInst) (x : Arb) (l : List Nat) : Option Nat :=
  match i with
  | .queues _ =>
    let p := l.foldl (fun m k => max m (sgetD x.prio k 0)) 0
    rrPick 104 x.ptr (l.filter (fun k => decide (sgetD x.prio k 0 = p)))
  | _ =>
    let g := l.filter (fun k => x.prot.contains k)
    rrPick (arbInputs i) x.ptr (if g.isEmpty then l else g)

def reqOf (rs : List ArbReq) (k : Nat) : Option ArbReq := rs.find? (fun r => decide (r.input.toNat = k))

/-- A beat of the owner's transfer moves; the last one ends it. -/
def Arb.beat (x : Arb) : Arb :=
  if x.moved + 1 < x.len then { x with moved := x.moved + 1 }
  else { x with moved := 0, used := x.used + x.len, prot := x.prot.filter (fun k => decide (some k ≠ x.owner)) }

/-- A grant to an input: the first beat of its transfer moves in the same cycle (R571). -/
def Arb.grant (x : Arb) (n burst : Nat) (r : ArbReq) : Arb :=
  { x with
    owner := some r.input.toNat, ptr := (r.input.toNat + 1) % n, cls := r.cls.toNat, len := r.beats.toNat, moved := 0
    used := 0, burst := burst }.beat

/-- The next transfer of a continuing grant. DESIGN CHOICE (log 68). -/
def Arb.more (x : Arb) (r : ArbReq) : Arb := { x with cls := r.cls.toNat, len := r.beats.toNat, moved := 0 }.beat

/-- Turn hints (R580): for each loser, how many requests of its class precede it, the owner's not counted. -/
def turnHints (n : Nat) (x : Arb) (rs : List ArbReq) : List (Nat × Nat) :=
  let order := ((List.range n).map (fun k => (x.ptr + k) % n))
  let inCls (c : Nat) : List Nat :=
    let l := order.filter (fun k => decide (some k ≠ x.owner) && (match reqOf rs k with
      | some r => decide (r.cls.toNat = c)
      | none => false))
    l.filter (fun k => x.prot.contains k) ++ l.filter (fun k => !x.prot.contains k)
  (rs.filter (fun r => decide (some r.input.toNat ≠ x.owner))).map (fun r =>
    (r.input.toNat, min 7 (((inCls r.cls.toNat).findIdx? (fun k => decide (k = r.input.toNat))).getD 0)))

/-- A new grant among the requests of the highest class. DESIGN CHOICE (log 68). -/
def arbNew (w : World) (i : ArbInst) (x : Arb) (rs : List ArbReq) : Arb :=
  match (arbPick i x (topInputs rs)).bind (reqOf rs) with
  | none => { x with owner := none, moved := 0, used := 0 }
  | some r => x.grant (arbInputs i) (arbBurst w i) r

/-- A request of a higher class than the owner's is present. -/
def arbHigher (x : Arb) (rs : List ArbReq) : Bool := rs.any (fun r => decide (x.cls < r.cls.toNat))

/-- The owner's transfer is abandoned and protected (R574, R575). -/
def arbAbandon (w : World) (i : ArbInst) (x : Arb) (o : Nat) : Arb × World :=
  ({ x with prot := o :: x.prot, moved := 0, used := 0 }, viaCount (viaCount w (arbDie i) 0 1) (arbDie i) 1 x.moved)

/-- The perturbation target and index of an instance that has one (R593): a pier's ingress at its stop, a Span end. -/
def arbPert : ArbInst → Option (Nat × Nat)
  | .pier p => some (0, p.val % 32)
  | .span _ k => some (1, k.val)
  | _ => none

/-- Whether a perturbation of a kind meets an instance's event. -/
def arbPertHit (w : World) (i : ArbInst) (kind : Nat) : Bool × World :=
  match arbPert i with
  | none => (false, w)
  | some (t, k) => pertEvent w (arbDie i) kind t [k]

/-- One cycle of an instance other than a requester stage (R571 to R576). DESIGN CHOICE (log 68). -/
def arbCycle (w : World) (i : ArbInst) (rs : List ArbReq) : Arb × World :=
  let x := w.arb i
  match x.owner with
  | none => (arbNew w i x rs, w)
  | some o =>
    if 0 < x.moved then
      let safe := x.prot.contains o || decide (x.len ≤ x.moved + 1)
      let r := if safe || (match i with
        | .pier _ => false
        | _ => true) then (false, w) else arbPertHit w i 4
      if !safe && ((arbPreempts i && arbHigher x rs) || r.1) then
        let z := arbAbandon r.2 i x o
        (arbNew z.2 i z.1 (if arbHigher x rs then rs.filter (fun q => decide (x.cls < q.cls.toNat)) else rs), z.2)
      else (x.beat, r.2)
    else
      match reqOf rs o with
      | none => (arbNew w i x rs, w)
      | some r =>
        if rs.any (fun q => decide (r.cls.toNat < q.cls.toNat)) then (arbNew w i x rs, w)
        else if x.used + r.beats.toNat ≤ x.burst then (x.more r, w)
        else (arbNew w i x rs, viaCount w (arbDie i) 2 1)

/-- One round of a requester stage (R581, R582). -/
def arbRound (w : World) (i : ArbInst) (rs : List ArbReq) : Arb × World :=
  let x := w.arb i
  match arbPick i x (topInputs rs) with
  | none => (x, w)
  | some k =>
    let losers := (rs.map (fun r => r.input.toNat)).filter (fun q => decide (q ≠ k))
    let sat := (losers.filter (fun q => decide (sgetD x.prio q 0 = 15))).length
    let y : Arb := losers.foldl (fun z q =>
      { z with prio := smod z.prio q 0 (fun p => min 15 (p + 1)), lost := smod z.lost q 0 (fun n => n + 1) })
      { x with owner := some k, ptr := (k + 1) % 104, prio := sset x.prio k 0, lost := sset x.lost k 0 }
    let most := losers.foldl (fun m q => max m (sgetD y.lost q 0)) 0
    let off := viaBase (arbDie i) + 0x10
    let w1 := if fld (w.reg off 0#64) 0 7 < most then w.setReg off (w64 (min most 127)) else w
    (y, if sat = 0 then w1 else viaCount w1 (arbDie i) 3 sat)

/-- Requests that an instance can see: known inputs, classes 0 to 2, at least one beat, one of each input. -/
def arbSane (i : ArbInst) (rs : List ArbReq) : List ArbReq :=
  (rs.filter (fun r => decide (r.input.toNat < arbInputs i) && decide (r.cls ≠ 3#2) && decide (r.beats ≠ 0#12))).foldl
    (fun l r => if l.any (fun q => decide (q.input = r.input)) then l else l ++ [r]) []

/-- `ARB_GRANT`: one cycle of an arbiter with the requests presented in it. -/
def execArbGrant (i : ArbInst) (rs : List ArbReq) (s : State) : Res :=
  toWorld s (
    let w := s.w
    let l := arbSane i rs
    if !dieRuns s.anat (26 * arbDie i) || w.pwr.gated then w
    else
      match i with
      | .queues _ =>
        let z := arbRound w i l
        match z.1.owner with
        | some k => if l.isEmpty then w else (z.2.setArb i z.1).emit (.grant (arbKey i) k [])
        | none => w
      | _ =>
        let back := if l.isEmpty then (false, w) else arbPertHit w i 2
        if back.1 then back.2
        else
          let z := arbCycle back.2 i l
          let fresh := decide (z.1.moved ≤ 1) && !l.isEmpty
          let w1 := if fresh then (arbPertHit z.2 i 1).2 else z.2
          let w2 := w1.setArb i z.1
          match z.1.owner with
          | some k => w2.emit (.grant (arbKey i) k (turnHints (arbInputs i) z.1 l))
          | none => w2)

/-- `ARB_BURST_WRITE`. -/
def execArbBurstWrite (d : Fin 4) (v : W64) (s : State) : Res :=
  toWorld s (if dieRuns s.anat (26 * d.val) then s.w.setReg (viaBase d.val) (v &&& 0xFFFFFFFFFF#64) else s.w)

/-- `EGR_LOST_MAX_CLEAR`. -/
def execEgrLostMaxClear (d : Fin 4) (s : State) : Res :=
  toWorld s (if dieRuns s.anat (26 * d.val) then s.w.setReg (viaBase d.val + 0x10) 0#64 else s.w)

/-- `PERT_SEL_WRITE`; the block ignores writes while it is locked (R42). -/
def execPertSelWrite (d : Fin 4) (i : Fin 32) (v : W64) (s : State) : Res :=
  toWorld s (if dieRuns s.anat (26 * d.val) && s.w.host.unlocked then pertSelWrite s.w d.val i.val v else s.w)

/-! The reference clock (R590). -/

/-- `REFCLK_RETURN`: the loops lock again without a gap. -/
def execRefclkReturn (s : State) : Res :=
  toWorld s (
    let w := s.w
    if w.pwr.holdover then { w with pwr := { w.pwr with refclk := true, holdover := false } } else w)

/-- `REFCLK_HOLDOVER_EXPIRE`: compute clocks and ports stop until a module reset. -/
def execRefclkHoldoverExpire (s : State) : Res :=
  toWorld s (
    let w := s.w
    if w.pwr.holdover then
      { w with eclk := false, timeRun := false, pwr := { w.pwr with holdover := false, refStop := true, gated := true } }
    else w)

end Sys2Proof.Machine
end

