-- ==== Sys2Proof/Machine/Avail.lean ====
section
/-!
DEFINITION. Availability (chapter 17): retirement of resources and the stacks' reserves, live migration, rolling self-test,
engine reset, supervisors and the loss of a die.
-/

namespace Sys2Proof.Machine

/-- The state after a command that changes the bindings too. -/
def toBoth (s : State) (x : Anat × World) : Res := .next { s with anat := x.1, w := x.2 }

/-! The remap and physical engine tables (R28, R30). -/

def Anat.setPhys (a : Anat) (p l : Nat) (st : PState) : Anat := { a with phys := a.phys.set p ⟨l, st⟩ }

def Anat.modRemap (a : Anat) (l : Nat) (f : Remap → Remap) : Anat := { a with remap := lmod a.remap l f }

/-- A logical engine loses its binding (R27). -/
def Anat.unbind (a : Anat) (l : Nat) : Anat :=
  a.modRemap l (fun r => { r with present := false, migrating := false, prev := r.phys, phys := 0x7F })

/-- Physical engines of a die, in ascending order. -/
def dieEngines (d : Nat) : List Nat := (List.range 26).map (fun i => 26 * d + i)

/-- A SPARE engine of a die. -/
def Anat.spare (a : Anat) (d : Nat) : Option Nat := (dieEngines d).find? (fun p => decide (a.stOf p = .spare))

/-! Engines. -/

/-- A notice is posted on an engine (R636). DEDUCED (log 71). -/
def postNotice (w : World) (e kind : Nat) : World :=
  let off := engBase e + 0x820
  let old := w.reg off 0#64
  (w.setReg off (packW [(16, (fld old 16 16 + 1) % 65536), (0, kind)])).raiseIrq e 8

/-- An engine gives up every line it holds, its M lines written back; the snoop filters drop it (R633 step 4, R703). -/
def flushEngine (w : World) (e : Nat) : World :=
  let ls := ((w.eng e).ec.map (fun q => q.2)).flatten.filter (fun c => decide (c.st ≠ .w))
  (ls.foldl (fun v c => ecDrop v e c) w).modEng e (fun x => { x with l1i := [], l1d := [], nlines := [], misses := [] })

/-- A lease ends; a block that runs on the half runs again on another (R330). DEDUCED (log 35). -/
def leaseEnd (w : World) (e : Nat) : World :=
  if (w.eng e).leased then
    (w.modEng e (fun x => { x with leased := false })).modGath (e / 26) (fun g => { g with
      blocks := g.blocks.map (fun b => if b.half = some e then { b with half := none } else b) })
  else w

/-- An engine that the die supervisor binds starts the monitor (R699). -/
def engineStart (w : World) (e : Nat) : World :=
  w.setEng e { Engine.reset with core := { Core.reset with pc := w64 w.places.entry } }

/-- Steps 1 to 5 of an engine reset (R703); retired stores that this module can perform are performed first. -/
def engineReset (a : Anat) (w : World) (e : Nat) : World :=
  let w1 := leaseEnd (flushEngine (drainLocal a e (w.eng e).sb.length w) e) e
  let y := (w1.eng e).discardSpec
  let w2 := w1.setEng e { Engine.reset with core := (y.core.start), ctrs := y.ctrs.filter (fun p => !startCounters p.1) }
  w2.setReg (engBase e + 0x810) 0x100#64

/-- `ENGINE_RESET`; an engine that is bound starts again. DEDUCED (log 72). -/
def execEngineReset (e : Fin 104) (s : State) : Res :=
  toWorld s (
    if !dieRuns s.anat e.val then s.w
    else
      let w1 := engineReset s.anat s.w e.val
      if (s.anat.logicalOf e.val).isSome then engineStart w1 e.val else w1)

/-! Migration (R633 to R637). -/

/-- System registers that a migration carries (R635): those readable at level 1 or 2, and the trap, interrupt, timer and
emergency-stack registers. DEDUCED (log 71). -/
def sysCarried (n : Nat) : Bool :=
  (decide (0x200 ≤ n) && decide (n < 0x300)) || (match sysReg n with
    | some r => decide (1 ≤ r.rd)
    | none => false)

/-- The core as it arrives: reuse latches invalid. DEDUCED (log 71). -/
def Core.carried (c : Core) : Core :=
  { c with sys := c.sys.filter (fun p => sysCarried p.1), tf := { c.tf with latch0 := none, latch1 := none } }

/-- The context carried to the spare: caches empty but for W lines, TLBs and prefetchers empty, no lease. -/
def Engine.carried (x : Engine) : Engine :=
  { Engine.reset with
    core := x.core.carried, ctrs := x.ctrs.filter (fun p => sysCarried p.1), irq := x.irq, lateErr := x.lateErr
    tenant := x.tenant, spec := x.spec, mcPend := x.mcPend
    ec := (x.ec.map (fun q => (q.1, q.2.filter (fun c => decide (c.st = .w))))).filter (fun q => !q.2.isEmpty) }

/-- Registers of the engine block that the die supervisor copies (R635). -/
def copyBlock (w : World) (src dst : Nat) : World :=
  let one (v : World) (o : Nat) (r : W64) : World := v.setReg (engBase dst + o) (v.reg (engBase src + o) r)
  one (one (one w 0x800 0#64) 0x810 0x100#64) 0x820 0#64

/-- A migration of a die is running. -/
def migRuns (w : World) (d : Nat) : Bool := w.av.migs.any (fun m => decide (m.l / 24 = d) && m.dst.isSome)

def dropMig (w : World) (l : Nat) : World := { w with av := { w.av with migs := w.av.migs.filter (fun m => decide (m.l ≠ l)) } }

/-- An engine enters SELF_TEST, by lockdown or by the hourly turn. -/
def toTest (x : Anat × World) (p : Nat) (lock : Bool) : Anat × World :=
  (x.1.setPhys p 0x7F .selfTest, { x.2 with av := { x.2.av with tests := (p, lock) :: x.2.av.tests.filter (fun t => decide (t.1 ≠ p)) } })

/-- An engine is retired, and its journal entry is DONE. -/
def toRetired (x : Anat × World) (p : Nat) : Anat × World :=
  (x.1.setPhys p 0x7F .retired,
   { journalDone x.2 (fun j => decide (j.cls = 1) && decide (j.res = [p])) with
      av := { (journalDone x.2 (fun j => decide (j.cls = 1) && decide (j.res = [p]))).av with
        tests := x.2.av.tests.filter (fun t => decide (t.1 ≠ p)) } })

/-- The state of an engine after its migration, by the reason. -/
def leaveMig (x : Anat × World) (p why : Nat) : Anat × World :=
  if why = 2 then toRetired x p else toTest x p (decide (why = 1))

/-- The engine that a migration of a die takes: a SPARE, and for a lockdown one in the rolling test (R637). -/
def migTarget (x : Anat × World) (d why : Nat) : Option Nat :=
  match x.1.spare d with
  | some p => some p
  | none =>
    if why = 1 then (dieEngines d).find? (fun p => decide (x.1.stOf p = .selfTest) && x.2.av.tests.contains (p, false)) else none

/-- A migration starts (R633 step 1), or ends for want of an engine. -/
def migStart (x : Anat × World) (m : Mig) : Anat × World :=
  let d := m.l / 24
  match migTarget x d m.why with
  | some p =>
    ((x.1.setPhys p 0x7F .target).modRemap m.l (fun r => { r with migrating := true }),
     { x.2 with av := { x.2.av with
        tests := x.2.av.tests.filter (fun t => decide (t.1 ≠ p))
        migs := x.2.av.migs.map (fun y => if y.l = m.l then { y with dst := some p } else y) } })
  | none =>
    if m.why = 3 then (x.1, avEvent (dropMig x.2 m.l) 12)
    else leaveMig (x.1.unbind m.l, leaseEnd (flushEngine (dropMig x.2 m.l) m.src) m.src) m.src m.why

/-- The next migration of a die starts, in the order of R637, while none runs, ECLK runs and the die's supervisor can. -/
def migNext (x : Anat × World) (d : Nat) : Anat × World :=
  let sup := (x.1.dies.getD d ⟨false, false, false⟩).sup
  if migRuns x.2 d || !x.2.eclk || !sup || x.2.av.fw.isSome then x
  else
    let q := x.2.av.migs.filter (fun m => decide (m.l / 24 = d))
    match [1, 2, 3].findSome? (fun why => q.find? (fun m => decide (m.why = why))) with
    | some m => migStart x m
    | none => x

/-- Waiting migrations of every die go on. -/
def migAll (x : Anat × World) : Anat × World := [0, 1, 2, 3].foldl migNext x

/-- A migration of a bound logical engine is requested. -/
def migRequest (x : Anat × World) (l why : Nat) : Anat × World :=
  match x.1.physOf l with
  | none => x
  | some p =>
    if x.2.av.migs.any (fun m => decide (m.l = l)) || !dieRuns x.1 p then x
    else migNext (x.1, { x.2 with av := { x.2.av with migs := x.2.av.migs ++ [⟨l, p, none, why⟩] } }) (l / 24)

/-- `MIGRATION_REQUEST`: a migration after a lockdown, for a retirement or for the self-test. -/
def execMigrationRequest (l : Fin 96) (why : Fin 3) (s : State) : Res :=
  toBoth s (
    let r := why.val + 1
    match s.anat.physOf l.val with
    | none => (s.anat, s.w)
    | some p => if r = 1 ∧ (s.w.eng p).locked.isNone then (s.anat, s.w) else migRequest (s.anat, s.w) l.val r)

/-- The lockdown record (R126) at its local offset. DEDUCED (log 72). -/
def lockRecord (w : World) (x : Engine) (off : Nat) : World :=
  let c := x.core
  let l : List TWord := (x.lockFrame ++ List.replicate (12 - x.lockFrame.length) TWord.zero) ++
    [⟨c.spMon, 0#4⟩, ⟨c.spSup, 0#4⟩, ⟨c.spTask, 0#4⟩, ⟨x.locked.getD 0#64, 0#4⟩]
  (l.zip (List.range 16)).foldl (fun v p =>
    unitCommit v 0 0 7 0#8 (.set p.1.t) (atOff (off + 8 * p.2) (offsets (leBytes 8 p.1.v.toNat)))) w

/-- A lockdown can be resumed: `LOCK_REC` is set and the record lies in the tagged region (R128). -/
def lockUsable (a : Anat) (w : World) (x : Engine) : Option Nat :=
  let off := (x.core.sysGet 0x240).toNat
  if off ≠ 0 ∧ allTagged w.places off 0x1000 ∧ (hbmStatus a w off).isNone then some off else none

/-- The spare of a locked engine: it resumes with a machine check, or starts as after an engine reset (R127, R128). -/
def lockResume (a : Anat) (w : World) (src dst l : Nat) : World :=
  let x := w.eng src
  match lockUsable a w x with
  | none => (engineStart w dst).modLog l (fun q => { q with task := none })
  | some off =>
    let w1 := lockRecord w x off
    let y := x.carried
    let c := { (y.core.sysSet 0x208 8#64) with st := setFld y.core.st 7 3 0, spMon := w64 (off + 0x1000) }
    let w2 := copyBlock (w1.setEng dst { y with core := c, mcPend := [] }) src dst
    machineCheckNow a (postNotice w2 dst 3) dst 3#8 (w64 off)

/-- The engine stands where a migration can take it (R633 step 2): between instructions, or in a wait that an interrupt may
end; a pass in its last 2048 cycles is finished first (R246). -/
def migReady (x : Engine) (elapsed : Nat) : Bool :=
  (match x.wait with
   | .none | .pause | .fenceS | .resp _ | .mark _ => true
   | _ => false) &&
  (match x.tq with
   | [] => true
   | t :: _ => !(t.pass && decide (t.len - elapsed ≤ 2048)))

/-- Tile instructions in flight are discarded (R246). -/
def migDiscard (w : World) (e elapsed : Nat) : World :=
  match (w.eng e).tq with
  | [] => w.modEng e (fun x => { x with wait := .none })
  | t :: r =>
    let w0 := w.lose e r
    let w1 := w0.modEng e (fun x =>
      let y := ({ x.discardAll with wait := .none }).count 0x19F 1
      if t.pass then (y.count 0x19C (min elapsed t.len)).count 0x1A6 (Config.free w0.freeCtr % (t.skip + 1)) else y)
    { w1 with freeCtr := w1.freeCtr + 1 }

/-- `ENG_REMAP` switches (R29): S becomes ACTIVE, A passes to the state the reason selects. -/
def migSwitch (x : Anat × World) (m : Mig) (dst elapsed : Nat) : Anat × World :=
  let a1 := (x.1.setPhys dst m.l .active).modRemap m.l (fun _ => ⟨true, false, m.src, dst⟩)
  let w1 := flushEngine x.2 m.src
  let a2 := a1.setPhys m.src 0x7F .selfTest
  let w2 :=
    if m.why = 1 then lockResume a2 w1 m.src dst m.l
    else
      let v := migDiscard w1 m.src elapsed
      postNotice (copyBlock (v.setEng dst (v.eng m.src).carried) m.src dst) dst 2
  let w3 := (leaseEnd w2 m.src).setEng m.src Engine.reset
  migNext (leaveMig (a2, dropMig w3 m.l) m.src m.why) (m.l / 24)

/-- `MIGRATION_SWITCH`: `elapsed` as for an interrupt. While stores of the engine wait for another node it waits. -/
def execMigrationSwitch (l : Fin 96) (elapsed : BitVec 13) (s : State) : Res :=
  toBoth s (
    match s.w.av.migs.find? (fun m => decide (m.l = l.val)) with
    | none => (s.anat, s.w)
    | some m =>
      match m.dst with
      | none => migNext (s.anat, s.w) (l.val / 24)
      | some dst =>
        let w := drainLocal s.anat m.src (s.w.eng m.src).sb.length s.w
        let x := w.eng m.src
        if dst / 26 ≠ l.val / 24 ∨ m.src = dst ∨ 104 ≤ dst ∨ 104 ≤ m.src ∨ !x.sb.isEmpty ∨ !s.w.eclk ∨ !(x.locked.isSome || migReady x elapsed.toNat) then (s.anat, w)
        else migSwitch (s.anat, w) m dst elapsed.toNat)

/-- `MIGRATION_ABANDON` (R634). -/
def execMigrationAbandon (l : Fin 96) (s : State) : Res :=
  toBoth s (
    match s.w.av.migs.find? (fun m => decide (m.l = l.val)) with
    | none => (s.anat, s.w)
    | some m =>
      match m.dst with
      | none => (s.anat, s.w)
      | some dst =>
        let a1 := s.anat.modRemap l.val (fun r => { r with migrating := false })
        migNext (toTest (a1, dropMig s.w l.val) dst false) (l.val / 24))

/-! Self-test (R638, R639). -/

/-- `SELFTEST_START`: the next engine in turn. DEDUCED (log 73). -/
def execSelftestStart (s : State) : Res :=
  toBoth s (
    let w := s.w
    let order := (List.range 104).map (fun i => (w.av.turn + i) % 104)
    match order.find? (fun p => decide (s.anat.stOf p ≠ .retired) && decide (s.anat.stOf p ≠ .absent)) with
    | none => (s.anat, w)
    | some p =>
      let x : Anat × World := (s.anat, { w with av := { w.av with turn := (p + 1) % 104 } })
      match s.anat.stOf p with
      | .spare => toTest x p false
      | .active =>
        if (s.anat.spare (p / 26)).isNone then (x.1, avEvent x.2 12)
        else
          match s.anat.logicalOf p with
          | some l => migRequest x l 3
          | none => x
      | _ => x)

/-- `SELFTEST_DONE`. -/
def execSelftestDone (p : Fin 104) (pass : Bool) (s : State) : Res :=
  toBoth s (
    let w := s.w
    if s.anat.stOf p.val ≠ .selfTest ∨ !w.av.tests.any (fun t => decide (t.1 = p.val)) then (s.anat, w)
    else if pass then
      migNext (s.anat.setPhys p.val 0x7F .spare,
        { w with av := { w.av with tests := w.av.tests.filter (fun t => decide (t.1 ≠ p.val)) } }) (p.val / 26)
    else toRetired (s.anat, journalAdd w 1 [p.val] 2) p.val)

/-! Rows, pseudo-channels, stacks (R627 to R631). -/

/-- A stack is lost or retired in whole (R51); snapshots that it held are abandoned (R657). -/
def stackLost (w : World) (h : Nat) : World :=
  if w.stacksLost.contains h then w
  else
    let w1 := avEvent (journalDone (journalAdd w 0 [h] 6) (fun j => decide (j.cls = 0) && decide (j.res = [h]))) 6
    let w2 : World := { w1 with stacksLost := h :: w1.stacksLost, fes := w1.fes.filter (fun x => decide (x.1 / 64 ≠ h)) }
    abandonTails w2 4 (fun v j => (v.tail j).grans.any (fun g => g.data.isNone && decide (homeStack (4096 * g.g) = h)))

/-- A pseudo-channel trigger (R627). -/
def pcRetire (w : World) (h pc : Nat) : World :=
  let r := w.stack h
  if r.pcCopy = some pc ∨ r.pcGone = some pc then w
  else if r.pcCopy.isSome || r.pcGone.isSome then stackLost w h
  else (journalAdd w 4 [h, pc] 5).setStack h { r with pcCopy := some pc }

/-- A row trigger (R630): the stack's next spare row, or its spare pseudo-channel when none is left. -/
def rowSpare (w : World) (h pc bank row : Nat) : World :=
  let r := w.stack h
  if r.copying.contains (pc, bank, row) then w
  else if 4096 ≤ r.used then pcRetire w h pc
  else (journalAdd w 5 [h, pc, bank, row] 4).setStack h { r with used := r.used + 1, copying := (pc, bank, row) :: r.copying }

def execRowSpare (h : Fin 24) (pc : Fin 64) (bank : Fin 16) (row : Nat) (s : State) : Res :=
  toWorld s (if stackUp s.anat s.w h.val then rowSpare s.w h.val pc.val bank.val row else s.w)

/-- Lines with uncorrectable errors are copied with their sectors poisoned (R361). -/
def poisonLine (w : World) (off : Nat) : World :=
  (List.range 16).foldl (fun v i => poisonWord v (off / 128 * 128 + 8 * i)) w

/-- `ROW_SPARE_DONE`: `bad` names local offsets of lines of the row that hold an uncorrectable error. -/
def execRowSpareDone (h : Fin 24) (pc : Fin 64) (bank : Fin 16) (row : Nat) (bad : List (BitVec 41)) (s : State) : Res :=
  toWorld s (
    let w := s.w
    let r := w.stack h.val
    let k := (pc.val, bank.val, row)
    if !r.copying.contains k then w
    else
      let inRow (o : Nat) : Bool :=
        let l := stackOffset o / 128
        decide (homeStack o = h.val) && decide (hbmPc l = pc.val) && decide (hbmBank l = bank.val) && decide (hbmRow l = row)
      let w1 := ((bad.map (fun o => o.toNat)).filter inRow).foldl poisonLine w
      let w2 := w1.setStack h.val { r with copying := r.copying.filter (fun x => decide (x ≠ k)), spared := k :: r.spared }
      journalDone w2 (fun j => decide (j.cls = 5) && decide (j.res = [h.val, pc.val, bank.val, row])))

def execPcRetire (h : Fin 24) (pc : Fin 64) (s : State) : Res :=
  toWorld s (if stackUp s.anat s.w h.val then pcRetire s.w h.val pc.val else s.w)

/-- `PC_RETIRE_DONE`: the copy of a stack's pseudo-channel is complete. -/
def execPcRetireDone (h : Fin 24) (bad : List (BitVec 41)) (s : State) : Res :=
  toWorld s (
    let w := s.w
    let r := w.stack h.val
    match r.pcCopy with
    | none => w
    | some pc =>
      let inPc (o : Nat) : Bool := decide (homeStack o = h.val) && decide (hbmPc (stackOffset o / 128) = pc)
      let w1 := ((bad.map (fun o => o.toNat)).filter inPc).foldl poisonLine w
      let w2 := w1.setStack h.val { r with pcCopy := none, pcGone := some pc }
      let w3 := w2.setFe (64 * h.val + pc) { w2.fe (64 * h.val + pc) with rows := [] }
      journalDone w3 (fun j => decide (j.cls = 4) && decide (j.res = [h.val, pc])))

/-- An engine retirement: by migration while it is ACTIVE, otherwise at once. -/
def engRetire (x : Anat × World) (p : Nat) : Anat × World :=
  let y := (x.1, journalAdd x.2 1 [p] 2)
  match x.1.stOf p with
  | .active =>
    match x.1.logicalOf p with
    | some l => migRequest y l 2
    | none => y
  | .spare | .selfTest => toRetired y p
  | _ => x

/-- `RETIREMENT`: a trigger of R627 has occurred for a resource. -/
def execRetirement (r : RetRes) (s : State) : Res :=
  toBoth s (
    match r with
    | .engine p => if dieRuns s.anat p.val then engRetire (s.anat, s.w) p.val else (s.anat, s.w)
    | .way p k => (s.anat, if pierUp s.anat p.val then wayRetire s.w p.val k.val else s.w)
    | .row h pc bank row => (s.anat, if stackUp s.anat s.w h.val then rowSpare s.w h.val pc.val bank.val row else s.w)
    | .pc h pc => (s.anat, if stackUp s.anat s.w h.val then pcRetire s.w h.val pc.val else s.w)
    | .stack h => (s.anat, if stackUp s.anat s.w h.val then stackLost s.w h.val else s.w))

/-! Supervisors and dies (R33, R34, R644). -/

/-- A supervisor runs. -/
def supRuns (a : Anat) (d : Nat) : Bool := (a.dies.getD d ⟨false, false, false⟩).sup

/-- `SUPERVISOR_HEARTBEAT`: a supervisor of a die that is not held runs (again); it takes no role back. -/
def execSupervisorHeartbeat (d : Fin 4) (s : State) : Res :=
  toBoth s (
    if (s.anat.dies.getD d.val ⟨false, false, false⟩).up && !(s.anat.dies.getD d.val ⟨false, false, false⟩).lost then
      ({ s.anat with dies := lmod s.anat.dies d.val (fun x => { x with sup := true }) }, s.w)
    else (s.anat, s.w))

/-- The module supervisor is silent: the lowest-numbered supervisor that runs takes the role (R34), and the sessions of the
previous one's Keystone end (R570). -/
def takeover (x : Anat × World) : Anat × World :=
  let a1 : Anat := { x.1 with dies := lmod x.1.dies x.1.super (fun y => { y with sup := false }) }
  match [0, 1, 2, 3].find? (supRuns a1) with
  | none => x
  | some d => ({ a1 with super := d }, avEvent (endSessions x.2) 9)

/-- Engines and tables of a lost die (R27, R31). -/
def dieAbsent (a : Anat) (d : Nat) : Anat :=
  let a1 := (dieEngines d).foldl (fun b p => if b.stOf p = .retired then b else b.setPhys p 0x7F .absent) a
  ((List.range 24).map (fun i => 24 * d + i)).foldl (fun b l =>
    b.modRemap l (fun r => { r with present := false, migrating := false, phys := 0x7F })) a1

/-- Lines of other dies that a lost engine held dirty are poisoned at their home piers (R644). -/
def poisonHeld (w : World) (e : Nat) : World :=
  let ls := ((w.eng e).ec.map (fun q => q.2)).flatten.filter (fun c => hbmLine c.line)
  ls.foldl (fun v c =>
    let v1 := sfDrop v c.line e
    if c.st = .m ∧ homeDie (c.line * 128) ≠ e / 26 then poisonLine v1 (c.line * 128) else v1) w

/-- What a die held takes from the module besides its engines: piers, front ends, gatherer, ports, channels, migrations,
tests, the PCIe link of die 0 (R36, R644). DEDUCED (log 74). -/
def dieUnitsLost (a : Anat) (w : World) (d : Nat) : World :=
  let w1 := (dieEngines d).foldl poisonHeld w
  let w2 := (dieEngines d).foldl (fun v e => v.setEng e Engine.reset) w1
  let w3 := ((List.range 24).map (fun i => 24 * d + i)).foldl (fun v l => v.modLog l (fun q => { q with task := none })) w2
  let w4 := chansDieLost a w3 d
  let w5 : World := { w4 with
    piers := w4.piers.filter (fun x => decide (x.1 / 32 ≠ d))
    fes := w4.fes.filter (fun x => decide (x.1 / 384 ≠ d)), gaths := sdel w4.gaths d, tlbs := sdel w4.tlbs d
    ports := w4.ports.filter (fun x => decide (x.1 / 8 ≠ d))
    txns := w4.txns.filter (fun x => decide (x.2.who.die a ≠ d))
    pert := w4.pert.filter (fun x => decide (x.1 / 32 ≠ d))
    av := { w4.av with
      migs := w4.av.migs.filter (fun m => decide (m.l / 24 ≠ d)), tests := w4.av.tests.filter (fun t => decide (t.1 / 26 ≠ d)) }
    pwr := { w4.pwr with dies := lmod w4.pwr.dies d (fun _ => DiePwr.reset) } }
  let w6 := w5.clearRegs (dieBase d) 0x1000000
  if d = 0 then linkDown w6 else w6

/-- A die is held in reset (R644, R700): the part of its loss that changes the bindings. DEDUCED (log 74). -/
def dieHold (x : Anat × World) (d : Nat) : Anat × World :=
  let a1 := dieAbsent { x.1 with dies := lmod x.1.dies d (fun y => { y with lost := true, sup := false }) } d
  let w1 := dieUnitsLost a1 x.2 d
  ({ a1 with ready := if x.1.ready = 4 then 5 else x.1.ready }, abandonTails w1 4 (fun _ _ => true))

end Sys2Proof.Machine
end

