-- ==== Sys2Proof/Machine/Power.lean ====
section
/-!
DEFINITION. Power, droop and thermal control (chapter 16): telemetry, operating points and their steps, droop, capping, the
model's windows, temperature, coolant.
-/

namespace Sys2Proof.Machine

/-! Registers (R619, R620). -/

/-- ⌊H / 10,000⌋ for the minutes of service (R604, R624). -/
def ageSteps (w : World) : Nat := w.av.minutes / 600000

/-- The set voltage of a die at a point and band (R604). -/
def setVolt (w : World) (d p b : Nat) : Nat := (Config.vtab d p b).toNat + ageSteps w * (Config.ageStep d).toNat

/-- A field of `PWR_OP` set. -/
def pwrOpSet (w : World) (d lo n v : Nat) : World := w.setReg (pwrBase d) (setFld (pwrOp w d) lo n v)

def opCur (w : World) (d : Nat) : Nat := fld (pwrOp w d) 0 4
def opBand (w : World) (d : Nat) : Nat := fld (pwrOp w d) 20 2

/-- `VENG_SET`. -/
def vengSet (w : World) (d v : Nat) : World := pwrOpSet w d 32 16 (v % 65536)

/-- Counter i of a die's power block: `DROOP_EVENTS`, `STRETCH_CYC`, `DROOP_ESCAL`, `OP_STEPS`, `OP_WAIT_CYC`. -/
def pwrCount (w : World) (d i n : Nat) : World := w.countReg (pwrBase d + 0x200 + 8 * i) n

def World.die (w : World) (d : Nat) : DiePwr := w.pwr.dies.getD d DiePwr.reset

def World.modDie (w : World) (d : Nat) (f : DiePwr → DiePwr) : World := { w with pwr := { w.pwr with dies := lmod w.pwr.dies d f } }

/-- Dies that run. -/
def liveDies (a : Anat) : List Nat := [0, 1, 2, 3].filter (fun d => dieRuns a (26 * d))

/-! Operating points (R605 to R607). -/

/-- The target point (R605). -/
def opTarget (w : World) (d : Nat) : Nat :=
  let x := pwrOp w d
  let req := min 7 (fld (w.reg (pwrBase d + 8) 0#64) 0 4)
  max req (max (fld x 8 4) (max (fld x 12 4) (max (fld x 16 4) (fld x 24 4))))

/-- The fastest point whose voltage does not exceed the die's `VENG_MAX` (R604). -/
def opFastest (w : World) (d : Nat) : Nat :=
  ((List.range 8).find? (fun p => decide (setVolt w d p (opBand w d) ≤ (Config.vengMax d).toNat))).getD 7

/-- The operating-point notice on a die's engines. -/
def opNotices (a : Anat) (w : World) (d : Nat) : World :=
  ((List.range 26).map (fun i => 26 * d + i)).foldl (fun v e => if (a.logicalOf e).isSome then postNotice v e 1 else v) w

/-- A step starts where the target differs from the point in force and none is in progress; an upward one slews VENG first
(R606). -/
def stepStart (w : World) (d : Nat) : World :=
  let t := opTarget w d
  let c := opCur w d
  if !w.eclk || (w.die d).step.isSome || decide (t = c) then w
  else
    let w1 := pwrOpSet (w.modDie d (fun x => { x with step := some ⟨t, decide (t < c), false, false⟩ })) d 28 1 1
    if t < c then vengSet w1 d (setVolt w1 d t (opBand w1 d)) else w1

/-- ECLK switches (R606 step 3): an upward step has ended, a downward one slews VENG down. -/
def stepCommit (a : Anat) (w : World) (d : Nat) : World :=
  match (w.die d).step with
  | none => w
  | some st =>
    if st.done then w
    else
      let w1 := pwrCount (pwrOpSet w d 0 4 st.dst) d 3 1
      let w2 := opNotices a (w1.modDie d (fun x => { x with urgent := false })) d
      if st.up then pwrOpSet (w2.modDie d (fun x => { x with step := none })) d 28 1 0
      else vengSet (w2.modDie d (fun x => { x with step := some { st with done := true } })) d (setVolt w2 d st.dst (opBand w2 d))

/-- A slower step that droop escalation or the guard ordered commits at once (R607). DEDUCED (log 69). -/
def stepUrgent (a : Anat) (w : World) (d : Nat) : World :=
  if (w.die d).urgent then
    match (w.die d).step with
    | some st => if st.up then w.modDie d (fun x => { x with urgent := false }) else stepCommit a w d
    | none => w.modDie d (fun x => { x with urgent := false })
  else w

/-- Ceilings or requests of a die have changed: its target follows, and a step starts, or a waiting upward one is abandoned
for a slower target (R604 to R607). -/
def opSettle (a : Anat) (w : World) (d : Nat) : World :=
  let f := opFastest w d
  let up := decide (fld (pwrOp w d) 24 4 < f)
  let w0 := pwrOpSet w d 24 4 f
  let w1 := if up then pwrEvent w0 10 else w0
  let w2 := pwrOpSet w1 d 4 4 (opTarget w1 d)
  match (w2.die d).step with
  | none => stepUrgent a (stepStart w2 d) d
  | some st =>
    if st.up && !st.done && decide (st.dst < opTarget w2 d) then
      let w3 := pwrOpSet (w2.modDie d (fun x => { x with step := none })) d 28 1 0
      stepUrgent a (stepStart (vengSet w3 d (setVolt w3 d (opCur w3 d) (opBand w3 d))) d) d
    else stepUrgent a w2 d

/-- A change of band or age slews VENG to the new voltage of the point in force (R604). -/
def opSlew (a : Anat) (w : World) (d : Nat) : World :=
  let p := match (w.die d).step with
    | some st => if st.up then st.dst else opCur w d
    | none => opCur w d
  let v := setVolt w d p (opBand w d)
  let old := fld (pwrOp w d) 32 16
  if v = old ∨ !w.eclk then opSettle a w d
  else opSettle a ((vengSet w d v).modDie d (fun x => { x with slew := decide (old < v) })) d

/-- `PWR_OP_REQ_WRITE`. -/
def pwrReqWrite (a : Anat) (w : World) (d : Nat) (v : W64) : World := opSettle a (w.setReg (pwrBase d + 8) (v &&& 0xF#64)) d

def execPwrOpReqWrite (d : Fin 4) (v : W64) (s : State) : Res :=
  toWorld s (if dieRuns s.anat (26 * d.val) then pwrReqWrite s.anat s.w d.val v else s.w)

/-- `OP_STEP_PLL_LOCKED`: the step waits for its commit condition; one ordered to commit at once does. -/
def execOpStepPllLocked (d : Fin 4) (s : State) : Res :=
  toWorld s (
    match (s.w.die d.val).step with
    | some st => stepUrgent s.anat (s.w.modDie d.val (fun x => { x with step := some { st with locked := true } })) d.val
    | none => s.w)

/-- `OP_STEP_COMMIT`: 5 µs without a stretch have passed; the step has waited `cycles` of ECLK. -/
def execOpStepCommit (d : Fin 4) (cycles : BitVec 32) (s : State) : Res :=
  toWorld s (
    let x := s.w.die d.val
    match x.step with
    | some st =>
      if st.locked && !st.done && decide (x.stretch = 0) && !x.slew && s.w.eclk then
        let w1 := pwrCount (s.w.modDie d.val (fun y => { y with recent := false })) d.val 4 cycles.toNat
        opSettle s.anat (stepCommit s.anat w1 d.val) d.val
      else s.w
    | none => s.w)

/-- `VENG_SLEW_DONE`: a downward step ends, or a slew after a change of band or age. -/
def execVengSlewDone (d : Fin 4) (s : State) : Res :=
  toWorld s (
    let w := s.w.modDie d.val (fun x => { x with slew := false })
    match (w.die d.val).step with
    | some st =>
      if st.done then opSettle s.anat (pwrOpSet (w.modDie d.val (fun x => { x with step := none })) d.val 28 1 0) d.val else w
    | none => w)

/-! Droop (R608, R609). -/

/-- The stretch for a depth below the threshold, in eighths of a cycle. -/
def stretchOf (mv : Nat) : Nat := if mv < 10 then 1 else if mv < 20 then 2 else if mv < 30 then 3 else 4

def execDroopDetect (d : Fin 4) (depth : Byte) (s : State) : Res :=
  toWorld s (
    if dieRuns s.anat (26 * d.val) && s.w.eclk then
      pwrCount (s.w.modDie d.val (fun x => { x with stretch := max x.stretch (stretchOf depth.toNat) })) d.val 0 1
    else s.w)

/-- `STRETCH_END`, after `cycles` stretched cycles. -/
def execStretchEnd (d : Fin 4) (cycles : BitVec 32) (s : State) : Res :=
  toWorld s (
    if (s.w.die d.val).stretch = 0 then s.w
    else pwrCount (s.w.modDie d.val (fun x => { x with stretch := 0, recent := true })) d.val 1 cycles.toNat)

/-- DEDUCED (log 69). -/
def execDroopEscalate (d : Fin 4) (s : State) : Res :=
  toWorld s (
    let w := s.w
    let c := fld (pwrOp w d.val) 16 4
    if (w.die d.val).stretch = 0 then w
    else if opCur w d.val = 7 ∨ 7 ≤ c then pwrEvent w 12
    else opSettle s.anat (pwrCount (pwrOpSet (w.modDie d.val (fun x => { x with urgent := true })) d.val 16 4 (c + 1)) d.val 2 1) d.val)

def execDroopDecay (d : Fin 4) (s : State) : Res :=
  toWorld s (
    let c := fld (pwrOp s.w d.val) 16 4
    if c = 0 ∨ !dieRuns s.anat (26 * d.val) then s.w else opSettle s.anat (pwrOpSet s.w d.val 16 4 (c - 1)) d.val)

/-! Telemetry (R600, R601, R611). -/

/-- A report is written to its register. DESIGN CHOICE (log 70). -/
def railWrite (w : World) (off : Nat) (r : RailRep) : World :=
  w.setReg off (packW [(32, r.cur.toNat), (16, r.volt.toNat), (0, (fld (w.reg off 0#64) 0 16 + 1) % 65536)])

/-- V_in: the mean of the last 1 ms (R597), in mV. DESIGN CHOICE (log 70). -/
def vIn (w : World) : Nat := w.pwr.volts.foldl (fun a b => a + b) 0 / max 1 w.pwr.volts.length

/-- CEIL_CAP of every die rises by one, and the steps commit at once (R611). -/
def powerGuard (a : Anat) (w : World) : World :=
  let w1 := pwrEvent (w.countReg 0x400800 1) 11
  (liveDies a).foldl (fun v d =>
    let c := fld (pwrOp v d) 8 4
    if c < 7 then opSettle a (pwrOpSet (v.modDie d (fun x => { x with urgent := true })) d 8 4 (c + 1)) d else v) w1

/-- `RAIL_SAMPLE`: the input stage's report with its power in mW, the five reports of each die, VIO and VOPT. -/
def execRailSample (inp : RailRep) (power : BitVec 32) (dies : List (List RailRep)) (vio vopt : RailRep) (s : State) : Res :=
  toWorld s (
    let w := s.w
    if w.pwr.supply ≠ 2 then w
    else
      let w1 := railWrite (railWrite (railWrite w 0x400010 inp) 0x400018 vio) 0x400020 vopt
      let w2 := (liveDies s.anat).foldl (fun v d =>
        ((List.range 5).zip (dies.getD d [])).foldl (fun u r => railWrite u (pwrBase d + 0x100 + 8 * r.1) r.2) v) w1
      let e := power.toNat * 50
      let w3 : World := { w2 with pwr := { w2.pwr with
        energy := w2.pwr.energy + e, period := w2.pwr.period + e, volts := (inp.volt.toNat :: w2.pwr.volts).take 20, missing := false } }
      let v := vIn w3
      let w4 := if v < 48000 then pwrEvent w3 3 else w3
      let w5 := if 58000 < v then pwrEvent w4 4 else w4
      if 6500000 < power.toNat ∨ 12000 < inp.cur.toNat then powerGuard s.anat w5 else w5)

def capSet (w : World) (lo n v : Nat) : World := w.setReg 0x400000 (setFld (capStat w) lo n v)
def capMode (w : World) : Nat := fld (capStat w) 2 2

/-- Entry to SUSPECT. -/
def toSuspect (w : World) : World :=
  let w1 : World := { w with pwr := { w.pwr with sound := 0 } }
  if capMode w = 2 then w1 else pwrEvent (capSet w1 2 2 2) 1

/-- `TELEMETRY_MISSING`. -/
def execTelemetryMissing (s : State) : Res :=
  toWorld s (
    if s.w.pwr.supply ≠ 2 then s.w
    else toSuspect { s.w with pwr := { s.w.pwr with missing := true } })

/-! Capping (R610). -/

/-- The value of a 4-byte object. -/
def obj32 (w : World) (obj dflt : Nat) : Nat := leNat (sgetD w.dict.cur obj (leBytes 4 dflt))

/-- The coolant inlet's temperature, in 0.1 °C (`COOLANT_STAT`). -/
def inlet (w : World) : Int := ((w.reg 0x400028 0#64).extractLsb' 0 16).toInt

/-- CAP, in µW. DESIGN CHOICE (log 70). -/
def capOf (w : World) : Nat :=
  let base := min (min (obj32 w 0x200001 5200) (obj32 w 0x200002 5200)) 5200 * 1000000
  let amps := if w.pwr.volts.isEmpty then base else min base (96000 * vIn w)
  amps - 100000000 * ((inlet w - 400) / 10).toNat

/-- The period's figure F, in µW, as the mode selects it (R613). DESIGN CHOICE (log 70). -/
def figureOf (w : World) (model : Nat) : Nat :=
  match capMode w with
  | 0 => model * 1000000
  | 1 => w.pwr.period
  | _ => model * 1100000

/-- `CAPPING_PERIOD`: `model` is the activity model's figure for the period, in W. `CAP_STAT` shows whole watts. -/
def execCappingPeriod (model : BitVec 32) (s : State) : Res :=
  toWorld s (
    let w := s.w
    if w.pwr.supply ≠ 2 then w
    else
      let f := figureOf w model.toNat
      let cap := capOf w
      let w1 := capSet (capSet { w with pwr := { w.pwr with period := 0 } } 32 16 (cap / 1000000 % 65536)) 16 16
        (min (f / 1000000) 65535)
      if w.av.fw.isSome then w1
      else if cap < f then
        (liveDies s.anat).foldl (fun v d =>
          let c := fld (pwrOp v d) 8 4
          if !bit (pwrOp v d) 28 && decide (c < 7) then opSettle s.anat (pwrOpSet v d 8 4 (c + 1)) d else v)
          { w1 with pwr := { w1.pwr with calm := 0 } }
      else if 100 * f ≤ 95 * cap then
        if w1.pwr.calm + 1 < 5 then { w1 with pwr := { w1.pwr with calm := w1.pwr.calm + 1 } }
        else
          let w2 : World := { w1 with pwr := { w1.pwr with calm := 0 } }
          let ceil (d : Nat) : Nat := fld (pwrOp w2 d) 8 4
          let top := (liveDies s.anat).foldl (fun m d => max m (ceil d)) 0
          match (liveDies s.anat).find? (fun d => decide (ceil d = top)) with
          | some d => if top = 0 then w2 else opSettle s.anat (pwrOpSet w2 d 8 4 (top - 1)) d
          | none => w2
      else { w1 with pwr := { w1.pwr with calm := 0 } })

/-! Windows (R613, R614). -/

/-- Energy in µJ is added to accumulator k (R13, R14, R16, R20). -/
def accumulate (w : World) (k n : Nat) : World :=
  let off := 0x400100 + 16 * k
  let sum := (w.reg off 0#64).toNat + n
  let st := w.reg (off + 8) 0#64
  if sum < 2 ^ 64 then w.setReg off (w64 sum)
  else
    let w1 := (w.setReg off 0xFFFFFFFFFFFFFFFF#64).setReg (off + 8) (setBit st 0 true)
    if bit st 1 && !bit st 0 then msixSend w1 0 4 else w1

/-- The mode after a window of model energy m and measured energy e. -/
def windowMode (w : World) (m e : Nat) : World :=
  let diff := if m ≤ e then e - m else m - e
  let div := decide (15 * e < 100 * diff)
  let w0 := if div then w.countReg 0x400808 1 else w
  if 2 * e < m then toSuspect { w0 with pwr := { w0.pwr with diverged := 0 } }
  else
    match capMode w with
    | 0 =>
      let n := if div then w0.pwr.diverged + 1 else 0
      if 5 ≤ n then pwrEvent (capSet { w0 with pwr := { w0.pwr with diverged := 0, agreed := 0 } } 2 2 1) 0
      else { w0 with pwr := { w0.pwr with diverged := n } }
    | 1 =>
      let n := if 10 * diff ≤ e then w0.pwr.agreed + 1 else 0
      if 50 ≤ n then pwrEvent (capSet { w0 with pwr := { w0.pwr with agreed := 0, diverged := 0 } } 2 2 0) 2
      else { w0 with pwr := { w0.pwr with agreed := n } }
    | _ =>
      let n := if 85 * m ≤ 100 * e ∧ !w0.pwr.missing then w0.pwr.sound + 1 else 0
      if 100 ≤ n then pwrEvent (capSet { w0 with pwr := { w0.pwr with sound := 0, diverged := 0 } } 2 2 0) 2
      else { w0 with pwr := { w0.pwr with sound := n } }

/-- `MODEL_WINDOW`: the model's shares of the window in µJ, by accumulator 0 to 65. DESIGN CHOICE (log 70). -/
def execModelWindow (shares : List (BitVec 7 × BitVec 48)) (s : State) : Res :=
  toWorld s (
    let w := s.w
    if w.pwr.supply ≠ 2 then w
    else
      let l := (shares.filter (fun x => decide (x.1.toNat ≤ 65))).map (fun x => (x.1.toNat, x.2.toNat))
      let m := l.foldl (fun a x => a + x.2) 0
      let e := w.pwr.energy / 1000
      let w1 := windowMode { w with pwr := { w.pwr with energy := w.pwr.energy % 1000 } } m e
      let scaled := decide (capMode w1 = 1)
      let part (x : Nat × Nat) : Nat := if scaled then x.2 * e / max 1 m else x.2
      let sum := l.foldl (fun a x => a + part x) 0
      let w2 := l.foldl (fun v x => accumulate v x.1 (part x)) w1
      let w3 := if scaled then accumulate w2 65 (e - sum) else w2
      accumulate (accumulate w3 66 e) 67 m)

/-! Coolant (R616, R618). -/

/-- PAUSE on every UP port (R503). -/
def sendPause (w : World) (on : Bool) : World :=
  (List.range 32).foldl (fun v p => if (v.port p).state = 3 then v.emit (.ctl p (ctlSlot 4 on.toNat 0 0#64)) else v) w

/-- The module stops for coolant (R618 steps 1 and 2); before it has started only `CAP_STAT.HELD` tells it (R695). -/
def coolantStop (w : World) : World :=
  if w.held then w
  else if !w.timeRun then capSet w 1 1 1
  else
    let w1 := sendPause (pwrEvent ((capSet w 1 1 1).countReg 0x400810 1) 7) true
    let w2 := [0, 1, 2, 3].foldl (fun v d =>
      vengSet (pwrOpSet (v.modDie d (fun x => { x with step := none, slew := false, stretch := 0, urgent := false })) d 28 1 0) d 5500) w1
    { w2 with eclk := false }

/-- `COOLANT_LOSS`. -/
def execCoolantLoss (s : State) : Res :=
  toWorld s (
    if s.w.pwr.supply ≠ 2 then s.w
    else coolantStop (s.w.setReg 0x400028 (setBit (s.w.reg 0x400028 0#64) 32 false)))

/-- A stack in self-refresh: its front ends are empty, no row is open. -/
def FrontEnd.quiet (f : FrontEnd) : FrontEnd := { f with slots := [], wait := [], rows := [], writes := false }

/-- `COOLANT_HELD_STOPPED` (step 3). -/
def execCoolantHeldStopped (s : State) : Res :=
  toWorld s (
    let w := s.w
    if !w.held || w.eclk || !w.timeRun then w
    else { w with fes := w.fes.map (fun x => (x.1, x.2.quiet)), pwr := { w.pwr with gated := true } })

/-- `HOLD_LIMIT` (step 5). -/
def execHoldLimit (s : State) : Res :=
  toWorld s (
    let w := s.w
    if !w.held || !w.timeRun then w
    else
      let l := (List.range 32).filter (fun p => bit (lnkCtl w p) 0)
      let w1 := l.foldl (fun v p => lnkEnable s.anat v p false) w
      { w1 with pwr := { w1.pwr with limited := w1.pwr.limited ++ l } })

/-- Every junction and stack of the dies that run reads 85 °C or below. -/
def coolEnough (a : Anat) (w : World) : Bool :=
  (liveDies a).all (fun d =>
    let t := w.reg (pwrBase d + 0x18) 0#64
    decide ((t.extractLsb' 0 16).toInt ≤ 850) && decide ((t.extractLsb' 16 16).toInt ≤ 850))

/-- `COOLANT_RESTORED` (steps 6 and 7); migrations that waited for ECLK start (R637). -/
def execCoolantRestored (s : State) : Res :=
  toBoth s (
    let w := s.w
    if !w.held || !w.timeRun || w.pwr.refStop || (bit (capStat w) 0 && !coolEnough s.anat w) then (s.anat, w)
    else
      let w1 := (capSet w 0 2 0).setReg 0x400028 (setBit (w.reg 0x400028 0#64) 32 true)
      let w2 := (liveDies s.anat).foldl (fun v d =>
        vengSet (pwrOpSet (pwrOpSet v d 8 4 7) d 0 4 7) d (setVolt v d 7 (opBand v d))) w1
      let w3 : World := { w2 with eclk := true, pwr := { w2.pwr with gated := false, calm := 0 } }
      let w4 := (liveDies s.anat).foldl (fun v d => opSettle s.anat v d) w3
      let w5 := pwrEvent (sendPause w4 false) 8
      let w6 := w5.pwr.limited.foldl (fun v p => lnkEnable s.anat v p true) { w5 with pwr := { w5.pwr with limited := [] } }
      migAll (s.anat, (List.range 32).foldl (fun v p => portDrain p (v.port p).egress.length v) w6))

/-! Temperature (R603, R615 to R617). -/

/-- Lower limits of bands 1 to 3, in 0.1 °C. -/
def bandLimit (b : Nat) : Int := if b = 1 then 500 else if b = 2 then 700 else 850

/-- The band after a reading (R603). -/
def bandOf (old : Nat) (t : Int) : Nat :=
  let up := ([1, 2, 3].filter (fun b => decide (bandLimit b ≤ t))).length
  if old < up then up
  else iter (fun _ b => if 0 < b ∧ t ≤ bandLimit b - 20 then b - 1 else b) 3 old

/-- The hottest of some readings. -/
def hottest (l : List (BitVec 16)) : Option (BitVec 16) :=
  l.foldl (fun m x => match m with
    | none => some x
    | some y => if y.toInt < x.toInt then some x else some y) none

/-- `TEMP_STAT` and the band of a die. -/
def tempDie (a : Anat) (w : World) (d : Nat) (j h : List (BitVec 16)) : World :=
  let off := pwrBase d + 0x18
  let old := w.reg off 0#64
  let jm := (hottest j).getD (old.extractLsb' 0 16)
  let hm := (hottest h).getD (old.extractLsb' 16 16)
  let w1 := w.setReg off (packW [(16, hm.toNat), (0, jm.toNat)])
  let b := bandOf (opBand w1 d) jm.toInt
  if b = opBand w1 d then w1 else opSlew a (pwrOpSet w1 d 20 2 b) d

/-- `TEMP_SAMPLE`: 16 junctions of each die in turn, 24 stacks, inlet and outlet, in 0.1 °C. -/
def execTempSample (junctions hbmStacks : List (BitVec 16)) (inl outl : BitVec 16) (s : State) : Res :=
  toWorld s (
    let w := s.w
    if w.pwr.supply ≠ 2 then w
    else
      let w1 := w.setReg 0x400028 (setFld (setFld (w.reg 0x400028 0#64) 0 16 inl.toNat) 16 16 outl.toNat)
      let w2 := if 400 < inl.toInt then pwrEvent w1 9 else w1
      let live := liveDies s.anat
      let js (d : Nat) : List (BitVec 16) := (junctions.drop (16 * d)).take 16
      let hs (d : Nat) : List (BitVec 16) := (hbmStacks.drop (6 * d)).take 6
      let w3 := live.foldl (fun v d => tempDie s.anat v d (js d) (hs d)) w2
      if live.any (fun d => (js d ++ hs d).any (fun x => decide (1050 ≤ x.toInt))) then
        coolantStop (pwrEvent (capSet w3 0 1 1) 6)
      else w3)

/-- `THROTTLE`. -/
def execThrottle (d : Fin 4) (s : State) : Res :=
  toWorld s (
    let w := s.w
    let c := fld (pwrOp w d.val) 12 4
    if dieRuns s.anat (26 * d.val) && decide (950 ≤ ((w.reg (pwrBase d.val + 0x18) 0#64).extractLsb' 0 16).toInt) then
      opSettle s.anat (pwrEvent (pwrOpSet w d.val 12 4 (min 7 (c + 1))) 5) d.val
    else w)

/-- `THROTTLE_RELEASE`. -/
def execThrottleRelease (d : Fin 4) (s : State) : Res :=
  toWorld s (
    let w := s.w
    let c := fld (pwrOp w d.val) 12 4
    if dieRuns s.anat (26 * d.val) && decide (((w.reg (pwrBase d.val + 0x18) 0#64).extractLsb' 0 16).toInt < 920) then
      opSettle s.anat (pwrOpSet w d.val 12 4 (c - 1)) d.val
    else w)

end Sys2Proof.Machine
end

