-- ==== Sys2Proof/Machine/Service.lean ====
section
/-!
DEFINITION. The service count and the forecast of spares (R624 to R626), and the bytes of objects about them.
-/

namespace Sys2Proof.Machine

/-- Dies that are not lost. -/
def wholeDies (a : Anat) : List Nat := [0, 1, 2, 3].filter (fun d => !(a.dies.getD d ⟨false, false, false⟩).lost)

/-- Sum of a list of numbers. -/
def total (l : List Nat) : Nat := l.foldl (fun x y => x + y) 0

/-- Journal entries of a class. -/
def journalOf (w : World) (cls : Nat) : List JEntry := w.av.journal.filter (fun j => decide (j.cls = cls))

/-- Stacks in service on the dies that are not lost. -/
def wholeStacks (a : Anat) (w : World) : List Nat :=
  (List.range 24).filter (fun h => (wholeDies a).contains (h / 6) && !w.stacksLost.contains h)

/-- FREE of a spare class (R625, R626). DEDUCED (log 75). -/
def spareFree (a : Anat) (w : World) (cls : Nat) : Nat :=
  match cls with
  | 1 => total ((wholeDies a).map (fun d =>
      2 - ((journalOf w 1).filter (fun j => decide (j.res.headD 104 / 26 = d))).length))
  | 2 => total (((List.range 32).filter (fun p => (wholeDies a).contains (p / 8))).map (fun p =>
      let dir (l : List Lane) : Nat := (!l.any (fun x => decide (x.st = 4))).toNat
      dir (w.port p).rx + dir (w.port p).tx))
  | 3 => total (((List.range 128).filter (fun p => (wholeDies a).contains (p / 32))).map (fun p =>
      2 - ((List.range 16).filter (fun k => bit (pierRet w p) k)).length))
  | 4 => ((wholeStacks a w).filter (fun h => (w.stack h).pcCopy.isNone && (w.stack h).pcGone.isNone)).length
  | 5 => total ((wholeStacks a w).map (fun h => 4096 - (w.stack h).used))
  | _ => 0

/-- A service minute lies within the trailing 8,760 hours. DEDUCED (log 75). -/
def recent (w : World) (m : Nat) : Bool := decide (w.av.minutes < m + 525600)

/-- USED of a spare class (R625). DEDUCED (log 75). -/
def spareUsed (w : World) (cls : Nat) : Nat :=
  if cls = 2 then (w.av.lanes.filter (recent w)).length
  else ((journalOf w cls).filter (fun j => recent w j.at')).length

/-- `HOURS_LEFT` (R626). -/
def hoursLeft (a : Anat) (w : World) (cls : Nat) : Nat :=
  if spareUsed w cls = 0 then 0xFFFFFFFF else spareFree a w cls * 8760 / spareUsed w cls

/-- `SERVICE_MINUTE`: a minute in which a supervisor has run; the voltages follow every 10,000 hours (R604). -/
def execServiceMinute (s : State) : Res :=
  toWorld s (
    if !s.anat.dies.any (fun d => d.sup) then s.w
    else
      let w : World := { s.w with av := { s.w.av with minutes := s.w.av.minutes + 1 } }
      if w.av.minutes % 600000 = 0 then (liveDies s.anat).foldl (fun v d => opSlew s.anat v d) w else w)

/-- `SPARE_FORECAST`. -/
def execSpareForecast (s : State) : Res :=
  toWorld s (
    let w := s.w
    if !supRuns s.anat s.anat.super then w
    else
      let h := [1, 2, 3, 4, 5].map (hoursLeft s.anat w)
      let w1 : World := { w with av := { w.av with hours := h } }
      if h.any (fun x => decide (x < 8760)) then avEvent w1 11 else w1)

end Sys2Proof.Machine
end

