-- ==== Sys2Proof/Machine/Objects.lean ====
section
/-!
DEFINITION. The object table of the dictionary (R661 to R667, R621, R689 to R693), the values of its objects, and the
persistent store (R681 to R686).
-/

namespace Sys2Proof.Machine

/-! The table. Objects are numbered index × 256 + subindex. -/

/-- An object: type code (R663), rights of host, tray and monitor (R672's codes: 0 —, 1 RO, 2 WO, 3 RW, 4 RWP), maximum
length, range of a numeric value, default (empty where the tables give none), whether only segmented transfers write it,
whether a value takes effect at the next module reset. -/
structure ObjSpec where
  ty : Nat
  rights : List Nat
  max : Nat
  lo : Nat
  hi : Nat
  dflt : List Byte
  seg : Bool
  late : Bool
deriving DecidableEq, Repr

/-- Bytes of a numeric type; none for STR and BLOB. -/
def typeLen (ty : Nat) : Option Nat :=
  match ty with
  | 1 | 8 => some 1
  | 2 => some 2
  | 3 | 5 | 7 => some 4
  | 4 | 6 => some 8
  | _ => none

/-- A numeric object with a default and a range. -/
def numObj (ty : Nat) (r : List Nat) (d lo hi : Nat) : ObjSpec :=
  ⟨ty, r, (typeLen ty).getD 0, lo, hi, leBytes ((typeLen ty).getD 0) d, false, false⟩

/-- A numeric object of its type's whole range. -/
def num (ty : Nat) (r : List Nat) (d : Nat) : ObjSpec := numObj ty r d 0 (256 ^ (typeLen ty).getD 0 - 1)

/-- A numeric object without a default. -/
def numC (ty : Nat) (r : List Nat) : ObjSpec := { num ty r 0 with dflt := [] }

def blobObj (r : List Nat) (max : Nat) (d : List Byte) : ObjSpec := ⟨10, r, max, 0, 0, d, false, false⟩

def strObj (max : Nat) (d : List Byte) : ObjSpec := ⟨9, [1, 1, 1], max, 0, 0, d, false, false⟩

/-- An object of which a value takes effect at the next module reset. -/
def ObjSpec.atReset (o : ObjSpec) : ObjSpec := { o with late := true }

def objRO : List Nat := [1, 1, 1]
def objRW : List Nat := [3, 3, 3]

/-- The highest subindex of an index; none for an absent index (R662). -/
def subMax (idx : Nat) : Option Nat :=
  match idx with
  | 0x1000 => some 8
  | 0x1001 | 0x1002 => some 4
  | 0x1010 | 0x2001 | 0x3001 | 0x3010 | 0x3011 | 0x3020 | 0x3021 | 0x3030 | 0x3032 | 0x3033 => some 1
  | 0x2000 | 0x3000 | 0x3031 | 0x3034 | 0x3040 | 0x5000 => some 2
  | 0x2010 => some 68
  | 0x2020 | 0x5001 => some 3
  | 0x3002 | 0x3003 | 0x3004 => some 5
  | 0x3012 => some 24
  | 0x3041 | 0x3042 | 0x3043 | 0x4000 | 0x4001 | 0x4002 | 0x4003 | 0x4005 | 0x4010 | 0x5002 => some 1
  | 0x4004 => some 8
  | 0x6000 | 0x6001 | 0x6002 | 0xF000 => some 1
  | 0x7300 => some 9
  | _ =>
    if 0x7000 ≤ idx ∧ idx < 0x7020 then some 15
    else if 0x7040 ≤ idx ∧ idx < 0x7044 then some 14
    else if 0x7050 ≤ idx ∧ idx < 0x7054 then some 4
    else if 0x7100 ≤ idx ∧ idx < 0x7180 then some 8
    else if 0x7200 ≤ idx ∧ idx < 0x7218 then some 7
    else if 0x8000 ≤ idx ∧ idx < 0x8080 then some 4
    else if 0xF100 ≤ idx ∧ idx < 0xF104 then some 34
    else if 0xF120 ≤ idx ∧ idx < 0xF124 then some 1
    else none

/-- The object of an index and subindex that are present. DEDUCED (log 77). -/
def objSpec (a : Anat) (idx sub : Nat) : ObjSpec :=
  if sub = 0 then numC 1 objRO
  else
    match idx, sub with
    | 0x1000, 1 => strObj 20 (ascii "Haldoft Microsystems")
    | 0x1000, 2 => strObj 7 (ascii "Dravain")
    | 0x1000, 3 => strObj 10 (partNumber a)
    | 0x1000, 4 => strObj 16 (Config.serial.take 16)
    | 0x1000, 5 => num 1 objRO (if a.part = .a36 then 12 else 16)
    | 0x1000, 6 => num 1 objRO (decide (a.part = .d48)).toNat
    | 0x1000, 7 => numC 3 objRO
    | 0x1000, _ => strObj 9 (ascii "Scabritus")
    | 0x1001, 3 => numObj 1 objRW 1 1 1
    | 0x1001, 4 => num 3 objRO 1
    | 0x1001, _ => num 1 objRO 1
    | 0x1002, 1 => numC 1 objRO
    | 0x1002, 2 => numObj 2 [4, 4, 1] 100 20 1000
    | 0x1002, 3 => num 1 [4, 4, 1] 0x3E
    | 0x1002, _ => num 4 objRO 0
    | 0x1010, _ => numC 2 [2, 2, 0]
    | 0x2000, 1 => numObj 3 [4, 1, 4] 5200 1000 5200
    | 0x2000, _ => numObj 3 [1, 4, 1] 5200 1000 5200
    | 0x2001, _ => numObj 3 [4, 4, 4] 10 1 600
    | 0x2010, _ => numC 4 objRO
    | 0x2020, _ => numC 3 objRO
    | 0x3000, 1 => num 4 objRO 0
    | 0x3000, _ => num 3 objRO 0
    | 0x3001, _ => num 3 objRW 0
    | 0x3002, c => num 3 objRO (match c with
        | 1 => 8
        | 2 => 64
        | 3 => 256
        | 4 => 24
        | _ => 98304)
    | 0x3003, _ => num 3 objRO 0
    | 0x3004, _ => num 3 objRO 0xFFFFFFFF
    | 0x3010, _ => blobObj objRO 13 (List.replicate 13 0#8)
    | 0x3011, _ => blobObj objRO 256 (List.replicate 256 0#8)
    | 0x3012, _ => num 3 objRO 0xFF
    | 0x3020, _ => blobObj objRO 128 (List.replicate 128 0#8)
    | 0x3021, _ => num 4 objRO 0
    | 0x3030, _ => numC 4 objRO
    | 0x3031, _ => blobObj objRO 4691 []
    | 0x3032, _ => { blobObj [4, 4, 1] 4198995 [] with seg := true }
    | 0x3033, _ => { numObj 1 [3, 3, 1] 0 0 1 with dflt := [] }
    | 0x3034, 1 => num 3 objRW 0
    | 0x3034, _ => num 1 objRO 0
    | 0x3040, 1 => num 3 objRW 0
    | 0x3040, _ => numC 1 objRO
    | 0x3041, _ => blobObj objRO 1024 []
    | 0x3042, _ => { numObj 1 [2, 0, 0] 0 0 2 with dflt := [] }
    | 0x3043, _ => numC 4 objRO
    | 0x4000, _ => (num 2 [4, 4, 1] 0xFFFF).atReset
    | 0x4001, _ => (numObj 8 [4, 1, 4] (decide (a.part = .d48)).toNat 0 1).atReset
    | 0x4002, _ => num 3 objRO 0
    | 0x4003, _ => (blobObj [4, 1, 4] 196608 []).atReset
    | 0x4004, _ => (blobObj [4, 1, 4] 8192 []).atReset
    | 0x4005, _ => (num 4 [4, 0, 4] 0x480000).atReset
    | 0x4010, _ => blobObj [4, 1, 4] 128 []
    | 0x5000, 1 => (numObj 3 [4, 0, 4] 512 0 32768).atReset
    | 0x5000, _ => (num 4 [4, 0, 4] 0x40000000).atReset
    | 0x5001, 1 => (num 4 [4, 0, 4] 0x200000).atReset
    | 0x5001, 2 => (num 4 [4, 0, 4] 0x500000).atReset
    | 0x5001, _ => (num 4 [4, 0, 4] 0x10000000).atReset
    | 0x5002, _ => numC 3 objRO
    | 0x6000, _ => (num 4 [4, 0, 4] 0x400000).atReset
    | 0x6001, _ => num 1 objRO 0
    | 0x6002, _ => blobObj objRO 256 []
    | 0xF000, _ => blobObj objRO 4096 []
    | _, s =>
      if idx < 0x8000 then numC 4 objRO
      else if idx < 0x9000 then numC 4 (if s = 4 then objRO else objRW)
      else if idx < 0xF120 then numC 2 objRO
      else blobObj objRO 8388608 []

/-- The abort of an access that meets no object (R662, R12, R596). DEDUCED (log 77). -/
def objAbort (w : World) (obj : Nat) : Option Nat :=
  let idx := obj / 256
  if 0x8000 ≤ idx ∧ idx < 0x9000 ∧ w.host.unlocked = false then some 9
  else
    match subMax idx with
    | none => some 1
    | some m => if obj % 256 ≤ m then none else some 2

def specOf (a : Anat) (obj : Nat) : ObjSpec := objSpec a (obj / 256) (obj % 256)

/-! The persistent store. -/

/-- Persistent objects with records of R681, but the firmware banks. -/
def persistObjs : List Nat :=
  [0x100202, 0x100203, 0x200001, 0x200002, 0x200101, 0x303001, 0x400001, 0x400101, 0x400301] ++
  [0x400401, 0x400402, 0x400403, 0x400404, 0x400405, 0x400406, 0x400407, 0x400408] ++
  [0x400501, 0x401001, 0x500001, 0x500002, 0x500101, 0x500102, 0x500103, 0x600001]

/-- The number under which the store keeps firmware bank b. -/
def bankObj (b : Nat) : Nat := 0x303201 + b

/-- The factory's record: the default with SEQ 1; of the pointer and the banks their own sequence numbers. -/
def factoryRec (a : Anat) (obj : Nat) : DRec :=
  if obj = 0x303001 then ⟨0, List.replicate 8 0#8⟩
  else if obj = bankObj 0 ∨ obj = bankObj 1 then
    let b := Config.fwBank (obj - bankObj 0)
    ⟨leNat ((b.drop 4).take 4), b⟩
  else ⟨1, (specOf a obj).dflt⟩

/-- The copy of an object in a slot; none when it is not valid. -/
def recOf (a : Anat) (w : World) (n obj : Nat) : Option DRec := (sget (w.dict.slots.getD n []) obj).getD (some (factoryRec a obj))

/-- Slots that are present and writable: slot n lies on die n (R36), and is reached through that die's supervisor, or in FAILED
by Keystone ROM code (R701). -/
def slotsPresent (a : Anat) (w : World) : List Nat :=
  [0, 1, 2].filter (fun n => (supRuns a n || decide (a.ready = 6)) && !w.dict.failed.contains n)

/-- Valid copies of an object, by slot. -/
def copies (a : Anat) (w : World) (obj : Nat) : List (Nat × DRec) :=
  (slotsPresent a w).filterMap (fun n => (recOf a w n obj).map (fun r => (n, r)))

/-- The choice among copies (R683): the record, and whether the object is in conflict. DEDUCED (log 79). -/
def pickRec (l : List (Nat × DRec)) : Option (DRec × Bool) :=
  let top := l.foldl (fun m x => max m x.2.seq) 0
  let best := (l.filter (fun x => decide (x.2.seq = top))).map (fun x => x.2)
  match best.find? (fun r => decide (best.length < 2 * (best.filter (fun q => decide (q.val = r.val))).length)) with
  | some r => some (r, false)
  | none => best.head?.map (fun r => (r, true))

def setSlot (w : World) (n obj : Nat) (r : Option DRec) : World :=
  { w with dict := { w.dict with slots := lmod w.dict.slots n (fun m => sset m obj r) } }

/-- A slot's write fails: it is marked failed (R684). -/
def slotFail (w : World) (n : Nat) : World := { w with dict := { w.dict with failed := n :: w.dict.failed.filter (fun k => decide (k ≠ n)) } }

/-- With fewer than two slots `STORE_EVT.SLOT_LOST` is set (R685). -/
def slotLost (a : Anat) (w : World) : World :=
  if (slotsPresent a w).length < 2 then fwStoreEvent w true 2 else w

/-- A record is written to some slots in ascending order (R684): the slots that hold it afterwards, and whether a reset has cut
the write. DESIGN CHOICE (log 80). -/
def writeSlots (o : StoreOut) (obj : Nat) (r : DRec) : List Nat → World → List Nat × Bool × World
  | [], w => ([], false, w)
  | n :: l, w =>
    if o.cut.map (fun k => k.val) = some n then ([], true, setSlot w n obj none)
    else if bit o.fails n then writeSlots o obj r l (slotFail w n)
    else
      let z := writeSlots o obj r l (setSlot w n obj (some r))
      (n :: z.1, z.2)

/-- The end of a write: its abort code, and whether a reset has cut it, so that nothing answers it.
DESIGN CHOICE (log 80). -/
structure WrRes where
  code : Nat
  cut : Bool
  w : World
deriving DecidableEq, Repr

def WrRes.fail (w : World) (code : Nat) : WrRes := ⟨code, false, w⟩

/-- Writes a record with its value. One copy alone does not complete a write: hardware abort, the old value stays.
DEDUCED (log 79). -/
def storeRec (a : Anat) (w : World) (obj : Nat) (r : DRec) (o : StoreOut) : WrRes :=
  let z := writeSlots o obj r (slotsPresent a w) w
  if z.2.1 then ⟨0, true, z.2.2⟩
  else
    let w1 := slotLost a z.2.2
    if 2 ≤ z.1.length then ⟨0, false, { w1 with dict := { w1.dict with cur := sset w1.dict.cur obj r.val } }⟩
    else ⟨0xE, false, w1⟩

/-- Why a persistent write is refused before it starts (R685). -/
def persistRefused (a : Anat) (w : World) : Bool := !w.dict.conflicts.isEmpty || decide ((slotsPresent a w).length < 2)

/-- The sequence number of an object's chosen copy. -/
def seqOf (a : Anat) (w : World) (obj : Nat) : Nat := ((pickRec (copies a w obj)).map (fun x => x.1.seq)).getD 0

/-- A persistent write of a value (R682 to R686). -/
def storeValue (a : Anat) (w : World) (obj : Nat) (v : List Byte) (o : StoreOut) : WrRes :=
  if persistRefused a w then .fail (slotLost a w) 7
  else
    let q := seqOf a w obj + 1
    if 1000000000 < q then .fail w 8
    else storeRec a (if 900000000 < q then fwStoreEvent w true 3 else w) obj ⟨q, v⟩ o

/-- `STORE_WEAR` (R686). -/
def storeWear (a : Anat) (w : World) : W64 :=
  let m := persistObjs.foldl (fun b obj => if b.2 < seqOf a w obj then (obj, seqOf a w obj) else b) (0, 0)
  packW [(40, m.1), (0, m.2)]

/-! Firmware banks (R640 to R642). -/

/-- The activation pointer: active bank, PSEQ. -/
def fwPointer (a : Anat) (w : World) : W64 := wordAt (sgetD w.dict.cur 0x303001 (factoryRec a 0x303001).val) 0

def activeBank (a : Anat) (w : World) : Nat := (bit (fwPointer a w) 32).toNat

/-- The chosen copy of a bank. -/
def bankImage (a : Anat) (w : World) (b : Nat) : List Byte := ((pickRec (copies a w (bankObj b))).map (fun x => x.1.val)).getD []

/-- A copy of a bank is valid: Keystone finds digest and signature good, and a copy written since delivery has VER 1.
DEDUCED (log 78). -/
def bankValid (a : Anat) (w : World) (b n : Nat) (good : Bool) : Bool :=
  good && (slotsPresent a w).contains n && (match sget (w.dict.slots.getD n []) (bankObj b) with
    | none => true
    | some none => false
    | some (some r) => decide (r.val.head? = some 1#8))

/-- A write of the inactive bank's image; the bank's sequence is that of its header. DEDUCED (log 78). -/
def writeImage (a : Anat) (w : World) (v : List Byte) (o : StoreOut) : WrRes :=
  if persistRefused a w then .fail (slotLost a w) 7
  else storeRec a w (bankObj (1 - activeBank a w)) ⟨leNat ((v.drop 4).take 4), v⟩ o

/-! Values. -/

/-- The value kept for an object: what it was last given, or its default. -/
def kept (a : Anat) (w : World) (obj : Nat) : List Byte := sgetD w.dict.cur obj (specOf a obj).dflt

/-- An event counter as its mirror shows it (R691). -/
def mirrorVal (c : W64) : W64 := c &&& 0x8000FFFFFFFFFFFF#64

/-- The mirror of an index and subindex below 0x7300. -/
def mirrorObj (w : World) (idx sub : Nat) : W64 :=
  let k := sub - 1
  if idx < 0x7040 then mirrorVal (w.reg (portBase (idx - 0x7000) + 0x100 + 8 * k) 0#64)
  else if idx < 0x7050 then
    let d := idx - 0x7040
    mirrorVal (w.reg (if k < 5 then dieBase d + 0x900100 + 8 * k else dieBase d + 0xA00100 + 8 * (k - 5)) 0#64)
  else if idx < 0x7100 then mirrorVal (w.reg (viaBase (idx - 0x7050) + 0x100 + 8 * k) 0#64)
  else if idx < 0x7200 then
    let g := idx - 0x7100
    mirrorVal (w.reg (dcBase (g / 32) + 0x1000 + 0x40 * (g % 32) + 8 * k) 0#64)
  else
    let l := (List.range 64).map (fun pc => w.reg (hbmBase (idx - 0x7200) + 0x10000 + 0x40 * pc + 8 * k) 0#64)
    let n := total (l.map (fun c => fld c 0 48))
    if l.any (fun c => bit c 63) || decide (0xFFFFFFFFFFFF < n) then 0x8000FFFFFFFFFFFF#64 else w64 n

/-- Subindex k of the overflow summary: which of 64 mirror indices have a counter with OVF. -/
def overflowWord (w : World) (k : Nat) : W64 :=
  packW ((List.range 64).map (fun n =>
    let idx := 0x7000 + 64 * (k - 1) + n
    (n, match subMax idx with
      | some m => if idx < 0x7300 then ((List.range m).any (fun i => bit (mirrorObj w idx (i + 1)) 63)).toNat else 0
      | none => 0)))

/-- `LNK_SUMMARY`. -/
def lnkSummary (w : World) : Nat := total ((List.range 32).map (fun q => if w.reg (portBase q + 0x10) 0#64 = 0#64 then 0 else 2 ^ q))

/-- The bits of a list of flags, in bytes. -/
def flagBytes (l : List Bool) : List Byte :=
  (List.range ((l.length + 7) / 8)).map (fun i => packW ((List.range 8).map (fun j => (j, (l.getD (8 * i + j) false).toNat))) |>.extractLsb' 0 8)

/-- A path: 0 host, 1 monitor, 2 tray, 3 MGMT; which `GEN_SEL` it has. -/
def genSel (w : World) (path : Nat) : Byte := w.dict.gen.getD path 1#8

/-- Bytes of the objects that the module computes. DESIGN CHOICE (log 108). -/
def objComputed (a : Anat) (w : World) (path idx sub : Nat) : Option (List Byte) :=
  if sub = 0 then some [BitVec.ofNat 8 ((subMax idx).getD 0)]
  else
    match idx, sub with
    | 0x1000, 7 => some (leBytes 4 (Config.vendorId.toNat * 65536 + subsystemId a))
    | 0x1001, 3 => some [genSel w path]
    | 0x1002, 1 => some [BitVec.ofNat 8 w.dict.node]
    | 0x1002, 4 => some (leBytes 8 (mirrorVal w.dict.busOff).toNat)
    | 0x2010, k => some (leBytes 8 (w.reg (0x400100 + 16 * (k - 1)) 0#64).toNat)
    | 0x2020, 1 => some (leBytes 4 (capMode w))
    | 0x2020, 2 => some (leBytes 4 (fld (capStat w) 32 16))
    | 0x2020, _ =>
      let r := w.reg 0x400010 0#64
      some (leBytes 4 (fld r 32 32 * 10 * fld r 16 16 / 1000000))
    | 0x3000, 1 => some (leBytes 8 w.av.minutes)
    | 0x3000, _ => some (leBytes 4 (w.av.minutes / 60))
    | 0x3001, _ => some (leBytes 4 w.av.avEvt.toNat)
    | 0x3002, c => some (leBytes 4 (spareFree a w c))
    | 0x3003, c => some (leBytes 4 (spareUsed w c))
    | 0x3004, c => some (leBytes 4 (w.av.hours.getD (c - 1) 0xFFFFFFFF))
    | 0x3010, _ => some (flagBytes ((List.range 104).map (fun p =>
        decide (a.stOf p = .retired) || (journalOf w 1).any (fun j => j.done && decide (j.res = [p])))))
    | 0x3011, _ => some (((List.range 128).map (fun p => leBytes 2 (fld (pierRet w p) 0 16))).flatten)
    | 0x3012, k =>
      let r := w.stack (k - 1)
      some (leBytes 4 (r.used * 65536 + r.pcGone.getD 0xFF))
    | 0x3020, _ => some (((w.av.lastLock ++ List.replicate (16 - w.av.lastLock.length) 0#64).map (fun x => leBytes 8 x.toNat)).flatten)
    | 0x3021, _ => some (leBytes 8 w.av.lastLostWrite.toNat)
    | 0x3030, _ => some (leBytes 8 (fwPointer a w).toNat)
    | 0x3031, b => some ((bankImage a w (b - 1)).take 4691)
    | 0x3032, _ => some (bankImage a w (1 - activeBank a w))
    | 0x3033, _ => some (sgetD w.dict.cur 0x303301 [0#8])
    | 0x3034, 1 => some (leBytes 4 w.av.fwEvt.toNat)
    | 0x3034, _ => some [BitVec.ofNat 8 w.av.fwStatus]
    | 0x3040, 1 => some (leBytes 4 w.dict.storeEvt.toNat)
    | 0x3040, _ => some (flagBytes ([0, 1, 2].map (fun n => (slotsPresent a w).contains n)))
    | 0x3041, _ => some (((w.dict.conflicts.take 256).map (fun o => leBytes 2 (o / 256) ++ [BitVec.ofNat 8 o, 0#8])).flatten)
    | 0x3043, _ => some (leBytes 8 (storeWear a w).toNat)
    | 0x4002, _ => some (leBytes 4 (lnkSummary w))
    | 0x5002, _ => some (leBytes 4 (w.reg 0x48 0#64).toNat)
    | 0x6001, _ => some [BitVec.ofNat 8 w.host.unlocked.toNat]
    | 0x6002, _ => some ((List.range 256).map (fun k => BitVec.ofNat 8 (w.ks.get k).state))
    | 0xF000, _ => some (Config.testRecord.take 4096)
    | _, _ =>
      if 0x7000 ≤ idx ∧ idx < 0x7300 then some (leBytes 8 (mirrorObj w idx sub).toNat)
      else if idx = 0x7300 then some (leBytes 8 (overflowWord w sub).toNat)
      else if 0x8000 ≤ idx ∧ idx < 0x8080 then
        let c := w.reg (pertOff ((idx - 0x8000) / 32) ((idx - 0x8000) % 32) + 8 * (sub - 1)) 0#64
        some (leBytes 8 (if sub = 4 then mirrorVal c else c).toNat)
      else if 0xF100 ≤ idx ∧ idx < 0xF104 then
        some (leBytes 2 (if sub = 33 then (Config.ageStep (idx - 0xF100)).toNat
          else if sub = 34 then (Config.vengMax (idx - 0xF100)).toNat
          else (Config.vtab (idx - 0xF100) ((sub - 1) / 4) ((sub - 1) % 4)).toNat))
      else if 0xF120 ≤ idx ∧ idx < 0xF124 then some (Config.coeffs (idx - 0xF120))
      else none

/-- The whole value of an object as a path sees it. -/
def objVal (a : Anat) (w : World) (path obj : Nat) : List Byte := (objComputed a w path (obj / 256) (obj % 256)).getD (kept a w obj)

/-- The right of a path (R668): the MGMT path has the tray's. -/
def rightOf (a : Anat) (path obj : Nat) : Nat := (specOf a obj).rights.getD (match path with
  | 0 => 0
  | 1 => 2
  | _ => 1) 0

/-- An object is held by a segmented write (R666). -/
def objHeld (w : World) (obj : Nat) : Bool := w.dict.segs.any (fun x => x.2.wr && decide (x.2.obj = obj))

/-- A value read, or the abort. -/
def dictRead (a : Anat) (w : World) (path obj : Nat) : Except Nat (List Byte) :=
  match objAbort w obj with
  | some c => .error c
  | none =>
    let r := rightOf a path obj
    if r = 0 ∨ r = 2 then .error 3 else .ok (objVal a w path obj)

/-- The description of R672. -/
def describe (a : Anat) (w : World) (path obj : Nat) : List Byte :=
  let o := specOf a obj
  let numeric := (typeLen o.ty).isSome
  let d := o.dflt.take 30
  [BitVec.ofNat 8 o.ty] ++ (o.rights.map (BitVec.ofNat 8)) ++ leBytes 4 (if numeric then o.max else (objVal a w path obj).length) ++
    leBytes 4 o.max ++ leBytes 4 (if numeric then o.lo else 0) ++ leBytes 8 (if numeric then o.hi else 0) ++
    [BitVec.ofNat 8 (o.seg.toNat + 2 * o.late.toNat), BitVec.ofNat 8 d.length] ++ d ++ List.replicate (38 - d.length) 0#8

end Sys2Proof.Machine
end

