-- ==== Sys2Proof/Machine/Dict.lean ====
section
/-!
DEFINITION. Writes of dictionary objects (R664 to R667, R680, R685, R692), the start of a firmware activation (R643) and
the mailbox windows (R669 to R673).
-/

namespace Sys2Proof.Machine

/-! Effects of writes. -/

/-- A write to a persistent object with a slot's copy of it (R685); a slot without a valid copy leaves the value.
DEDUCED (log 79). -/
def resolveOne (a : Anat) (n : Nat) (o : StoreOut) (r : WrRes) (obj : Nat) : WrRes :=
  if r.cut then r
  else
    match recOf a r.w n obj with
    | none => r
    | some c =>
      let z := storeRec a r.w obj ⟨seqOf a r.w obj + 1, c.val⟩ o
      ⟨if r.code = 0 then z.code else r.code, z.cut, z.w⟩

/-- `STORE_RESOLVE`. -/
def storeResolve (a : Anat) (w : World) (n : Nat) (o : StoreOut) : WrRes :=
  if !(slotsPresent a w).contains n then .fail w 4
  else
    let z := w.dict.conflicts.foldl (resolveOne a n o) (.fail w 0)
    if z.cut ∨ z.code ≠ 0 then z
    else { z with w := z.w.modDict (fun d => { d with conflicts := [], storeEvt := setBit d.storeEvt 0 false }) }

/-- A range that `RESTORE_DEFAULTS` names (R690). -/
def rangeNamed (v : Nat) : Bool := decide (v = 0xFFFF) || (decide (v % 0x1000 = 0) && decide (0x1000 ≤ v) && decide (v ≤ 0x6000))

/-- Persistent objects of a range that some requester may write and that have a default. DEDUCED (log 79). -/
def restoreObjs (v : Nat) : List Nat :=
  persistObjs.filter (fun o => decide (o ≠ 0x303001) && (decide (v = 0xFFFF) || decide (o / 256 / 0x1000 = v / 0x1000)))

/-- `RESTORE_DEFAULTS` (R665, R682). -/
def restoreDefaults (a : Anat) (w : World) (v : Nat) (o : StoreOut) : WrRes :=
  if !rangeNamed v then .fail w 4
  else if persistRefused a w then .fail (slotLost a w) 7
  else (restoreObjs v).foldl (fun r obj =>
    if r.cut then r
    else
      let z := storeValue a r.w obj (specOf a obj).dflt o
      ⟨if r.code = 0 then z.code else r.code, z.cut, z.w⟩) (.fail w 0)

/-- `GEN_SEL` of a path. -/
def genSelect (w : World) (path : Nat) (v : Byte) : WrRes :=
  if v = 1#8 then .fail (w.modDict (fun d => { d with gen := d.gen.set path v })) 0 else .fail w 4

/-- Valid copies of a bank. DEDUCED (log 78). -/
def validCopies (a : Anat) (w : World) (b : Nat) (o : StoreOut) : Nat :=
  ([0, 1, 2].filter (fun n => bankValid a w b n (bit o.valid n))).length

/-- An activation of bank b is asked for (R643 steps 1 and 2). -/
def fwStart (a : Anat) (w : World) (b : Nat) (o : StoreOut) : World :=
  if validCopies a w b o < 2 then fwStoreEvent { w with av := { w.av with fwStatus := 1 } } false 3
  else { w with av := { w.av with fwStatus := 3, fw := some ⟨decide (b = 1), []⟩ } }

/-- The pointer names a bank (R641, R643 step 5). -/
def writePointer (a : Anat) (w : World) (b : Nat) (o : StoreOut) : WrRes :=
  if persistRefused a w then .fail (slotLost a w) 7
  else
    let q := (fld (fwPointer a w) 0 32 + 1) % 2 ^ 32
    storeRec a w 0x303001 ⟨q, leBytes 8 (b * 2 ^ 32 + q)⟩ o

/-- A write of `FW_ACTIVATE`: in FAILED only the pointer is written (R701). DEDUCED (log 78). -/
def fwActivate (a : Anat) (w : World) (b : Nat) (o : StoreOut) : WrRes :=
  if w.av.fw.isSome then .fail w 6
  else
    let w1 := w.modDict (fun d => { d with cur := sset d.cur 0x303301 [BitVec.ofNat 8 b] })
    if a.ready = 6 ∧ 2 ≤ validCopies a w1 b o then writePointer a w1 b o else .fail (fwStart a w1 b o) 0

/-- A write of a perturbation register (R592, R593). -/
def pertWrite (w : World) (d i k : Nat) (v : W64) : World :=
  let off := pertOff d i + 8 * k
  match k with
  | 0 => pertSelWrite w d i v
  | 1 => w.setReg off (v &&& 0xFFFFFF#64)
  | 2 => { w.setReg off (v &&& 0xFFFFFFFF#64) with pert := sdel w.pert (32 * d + i) }
  | _ => w.setReg off (regWrite regCtr (w.reg off 0#64) v)

/-- `EVT_MASK` gathers bits only of the vectors that it enables (R678). -/
def evtVector (key : Nat) : Nat := if key = 6 then 5 else if 16 ≤ key then 4 else key

def evtMask (a : Anat) (w : World) : Byte := (kept a w 0x100203).headD 0#8

/-- Bits that set while their vector was masked are forgotten. DESIGN CHOICE (log 83). -/
def dropMasked (a : Anat) (w : World) : World :=
  w.modDict (fun d => { d with evPend := d.evPend.filter (fun x => bit (evtMask a w) (evtVector x.1)) })

/-- A numeric value lies in its object's range. DEDUCED (log 77). -/
def valueOk (a : Anat) (obj : Nat) (v : List Byte) : Bool :=
  let o := specOf a obj
  let n := leNat v
  if obj = 0x400001 then decide (n < 4096) || decide (n = 0xFFFF)
  else if (typeLen o.ty).isNone then true
  else decide (o.lo ≤ n) && decide (n ≤ o.hi)

/-- The length that the object allows (R663). DEDUCED (log 77). -/
def lengthOk (a : Anat) (obj n : Nat) : Bool :=
  let o := specOf a obj
  match typeLen o.ty with
  | some k => decide (n = k)
  | none => decide (n ≤ o.max)

/-- A whole value reaches an object that the requester may write. DEDUCED (log 77). -/
def objWrite (a : Anat) (w : World) (path obj : Nat) (v : List Byte) (o : StoreOut) : WrRes :=
  let n := leNat v
  let ev := BitVec.ofNat 32 n
  if !lengthOk a obj v.length then .fail w 5
  else if !valueOk a obj v then .fail w 4
  else
    match obj with
    | 0x100103 => genSelect w path (BitVec.ofNat 8 n)
    | 0x100203 => storeValue a (dropMasked a w) obj v o
    | 0x101001 => restoreDefaults a w n o
    | 0x300101 => .fail { w with av := { w.av with avEvt := w.av.avEvt &&& ~~~ ev } } 0
    | 0x303401 => .fail { w with av := { w.av with fwEvt := w.av.fwEvt &&& ~~~ ev } } 0
    | 0x304001 => .fail (w.modDict (fun d => { d with storeEvt := d.storeEvt &&& ~~~ ev })) 0
    | 0x303201 => if w.av.fw.isSome then .fail w 6 else writeImage a w v o
    | 0x303301 => fwActivate a w n o
    | 0x304201 => storeResolve a w n o
    | _ =>
      if 0x800000 ≤ obj ∧ obj < 0x808000 then
        let i := obj / 256 - 0x8000
        .fail (if dieRuns a (26 * (i / 32)) then pertWrite w (i / 32) (i % 32) (obj % 256 - 1) (w64 n) else w) 0
      else storeValue a w obj v o

/-- Why a path may not write an object at all. DEDUCED (log 77). -/
def writeRefused (a : Anat) (w : World) (path obj : Nat) : Option Nat :=
  match objAbort w obj with
  | some c => some c
  | none => if rightOf a path obj < 2 then some 3 else none

/-- An unsegmented write of a path. -/
def dictWrite (a : Anat) (w : World) (path obj : Nat) (v : List Byte) (o : StoreOut) : WrRes :=
  match writeRefused a w path obj with
  | some c => .fail w c
  | none =>
    if objHeld w obj then .fail w 6
    else if (specOf a obj).seg then .fail w 5
    else objWrite a w path obj v o

/-- The dictionary is served: step 4 has ended, and the module supervisor runs. -/
def serving (a : Anat) (w : World) : Bool := w.dict.up && supRuns a a.super

/-! Commands that name one object (R680, R685, R690): they have the effect of the write. -/

def execStoreResolve (n : Byte) (o : StoreOut) (s : State) : Res :=
  toWorld s (if serving s.anat s.w then (dictWrite s.anat s.w 0 0x304201 [n] o).w else s.w)

/-- `RESTORE_DEFAULTS`, by the host or the tray. -/
def execRestoreDefaults (v : BitVec 16) (o : StoreOut) (s : State) : Res :=
  toWorld s (if serving s.anat s.w then (dictWrite s.anat s.w 0 0x101001 (leBytes 2 v.toNat) o).w else s.w)

def pathKey : DictPath → Nat
  | .host => 0
  | .monitor => 1
  | .tray => 2
  | .mgmt => 3

def execGenSelWrite (p : DictPath) (v : Byte) (s : State) : Res :=
  toWorld s (if serving s.anat s.w then (dictWrite s.anat s.w (pathKey p) 0x100103 [v] ⟨0#3, none, 0#3⟩).w else s.w)

/-- `FW_ACTIVATE`, by the host or the tray. -/
def execFwActivate (b : Byte) (o : StoreOut) (s : State) : Res :=
  toWorld s (if serving s.anat s.w then (dictWrite s.anat s.w 0 0x303301 [b] o).w else s.w)

/-! Mailbox windows (R669 to R671). Path 0 has the host window, path 1 the monitor's. -/

def MbReq.obj (r : MbReq) : Nat := fld r.cmd 40 24
def MbReq.kind (r : MbReq) : Nat := fld r.cmd 28 4
def MbReq.last (r : MbReq) : Bool := bit r.cmd 27
def MbReq.len (r : MbReq) : Nat := fld r.cmd 0 15
def MbReq.offset (r : MbReq) : Nat := fld r.off 0 32

/-- Response data is placed in the buffer. -/
def mbPut (w : World) (path : Nat) (l : List Byte) : World :=
  (List.range ((l.length + 7) / 8)).foldl (fun v k =>
    let off := mbBase path + 0x4000 + 8 * k
    let new := (l.drop (8 * k)).take 8
    let old := leBytes 8 (v.reg off 0#64).toNat
    v.setReg off (w64 (leNat (new ++ old.drop new.length)))) w

/-- A transfer or request of a window ends with an abort code (R670). -/
def mbReport (w : World) (path code count : Nat) : World :=
  let st := mbStat w path
  let st1 := setFld (setFld (setFld (setBit st 62 true) 63 1 0) 48 8 code) 32 16 (fld st 32 16 + count)
  let w1 := w.setReg (mbBase path + 0x18) st1
  if path = 0 ∧ bit (mbCmd w path) 26 then msixSend w1 0 0 else w1

/-- The end of a READ or DESCRIBE: data, abort code and `TOTAL`; an abort places no data and leaves `MB_RLEN`.
DEDUCED (log 81). -/
def mbAnswer (w : World) (path code : Nat) (l : List Byte) (total : Option Nat) : World :=
  let w1 := if code = 0 then (mbPut w path l).setReg (mbBase path + 0x20) (w64 l.length) else w
  let w2 := match total with
    | some n => w1.setReg (mbBase path + 0x18) (setFld (mbStat w1 path) 0 32 n)
    | none => w1
  mbReport w2 path code 1

/-- A READ: the abort code, the bytes and the length of the whole value. DEDUCED (log 81). -/
def mbReadOf (a : Anat) (w : World) (path : Nat) (r : MbReq) : Nat × List Byte × Option Nat :=
  match dictRead a w path r.obj with
  | .error c => (c, [], none)
  | .ok v =>
    if v.length < r.offset then (5, [], some v.length)
    else if objHeld w r.obj && (decide (r.offset ≠ 0) || decide (r.len < v.length)) then (6, [], some v.length)
    else (0, (v.drop r.offset).take r.len, some v.length)

def setSeg (w : World) (key : Nat) (x : DSeg) : World := w.modDict (fun d => { d with segs := sset d.segs key x })

/-- A first piece that does not hold the whole value. DEDUCED (logs 77, 81). -/
def mbFirst (a : Anat) (w : World) (path : Nat) (r : MbReq) : WrRes :=
  match writeRefused a w path r.obj with
  | some c => .fail w c
  | none =>
    if (typeLen (specOf a r.obj).ty).isSome then .fail w 0xB
    else if objHeld w r.obj || (sget w.dict.segs path).isSome then .fail w 6
    else if (specOf a r.obj).max < r.data.length then .fail w 5
    else .fail (setSeg w path ⟨r.obj, true, 0#8, r.data, 0, r.data.length⟩) 0

/-- A later piece of a staged write. DEDUCED (log 81). -/
def mbPiece (a : Anat) (w : World) (path : Nat) (x : DSeg) (r : MbReq) (o : StoreOut) : WrRes :=
  let l := x.data ++ r.data
  if r.obj ≠ x.obj ∨ r.offset ≠ x.next then .fail (dropSeg w path) 0xB
  else if (specOf a x.obj).max < l.length then .fail (dropSeg w path) 5
  else if r.last then objWrite a (dropSeg w path) path x.obj l o
  else .fail (setSeg w path { x with data := l, next := x.next + r.data.length }) 0

/-- A WRITE of a window (R671). DEDUCED (log 77). -/
def mbWriteOf (a : Anat) (w : World) (path : Nat) (r : MbReq) (o : StoreOut) : WrRes :=
  if r.offset = 0 then (if r.last then dictWrite a w path r.obj r.data o else mbFirst a w path r)
  else
    match sget w.dict.segs path with
    | some x =>
      match (if r.obj = x.obj then none else writeRefused a w path r.obj) with
      | some c => .fail w c
      | none => mbPiece a w path x r o
    | none => .fail w ((writeRefused a w path r.obj).getD 0xB)

/-- GO (R670): a malformed request ends at once. DEDUCED (logs 60, 81). -/
def mbGo (w : World) (path : Nat) : World :=
  let c := mbCmd w path
  let st := mbStat w path
  let k := fld c 28 4
  if bit st 63 then w.setReg (mbBase path + 0x18) (setBit st 61 true)
  else if fld c 32 4 ≠ 1 then mbReport w path 0xD 1
  else if !(k = 1 || k = 2 || k = 6) || decide (16384 < fld c 0 15) then mbReport w path 0xB 1
  else w.setReg (mbBase path + 0x18) (setBit st 63 true)

/-- The started requests of a window that are of one kind, oldest first: those whose response is discarded, and the one
that the window holds. -/
def mbNext (a : Anat) (w : World) (path kind : Nat) : Option (MbReq × Bool) :=
  if !serving a w then none
  else
    match (if path = 0 then w.dict.orphans.head? else none) with
    | some r => if r.kind = kind then some (r, true) else none
    | none => if mbBusy w path ∧ (mbReq w path).kind = kind then some (mbReq w path, false) else none

def dropOrphan (w : World) : World := w.modDict (fun d => { d with orphans := d.orphans.drop 1 })

def winPath : MbWin → Nat
  | .host => 0
  | .monitor => 1

/-- `MB_READ`. -/
def execMbRead (win : MbWin) (s : State) : Res :=
  toWorld s (
    let p := winPath win
    match mbNext s.anat s.w p 1 with
    | none => s.w
    | some (_, true) => dropOrphan s.w
    | some (r, false) =>
      let z := mbReadOf s.anat s.w p r
      mbAnswer s.w p z.1 z.2.1 z.2.2)

/-- `MB_WRITE`. -/
def execMbWrite (win : MbWin) (o : StoreOut) (s : State) : Res :=
  toWorld s (
    let p := winPath win
    match mbNext s.anat s.w p 2 with
    | none => s.w
    | some (r, gone) =>
      let z := mbWriteOf s.anat s.w p r o
      if z.cut then z.w
      else if gone then dropSeg (dropOrphan z.w) p
      else mbReport z.w p z.code 1)

/-- `MB_DESCRIBE`. -/
def execMbDescribe (win : MbWin) (s : State) : Res :=
  toWorld s (
    let p := winPath win
    match mbNext s.anat s.w p 6 with
    | none => s.w
    | some (_, true) => dropOrphan s.w
    | some (r, false) =>
      match objAbort s.w r.obj with
      | some c => mbAnswer s.w p c [] none
      | none => mbAnswer s.w p 0 (describe s.anat s.w p r.obj) none)

end Sys2Proof.Machine
end

