-- ==== Sys2Proof/Machine/Gatemi.lean ====
section
/-!
DEFINITION. Gatemi over CAN FD (R674 to R678), dictionary messages of other modules (R679), takeovers as the dictionary sees
them (R687), and the loss of a die.
-/

namespace Sys2Proof.Machine

/-! Frames. -/

/-- A frame of R676: command, TID, the bytes 2 to 4, byte 5, DATA. -/
def gFrame (cmd : Nat) (tid : Byte) (mid : List Byte) (b5 : Nat) (data : List Byte) : List Byte :=
  [BitVec.ofNat 8 (16 + cmd), tid] ++ mid ++ [BitVec.ofNat 8 b5] ++ leBytes 2 data.length ++ data ++ List.replicate (56 - data.length) 0#8

/-- Index and subindex of an object as bytes 2 to 4. -/
def gObj (obj : Nat) : List Byte := leBytes 2 (obj / 256) ++ [BitVec.ofNat 8 obj]

/-- The node id allows sending (R675), and die 0's controller works: its die is not held, or the module is in FAILED. -/
def canUp (a : Anat) (w : World) : Bool :=
  decide (1 ≤ w.dict.node) && decide (w.dict.node ≤ 126) && decide (w.pwr.supply = 2) &&
    (decide (a.ready = 6) || !(a.dies.getD 0 ⟨false, false, false⟩).lost)

/-- A frame on the bus, by function code. -/
def canSend (a : Anat) (w : World) (fn : Nat) (b : List Byte) : World := if canUp a w then w.emit (.can (fn * 128 + w.dict.node) b) else w

/-- A response goes to the tray (key 2), or as MGMT to a node (key 16 + its id). -/
def gSend (a : Anat) (w : World) (key : Nat) (b : List Byte) : World :=
  if key = 2 then canSend a w 6 b
  else (sendTxn w a.super { txnOf 7 0#8 (key - 16) 0 64 with data := b } .mgmt).2

/-- ABORT with a code. DEDUCED (log 82). -/
def gAbort (a : Anat) (w : World) (key : Nat) (tid : Byte) (mid : List Byte) (code : Nat) : World := gSend a w key (gFrame 7 tid mid code [])

/-- The path whose rights a key has. -/
def gPath (key : Nat) : Nat := if key = 2 then 2 else 3

/-! Segmented transfers (R677). -/

/-- Segments of 56 bytes. -/
def segCount (x : DSeg) : Nat := (x.data.length + 55) / 56

/-- SEG frames from a number up to the next multiple of sixteen or the last. -/
def sendSegs (a : Anat) (w : World) (key : Nat) (x : DSeg) (k : Nat) : World :=
  let stop := min (segCount x) ((k / 16 + 1) * 16)
  let w1 := (List.range (stop - k)).foldl (fun v i =>
    gSend a v key (gFrame 4 x.tid (leBytes 3 (k + i)) 0 ((x.data.drop (56 * (k + i))).take 56))) w
  setSeg w1 key { x with next := stop }

/-- READ: one response, or the start of a segmented read. -/
def gRead (a : Anat) (w : World) (key : Nat) (tid : Byte) (obj seg : Nat) : World :=
  let resp (v : World) (b5 : Nat) (l : List Byte) : World := gSend a v key (gFrame 1 tid (gObj obj) b5 l)
  match dictRead a w (gPath key) obj with
  | .error c => resp w (c + 128 * seg) []
  | .ok v =>
    if v.length ≤ 56 then resp w (128 * seg) v
    else if (sget w.dict.segs key).isSome || objHeld w obj then resp w (6 + 128 * seg) []
    else sendSegs a (resp w 128 (leBytes 4 v.length)) key ⟨obj, false, tid, v, v.length, 0⟩ 0

/-- The end of a write; a write cut by a reset is not answered. -/
def gWriteEnd (a : Anat) (key : Nat) (tid : Byte) (obj bit7 : Nat) (z : WrRes) : World :=
  if z.cut then z.w else gSend a z.w key (gFrame 2 tid (gObj obj) (z.code + 128 * bit7) [])

/-- A segmented initiate. DEDUCED (log 82). -/
def gOpen (a : Anat) (w : World) (key : Nat) (tid : Byte) (obj n : Nat) (o : StoreOut) : World :=
  let resp (c : Nat) : World := gSend a w key (gFrame 2 tid (gObj obj) (c + 128) [])
  if (sget w.dict.segs key).isSome then resp 6
  else
    match writeRefused a w (gPath key) obj with
    | some c => resp c
    | none =>
      if objHeld w obj then resp 6
      else if !lengthOk a obj n then resp 5
      else if n = 0 then gWriteEnd a key tid obj 1 (objWrite a (resp 0) (gPath key) obj [] o)
      else setSeg (resp 0) key ⟨obj, true, tid, [], n, 0⟩

/-- WRITE, expedited or the start of a segmented write. -/
def gWrite (a : Anat) (w : World) (key : Nat) (tid : Byte) (obj seg : Nat) (data : List Byte) (o : StoreOut) : World :=
  if seg = 1 then gOpen a w key tid obj (leNat (data.take 4)) o
  else gWriteEnd a key tid obj 0 (dictWrite a w (gPath key) obj data o)

/-- A SEG of a write. DEDUCED (log 82). -/
def gSeg (a : Anat) (w : World) (key : Nat) (tid : Byte) (no : Nat) (data : List Byte) (o : StoreOut) : World :=
  match sget w.dict.segs key with
  | none => gAbort a w key tid (gObj 0) 0xB
  | some x =>
    let ack (v : World) (n : Nat) : World := gSend a v key (gFrame 5 tid (leBytes 3 n) 0 [])
    if !x.wr || decide (x.tid ≠ tid) then gAbort a w key tid (gObj 0) 0xB
    else if no ≠ x.next then ack w x.next
    else if data.length ≠ min 56 (x.total - x.data.length) then gAbort a (dropSeg w key) key tid (gObj x.obj) 0xB
    else
      let y := { x with data := x.data ++ data, next := no + 1 }
      if y.data.length = x.total then gWriteEnd a key tid x.obj 1 (objWrite a (ack (dropSeg w key) y.next) (gPath key) x.obj y.data o)
      else if y.next % 16 = 0 then ack (setSeg w key y) y.next
      else setSeg w key y

/-- A SEG_ACK of a read: it goes on from the segment named, or it has ended. DEDUCED (log 82). -/
def gAck (a : Anat) (w : World) (key : Nat) (tid : Byte) (no : Nat) : World :=
  match sget w.dict.segs key with
  | none => gAbort a w key tid (gObj 0) 0xB
  | some x =>
    if x.wr || decide (x.tid ≠ tid) then gAbort a w key tid (gObj 0) 0xB
    else if no = segCount x ∧ x.next = segCount x then dropSeg w key
    else if no ≤ x.next ∧ no < segCount x then sendSegs a w key x no
    else gAbort a (dropSeg w key) key tid (gObj x.obj) 0xB

/-! Requests. -/

/-- What Keystone ROM code answers in FAILED (R701). -/
def romServes (cmd idx : Nat) : Bool :=
  (decide (cmd = 1) && decide (idx = 0x1000)) ||
    ((decide (cmd = 1) || decide (cmd = 2)) && (decide (idx = 0x3032) || decide (idx = 0x3033) || decide (idx = 0x3034)))

/-- A request frame of 64 bytes on a path. DEDUCED (log 82). -/
def gServe (a : Anat) (w : World) (key : Nat) (b : List Byte) (o : StoreOut) : World :=
  let b0 := b.getD 0 0#8
  let cmd := fld b0 0 4
  let tid := b.getD 1 0#8
  let mid := (b.drop 2).take 3
  let obj := leNat (mid.take 2) * 256 + (mid.getD 2 0#8).toNat
  let seg := (bit (b.getD 5 0#8) 0).toNat
  let len := leNat ((b.drop 6).take 2)
  let data := (b.drop 8).take len
  if fld b0 4 4 ≠ 1 then gAbort a w key tid mid (0xD + 128 * seg)
  else if !(cmd = 1 || cmd = 2 || cmd = 4 || cmd = 5 || cmd = 6 || cmd = 7) || decide (56 < len) then gAbort a w key tid mid (0xB + 128 * seg)
  else if decide (a.ready = 6) && (decide (cmd = 1) || decide (cmd = 2) || decide (cmd = 6)) && !romServes cmd (obj / 256) then
    gSend a w key (gFrame cmd tid mid (0xE + 128 * seg) [])
  else
    match cmd with
    | 1 => gRead a w key tid obj seg
    | 2 => gWrite a w key tid obj seg data o
    | 4 => gSeg a w key tid (leNat mid) data o
    | 5 => gAck a w key tid (leNat mid)
    | 6 =>
      match objAbort w obj with
      | some c => gSend a w key (gFrame 6 tid mid (c + 128 * seg) [])
      | none => gSend a w key (gFrame 6 tid mid (128 * seg) ((describe a w (gPath key) obj).take 56))
    | _ =>
      match sget w.dict.segs key with
      | some x => if x.tid = tid then dropSeg w key else w
      | none => w

/-- A frame that the controller takes as a request (R674, R675). -/
def gTaken (w : World) (f : CanFrame) : Bool :=
  decide (f.id.toNat / 128 = 5) && decide (f.id.toNat % 128 = w.dict.node) && decide (f.bytes.length = 64)

/-- A request frame of one command arrives. While no module supervisor serves, it is kept (R687). A command of one kind that
brings another's frame has no effect; a frame whose CMD no command has, or whose VER is not 1, is refused by whichever
brings it. DESIGN CHOICE (log 83). -/
def gArrive (a : Anat) (w : World) (cmd : Nat) (f : CanFrame) (o : StoreOut) : World :=
  let b0 := f.bytes.getD 0 0#8
  let k := fld b0 0 4
  let known := k = 1 || k = 2 || k = 4 || k = 5 || k = 6 || k = 7
  if !canUp a w || !gTaken w f || !w.dict.up || decide (a.ready = 6) || (known && decide (k ≠ cmd) && decide (fld b0 4 4 = 1)) then w
  else if serving a w then gServe a w 2 f.bytes o
  else if w.dict.frames.length < 32 then w.modDict (fun d => { d with frames := d.frames ++ [f.bytes] })
  else w

def noStore : StoreOut := ⟨0#3, none, 0#3⟩

def execGatemiRead (f : CanFrame) (s : State) : Res := toWorld s (gArrive s.anat s.w 1 f noStore)
def execGatemiWrite (f : CanFrame) (o : StoreOut) (s : State) : Res := toWorld s (gArrive s.anat s.w 2 f o)

/-- `SEG`. -/
def execSeg (f : CanFrame) (o : StoreOut) (s : State) : Res := toWorld s (gArrive s.anat s.w 4 f o)

/-- `SEG_ACK`. -/
def execSegAck (f : CanFrame) (s : State) : Res := toWorld s (gArrive s.anat s.w 5 f noStore)

def execGatemiDescribe (f : CanFrame) (s : State) : Res := toWorld s (gArrive s.anat s.w 6 f noStore)
def execGatemiAbort (f : CanFrame) (s : State) : Res := toWorld s (gArrive s.anat s.w 7 f noStore)

/-! MGMT (R679). -/

/-- A node is listed in `MGMT_ALLOW`. -/
def mgmtAllowed (a : Anat) (w : World) (node : Nat) : Bool :=
  let l := kept a w 0x401001
  (List.range (l.length / 2)).any (fun i => decide (leNat ((l.drop (2 * i)).take 2) = node))

/-- A body for the dictionary; pair-key messages have their effect with the exchange (R497). DEDUCED (log 84). -/
def mgmtBody (a : Anat) (w : World) (src : Nat) (b : List Byte) (o : StoreOut) : World :=
  if fld (b.getD 0 0#8) 4 4 ≠ 1 ∨ !serving a w then w
  else if mgmtAllowed a w src then gServe a w (16 + src) b o
  else gAbort a w (16 + src) (b.getD 1 0#8) ((b.drop 2).take 3) 3

/-- `MGMT`. -/
def execMgmt (p : Fin 32) (t : NetTxn) (o : StoreOut) (s : State) : Res :=
  toWorld s (request s.anat s.w p.val 7 t (fun v => ⟨0#8, [], mgmtBody s.anat v t.src.toNat t.slots o⟩))

/-! Gaps (R671, R677, R679). -/

/-- An open transfer of a path ends with an abort code. DEDUCED (log 81). -/
def segEnd (a : Anat) (w : World) (key code : Nat) : World :=
  match sget w.dict.segs key with
  | none => w
  | some x =>
    let w1 := dropSeg w key
    if key < 2 then mbReport w1 key code 0 else gAbort a w1 key x.tid (gObj x.obj) code

def segKey : SegPath → Nat
  | .host => 0
  | .monitor => 1
  | .gatemi => 2
  | .node n => 16 + n.toNat

/-- `SEGMENT_GAP_TIMEOUT`. -/
def execSegmentGapTimeout (p : SegPath) (s : State) : Res := toWorld s (segEnd s.anat s.w (segKey p) 0xA)

/-! Heartbeats and event frames (R678), bus-off (R674). -/

/-- `GATEMI_HEARTBEAT`, with the seconds since module reset; it is sent from step 2 on. DESIGN CHOICE (log 83). -/
def execGatemiHeartbeat (seconds : BitVec 32) (s : State) : Res :=
  toWorld s (
    let a := s.anat
    let w := s.w
    let flags := (bit (capStat w) 1).toNat + 2 * (a.dies.any (fun d => d.lost)).toNat + 4 * (!w.dict.conflicts.isEmpty).toNat
    if supRuns a a.super || decide (a.ready = 6) then
      canSend a w 14 ([BitVec.ofNat 8 a.ready, BitVec.ofNat 8 flags, 0#8, 0#8] ++ leBytes 4 seconds.toNat)
    else w)

def evtKey : EvSrc → Nat
  | .link => 1
  | .avail => 2
  | .power => 3
  | .firmware => 5
  | .store => 6
  | .ovf k => 16 + k.val

/-- Index and subindex of an event object. DESIGN CHOICE (log 76). -/
def evtObj : EvSrc → Nat
  | .link => 0x400201
  | .avail => 0x300101
  | .power => Config.pwrEvtObj.toNat
  | .firmware => 0x303401
  | .store => 0x304001
  | .ovf k => 0x730000 + k.val

/-- `EVENT_FRAME`: bits that have newly set in an event object since its last frame. -/
def execEventFrame (src : EvSrc) (s : State) : Res :=
  toWorld s (
    let a := s.anat
    let w := s.w
    let k := evtKey src
    let bits := sgetD w.dict.evPend k 0#64
    if !serving a w || decide (bits = 0#64) then w
    else
      let w1 := w.modDict (fun d => { d with evPend := sdel d.evPend k })
      if bit (evtMask a w) (evtVector k) then
        canSend a w1 1 (gObj (evtObj src) ++ [0#8] ++ leBytes 4 bits.toNat ++ leBytes 8 w.time.toNat)
      else w1)

/-- `BUS_OFF`: the controller recovers. -/
def execBusOff (s : State) : Res :=
  toWorld s (if canUp s.anat s.w then s.w.modDict (fun d => { d with busOff := (ctrAdd d.busOff 1).1 }) else s.w)

/-! Choice of the store's values (R683, R685). -/

/-- One object: the chosen record is in force, and written to the slots that differ; an object in conflict is listed with its
copies as they are. DEDUCED (log 79). -/
def resyncOne (a : Anat) (w : World) (obj : Nat) : World :=
  match pickRec (copies a w obj) with
  | none => w
  | some (r, conf) =>
    let w1 := w.modDict (fun d => { d with cur := sset d.cur obj r.val })
    if conf then w1.modDict (fun d => { d with conflicts := if d.conflicts.contains obj then d.conflicts else d.conflicts ++ [obj] })
    else
      let bad := (slotsPresent a w).filter (fun n => decide (recOf a w n obj ≠ some r))
      if bad.isEmpty then w1 else fwStoreEvent (bad.foldl (fun v n => setSlot v n obj (some r)) w1) true 1

/-- Every persistent object. -/
def resync (a : Anat) (w : World) : World :=
  let w1 := persistObjs.foldl (resyncOne a) w
  slotLost a (if w1.dict.conflicts.isEmpty then w1 else fwStoreEvent w1 true 0)

/-! Takeover (R34, R570, R687). -/

/-- The new module supervisor deals with the work that die 0 held. DESIGN CHOICE (log 83). -/
def takeoverDict (a : Anat) (w : World) (o : StoreOut) : World :=
  let w1 := resync a (w.modDict (fun d => { d with gen := [1#8, 1#8, 1#8, 1#8] }))
  let w2 := w1.dict.frames.foldl (fun v b => gServe a v 2 b o) (w1.modDict (fun d => { d with frames := [] }))
  (w2.dict.segs.map (fun x => x.1)).foldl (fun v k => segEnd a v k 0xC) w2

/-- `SUPERVISOR_TAKEOVER`. -/
def execSupervisorTakeover (o : StoreOut) (s : State) : Res :=
  toBoth s (
    let x := takeover (s.anat, s.w)
    if x.1.super = s.anat.super then (s.anat, s.w)
    else (x.1, if x.2.dict.up then takeoverDict x.1 x.2 o else x.2))

/-! Loss of a die (R644). -/

/-- `DIE_LOST`. -/
def execDieLost (d : Fin 4) (s : State) : Res :=
  toBoth s (
    let x := s.anat.dies.getD d.val ⟨false, false, false⟩
    if x.up && !x.lost then
      let y := dieHold (s.anat, s.w) d.val
      (y.1, slotLost y.1 (avEvent y.2 7))
    else (s.anat, s.w))

end Sys2Proof.Machine
end

