-- ==== Sys2Proof/Machine/Firmware.lean ====
section
/-!
DEFINITION. Live firmware activation (R643): the supervisors restart one after another, the pointer is written last.
-/

namespace Sys2Proof.Machine

/-- Running supervisors that have not restarted from the new bank. -/
def fwWaiting (a : Anat) (r : FwRun) : List Nat := [3, 2, 1, 0].filter (fun d => supRuns a d && !r.done.contains d)

/-- The supervisor that restarts next: in descending order, the module supervisor last. -/
def fwNext (a : Anat) (r : FwRun) : Option Nat :=
  match (fwWaiting a r).find? (fun d => decide (d ≠ a.super)) with
  | some d => some d
  | none => (fwWaiting a r).head?

/-- The activation ends: 2 failed, 4 done. DEDUCED (log 84). -/
def fwEnd (w : World) (status bitNo : Nat) : World := fwStoreEvent { w with av := { w.av with fw := none, fwStatus := status } } false bitNo

/-- Steps 4 and 5: a new Alias key, the sessions end (R566), the pointer is written. DEDUCED (log 84). -/
def fwFinish (a : Anat) (w : World) (r : FwRun) (o : StoreOut) : World :=
  let w1 := endSessions w
  let z := writePointer a { w1 with host := { w1.host with aliasKey := w1.host.aliasKey + 1 } } r.bank.toNat o
  if z.cut then z.w else if z.code = 0 then fwEnd z.w 4 0 else fwEnd z.w 2 1

/-- One supervisor has restarted. When the others have, the module supervisor hands its role to the lowest-numbered of
them. -/
def fwStep (x : Anat × World) (r : FwRun) (d : Nat) (o : StoreOut) : Anat × World :=
  let r1 : FwRun := { r with done := d :: r.done }
  match fwWaiting x.1 r1 with
  | [] => migAll (x.1, fwFinish x.1 x.2 r1 o)
  | l =>
    let w1 : World := { x.2 with av := { x.2.av with fw := some r1 } }
    if l = [x.1.super] then ({ x.1 with super := r1.done.foldl min 3 }, w1) else (x.1, w1)

/-- `SUPERVISOR_RESTARTED`: the next supervisor has restarted from the new bank, or fails its self-check on it. -/
def execSupervisorRestarted (ok : Bool) (o : StoreOut) (s : State) : Res :=
  toBoth s (
    match s.w.av.fw with
    | none => (s.anat, s.w)
    | some r =>
      if !ok then migAll (s.anat, fwEnd s.w 2 1)
      else
        match fwNext s.anat r with
        | some d => fwStep (s.anat, s.w) r d o
        | none => (s.anat, s.w))

end Sys2Proof.Machine
end

