-- ==== Sys2Proof/Machine/Start.lean ====
section
/-!
DEFINITION. Start-up, reset and absence (chapter 19), with the input (R597) and the reference clock (R590) as they start and
stop the module.
-/

namespace Sys2Proof.Machine

/-! Resets (R702, R704). -/

/-- The highest key generation in use. -/
def topGen (k : Keystone) : Nat := k.dom.foldl (fun m x => max m x.2.gen) 0

/-- Availability state that survives: the persistent store's (R624, R628). -/
def keptAv (v : AvSt) : AvSt := { AvSt.reset with minutes := v.minutes, journal := v.journal, lanes := v.lanes }

/-- The module after a module reset: fuses, persistent store, the pins and what has been sent remain, with `HIF_EVT` and
`BAR2_BASE` (R563). HBM keeps its bits, which no later key decrypts (R697). DEDUCED (log 86). -/
def resetWorld (w : World) : World :=
  { World.reset with
    mem := { w.mem with zeroed := [] }
    ks := { Keystone.reset with base := w.ks.base + topGen w.ks + 1 }
    host := { HostSt.reset with aliasKey := w.host.aliasKey, perstHigh := w.host.perstHigh }
    dict := { DictSt.reset with slots := w.dict.slots }
    av := keptAv w.av
    pwr := { PowerSt.reset with supply := 1, refclk := w.pwr.refclk, modReset := w.pwr.modReset }
    bar0 := w.bar0.filter (fun x => decide (x.1 = 0x2E008) || decide (x.1 = 0x2E010))
    out := w.out, freeCtr := w.freeCtr }

/-- A module reset; a trained link falls first (R706). DEDUCED (logs 86, 87). -/
def moduleReset (x : Anat × World) : Anat × World := ({ Anat.reset with part := x.1.part }, resetWorld (linkDown x.2))

/-- A power-on reset to come: the input is gone, and with it everything but persistent store and fuses. -/
def powerOff (x : Anat × World) : Anat × World :=
  let y := moduleReset x
  (y.1, { y.2 with mem := Memory.reset, bar0 := [], pwr := { y.2.pwr with supply := 0, refclk := false } })

/-! The input (R597), pins (R714) and the reference clock. -/

/-- `INPUT_LOCKOUT`. -/
def execInputLockout (s : State) : Res :=
  toBoth s (if s.w.pwr.supply = 0 then (s.anat, s.w) else powerOff (s.anat, s.w))

/-- `INPUT_QUALIFIED`: step 1. -/
def execInputQualified (s : State) : Res :=
  toWorld s (if s.w.pwr.supply = 0 then { s.w with pwr := { s.w.pwr with supply := 1 } } else s.w)

/-- Step 2 ends: the Gatemi node id is read from SLOT_ID (R675). -/
def stepTwo (w : World) (slot : BitVec 7) : World :=
  if w.pwr.supply = 1 ∧ w.pwr.refclk ∧ !w.pwr.modReset then
    { w with pwr := { w.pwr with supply := 2 }, dict := { w.dict with node := slot.toNat } }
  else w

/-- `REFCLK_PRESENT`: the clock has been present for 1 ms, with SLOT_ID as read in step 2; after a loss beyond 10 ms the
module restarts. DEDUCED (log 87). -/
def execRefclkPresent (slot : BitVec 7) (s : State) : Res :=
  toBoth s (
    let x := if s.w.pwr.refStop then moduleReset (s.anat, s.w) else (s.anat, s.w)
    if x.2.pwr.supply = 0 then x
    else
      let w : World := if x.2.pwr.holdover then x.2 else { x.2 with pwr := { x.2.pwr with refclk := true } }
      (x.1, stepTwo w slot))

/-- `REFCLK_LOSS`: the loops hold over, and the event is reported; during steps 2 to 9 start-up ends (R705). -/
def execRefclkLoss (s : State) : Res :=
  toBoth s (
    let w := s.w
    let gone : World := { w with pwr := { w.pwr with refclk := false } }
    if w.pwr.supply ≠ 2 then (s.anat, gone)
    else if w.pwr.holdover ∨ w.pwr.refStop then (s.anat, w)
    else if !w.timeRun && decide (s.anat.ready ≠ 6) then moduleReset (s.anat, gone)
    else (s.anat, avEvent { w with pwr := { w.pwr with refclk := false, holdover := true } } 10))

/-- `MOD_RESET`: MOD_RESET_N has been asserted for 10 µs. -/
def execModReset (s : State) : Res :=
  toBoth s (
    let w : World := { s.w with pwr := { s.w.pwr with modReset := true } }
    if w.pwr.supply = 0 then (s.anat, w) else moduleReset (s.anat, w))

/-- `MOD_RESET_RELEASE`, with SLOT_ID as read in step 2. -/
def execModResetRelease (slot : BitVec 7) (s : State) : Res :=
  toWorld s (
    if s.w.pwr.modReset then stepTwo { s.w with pwr := { s.w.pwr with modReset := false } } slot else s.w)

/-- `PERST_N_DEASSERT`: the link may train (R696). -/
def execPerstNDeassert (s : State) : Res := toWorld s { s.w with host := { s.w.host with perstHigh := true } }

/-! FAILED (R700, R701). -/

/-- The module enters FAILED: the main converter is off. -/
def toFailed (x : Anat × World) : Anat × World :=
  let w := linkDown x.2
  ({ x.1 with ready := 6, dies := x.1.dies.map (fun d => { d with up := false }) },
   { w with timeRun := false, eclk := false, engines := [], ports := [], txns := [], dict := { w.dict with up := false, segs := [] } })

/-! Steps 3 to 9 (R695). -/

/-- Valid copies of a bank, by slot. -/
def validBank (a : Anat) (w : World) (b : Nat) (good : BitVec 3) : List (Nat × DRec) :=
  (copies a w (bankObj b)).filter (fun x => bankValid a w b x.1 (bit good x.1))

/-- The bank that runs (R642): the pointer's, or the other one. -/
def bootBank (a : Anat) (w : World) (u : PowerUp) : Option Nat × World :=
  let w1 := resyncOne a w 0x303001
  let b := activeBank a w1
  let good (k : Nat) : BitVec 3 := if k = 0 then u.bankA else u.bankB
  let clash (v : World) (k : Nat) : World :=
    match pickRec (validBank a v k (good k)) with
    | some (_, true) => fwStoreEvent (v.modDict (fun d => { d with conflicts := bankObj k :: d.conflicts })) true 0
    | _ => v
  if !(validBank a w1 b (good b)).isEmpty then (some b, clash w1 b)
  else if !(validBank a w1 (1 - b) (good (1 - b))).isEmpty then (some (1 - b), clash (fwStoreEvent w1 false 2) (1 - b))
  else (none, w1)

/-- Step 3: supervisors that pass run; the lowest is module supervisor (R33). A die whose supervisor or Keystone fails is held.
DEDUCED (log 85). -/
def stepThree (x : Anat × World) (u : PowerUp) : Anat × World :=
  let ok (d : Nat) : Bool := bit u.supOk d
  let a : Anat := { x.1 with
    dies := [0, 1, 2, 3].map (fun d => Die.mk false (!ok d) (ok d)), super := ([0, 1, 2, 3].find? ok).getD 0 }
  let w := x.2.modDict (fun d => { d with failed := [0, 1, 2].filter (bit u.unread) })
  (a, if [0, 1, 2, 3].all ok then w else avEvent w 7)

/-- Objects of which a value takes effect at a reset. -/
def lateObjs (a : Anat) : List Nat := persistObjs.filter (fun o => (specOf a o).late)

/-- Step 4: the store's values are chosen, and the dictionary is served. DEDUCED (log 85). -/
def stepFour (a : Anat) (w : World) : World :=
  let w1 := resync a w
  w1.modDict (fun d => { d with up := true, boot := (lateObjs a).map (fun o => (o, kept a w1 o)) })

/-- Steps 5 and 6: dies whose regulators, piers and Span links are good come out of reset; ways retired in the journal are
marked (R368). DEDUCED (log 85). -/
def stepSix (x : Anat × World) (u : PowerUp) : Anat × World :=
  let fails := [0, 1, 2, 3].filter (fun d => supRuns x.1 d && !bit u.unitOk d)
  let y := fails.foldl dieHold x
  let z : Anat × World := if supRuns y.1 y.1.super then y else takeover y
  let a : Anat := { z.1 with dies := z.1.dies.map (fun d => { d with up := d.sup && !d.lost }) }
  let w1 := if fails.isEmpty then z.2 else slotLost a (avEvent z.2 7)
  let w2 := (journalOf w1 3).foldl (fun v j =>
    match j.res with
    | [p, k] =>
      let off := dcBase (p / 32) + 0x200 + 8 * (p % 32)
      if pierUp a p then v.setReg off (setBit (v.reg off 0#64) k true) else v
    | _ => v) w1
  (a, w2)

/-- A stack's reserve as the journal has it (R628). -/
def journalReserve (w : World) (h : Nat) : Reserve :=
  let rows := (journalOf w 5).filterMap (fun j =>
    match j.res with
    | [s, pc, b, r] => if s = h then some (pc, b, r) else none
    | _ => none)
  let pcs := (journalOf w 4).filterMap (fun j =>
    match j.res with
    | [s, pc] => if s = h then some pc else none
    | _ => none)
  { Reserve.reset with used := rows.length, spared := rows, pcGone := pcs.head? }

/-- Step 7: stacks train. DEDUCED (log 85). -/
def stepSeven (a : Anat) (w : World) (u : PowerUp) : World :=
  let gone := ((journalOf w 0).filterMap (fun j => j.res.head?)) ++ u.hbmStacks.map (fun h => h.val)
  let w1 := (List.range 24).foldl (fun v h => v.setStack h (journalReserve w h)) w
  let w2 := if u.hbmStacks.any (fun h => stackUp a w1 h.val) then avEvent w1 6 else w1
  let w3 : World := { w2 with stacksLost := gone.eraseDups }
  let w4 := u.pcs.foldl (fun v x => if stackUp a v x.1.val then pcRetire v x.1.val x.2.val else v) w3
  w4.setReg 0x48 (w64 (perStack a.part))

/-- The value in force of a placement object. -/
def placeVal (a : Anat) (w : World) (dflt : Bool) (obj : Nat) : Nat :=
  leNat (if dflt then (specOf a obj).dflt else sgetD w.dict.boot obj (specOf a obj).dflt)

/-- The tables as the objects place them (R690), or as their defaults do. -/
def placesOf (a : Anat) (w : World) (dflt : Bool) (entry : Nat) : Places :=
  let v := placeVal a w dflt
  let size := v 0x500001 * 0x200000
  { tagrBase := v 0x500002, tagrSize := size, tagtBase := v 0x500002 + size, ctxtBase := v 0x500101, kdtBase := v 0x600001
    ctBase := v 0x500102, grtBase := v 0x400501, protOff := v 0x500103, entry := entry }

/-- Tables that step 8 clears in die 0's quarter, with their alignment. -/
def placeTables (p : Places) : List (Nat × Nat × Nat) :=
  [(p.tagtBase, p.tagrSize / 16, 1), (p.ctxtBase, 0x200000, 0x200000), (p.kdtBase, 0x4000, 0x4000), (p.grtBase, 0x40000, 0x40000),
   (p.ctBase, 0x80000, 0x80000), (p.protOff, 0x1000000, 0x200000)]

/-- No two areas of a list meet. -/
def apart : List (Nat × Nat) → Bool
  | [] => true
  | x :: r => r.all (fun y => decide (x.2 = 0) || decide (y.2 = 0) || !meets x.1 x.2 y.1 y.2) && apart r

/-- The placement check, the monitor's 2 MiB among the areas (R690, R698). -/
def placeOk (a : Anat) (p : Places) : Bool :=
  let pop := 6 * perStack a.part * 0x200000
  let t := placeTables p
  t.all (fun x => decide (x.1 + x.2.1 ≤ pop) && decide (x.1 % x.2.2 = 0)) && decide (p.tagrBase % 0x200000 = 0) &&
    decide (p.tagrBase + p.tagrSize ≤ pop) && apart ((0, 0x200000) :: (p.tagrBase, p.tagrSize) :: t.map (fun x => (x.1, x.2.1)))

/-- Step 8: new storage keys, and the tables read as zero under domain 0's. DEDUCED (log 85). -/
def stepEight (a : Anat) (w : World) (u : PowerUp) : World :=
  let p := placesOf a w false u.entry.toNat
  let ok := placeOk a p
  let q := if ok then p else placesOf a w true u.entry.toNat
  let w1 := if ok then w else fwStoreEvent w true 4
  let prot := (liveDies a).map (fun d => (d * 0x8000000000 + q.protOff, 0x1000000))
  let zero := ((placeTables q).dropLast.map (fun x => (x.1, x.2.1))) ++ prot
  let out (sct : Nat) : Bool := zero.all (fun z => !meets (sct * 32) 32 z.1 z.2)
  { w1 with places := q, mem := { cells := [], lines := [], poison := w1.mem.poison.filter out, zeroed := zero } }

/-- Step 9: the monitor is loaded; Keystone is ready, with a new Alias key (R565). DEDUCED (log 86). -/
def stepNine (w : World) (u : PowerUp) : World :=
  let w1 := storeLocal w 0#8 .raw (offsets u.code)
  { w1 with ks := { w1.ks with ready := true }, host := { w1.host with aliasKey := w1.host.aliasKey + 1 } }

/-- Steps 3 to 9 in order. DEDUCED (log 85). -/
def powerUp (x : Anat × World) (u : PowerUp) : Anat × World :=
  let y := stepThree x u
  if !(y.1.dies.any (fun d => d.sup)) then toFailed y
  else
    let z := bootBank y.1 y.2 u
    if z.1.isNone ∨ 0x200000 < u.code.length then toFailed (y.1, z.2)
    else
      let v := stepSix (y.1, stepFour y.1 z.2) u
      if (liveDies v.1).isEmpty then toFailed v
      else
        let w := stepNine (stepEight v.1 (stepSeven v.1 v.2 u) u) u
        ({ v.1 with ready := 3 }, if bit (w.reg 0x400028 0#64) 32 then w else capSet w 1 1 1)

/-- `POWER_ON`: steps 3 to 9, once step 2 has ended. DESIGN CHOICE (log 1). -/
def execPowerOn (u : PowerUp) (s : State) : Res :=
  toBoth s (
    if s.w.pwr.supply = 2 ∧ s.anat.ready = 0 ∧ !s.w.dict.up then powerUp (s.anat, s.w) u else (s.anat, s.w))

/-! Steps 10 and 11. -/

/-- Engines of a die that the journal does not list, in ascending order. -/
def bindable (w : World) (d : Nat) : List Nat :=
  (dieEngines d).filter (fun p => !(journalOf w 1).any (fun j => decide (j.res = [p])))

/-- A die's part of the tables (R26, R27). -/
def bindDie (w : World) (a : Anat) (d : Nat) : Anat :=
  let ok := bindable w d
  let a1 := (dieEngines d).foldl (fun b p => b.setPhys p 0x7F (if ok.contains p then .spare else .retired)) a
  ((List.range 24).zip ok).foldl (fun b x =>
    (b.setPhys x.2 (24 * d + x.1) .active).modRemap (24 * d + x.1) (fun _ => ⟨true, false, 0x7F, x.2⟩)) a1

/-- Bound engines start the monitor. -/
def startBound (a : Anat) (w : World) : World :=
  (List.range 104).foldl (fun v p => if (a.logicalOf p).isSome then engineStart v p else v) w

/-- Operating points at P7 with CEIL_CAP 7 (R612, R619). -/
def startPower (a : Anat) (w : World) : World :=
  (liveDies a).foldl (fun v d =>
    let v1 := vengSet (pwrOpSet v d 24 4 (opFastest v d)) d (setVolt v d 7 (opBand v d))
    opSettle a v1 d) w

/-- `NODE_ID` is loaded, and the ports may train (R483). -/
def startLinks (a : Anat) (w : World) : World :=
  let n := leNat (sgetD w.dict.boot 0x400001 [0xFF#8, 0xFF#8])
  let w1 : World := { w with nodeId := if n < 4096 then some n else none }
  ((List.range 32).filter (portRuns a)).foldl (fun v p => lnkEnable a v p true) w1

/-- Steps 10 and 11 on the dies that run. -/
def startEngines (x : Anat × World) : Anat × World :=
  let w1 := (capSet x.2 1 1 0).setReg 0x400028 (setBit (x.2.reg 0x400028 0#64) 32 true)
  if (liveDies x.1).isEmpty then toFailed (x.1, w1)
  else
    let a1 := (liveDies x.1).foldl (bindDie w1) x.1
    let w2 := startBound a1 { w1 with time := 0#64, timeRun := true, eclk := true }
    ({ a1 with ready := if a1.dies.any (fun d => d.lost) then 5 else 4 }, startLinks a1 (startPower a1 w2))

/-- `ENGINES_START`: `COOLANT_OK` has held for 100 ms. A thermal trip holds step 10 as a loss of coolant does (R616).
DESIGN CHOICE (log 1). -/
def execEnginesStart (s : State) : Res :=
  toBoth s (
    let trip := bit (capStat s.w) 0 && !coolEnough s.anat s.w
    if s.w.pwr.supply = 2 ∧ s.anat.ready = 3 ∧ !trip then
      startEngines (s.anat, capSet s.w 0 1 0)
    else (s.anat, s.w))

/-! The recovery service (R701). -/

/-- `FAILED_RECOVERY`: a request frame in FAILED. An activation writes the pointer and resets the module.
DEDUCED (log 87). -/
def execFailedRecovery (f : CanFrame) (o : StoreOut) (s : State) : Res :=
  toBoth s (
    if s.anat.ready ≠ 6 ∨ !canUp s.anat s.w ∨ !gTaken s.w f then (s.anat, s.w)
    else
      let w := gServe s.anat s.w 2 f.bytes o
      if fwPointer s.anat w = fwPointer s.anat s.w then (s.anat, w)
      else
        let x := moduleReset (s.anat, w)
        (x.1, { x.2 with pwr := { x.2.pwr with refclk := false } }))

end Sys2Proof.Machine
end

