-- ==== Sys2Proof/Machine/Regs.lean ====
section
/-!
DEFINITION. Writes of the module's registers (R38 to R45), and the accesses of the host to BAR0 (R41, R555 to R557).
-/

namespace Sys2Proof.Machine

/-! Writes. The value is that of the whole register, `barMerge`; `lo` says that the access reaches bits [31:0]. -/

/-- A register without an effect of its own. -/
def plainPut (a : Anat) (w : World) (off : Nat) (v : W64) : World :=
  match barSpec off with
  | some r => if r.ctr || decide (r.rw ||| r.w1c ||| r.w1s ≠ 0#64) then w.setReg off (regWrite r (barView a w off) v) else w
  | none => w

/-- A mailbox window (R669, R670). -/
def mailboxPut (a : Anat) (w : World) (off : Nat) (v : W64) : World :=
  let path := (off - 0x10000) / 0x8000
  if off % 0x8000 = 0x10 then (if bit v 0 then mbGo w path else w)
  else if off % 0x8000 = 0x18 then plainPut a w off v
  else if mbBusy w path then w
  else plainPut a w off v

/-- Function and vector of a quadword of an MSI-X table (R560). -/
def msixPlace (o : Nat) : Nat × Nat := if o < 0x1000 then (0, o / 16) else ((o - 0x1000) / 0x200 + 1, (o - 0x1000) % 0x200 / 16)

/-- The MSI-X and host-interface block: clearing a mask bit sends a pending message (R562). -/
def hifPut (a : Anat) (w : World) (off : Nat) (v : W64) : World :=
  let o := off - 0x20000
  let w1 := plainPut a w off v
  if o < 0x9000 ∧ o % 16 = 8 ∧ bit (barView a w off) 32 ∧ !bit v 32 ∧ (barSpec off).isSome then msixUnmask w1 (msixPlace o).1 (msixPlace o).2
  else w1

/-- `DB_CHAN` and `DB_TASK` of function f's page (R528). DEDUCED (log 88). -/
def doorbell (a : Anat) (w : World) (host : Bool) (f r : Nat) (v : W64) : World :=
  if r = 0 then
    let cmd := fld v 16 3
    let n := fld v 0 12
    let x := BitVec.ofNat 16 (fld v 32 16)
    if host then dbChan a w f cmd n x else dbChanIn a w f cmd n x
  else
    let l := fld v 0 7
    let x := BitVec.ofNat 16 (fld v 16 16)
    if host then dbTask a w f l x else dbTaskIn a w f l x

/-- A doorbell page. The physical function's writes to the others' pages are discarded (R557). DEDUCED (log 89). -/
def pagePut (a : Anat) (w : World) (host : Bool) (own : Bool) (off : Nat) (v : W64) (lo : Bool) : World :=
  if !own then w
  else if off % 0x1000 < 0x10 then (if lo then doorbell a w host ((off - 0x100000) / 0x1000) (off % 0x1000) v else w)
  else plainPut a w off v

/-- `TQ_BASE` and `TQ_CFG` (R544). -/
def queuePut (w : World) (host : Bool) (off : Nat) (v : W64) : World :=
  let l := (off - 0x201000) / 0x20
  let act (u : World) : World :=
    if off % 0x20 = 0 then u.modLog l (fun q => { q with base := v })
    else if off % 0x20 = 8 then tqCfgWrite u l v
    else u
  if off % 0x20 = 0x10 then w else if host then tqHost w l act else act w

/-- A job slot of Tail (R645 to R647, R656). DEDUCED (log 88). -/
def tailPut (a : Anat) (w : World) (off : Nat) (v : W64) (lo : Bool) : World :=
  let j := (off - 0x300000) / 0x400
  match off % 0x400 with
  | 0x28 => tailRegWrite w j 0 v
  | 0x30 => tailRegWrite w j 1 v
  | 0x50 => tailRegWrite w j 2 v
  | 0x40 =>
    if !lo then w
    else
      match fld v 0 4 with
      | 1 => tailBaseCmd w j
      | 2 => tailAbortCmd w j
      | 3 => tailRestore a w j
      | _ => w
  | _ => plainPut a w off v

/-- The module power block; writing OVF of an accumulator clears its value too (R16). -/
def modPwrPut (a : Anat) (w : World) (off : Nat) (v : W64) : World :=
  if within 0x400100 0x440 off ∧ off % 16 = 8 ∧ bit v 0 then (plainPut a w off v).setReg (off - 8) 0#64 else plainPut a w off v

/-- The module-global block. -/
def globPut (a : Anat) (w : World) (s : RegSrc) (off : Nat) (v : W64) (lo : Bool) : World :=
  let host := decide (s = .host)
  if within 0x10000 0x10000 off then mailboxPut a w off v
  else if within 0x20000 0x10000 off then hifPut a w off v
  else if within 0x100000 0x41000 off then pagePut a w host (decide (off < 0x101000)) off v lo
  else if within 0x201000 0xC00 off then queuePut w host off v
  else if within 0x300000 0x2000 off then tailPut a w off v lo
  else if within 0x400000 0x10000 off then modPwrPut a w off v
  else plainPut a w off v

/-- `TILE_LEASE` and `ENG_TENANT`; the host does not write the latter (R243, R424). DEDUCED (log 90). -/
def engPut (a : Anat) (w : World) (s : RegSrc) (e off : Nat) (v : W64) : World :=
  if engShut a e then w
  else if off % 0x20000 = 0x800 then w.setReg off (v &&& 0xF#64)
  else if off % 0x20000 = 0x810 ∧ s = .host then w
  else plainPut a w off v

/-- The die-cache block: writing VALID of `DC_ERRLOG` clears OVF too (R370); each RET bit written 1 starts a retirement
(R369). DEDUCED (log 91). -/
def dcPut (a : Anat) (w : World) (d off : Nat) (v : W64) : World :=
  let r := off % 0x1000000 - 0x400000
  if r = 0x18 ∧ bit v 63 then w.setReg off (w.reg off 0#64 &&& ~~~ 0xC000000000000000#64)
  else if within 0x200 0x100 r then
    ((List.range 16).filter (fun i => bit v i)).foldl (fun u i => wayRetire u (32 * d + (r - 0x200) / 8) i) w
  else plainPut a w off v

/-- A port's block (R505, R506). -/
def portPut (a : Anat) (w : World) (p off : Nat) (v : W64) : World :=
  if off % 0x10000 = 0 then lnkCtlWrite a w p v
  else if off % 0x10000 = 0x18 then vcbufWrite w p v
  else plainPut a w off v

/-- The blocks of a die that have one instance. -/
def unitPut (a : Anat) (w : World) (d off : Nat) (v : W64) : World :=
  match off % 0x1000000 with
  | 0x980000 => bgCtlWrite w d v
  | 0x980008 => if bgOn w d then w else plainPut a w off v
  | 0xB00008 => pwrReqWrite a w d v
  | 0xB00010 => if fld v 0 8 < 15 ∨ 60 < fld v 0 8 then w else plainPut a w off v
  | 0xC00010 => if bit v 63 then w.setReg off 0#64 else w
  | _ => plainPut a w off v

/-- A die block. -/
def diePut (a : Anat) (w : World) (s : RegSrc) (d off : Nat) (v : W64) : World :=
  let o := off % 0x1000000
  if o < 0x340000 then engPut a w s (26 * d + o / 0x20000) off v
  else if within 0x400000 0x200000 o then dcPut a w d off v
  else if within 0x800000 0x80000 o then portPut a w (8 * d + (o - 0x800000) / 0x10000) off v
  else if 0xF00000 ≤ o then
    (if w.host.unlocked then pertWrite w d ((o - 0xF01000) / 0x20) (o % 0x20 / 8) v else w)
  else unitPut a w d off v

/-- A write of n bytes at a BAR0 offset. -/
def bar0Write (a : Anat) (w : World) (s : RegSrc) (off n : Nat) (v : W64) : World :=
  let b := off / 8 * 8
  if !barAligned off n then barErr w 4
  else
    match barAbsent a off, barSpec b with
    | some d, _ => barErr w d
    | none, none => w
    | none, some r =>
      let x := barMerge r (barView a w b) v off n
      if barOther s off then w
      else if b < 0x1000000 then globPut a w s b x (decide (off % 8 = 0))
      else diePut a w s (b / 0x1000000 - 1) b x

/-! A virtual function's BAR0 (R556). -/

/-- The register of the module-global block that an offset of virtual function f − 1 names. -/
def vfPlace (f off : Nat) : Option Nat :=
  if off < 0x1000 then some (dbPage f + off)
  else if within 0x1000 0x1C0 off then some (msixEntry f 0 + (off - 0x1000))
  else if within 0x1800 8 off then some (msixPba f 0 + (off - 0x1800))
  else none

/-- The register at an offset that is a multiple of 8: `VF_STAT`, or one of the module-global block. -/
def vfView (a : Anat) (w : World) (f off : Nat) : W64 :=
  if off = 0x2000 then w64 (w.fn f).tdi
  else
    match vfPlace f off with
    | some o => barView a w o
    | none => 0#64

/-- DEDUCED (log 89). -/
def vfRead (a : Anat) (w : World) (f off n : Nat) : W64 × World :=
  if !barAligned off n then (0#64, barErr w 4) else (barPart (vfView a w f (off / 8 * 8)) off n, w)

/-- DEDUCED (log 89). -/
def vfWrite (a : Anat) (w : World) (f off n : Nat) (v : W64) : World :=
  if !barAligned off n then barErr w 4
  else
    match vfPlace f (off / 8 * 8) with
    | none => w
    | some o =>
      match barSpec o with
      | none => w
      | some r =>
        let x := barMerge r (barView a w o) v off n
        if off < 0x1000 then pagePut a w true true o x (decide (off % 8 = 0)) else hifPut a w o x

/-! The host's accesses. -/

/-- A function's BAR0 holds the bytes, and the function answers (R553, R696). DEDUCED (log 90). -/
def barReaches (w : World) (f off n : Nat) : Bool :=
  fnPresent w f && w.dict.up && decide (0 < n) && decide (off + n ≤ (if f = 0 then 0x8000000 else 0x10000))

/-- The request is answered by Unsupported Request: the link is degraded (R553), or a TDI in RUN sees a request without the T
bit (R568). DEDUCED (log 91). -/
def barUnsupported (w : World) (f : Nat) (tee : Bool) : Bool :=
  hifDegraded w || (decide (f ≠ 0) && decide ((w.fn f).tdi = 2) && !tee)

/-- `BAR0_READ`: function f reads n bytes; `tee` is the T bit of the request. -/
def execBar0Read (f : Fin 65) (off : BitVec 27) (n : BitVec 13) (tee : Bool) (s : State) : Res :=
  toWorld s (
    let w := s.w
    if !barReaches w f.val off.toNat n.toNat then w
    else if barUnsupported w f.val tee then w.emit (.cpl 3 [])
    else
      let r := if f.val = 0 then bar0Read s.anat w .host off.toNat n.toNat else vfRead s.anat w f.val off.toNat n.toNat
      r.2.emit (.cpl 0 (leBytes n.toNat r.1.toNat)))

/-- `BAR0_WRITE`. -/
def execBar0Write (f : Fin 65) (off : BitVec 27) (l : List Byte) (tee : Bool) (s : State) : Res :=
  toWorld s (
    let w := s.w
    if !barReaches w f.val off.toNat l.length || barUnsupported w f.val tee then w
    else if f.val = 0 then bar0Write s.anat w .host off.toNat l.length (w64 (leNat l))
    else vfWrite s.anat w f.val off.toNat l.length (w64 (leNat l)))

/-! Stores of the monitor to module registers (R49, R396). -/

/-- Entry i of an engine's store buffer writes the registers it covers, one access for each run of bytes.
DEDUCED (log 59). -/
def performRegs (a : Anat) (w : World) (e i : Nat) (t : SbEntry) (off : Nat) : World :=
  sbDone ((byteRuns t.data 0 128).foldl (fun v r => bar0Write a v (.engine e) (off + r.1) r.2.length (w64 (leNat r.2))) w) e i

/-- `STORE_PERFORMED`: a store leaves the store buffer and is performed at its target. -/
def execStorePerformed (e : Fin 104) (idx : Nat) (s : State) : Res :=
  toWorld s (
    let x := s.w.eng e.val
    match x.sb[idx]? with
    | none => s.w
    | some t =>
      match placeOf s.w t.ga with
      | .regs off =>
        if t.atom.isNone && x.mayPerform idx && dieRuns s.anat e.val then performRegs s.anat s.w e.val idx t off else s.w
      | _ => performStore s.anat s.w e.val idx)

end Sys2Proof.Machine
end

