-- ==== Sys2Proof/Machine/Routing.lean ====
section
/-!
DEFINITION. Expert routing (R306 to R318): `vtopk`, `vdispatch` and the row moves.
-/

namespace Sys2Proof.Machine

/-! Choosing experts. -/

/-- Inserts a candidate into a list in descending value; equal values stay in the order of insertion (R311). -/
def insertRank (x : Nat × FVal) : List (Nat × FVal) → List (Nat × FVal)
  | [] => [x]
  | y :: r =>
    match cmpF y.2 x.2 with
    | .lt => x :: y :: r
    | _ => y :: insertRank x r

/-- Candidates in rank order, from candidates in ascending element index. -/
def rankAll (l : List (Nat × FVal)) : List (Nat × FVal) := l.foldl (fun acc x => insertRank x acc) []

/-- Element types that `vtopk` accepts (R310). -/
def topkType (et : Nat) : Bool := decide (et = 4) || decide (et = 5) || decide (et = 6) || decide (et = 2)

/-- A top-k record (R312): an element of width w at index i of its segment. -/
def topkRecord (t : VT) (ebase i bits : Nat) : Nat :=
  let score := match t.fmt with
    | some f => (encodeF fmt32 .near (decodeF f bits)).1
    | none => bits
  ((ebase + i) % 4096) * 2 ^ 32 + score

/-- The records of one segment: `len` elements from `lo`. -/
def topkSegment (c : Core) (o : VR) (t : VT) (ebase k lo len : Nat) : List Nat :=
  let cand := ((List.range len).filter (fun i => c.active o (lo + i))).map (fun i =>
    let x := c.elt o.va.toNat t.ew (lo + i)
    (i, match t.fmt with
      | some f => decodeF f x
      | none => intF (sInt t.ew x)))
  let rank := rankAll (cand.filter (fun x => !isNanV x.2))
  (List.range k).map (fun j =>
    match rank[j]? with
    | some x => topkRecord t ebase x.1 (c.elt o.va.toNat t.ew (lo + x.1))
    | none => 2 ^ 63)

/-- `vtopk` (R311). -/
def execVtopk (e : Fin 104) (o : VR) (s : State) : Res :=
  seqInstr 1 4 1 e (do
    let c ← getC
    let t := c.vt
    let cfg := c.sysGet 0x140
    let seg := fld cfg 16 9
    let k := fld cfg 0 4
    let go := t.groupFor 64
    need (maskOk o.vm o.ms && !o.sc && decide (o.vb = 0#5) && topkType t.et && groupOk o.va.toNat t.g &&
      decide (go ≤ 8) && decide (o.vd.toNat % go = 0) && !groupsMeet o.vd.toNat go o.va.toNat t.g &&
      decide (seg ≠ 0) && decide (k ≠ 0))
    notResumable t
    let n := (t.vl + seg - 1) / seg
    need (decide (n * k ≤ go * 128))
    modC (fun q => (List.range n).foldl (fun a i =>
      let rs := topkSegment c o t (fld cfg 32 12) k (i * seg) (min seg (t.vl - i * seg))
      (List.range k).foldl (fun b j => b.setElt o.vd.toNat 64 (i * k + j) (rs.getD j 0)) a) q)
    vecDone true FFlags.none) s

/-! Dispatching tokens. -/

/-- What `vdispatch` knows of a word group of the expert table: its leaf and device virtual address (R316). -/
structure TabPage where
  t : TlbEntry
  va : W64
deriving DecidableEq, Repr

/-- Translates a part of the expert table for reading and for atomics; its page maps local device memory (R316).
DEDUCED (log 36). -/
def tabPage (va : W64) : EM TabPage := do
  let _ ← translate va .load
  let t ← translate va .atomRet
  let w ← get
  match placeOf w (t.ga va.toNat) with
  | .hbm _ => return ⟨t, va⟩
  | _ => accessErr 2#8 va

/-- A word of the expert table. -/
def tabWord (p : TabPage) (k : Nat) : EM W64 := do
  let l ← loadVia p.t (p.va + w64 k) 8 vectorLoad
  return w64 (leNat l.bytes)

/-- The 32-bit integer add at a word of the expert table, performed at its home pier: the old value, or none for
an error (R314, R316). -/
def fetchAdd (p : TabPage) (k n : Nat) : EM (Option Nat) := do
  let env ← read
  let x ← getE
  let w ← get
  let r : AtomReq := { aop := 0, line := false, ret := true, operand := leBytes 4 n, cmp := 0#64, hdr := 0#64, isInt := false }
  match localOff w (p.t.ga (p.va + w64 k).toNat) with
  | none => return none
  | some off => do
    let z := performAtom env.anat w r off 1 x.part p.t.tcls p.t.kdom
    set z.2
    match z.1 with
    | .done old => return some old
    | .refused _ => return none

/-- A dispatch record (R315). DEDUCED (log 36). -/
def dispatchRec (kind ex pos : Nat) : Nat := kind * 2 ^ 62 + ex * 2 ^ 32 + pos

/-- Results so far (element, record), records for the overflow buffer (element, expert) in order, whether an atomic
returned an error. -/
structure Disp where
  res : List (Nat × Nat)
  ovf : List (Nat × Nat)
  err : Bool
deriving DecidableEq, Repr

/-- The records of one expert, elements `els` in ascending order (R314). -/
def dispatchExpert (p : TabPage) (cap ex : Nat) (els : List Nat) (d : Disp) : EM Disp := do
  match ← fetchAdd p 0 els.length with
  | none => return { d with res := d.res ++ els.map (fun i => (i, dispatchRec 2 ex 0)), err := true }
  | some old => do
    let put := (List.range els.length).zip els
    let fit := put.filter (fun x => decide (old + x.1 < cap))
    let ovr := put.filter (fun x => !decide (old + x.1 < cap))
    let d1 := { d with res := d.res ++ fit.map (fun x => (x.2, dispatchRec 0 ex (old + x.1)))
                       ovf := d.ovf ++ ovr.map (fun x => (x.2, ex)) }
    if ovr.isEmpty then return d1
    else do
      let r ← fetchAdd p 8 ovr.length
      return { d1 with err := d1.err || r.isNone }

/-- The overflow records, at the end (R314). -/
def dispatchOver (hd : TabPage) (cap : Nat) (d : Disp) : EM Disp := do
  if d.ovf.isEmpty then return d
  match ← fetchAdd hd 0x18 d.ovf.length with
  | none => return { d with res := d.res ++ d.ovf.map (fun x => (x.1, dispatchRec 2 x.2 0)), err := true }
  | some o =>
    return { d with res := d.res ++ ((List.range d.ovf.length).zip d.ovf).map (fun q =>
      (q.2.1, if o + q.1 < cap then dispatchRec 1 q.2.2 (o + q.1) else dispatchRec 2 q.2.2 0)) }

/-- Older stores to an aligned stretch of memory have been performed, or the instruction waits (R396). -/
def drainedAt (p : TabPage) (n : Nat) : EM Unit := do
  let x ← getE
  if x.pendingStores.any (fun q => q.touches (p.t.ga p.va.toNat) n) then throw .wait

/-- Dispatch runs expert by expert in ascending order; `es` pairs each expert with its entry's page. -/
def dispatchAll (recs : List (Nat × Nat)) : List (Nat × TabPage × Nat) → Disp → EM Disp
  | [], d => return d
  | x :: r, d => do
    let els := (recs.filter (fun q => decide (q.2 = x.1))).map (fun q => q.1)
    dispatchAll recs r (← dispatchExpert x.2.1 x.2.2 x.1 els d)

/-- The records of `vdispatch` (R314, R316): the result of each, and whether an atomic returned an error. -/
def dispatchRecords (c : Core) (o : VR) : EM Disp := do
  let t := c.vt
  let tab := c.sysGet 0x141
  let hd ← tabPage tab
  drainedAt hd 64
  let nexp := fld (← tabWord hd 0) 16 16
  let ovfCap := fld (← tabWord hd 0x10) 0 32
  let recs := ((List.range t.vl).filter (fun i => c.active o i && !bit (w64 (c.elt o.va.toNat 64 i)) 63)).map
    (fun i => (i, c.elt o.va.toNat 64 i / 2 ^ 32 % 4096))
  let good := recs.filter (fun r => decide (r.2 < nexp))
  let bad := recs.filter (fun r => !decide (r.2 < nexp))
  let experts := (List.range nexp).filter (fun x => good.any (fun r => decide (r.2 = x)))
  let es ← experts.mapM (fun x => do
    let p ← tabPage (tab + w64 (64 + 32 * x))
    drainedAt p 32
    return (x, p, fld (← tabWord p 0) 32 32))
  let d0 : Disp := { res := bad.map (fun r => (r.1, dispatchRec 2 r.2 0)), ovf := [], err := false }
  let d1 ← dispatchAll good es d0
  let d2 ← dispatchOver hd ovfCap d1
  let dropped := (d2.res.filter (fun r => decide (r.2 / 2 ^ 62 = 2))).length
  if dropped = 0 then return d2
  else do
    let r ← fetchAdd hd 0x1C dropped
    return { d2 with err := d2.err || r.isNone }

/-- How many results are of a kind. -/
def Disp.ofKind (d : Disp) (k : Nat) : Nat := (d.res.filter (fun r => decide (r.2 / 2 ^ 62 = k))).length

/-- The result vector of `vdispatch`. -/
def Core.putDispatch (c : Core) (n vl : Nat) (d : Disp) : Core :=
  (List.range vl).foldl (fun a i =>
    a.setElt n 64 i (((d.res.find? (fun r => decide (r.1 = i))).map (fun r => r.2)).getD (dispatchRec 3 0 0))) c

/-- The marks of `ROUTE_STAT` that a dispatch sets. -/
def Core.markDispatch (c : Core) (d : Disp) : Core :=
  let c1 := if d.err then c.sticky 0x143 1 else c
  if d.ofKind 1 + d.ofKind 2 ≠ 0 then c1.sticky 0x143 0 else c1

/-- The counters of a dispatch. -/
def Engine.countDispatch (x : Engine) (d : Disp) : Engine :=
  ((x.count 0x144 (d.ofKind 0)).count 0x145 (d.ofKind 1)).count 0x146 (d.ofKind 2)

/-- `vdispatch` (R314, R316). -/
def execVdispatch (e : Fin 104) (o : VR) (s : State) : Res :=
  seqInstr 1 4 1 e (do
    let c ← getC
    let t := c.vt
    need (maskOk o.vm o.ms && !o.sc && decide (o.vb = 0#5) && decide (t.et = 3) && groupOk o.va.toNat t.g &&
      groupOk o.vd.toNat t.g && !groupsMeet o.vd.toNat t.g o.va.toNat t.g)
    notResumable t
    parkIf 2 (c.sysGet 0x141)
    modE (fun x => x.commitAll)
    drainE
    let d ← dispatchRecords c o
    modE (fun x => { x with core := x.core.putDispatch o.vd.toNat t.vl d }.countDispatch d)
    modC (fun k => k.markDispatch d)
    vecDone true FFlags.none) s

/-! Moving rows. -/

/-- The address of a record's row (R315), read from the expert table. -/
def recordRow (tab : W64) (r : Nat) : EM W64 := do
  let word (k : Nat) : EM W64 := do
    let va := tab + w64 k
    let t ← translate va .load
    let l ← loadVia t va 8 vectorLoad
    return w64 (leNat l.bytes)
  let pos := w64 (r % 2 ^ 32)
  let ex := r / 2 ^ 32 % 4096
  if r / 2 ^ 62 = 0 then
    return (← word (80 + 32 * ex)) + pos * (← word (88 + 32 * ex))
  else return (← word 0x8) + pos * w64 (fld (← word 0x10) 32 32)

/-- An act that waits leaves the engine's stores and counters as they were, since it will start again. -/
def rollbackOnWait {α : Type} (act : EM α) : EM α := do
  let x ← getE
  tryCatch act (fun v =>
    match v with
    | .wait => do
      modE (fun y => { y with sb := x.sb, tq := x.tq, spec := x.spec, ec := x.ec, ctrs := x.ctrs })
      throw .wait
    | z => throw z)

/-- Copies one row of n bytes: its source is read and its destination translated before any byte is written (R317). -/
def copyRow (src dst : W64) (n : Nat) : EM Unit := do
  if src.toNat % 64 ≠ 0 then alignFault src
  if dst.toNat % 64 ≠ 0 then alignFault dst
  let r ← readWords vectorLoad src n
  let ps ← (List.range (n / 64)).mapM (fun i => checkPiece (dst + w64 (64 * i)) ((r.1.drop (64 * i)).take 64))
  retirePieces 1 ps
  if r.2 then modC (fun k => k.sysSet 0x104 (k.sysGet 0x104 ||| 2#64))
  countE 0x147 1

/-- The rows of the records in a list, in order: i counts records, `u` names the free row of a scatter without K. A trap
leaves `VSTART` at its record. -/
def moveRecords (c : Core) (o : VR) (scat : Bool) (u : Nat) : List Nat → EM Unit
  | [] => pure ()
  | i :: rest => do
    let rows := c.sysGet 0x142
    let k := fld (c.sysGet 0x140) 0 4
    let r := c.elt o.va.toNat 64 i
    if c.active o i && decide (r / 2 ^ 62 < 2) then do
      let own := c.ix0.v + w64 (if scat then (if k = 0 then Config.free u else i / k) else i) * w64 (fld rows 32 32)
      let act : EM Unit := do
        let other ← recordRow (c.sysGet 0x141) r
        if scat then copyRow own other (fld rows 0 17) else copyRow other own (fld rows 0 17)
      tryCatch act (fun v =>
        match v with
        | .trap q => do
          modC (fun z => z.sysSet 0x102 (w64 i))
          throw (.trap { q with keep := true })
        | z => throw z)
    moveRecords c o scat u rest

/-- `vscatrows` and `vgathrows` (R317): they resume at `VSTART`, which counts records. DEDUCED (log 36). -/
def moveRows (e : Fin 104) (o : VR) (scat : Bool) (s : State) : Res :=
  seqInstr 1 4 1 e (do
    let c ← getC
    let t := c.vt
    need (maskOk o.vm o.ms && !o.sc && decide (o.vb = 0#5) && decide (o.vd = 0#5) && decide (t.et = 3) && groupOk o.va.toNat t.g)
    checkTag .addr c.ix0.t 0#64
    let x ← getE
    if x.sbRoom = 0 then throw .wait
    let u ← freshM
    rollbackOnWait (moveRecords c o scat u (List.range t.vl))
    vecDone false FFlags.none) s

def execVscatrows (e : Fin 104) (o : VR) (s : State) : Res := moveRows e o true s
def execVgathrows (e : Fin 104) (o : VR) (s : State) : Res := moveRows e o false s

end Sys2Proof.Machine
end

