-- ==== Sys2Proof/Machine/Dispatch.lean ====
section
/-!
DEFINITION. One arm per command of the opcode table, each a direct call of that command's meaning.
-/

namespace Sys2Proof.Machine

/-- DESIGN CHOICE (log 2). -/
def exec (i : Instr) (s : State) : Host.Outcome State Fault Refusal :=
  match i with
  | .ld e o => Sys2Proof.Machine.execLd e o s
  | .ldb e o => Sys2Proof.Machine.execLdb e o s
  | .ldbs e o => Sys2Proof.Machine.execLdbs e o s
  | .ldh e o => Sys2Proof.Machine.execLdh e o s
  | .ldhs e o => Sys2Proof.Machine.execLdhs e o s
  | .ldw e o => Sys2Proof.Machine.execLdw e o s
  | .ldws e o => Sys2Proof.Machine.execLdws e o s
  | .st e o => Sys2Proof.Machine.execSt e o s
  | .stb e o => Sys2Proof.Machine.execStb e o s
  | .sth e o => Sys2Proof.Machine.execSth e o s
  | .stw e o => Sys2Proof.Machine.execStw e o s
  | .ldIx0 e o => Sys2Proof.Machine.execLdIx0 e o s
  | .ldIx1 e o => Sys2Proof.Machine.execLdIx1 e o s
  | .stIx0 e o => Sys2Proof.Machine.execStIx0 e o s
  | .stIx1 e o => Sys2Proof.Machine.execStIx1 e o s
  | .leaIx0 e o => Sys2Proof.Machine.execLeaIx0 e o s
  | .leaIx1 e o => Sys2Proof.Machine.execLeaIx1 e o s
  | .lea e o => Sys2Proof.Machine.execLea e o s
  | .ldSp e o => Sys2Proof.Machine.execLdSp e o s
  | .push e o => Sys2Proof.Machine.execPush e o s
  | .pop e o => Sys2Proof.Machine.execPop e o s
  | .pushIx0 e o => Sys2Proof.Machine.execPushIx0 e o s
  | .popIx0 e o => Sys2Proof.Machine.execPopIx0 e o s
  | .pushIx1 e o => Sys2Proof.Machine.execPushIx1 e o s
  | .popIx1 e o => Sys2Proof.Machine.execPopIx1 e o s
  | .alloc e o => Sys2Proof.Machine.execAlloc e o s
  | .free e o => Sys2Proof.Machine.execFree e o s
  | .add e o => Sys2Proof.Machine.execAdd e o s
  | .adc e o => Sys2Proof.Machine.execAdc e o s
  | .sub e o => Sys2Proof.Machine.execSub e o s
  | .sbb e o => Sys2Proof.Machine.execSbb e o s
  | .cmp e o => Sys2Proof.Machine.execCmp e o s
  | .and e o => Sys2Proof.Machine.execAnd e o s
  | .or e o => Sys2Proof.Machine.execOr e o s
  | .xor e o => Sys2Proof.Machine.execXor e o s
  | .tst e o => Sys2Proof.Machine.execTst e o s
  | .shl e o => Sys2Proof.Machine.execShl e o s
  | .shr e o => Sys2Proof.Machine.execShr e o s
  | .sar e o => Sys2Proof.Machine.execSar e o s
  | .rol e o => Sys2Proof.Machine.execRol e o s
  | .ror e o => Sys2Proof.Machine.execRor e o s
  | .neg e o => Sys2Proof.Machine.execNeg e o s
  | .not e o => Sys2Proof.Machine.execNot e o s
  | .clz e o => Sys2Proof.Machine.execClz e o s
  | .ctz e o => Sys2Proof.Machine.execCtz e o s
  | .popc e o => Sys2Proof.Machine.execPopc e o s
  | .bswap e o => Sys2Proof.Machine.execBswap e o s
  | .addxIx0 e o => Sys2Proof.Machine.execAddxIx0 e o s
  | .addxIx1 e o => Sys2Proof.Machine.execAddxIx1 e o s
  | .cmpxIx0 e o => Sys2Proof.Machine.execCmpxIx0 e o s
  | .cmpxIx1 e o => Sys2Proof.Machine.execCmpxIx1 e o s
  | .mul e o => Sys2Proof.Machine.execMul e o s
  | .mulu e o => Sys2Proof.Machine.execMulu e o s
  | .div e o => Sys2Proof.Machine.execDiv e o s
  | .divu e o => Sys2Proof.Machine.execDivu e o s
  | .mulDelivery e tie => Sys2Proof.Machine.execMulDelivery e tie s
  | .divDelivery e tie => Sys2Proof.Machine.execDivDelivery e tie s
  | .fadd e o => Sys2Proof.Machine.execFadd e o s
  | .fsub e o => Sys2Proof.Machine.execFsub e o s
  | .fmul e o => Sys2Proof.Machine.execFmul e o s
  | .fdiv e o => Sys2Proof.Machine.execFdiv e o s
  | .fcmp e o => Sys2Proof.Machine.execFcmp e o s
  | .fcvtIf e o => Sys2Proof.Machine.execFcvtIf e o s
  | .fcvtFi e o => Sys2Proof.Machine.execFcvtFi e o s
  | .fsqrt e o => Sys2Proof.Machine.execFsqrt e o s
  | .gtag e o => Sys2Proof.Machine.execGtag e o s
  | .stag e o => Sys2Proof.Machine.execStag e o s
  | .chk e o => Sys2Proof.Machine.execChk e o s
  | .setf e o => Sys2Proof.Machine.execSetf e o s
  | .bcc e o => Sys2Proof.Machine.execBcc e o s
  | .jmp e o => Sys2Proof.Machine.execJmp e o s
  | .call e o => Sys2Proof.Machine.execCall e o s
  | .ret e o => Sys2Proof.Machine.execRet e o s
  | .loop e o => Sys2Proof.Machine.execLoop e o s
  | .nop e o => Sys2Proof.Machine.execNop e o s
  | .rdcyc e o => Sys2Proof.Machine.execRdcyc e o s
  | .rdinst e o => Sys2Proof.Machine.execRdinst e o s
  | .pause e o => Sys2Proof.Machine.execPause e o s
  | .pauseExpire e => Sys2Proof.Machine.execPauseExpire e s
  | .sread e o => Sys2Proof.Machine.execSread e o s
  | .swrite e o => Sys2Proof.Machine.execSwrite e o s
  | .sset e o => Sys2Proof.Machine.execSset e o s
  | .sclr e o => Sys2Proof.Machine.execSclr e o s
  | .fcsrWrite e f => Sys2Proof.Machine.execFcsrWrite e f s
  | .svc e o => Sys2Proof.Machine.execSvc e o s
  | .mon e o => Sys2Proof.Machine.execMon e o s
  | .rte e o => Sys2Proof.Machine.execRte e o s
  | .ei e o => Sys2Proof.Machine.execEi e o s
  | .di e o => Sys2Proof.Machine.execDi e o s
  | .interruptTake e elapsed => Sys2Proof.Machine.execInterruptTake e elapsed s
  | .timerMon e => Sys2Proof.Machine.execTimerMon e s
  | .timerSup e => Sys2Proof.Machine.execTimerSup e s
  | .lateErrAppend e idx status => Sys2Proof.Machine.execLateErrAppend e idx status s
  | .storePerformed e idx => Sys2Proof.Machine.execStorePerformed e idx s
  | .fence e f => Sys2Proof.Machine.execFence e f s
  | .fenceS e f => Sys2Proof.Machine.execFenceS e f s
  | .fenceSDrained e => Sys2Proof.Machine.execFenceSDrained e s
  | .ldAq e f => Sys2Proof.Machine.execLdAq e f s
  | .stRl e f => Sys2Proof.Machine.execStRl e f s
  | .vsetvl e o => Sys2Proof.Machine.execVsetvl e o s
  | .vsetvlmax e o => Sys2Proof.Machine.execVsetvlmax e o s
  | .vtypeWrite e f => Sys2Proof.Machine.execVtypeWrite e f s
  | .vlWrite e f => Sys2Proof.Machine.execVlWrite e f s
  | .mwinData e k f => Sys2Proof.Machine.execMwinData e k f s
  | .vadd e o => Sys2Proof.Machine.execVadd e o s
  | .vsub e o => Sys2Proof.Machine.execVsub e o s
  | .vmul e o => Sys2Proof.Machine.execVmul e o s
  | .vmulh e o => Sys2Proof.Machine.execVmulh e o s
  | .vmulhu e o => Sys2Proof.Machine.execVmulhu e o s
  | .vdiv e o => Sys2Proof.Machine.execVdiv e o s
  | .vdivu e o => Sys2Proof.Machine.execVdivu e o s
  | .vrem e o => Sys2Proof.Machine.execVrem e o s
  | .vremu e o => Sys2Proof.Machine.execVremu e o s
  | .vmin e o => Sys2Proof.Machine.execVmin e o s
  | .vminu e o => Sys2Proof.Machine.execVminu e o s
  | .vmax e o => Sys2Proof.Machine.execVmax e o s
  | .vmaxu e o => Sys2Proof.Machine.execVmaxu e o s
  | .vand e o => Sys2Proof.Machine.execVand e o s
  | .vor e o => Sys2Proof.Machine.execVor e o s
  | .vxor e o => Sys2Proof.Machine.execVxor e o s
  | .vsll e o => Sys2Proof.Machine.execVsll e o s
  | .vsrl e o => Sys2Proof.Machine.execVsrl e o s
  | .vsra e o => Sys2Proof.Machine.execVsra e o s
  | .vsadd e o => Sys2Proof.Machine.execVsadd e o s
  | .vsaddu e o => Sys2Proof.Machine.execVsaddu e o s
  | .vssub e o => Sys2Proof.Machine.execVssub e o s
  | .vssubu e o => Sys2Proof.Machine.execVssubu e o s
  | .vfadd e o => Sys2Proof.Machine.execVfadd e o s
  | .vfsub e o => Sys2Proof.Machine.execVfsub e o s
  | .vfmul e o => Sys2Proof.Machine.execVfmul e o s
  | .vfdiv e o => Sys2Proof.Machine.execVfdiv e o s
  | .vfsqrt e o => Sys2Proof.Machine.execVfsqrt e o s
  | .vfmin e o => Sys2Proof.Machine.execVfmin e o s
  | .vfmax e o => Sys2Proof.Machine.execVfmax e o s
  | .vfabs e o => Sys2Proof.Machine.execVfabs e o s
  | .vfneg e o => Sys2Proof.Machine.execVfneg e o s
  | .vfmacc e o => Sys2Proof.Machine.execVfmacc e o s
  | .vfnmacc e o => Sys2Proof.Machine.execVfnmacc e o s
  | .vfmsac e o => Sys2Proof.Machine.execVfmsac e o s
  | .vfnmsac e o => Sys2Proof.Machine.execVfnmsac e o s
  | .vmacc e o => Sys2Proof.Machine.execVmacc e o s
  | .vnmsac e o => Sys2Proof.Machine.execVnmsac e o s
  | .vmseq e o => Sys2Proof.Machine.execVmseq e o s
  | .vmsne e o => Sys2Proof.Machine.execVmsne e o s
  | .vmslt e o => Sys2Proof.Machine.execVmslt e o s
  | .vmsle e o => Sys2Proof.Machine.execVmsle e o s
  | .vmsltu e o => Sys2Proof.Machine.execVmsltu e o s
  | .vmsleu e o => Sys2Proof.Machine.execVmsleu e o s
  | .vmsgt e o => Sys2Proof.Machine.execVmsgt e o s
  | .vmsgtu e o => Sys2Proof.Machine.execVmsgtu e o s
  | .vmfeq e o => Sys2Proof.Machine.execVmfeq e o s
  | .vmfne e o => Sys2Proof.Machine.execVmfne e o s
  | .vmflt e o => Sys2Proof.Machine.execVmflt e o s
  | .vmfle e o => Sys2Proof.Machine.execVmfle e o s
  | .vmfunord e o => Sys2Proof.Machine.execVmfunord e o s
  | .mand e o => Sys2Proof.Machine.execMand e o s
  | .mor e o => Sys2Proof.Machine.execMor e o s
  | .mxor e o => Sys2Proof.Machine.execMxor e o s
  | .mandn e o => Sys2Proof.Machine.execMandn e o s
  | .mnot e o => Sys2Proof.Machine.execMnot e o s
  | .mpopc e o => Sys2Proof.Machine.execMpopc e o s
  | .mfirst e o => Sys2Proof.Machine.execMfirst e o s
  | .mset e o => Sys2Proof.Machine.execMset e o s
  | .mclr e o => Sys2Proof.Machine.execMclr e o s
  | .vbcast e o => Sys2Proof.Machine.execVbcast e o s
  | .vext e o => Sys2Proof.Machine.execVext e o s
  | .vextu e o => Sys2Proof.Machine.execVextu e o s
  | .vins e o => Sys2Proof.Machine.execVins e o s
  | .vmv e o => Sys2Proof.Machine.execVmv e o s
  | .vslideup e o => Sys2Proof.Machine.execVslideup e o s
  | .vslidedown e o => Sys2Proof.Machine.execVslidedown e o s
  | .vrgather e o => Sys2Proof.Machine.execVrgather e o s
  | .vcompress e o => Sys2Proof.Machine.execVcompress e o s
  | .viota e o => Sys2Proof.Machine.execViota e o s
  | .vid e o => Sys2Proof.Machine.execVid e o s
  | .vcvtW e o ty => Sys2Proof.Machine.execVcvtW e o ty s
  | .vcvtN e o ty => Sys2Proof.Machine.execVcvtN e o ty s
  | .vcvtIf e o ty => Sys2Proof.Machine.execVcvtIf e o ty s
  | .vcvtFi e o ty => Sys2Proof.Machine.execVcvtFi e o ty s
  | .vcvtFf e o ty => Sys2Proof.Machine.execVcvtFf e o ty s
  | .vl e o => Sys2Proof.Machine.execVl e o s
  | .vls e o => Sys2Proof.Machine.execVls e o s
  | .vlx e o => Sys2Proof.Machine.execVlx e o s
  | .vlseg e o => Sys2Proof.Machine.execVlseg e o s
  | .vlsseg e o => Sys2Proof.Machine.execVlsseg e o s
  | .vlr e o => Sys2Proof.Machine.execVlr e o s
  | .vlm e o => Sys2Proof.Machine.execVlm e o s
  | .vs e o => Sys2Proof.Machine.execVs e o s
  | .vss e o => Sys2Proof.Machine.execVss e o s
  | .vsx e o => Sys2Proof.Machine.execVsx e o s
  | .vsseg e o => Sys2Proof.Machine.execVsseg e o s
  | .vssseg e o => Sys2Proof.Machine.execVssseg e o s
  | .vsr e o => Sys2Proof.Machine.execVsr e o s
  | .vsm e o => Sys2Proof.Machine.execVsm e o s
  | .vredsum e o => Sys2Proof.Machine.execVredsum e o s
  | .vredsumu e o => Sys2Proof.Machine.execVredsumu e o s
  | .vredosum e o => Sys2Proof.Machine.execVredosum e o s
  | .vredssq e o => Sys2Proof.Machine.execVredssq e o s
  | .vredmin e o => Sys2Proof.Machine.execVredmin e o s
  | .vredmax e o => Sys2Proof.Machine.execVredmax e o s
  | .vredminu e o => Sys2Proof.Machine.execVredminu e o s
  | .vredmaxu e o => Sys2Proof.Machine.execVredmaxu e o s
  | .vredand e o => Sys2Proof.Machine.execVredand e o s
  | .vredor e o => Sys2Proof.Machine.execVredor e o s
  | .vredxor e o => Sys2Proof.Machine.execVredxor e o s
  | .vstat e o => Sys2Proof.Machine.execVstat e o s
  | .vstatm e o => Sys2Proof.Machine.execVstatm e o s
  | .vtopk e o => Sys2Proof.Machine.execVtopk e o s
  | .vdispatch e o => Sys2Proof.Machine.execVdispatch e o s
  | .vscatrows e o => Sys2Proof.Machine.execVscatrows e o s
  | .vgathrows e o => Sys2Proof.Machine.execVgathrows e o s
  | .routeCfgWrite e f => Sys2Proof.Machine.execRouteCfgWrite e f s
  | .routeRowsWrite e f => Sys2Proof.Machine.execRouteRowsWrite e f s
  | .tsWrite e n f => Sys2Proof.Machine.execTsWrite e n f s
  | .asWrite e n f => Sys2Proof.Machine.execAsWrite e n f s
  | .trndWrite e f => Sys2Proof.Machine.execTrndWrite e f s
  | .tld e o => Sys2Proof.Machine.execTld e o s
  | .tldLast e o => Sys2Proof.Machine.execTldLast e o s
  | .tstTile e o => Sys2Proof.Machine.execTstTile e o s
  | .tlda e o => Sys2Proof.Machine.execTlda e o s
  | .tsta e o => Sys2Proof.Machine.execTsta e o s
  | .tzero e o => Sys2Proof.Machine.execTzero e o s
  | .tmov e o => Sys2Proof.Machine.execTmov e o s
  | .tzacc e o => Sys2Proof.Machine.execTzacc e o s
  | .tcvt e o => Sys2Proof.Machine.execTcvt e o s
  | .tstf e o => Sys2Proof.Machine.execTstf e o s
  | .tmma e o => Sys2Proof.Machine.execTmma e o s
  | .tmmaz e o => Sys2Proof.Machine.execTmmaz e o s
  | .tmmak e o => Sys2Proof.Machine.execTmmak e o s
  | .tmmakz e o => Sys2Proof.Machine.execTmmakz e o s
  | .tconv e o => Sys2Proof.Machine.execTconv e o s
  | .tconvz e o => Sys2Proof.Machine.execTconvz e o s
  | .tmmap e o => Sys2Proof.Machine.execTmmap e o s
  | .tmmapz e o => Sys2Proof.Machine.execTmmapz e o s
  | .tmmas e o => Sys2Proof.Machine.execTmmas e o s
  | .tmmasz e o => Sys2Proof.Machine.execTmmasz e o s
  | .tmmaq e o => Sys2Proof.Machine.execTmmaq e o s
  | .tmmaqz e o => Sys2Proof.Machine.execTmmaqz e o s
  | .tmmaks e o => Sys2Proof.Machine.execTmmaks e o s
  | .tmmaksz e o => Sys2Proof.Machine.execTmmaksz e o s
  | .tileCommit e => Sys2Proof.Machine.execTileCommit e s
  | .tileWaitExpire e elapsed => Sys2Proof.Machine.execTileWaitExpire e elapsed s
  | .tgsub e o => Sys2Proof.Machine.execTgsub e o s
  | .bgEvaluate d => Sys2Proof.Machine.execBgEvaluate d s
  | .bgBlockDone e => Sys2Proof.Machine.execBgBlockDone e s
  | .bgCompletionWord d k => Sys2Proof.Machine.execBgCompletionWord d k s
  | .bgHalfErr e => Sys2Proof.Machine.execBgHalfErr e s
  | .bgCtlWrite d v => Sys2Proof.Machine.execBgCtlWrite d v s
  | .tileLeaseWrite e v => Sys2Proof.Machine.execTileLeaseWrite e v s
  | .amoAddW e o => Sys2Proof.Machine.execAmoAddW e o s
  | .amoAddD e o => Sys2Proof.Machine.execAmoAddD e o s
  | .amoCasW e o => Sys2Proof.Machine.execAmoCasW e o s
  | .amoCasD e o => Sys2Proof.Machine.execAmoCasD e o s
  | .amoMinD e o => Sys2Proof.Machine.execAmoMinD e o s
  | .amoMaxD e o => Sys2Proof.Machine.execAmoMaxD e o s
  | .amoMinuD e o => Sys2Proof.Machine.execAmoMinuD e o s
  | .amoMaxuD e o => Sys2Proof.Machine.execAmoMaxuD e o s
  | .amoFaddS e o => Sys2Proof.Machine.execAmoFaddS e o s
  | .amoFaddB e o => Sys2Proof.Machine.execAmoFaddB e o s
  | .amoFminS e o => Sys2Proof.Machine.execAmoFminS e o s
  | .amoFmaxS e o => Sys2Proof.Machine.execAmoFmaxS e o s
  | .amoXadd e o => Sys2Proof.Machine.execAmoXadd e o s
  | .amoXaddx e o => Sys2Proof.Machine.execAmoXaddx e o s
  | .amoSmerge e o => Sys2Proof.Machine.execAmoSmerge e o s
  | .pierAtomic e idx => Sys2Proof.Machine.execPierAtomic e idx s
  | .atomicResponse e => Sys2Proof.Machine.execAtomicResponse e s
  | .kdreset e o => Sys2Proof.Machine.execKdreset e o s
  | .khload e o => Sys2Proof.Machine.execKhload e o s
  | .khdrop e o => Sys2Proof.Machine.execKhdrop e o s
  | .khinfo e o => Sys2Proof.Machine.execKhinfo e o s
  | .kdfree e o => Sys2Proof.Machine.execKdfree e o s
  | .tnext e o => Sys2Proof.Machine.execTnext e o s
  | .tdone e o => Sys2Proof.Machine.execTdone e o s
  | .dbell e o => Sys2Proof.Machine.execDbell e o s
  | .msend e o => Sys2Proof.Machine.execMsend e o s
  | .mrecv e o => Sys2Proof.Machine.execMrecv e o s
  | .stepmark e o => Sys2Proof.Machine.execStepmark e o s
  | .specBegin e f => Sys2Proof.Machine.execSpecBegin e f s
  | .specCommit e f => Sys2Proof.Machine.execSpecCommit e f s
  | .specDiscard e f => Sys2Proof.Machine.execSpecDiscard e f s
  | .clean e f => Sys2Proof.Machine.execClean e f s
  | .flush e f => Sys2Proof.Machine.execFlush e f s
  | .invalN e f => Sys2Proof.Machine.execInvalN e f s
  | .isync e f => Sys2Proof.Machine.execIsync e f s
  | .zero e f => Sys2Proof.Machine.execZero e f s
  | .tlbInvAll e f => Sys2Proof.Machine.execTlbInvAll e f s
  | .tlbInvCtx e f => Sys2Proof.Machine.execTlbInvCtx e f s
  | .tlbInvAddress e f => Sys2Proof.Machine.execTlbInvAddress e f s
  | .tlbInvWalk e f => Sys2Proof.Machine.execTlbInvWalk e f s
  | .transCtxWrite e f => Sys2Proof.Machine.execTransCtxWrite e f s
  | .tableWalk e va k => Sys2Proof.Machine.execTableWalk e va k s
  | .pfCtlWrite e f => Sys2Proof.Machine.execPfCtlWrite e f s
  | .pfTdesc e f => Sys2Proof.Machine.execPfTdesc e f s
  | .prefetchIssue e src => Sys2Proof.Machine.execPrefetchIssue e src s
  | .streamFree e k => Sys2Proof.Machine.execStreamFree e k s
  | .engineCacheFill e idx err => Sys2Proof.Machine.execEngineCacheFill e idx err s
  | .ecVictimAck e idx => Sys2Proof.Machine.execEcVictimAck e idx s
  | .pierAllocate p idx => Sys2Proof.Machine.execPierAllocate p idx s
  | .pierVictimComplete p idx => Sys2Proof.Machine.execPierVictimComplete p idx s
  | .pierScrub p err => Sys2Proof.Machine.execPierScrub p err s
  | .wayRetire p way => Sys2Proof.Machine.execWayRetire p way s
  | .wayRetireDone p => Sys2Proof.Machine.execWayRetireDone p s
  | .hbmRequest req off write => Sys2Proof.Machine.execHbmRequest req off write s
  | .bankAccessStart g => Sys2Proof.Machine.execBankAccessStart g s
  | .bankAccessDone g bank => Sys2Proof.Machine.execBankAccessDone g bank s
  | .agePromote g => Sys2Proof.Machine.execAgePromote g s
  | .refresh g bank => Sys2Proof.Machine.execRefresh g bank s
  | .calWindowStart h c => Sys2Proof.Machine.execCalWindowStart h c s
  | .calWindowEnd h c => Sys2Proof.Machine.execCalWindowEnd h c s
  | .rowSpare h pc bank row => Sys2Proof.Machine.execRowSpare h pc bank row s
  | .pcRetire h pc => Sys2Proof.Machine.execPcRetire h pc s
  | .pcRetireDone h bad => Sys2Proof.Machine.execPcRetireDone h bad s
  | .laneRotationStart p k block => Sys2Proof.Machine.execLaneRotationStart p k block s
  | .rotPrep p k block good => Sys2Proof.Machine.execRotPrep p k block good s
  | .rotAck p => Sys2Proof.Machine.execRotAck p s
  | .rotReady p block => Sys2Proof.Machine.execRotReady p block s
  | .rotReturn p => Sys2Proof.Machine.execRotReturn p s
  | .rotAbort p => Sys2Proof.Machine.execRotAbort p s
  | .laneCalibrationDone p good => Sys2Proof.Machine.execLaneCalibrationDone p good s
  | .laneFail p lane rx => Sys2Proof.Machine.execLaneFail p lane rx s
  | .dataFlit p f => Sys2Proof.Machine.execDataFlit p f s
  | .ctlFlit p f => Sys2Proof.Machine.execCtlFlit p f s
  | .credit p counts => Sys2Proof.Machine.execCredit p counts s
  | .nak p idx => Sys2Proof.Machine.execNak p idx s
  | .nakTimeout p => Sys2Proof.Machine.execNakTimeout p s
  | .replayTimeout p => Sys2Proof.Machine.execReplayTimeout p s
  | .pauseSlot p on => Sys2Proof.Machine.execPauseSlot p on s
  | .hs p kind num b => Sys2Proof.Machine.execHs p kind num b s
  | .hello p b => Sys2Proof.Machine.execHello p b s
  | .cert p c => Sys2Proof.Machine.execCert p c s
  | .kemEk p good => Sys2Proof.Machine.execKemEk p good s
  | .kemCt p good => Sys2Proof.Machine.execKemCt p good s
  | .sig p good => Sys2Proof.Machine.execSig p good s
  | .firstEncryptedFlit p tagOk => Sys2Proof.Machine.execFirstEncryptedFlit p tagOk s
  | .lnkEnable p on => Sys2Proof.Machine.execLnkEnable p on s
  | .retrain p => Sys2Proof.Machine.execRetrain p s
  | .laneTrainLocked p rx tx => Sys2Proof.Machine.execLaneTrainLocked p rx tx s
  | .laneTrainTimeout p => Sys2Proof.Machine.execLaneTrainTimeout p s
  | .negotiateTimeout p => Sys2Proof.Machine.execNegotiateTimeout p s
  | .retrainTimeout p => Sys2Proof.Machine.execRetrainTimeout p s
  | .trainingBlock p session => Sys2Proof.Machine.execTrainingBlock p session s
  | .downRetry p => Sys2Proof.Machine.execDownRetry p s
  | .refusedRetry p => Sys2Proof.Machine.execRefusedRetry p s
  | .silenceTimeout p => Sys2Proof.Machine.execSilenceTimeout p s
  | .rekey p => Sys2Proof.Machine.execRekey p s
  | .rd p t => Sys2Proof.Machine.execRd p t s
  | .wr p t => Sys2Proof.Machine.execWr p t s
  | .wrm p t => Sys2Proof.Machine.execWrm p t s
  | .atom p t => Sys2Proof.Machine.execAtom p t s
  | .atoml p t => Sys2Proof.Machine.execAtoml p t s
  | .msg p t => Sys2Proof.Machine.execMsg p t s
  | .mgmt p t o => Sys2Proof.Machine.execMgmt p t o s
  | .rspd p t => Sys2Proof.Machine.execRspd p t s
  | .cmpTransaction p t => Sys2Proof.Machine.execCmpTransaction p t s
  | .transactionTimeout tid => Sys2Proof.Machine.execTransactionTimeout tid s
  | .pairKeyExchange node ok => Sys2Proof.Machine.execPairKeyExchange node ok s
  | .pairKeyTimeout node => Sys2Proof.Machine.execPairKeyTimeout node s
  | .lnkVcbufWrite p v => Sys2Proof.Machine.execLnkVcbufWrite p v s
  | .tail f ch v => Sys2Proof.Machine.execTail f ch v s
  | .start f ch => Sys2Proof.Machine.execStart f ch s
  | .stop f ch => Sys2Proof.Machine.execStop f ch s
  | .reload f ch => Sys2Proof.Machine.execReload f ch s
  | .dcons f ch v => Sys2Proof.Machine.execDcons f ch v s
  | .dbTask f l v => Sys2Proof.Machine.execDbTask f l v s
  | .tqCfgWrite l v => Sys2Proof.Machine.execTqCfgWrite l v s
  | .copyDescriptor ch => Sys2Proof.Machine.execCopyDescriptor ch s
  | .ingestDescriptor ch => Sys2Proof.Machine.execIngestDescriptor ch s
  | .ingestDestTake ch => Sys2Proof.Machine.execIngestDestTake ch s
  | .egressDescriptor ch => Sys2Proof.Machine.execEgressDescriptor ch s
  | .descriptorCompletion ch => Sys2Proof.Machine.execDescriptorCompletion ch s
  | .bar0Write f off l tee => Sys2Proof.Machine.execBar0Write f off l tee s
  | .bar2Read o n => Sys2Proof.Machine.execBar2Read o n s
  | .bar2Write o l => Sys2Proof.Machine.execBar2Write o l s
  | .msixUnmask f v => Sys2Proof.Machine.execMsixUnmask f v s
  | .linkDown perst => Sys2Proof.Machine.execLinkDown perst s
  | .linkUp speed width => Sys2Proof.Machine.execLinkUp speed width s
  | .pfFlr => Sys2Proof.Machine.execPfFlr s
  | .vfFlr v => Sys2Proof.Machine.execVfFlr v s
  | .getVersion f => Sys2Proof.Machine.execGetVersion f s
  | .getCapabilities f => Sys2Proof.Machine.execGetCapabilities f s
  | .negotiateAlgorithms f common => Sys2Proof.Machine.execNegotiateAlgorithms f common s
  | .getDigests f => Sys2Proof.Machine.execGetDigests f s
  | .getCertificate f slot => Sys2Proof.Machine.execGetCertificate f slot s
  | .challenge f slot => Sys2Proof.Machine.execChallenge f slot s
  | .getMeasurements f idx => Sys2Proof.Machine.execGetMeasurements f idx s
  | .keyExchange f good => Sys2Proof.Machine.execKeyExchange f good s
  | .finish f good => Sys2Proof.Machine.execFinish f good s
  | .endSession f => Sys2Proof.Machine.execEndSession f s
  | .keyUpdate f => Sys2Proof.Machine.execKeyUpdate f s
  | .heartbeat f => Sys2Proof.Machine.execHeartbeat f s
  | .setImportKey v k wellFormed => Sys2Proof.Machine.execSetImportKey v k wellFormed s
  | .ideKm stream set => Sys2Proof.Machine.execIdeKm stream set s
  | .tdisp v r => Sys2Proof.Machine.execTdisp v r s
  | .ideErr stream => Sys2Proof.Machine.execIdeErr stream s
  | .debugUnlock good => Sys2Proof.Machine.execDebugUnlock good s
  | .arbGrant k rs => Sys2Proof.Machine.execArbGrant k rs s
  | .pertSelWrite d k v => Sys2Proof.Machine.execPertSelWrite d k v s
  | .arbBurstWrite d v => Sys2Proof.Machine.execArbBurstWrite d v s
  | .egrLostMaxClear d => Sys2Proof.Machine.execEgrLostMaxClear d s
  | .refclkLoss => Sys2Proof.Machine.execRefclkLoss s
  | .refclkReturn => Sys2Proof.Machine.execRefclkReturn s
  | .refclkHoldoverExpire => Sys2Proof.Machine.execRefclkHoldoverExpire s
  | .inputLockout => Sys2Proof.Machine.execInputLockout s
  | .inputQualified => Sys2Proof.Machine.execInputQualified s
  | .railSample inp power dies vio vopt => Sys2Proof.Machine.execRailSample inp power dies vio vopt s
  | .cappingPeriod model => Sys2Proof.Machine.execCappingPeriod model s
  | .modelWindow shares => Sys2Proof.Machine.execModelWindow shares s
  | .telemetryMissing => Sys2Proof.Machine.execTelemetryMissing s
  | .pwrOpReqWrite d v => Sys2Proof.Machine.execPwrOpReqWrite d v s
  | .opStepPllLocked d => Sys2Proof.Machine.execOpStepPllLocked d s
  | .opStepCommit d cycles => Sys2Proof.Machine.execOpStepCommit d cycles s
  | .vengSlewDone d => Sys2Proof.Machine.execVengSlewDone d s
  | .droopDetect d depth => Sys2Proof.Machine.execDroopDetect d depth s
  | .stretchEnd d cycles => Sys2Proof.Machine.execStretchEnd d cycles s
  | .droopEscalate d => Sys2Proof.Machine.execDroopEscalate d s
  | .droopDecay d => Sys2Proof.Machine.execDroopDecay d s
  | .tempSample junctions hbmStacks inl outl => Sys2Proof.Machine.execTempSample junctions hbmStacks inl outl s
  | .throttle d => Sys2Proof.Machine.execThrottle d s
  | .throttleRelease d => Sys2Proof.Machine.execThrottleRelease d s
  | .coolantLoss => Sys2Proof.Machine.execCoolantLoss s
  | .coolantHeldStopped => Sys2Proof.Machine.execCoolantHeldStopped s
  | .holdLimit => Sys2Proof.Machine.execHoldLimit s
  | .coolantRestored => Sys2Proof.Machine.execCoolantRestored s
  | .serviceMinute => Sys2Proof.Machine.execServiceMinute s
  | .spareForecast => Sys2Proof.Machine.execSpareForecast s
  | .supervisorHeartbeat d => Sys2Proof.Machine.execSupervisorHeartbeat d s
  | .supervisorTakeover o => Sys2Proof.Machine.execSupervisorTakeover o s
  | .dieLost d => Sys2Proof.Machine.execDieLost d s
  | .retirement r => Sys2Proof.Machine.execRetirement r s
  | .migrationRequest l why => Sys2Proof.Machine.execMigrationRequest l why s
  | .migrationSwitch l elapsed => Sys2Proof.Machine.execMigrationSwitch l elapsed s
  | .selftestStart => Sys2Proof.Machine.execSelftestStart s
  | .selftestDone p pass => Sys2Proof.Machine.execSelftestDone p pass s
  | .engineReset e => Sys2Proof.Machine.execEngineReset e s
  | .fwActivate b o => Sys2Proof.Machine.execFwActivate b o s
  | .supervisorRestarted ok o => Sys2Proof.Machine.execSupervisorRestarted ok o s
  | .tailArm j => Sys2Proof.Machine.execTailArm j s
  | .tailWaitExpire j => Sys2Proof.Machine.execTailWaitExpire j s
  | .earlyCopy g => Sys2Proof.Machine.execEarlyCopy g s
  | .granuleCopy j => Sys2Proof.Machine.execGranuleCopy j s
  | .snapshotCommit j => Sys2Proof.Machine.execSnapshotCommit j s
  | .base j => Sys2Proof.Machine.execBase j s
  | .tailAbort j => Sys2Proof.Machine.execTailAbort j s
  | .restore j => Sys2Proof.Machine.execRestore j s
  | .tailRegWrite j r v => Sys2Proof.Machine.execTailRegWrite j r v s
  | .mbRead win => Sys2Proof.Machine.execMbRead win s
  | .mbWrite win o => Sys2Proof.Machine.execMbWrite win o s
  | .mbDescribe win => Sys2Proof.Machine.execMbDescribe win s
  | .segmentGapTimeout p => Sys2Proof.Machine.execSegmentGapTimeout p s
  | .gatemiRead f => Sys2Proof.Machine.execGatemiRead f s
  | .gatemiWrite f o => Sys2Proof.Machine.execGatemiWrite f o s
  | .seg f o => Sys2Proof.Machine.execSeg f o s
  | .segAck f => Sys2Proof.Machine.execSegAck f s
  | .gatemiDescribe f => Sys2Proof.Machine.execGatemiDescribe f s
  | .gatemiAbort f => Sys2Proof.Machine.execGatemiAbort f s
  | .gatemiHeartbeat seconds => Sys2Proof.Machine.execGatemiHeartbeat seconds s
  | .eventFrame src => Sys2Proof.Machine.execEventFrame src s
  | .busOff => Sys2Proof.Machine.execBusOff s
  | .storeResolve n o => Sys2Proof.Machine.execStoreResolve n o s
  | .restoreDefaults v o => Sys2Proof.Machine.execRestoreDefaults v o s
  | .genSelWrite p v => Sys2Proof.Machine.execGenSelWrite p v s
  | .powerOn u => Sys2Proof.Machine.execPowerOn u s
  | .refclkPresent slot => Sys2Proof.Machine.execRefclkPresent slot s
  | .enginesStart => Sys2Proof.Machine.execEnginesStart s
  | .modReset => Sys2Proof.Machine.execModReset s
  | .modResetRelease slot => Sys2Proof.Machine.execModResetRelease slot s
  | .perstNDeassert => Sys2Proof.Machine.execPerstNDeassert s
  | .failedRecovery f o => Sys2Proof.Machine.execFailedRecovery f o s
  | .rowSpareDone h pc bank row bad => Sys2Proof.Machine.execRowSpareDone h pc bank row bad s
  | .migrationAbandon l => Sys2Proof.Machine.execMigrationAbandon l s
  | .internalStateError e => Sys2Proof.Machine.execInternalStateError e s
  | .preemptionRequest e => Sys2Proof.Machine.execPreemptionRequest e s
  | .flrComplete f => Sys2Proof.Machine.execFlrComplete f s
  | .configurationRequest f r => Sys2Proof.Machine.execConfigurationRequest f r s
  | .bar0Read f off n tee => Sys2Proof.Machine.execBar0Read f off n tee s
  | .retrainLocked p => Sys2Proof.Machine.execRetrainLocked p s
  | .epochKeyRetire p => Sys2Proof.Machine.execEpochKeyRetire p s
  | .controlMessageRepeat p => Sys2Proof.Machine.execControlMessageRepeat p s

end Sys2Proof.Machine
end

