-- ==== Sys2Proof/Machine/Idle.lean ====
section
/-!
DEFINITION. What the module does in a step in which no command waits.
-/

namespace Sys2Proof.Machine

/-- `TIME` counts one tick of REFCLK where it runs (R140, R588); everything else waits for a command.
DESIGN CHOICE (log 3); DEDUCED (log 100). -/
def World.tick (w : World) : World := if w.timeRun then { w with time := w.time + 1#64 } else w

/-- The state after a step with an empty queue. DESIGN CHOICE (log 3). -/
def idle (s : State) : State := { s with w := s.w.tick }

end Sys2Proof.Machine
end

