-- ==== Sys2Proof/Safety.lean ====
section
/-!
DEFINITION. What holds of every state that the module can reach: the shape of the engine tables and the rule that a binding
never crosses dies (R25), and the canonical form of memory.
-/

namespace Sys2Proof.Machine

/-- Entry l of the remap table binds, where it is PRESENT, a physical engine of die l div 24 (R22, R25). -/
def Remap.sameDie (l : Nat) (r : Remap) : Bool :=
  !r.present || (decide (r.phys < 104) && decide (r.phys / 26 = l / 24))

/-- Physical engine p is, where it is ACTIVE, bound to a logical engine of its own die. -/
def PhysEng.sameDie (p : Nat) (x : PhysEng) : Bool :=
  decide (x.st ≠ .active) || (decide (x.logical < 96) && decide (x.logical / 24 = p / 26))

/-- No binding crosses dies, in either table (R25). -/
def Anat.bindingsLocal (a : Anat) : Prop :=
  (∀ (l : Nat) (r : Remap), a.remap[l]? = some r → r.sameDie l = true) ∧
    (∀ (p : Nat) (x : PhysEng), a.phys[p]? = some x → x.sameDie p = true)

/-- The tables have the lengths of R28 and R30, and the module has four dies. -/
def Anat.shaped (a : Anat) : Prop := a.remap.length = 96 ∧ a.phys.length = 104 ∧ a.dies.length = 4

/-! How an instruction comes to its effect and ends. -/

/-- Engine e issues its next instruction in s, and the instruction's fetch raises nothing and leaves the world w1. -/
def Issues (s : State) (e : Fin 104) (w1 : World) : Prop :=
  canIssue s.anat s.w e.val = true ∧ fetchCheck ⟨s.anat, e.val⟩ s.w = .ok () w1

/-- A part of an instruction of engine e runs in the world w1 without raising anything: it answers r and leaves w2. -/
def Does {α : Type} (s : State) (e : Fin 104) (x : EM α) (w1 : World) (r : α) (w2 : World) : Prop :=
  x ⟨s.anat, e.val⟩ w1 = .ok r w2

/-- The 64-bit operand of a format S instruction can be read under a column of R61: it is x, and reading it leaves w2. -/
def Reads (s : State) (e : Fin 104) (o : SOp) (col : Col) (w1 : World) (x : TWord) (w2 : World) : Prop :=
  Does s e (operand o col) w1 x w2

/-- The tag of a register is one that a column accepts. -/
def Usable (c : Core) (col : Col) (t : Tag) : Prop := t.toNat < 8 ∧ col.accepts t c.pl = true

/-- The world after an instruction of `cyc` cycles has retired with the registers c and continues at `pc`: its place in
program order is used, `INSTRET` and `CYCLE` have counted it (R81, R103), and a free value has been used for its waits. -/
def retiredTo (w : World) (e : Fin 104) (pc : W64) (cyc : Nat) (c : Core) : World :=
  { w.setEng e.val (({ w.eng e.val with core := { c with pc := pc, seq := c.seq + 1 } }).retire cyc w.freeCtr) with
      freeCtr := w.freeCtr + 1 }

/-- The state after an instruction of `len` bytes has retired with the registers c and continues at the following word. -/
def retired (s : State) (w : World) (e : Fin 104) (len cyc : Nat) (c : Core) : State :=
  { s with w := retiredTo w e (c.pc + w64 len) cyc c }

/-- The registers of engine e in a world. -/
abbrev World.core (w : World) (e : Fin 104) : Core := (w.eng e.val).core

/-! Vector instructions. -/

/-- The fields of an element-wise instruction are legal for the type in force, and its scalar operand, where it has one, is
`sc` (R163, R164). -/
def EltReady (s : State) (e : Fin 104) (o : VR) (w1 : World) (binary : Bool) (sc : Nat × FFlags) : Prop :=
  let t := (w1.core e).vt
  maskOk o.vm o.ms = true ∧ groupOk o.vd.toNat t.g = true ∧ groupOk o.va.toNat t.g = true ∧
    ((binary = true ∧ o.sc = false ∧ groupOk o.vb.toNat t.g = true ∧ sc = (0, FFlags.none)) ∨
      (binary = true ∧ o.sc = true ∧ o.vb = 0#5 ∧ Does s e (scalarElt t) w1 sc w1) ∨
      (binary = false ∧ o.sc = false ∧ o.vb = 0#5 ∧ sc = (0, FFlags.none)))

/-- Element i of operand B: the scalar, or the element of the group. -/
def Core.eltB (c : Core) (o : VR) (sc i : Nat) : Nat := if o.sc then sc else c.elt o.vb.toNat c.vt.ew i

/-- The flags of the active elements' results. -/
def Core.eltFlags (c : Core) (o : VR) (first : FFlags) (fl : Nat → FFlags) : FFlags :=
  (List.range c.vt.vl).foldl (fun a i => if c.active o i then a.or (fl i) else a) first

/-- The registers after an element-wise instruction that reads the registers c and retires with d. -/
def Core.eltDone (c d : Core) (o : VR) (first : FFlags) (res : Nat → Nat × FFlags) : Core :=
  ({ d with v := (c.putElts o o.vd.toNat c.vt.ew (fun i => some (res i).1)).v } : Core).vecEnd true
    (c.eltFlags o first (fun i => (res i).2))

/-- The registers after a compare into a mask register. -/
def Core.cmpDone (c : Core) (o : VR) (first : FFlags) (res : Nat → Bool × FFlags) : Core :=
  ({ c with m := (c.putMask o o.vd.toNat (fun i => (res i).1)).m } : Core).vecEnd true
    (c.eltFlags o first (fun i => (res i).2))

/-- The number of the first draw of an instruction that rounds VL elements, and the registers with the draws reserved
(R275): none under another rounding mode than stochastic. -/
def Core.drawsFor (c : Core) (rounds : Bool) : Nat × Core :=
  let x := c.sysGet 0x1BF
  if rounds && decide (c.vt.rm = 2) then (fld x 0 52, c.sysSet 0x1BF (setFld x 0 52 (fld x 0 52 + c.vt.vl))) else (0, c)

/-! Tile instructions. -/

/-- The state after a tile instruction has entered the tile queue with the registers c and the work k: it has retired, its
place in the queue remembers the registers before it and after it, `TSTAT.DIRTY` is set, and its waits have been counted (R209,
R210, R214). -/
def tileEntered (s : State) (v : World) (e : Fin 104) (c : Core) (k : TileWork) : State :=
  let w := v.tileWaited e.val k.pass
  let d := c.sticky 0x198 0
  let x := ({ w.eng e.val with core := { d with pc := d.pc + 4#64, seq := d.seq + 1 } }).retire 1 w.freeCtr
  let op : TileOp := { before := (s.w.eng e.val).core, after := x.core, pass := k.pass, len := k.len, info := k.info
                       busy := k.busy, skip := k.skip, held := [], younger := 1 }
  { s with w := { w.setEng e.val { x with tq := x.tq ++ [op] } with freeCtr := w.freeCtr + 1 } }

/-- A tile instruction issues and finds room in the tile queue. -/
def TileIssues (s : State) (e : Fin 104) (w1 : World) : Prop := Issues s e w1 ∧ (w1.eng e.val).tq.length < 8

/-! Links. -/

/-- A well-formed transaction for this node has arrived at a running UP port that is not gated, its slots have been freed,
and its seal, where it has one, is good and used up: the module is then w1. -/
def Arrived (s : State) (p : Fin 32) (t : NetTxn) (w1 : World) : Prop :=
  portRuns s.anat p.val = true ∧ (s.w.port p.val).state = 3 ∧ s.w.pwr.gated = false ∧ netOk t = true ∧
    t.dst.toNat = s.w.nodeId.getD 0 ∧
    let w0 := slotsFreed s.w p.val ((if 0x10 ≤ t.opc.toNat then 3 else 0) + min t.hops.toNat 2) (netSlots t)
    w0.nodeId = s.w.nodeId ∧ (t.sealed = false ∧ w1 = w0 ∨ t.sealed = true ∧ sealGood w0 t = true ∧ w1 = sealTake w0 t)

/-- The invariant of every step. -/
def State.Inv (s : State) : Prop := s.anat.shaped ∧ s.anat.bindingsLocal

end Sys2Proof.Machine
end

