-- ==== Sys2Proof/Certificates/Slice0/Obligations.lean ====
section
/-!
DEFINITION. What is claimed of the model: statements about every command, the state after reset, and every step.
-/

open Sys2Proof Sys2Proof.Machine

/-- A step with a command in front executes it with the rest of the queue; a step with an empty queue only counts `TIME`
while it runs (the idle step is the model's choice: assumption 3). -/
def Obligations.StepRunsFront : Prop :=
  (∀ (c : Instr) (r : List Instr) (s : State), step { s with pending := c :: r } = exec c { s with pending := r }) ∧
    (∀ s : State, s.pending = [] →
      step s = .next { s with w := { s.w with time := if s.w.timeRun then s.w.time + 1#64 else s.w.time } })

/-- Every command answers a next state in every state, and leaves the queue as it is. -/
def Obligations.EveryCommandAnswers : Prop :=
  ∀ (c : Instr) (s : State), ∃ t : State, exec c s = .next t ∧ t.pending = s.pending

/-- The state after reset: no command waits, nothing has power, no engine is bound, no register differs from its reset
value, no memory cell is listed; the invariant of every step and the canonical form of memory hold. -/
def Obligations.ResetState : Prop :=
  let s := State.reset
  s.pending = [] ∧ s.Inv ∧ s.w.mem.wf = true ∧ s.w.mem.cells = [] ∧ s.anat.ready = 0 ∧ s.w.pwr.supply = 0 ∧
    (∀ l : Nat, s.anat.physOf l = none) ∧ (∀ p : Nat, s.anat.logicalOf p = none) ∧ s.w.eclk = false ∧ s.w.timeRun = false ∧
    s.w.time = 0#64 ∧ (∀ (off : Nat) (v : W64), s.w.reg off v = v) ∧ (∀ e : Nat, canIssue s.anat s.w e = false) ∧
    s.w.ks.ready = false ∧ s.w.pcieUp = false ∧ (∀ p : Nat, (s.w.port p).state = 0) ∧ s.w.out = []

/-- No step lets a binding cross dies: entry l of the remap table names, where it is present, a physical engine of die l /
24, and an ACTIVE engine serves a logical engine of its own die; the tables keep their lengths. -/
def Obligations.StepKeepsInv : Prop :=
  ∀ (s t : State), s.Inv → step s = .next t → t.Inv

/-- What an instruction's fetch may change: at level 0 nothing, and at the other levels no register of any engine, nothing
of the other engines, and no module register, mailbox or link. -/
def Obligations.FetchFrame : Prop :=
  ∀ (s : State) (e : Fin 104) (w1 : World), Issues s e w1 →
    fld (s.w.core e).pc 0 2 = 0 ∧ ((s.w.core e).pl = 0#2 → w1 = s.w) ∧
    w1.core e = s.w.core e ∧ (w1.eng e.val).sb = (s.w.eng e.val).sb ∧ (w1.eng e.val).tq = (s.w.eng e.val).tq ∧
    (∀ k : Nat, k ≠ e.val → w1.eng k = s.w.eng k) ∧
    (w1.bar0, w1.ks, w1.places, w1.logs, w1.ports, w1.txns, w1.chans, w1.host, w1.dict, w1.pwr, w1.av, w1.time, w1.out) =
      (s.w.bar0, s.w.ks, s.w.places, s.w.logs, s.w.ports, s.w.txns, s.w.chans, s.w.host, s.w.dict, s.w.pwr, s.w.av, s.w.time, s.w.out)

/-- Faults of operands (R61, R63, R78, R117): an engine that cannot issue changes nothing; an operand form that is reserved
raises ILLEGAL, and an accumulator whose tag the column refuses raises TAG with address 0, the registers as before the
instruction. -/
def Obligations.OperandFaults : Prop :=
  ∀ (s : State) (e : Fin 104) (o : SOp) (w1 : World),
    (∀ f ∈ ([Instr.add, .adc, .sub, .sbb, .and, .or, .xor, .mul, .mulu, .div, .divu, .ld, .st, .cmp, .lea, .fadd, .jmp, .call] :
      List (Fin 104 → SOp → Instr)), canIssue s.anat s.w e.val = false → exec (f e o) s = toWorld s s.w) ∧
    (Issues s e w1 → (s.w.eng e.val).speculating = false →
      (∀ f ∈ ([Instr.add, .adc, .sub, .sbb, .and, .or, .xor, .mul, .mulu, .div, .divu] : List (Fin 104 → SOp → Instr)),
        (formOf o = none →
          exec (f e o) s = toWorld s (takeTrap s.anat s.w w1 e.val 0 (lenOf o) (trapOf 1#8 0#8 0#64))) ∧
        (formOf o ≠ none → (w1.core e).acc.t.toNat < 8 → Col.int.accepts (w1.core e).acc.t (w1.core e).pl = false →
          exec (f e o) s = toWorld s (takeTrap s.anat s.w w1 e.val 0 (lenOf o) (trapOf 3#8 0#8 0#64)))))

/-- Counters and accumulators stop at their maximum and set their sticky overflow bit (R14): an event counter at 2^48 − 1,
an energy accumulator at 2^64 − 1; below the maximum the amount is added. -/
def Obligations.CountersSaturate : Prop :=
  (∀ (c : W64) (n : Nat), bit c 63 = false → let r := ctrAdd c n
    (fld c 0 48 + n < 2 ^ 48 → fld r.1 0 48 = fld c 0 48 + n ∧ fld r.1 48 16 = fld c 48 16 ∧ r.2 = false) ∧
    (2 ^ 48 ≤ fld c 0 48 + n → fld r.1 0 48 = 2 ^ 48 - 1 ∧ bit r.1 63 = true ∧ bit r.1 62 = bit c 62 ∧ r.2 = bit c 62)) ∧
  (∀ (c : W64) (n : Nat), bit c 63 = true → ctrAdd c n = (c, false)) ∧
  (∀ (w : World) (k n : Nat), k ≤ 67 → let off := 0x400100 + 16 * k
    let v := (w.reg off 0#64).toNat
    (v + n < 2 ^ 64 → accumulate w k n = w.setReg off (w64 (v + n))) ∧
    (2 ^ 64 ≤ v + n → (accumulate w k n).reg off 0#64 = 0xFFFFFFFFFFFFFFFF#64 ∧
      bit ((accumulate w k n).reg (off + 8) 0#64) 0 = true))

/-- A die's target point is the largest of the request, capped at 7, and the four ceilings of its power block. -/
def Obligations.TargetPoint : Prop :=
  ∀ (w : World) (d : Nat),
    let l := [min 7 (fld (w.reg (pwrBase d + 8) 0#64) 0 4), fld (pwrOp w d) 8 4, fld (pwrOp w d) 12 4, fld (pwrOp w d) 16 4,
      fld (pwrOp w d) 24 4]
    opTarget w d ∈ l ∧ ∀ p ∈ l, p ≤ opTarget w d

/-- Division corners (R84): a zero divisor raises the divide-by-zero trap of the divide itself and nothing is delivered, and
the signed division of the most negative number by −1 delivers that number and a remainder of 0. -/
def Obligations.DivideCorners : Prop :=
  ∀ (s : State) (e : Fin 104) (o : SOp) (w1 w2 : World) (y : TWord), Issues s e w1 →
    Usable (w1.core e) .int (w1.core e).acc.t → Reads s e o .int w1 y w2 →
    (y.v = 0#64 → (s.w.eng e.val).speculating = false →
      let t : Res := toWorld s (takeTrap s.anat s.w w2 e.val 0 (lenOf o) (trapOf 5#8 0#8 0#64))
      exec (.div e o) s = t ∧ exec (.divu e o) s = t) ∧
    ((w1.core e).acc.v = 0x8000000000000000#64 → y.v = 0xFFFFFFFFFFFFFFFF#64 →
      let d := (w2.core e).deliverDiv
      exec (.div e o) s = .next (retired s w2 e (lenOf o) 1 { d with
        pend := d.pend ++ [⟨(w2.core e).seq, 0x8000000000000000#64, 0#64, true⟩] }))

/-- Loads (R81, R83): a move takes the 64-bit value with its tag; `ld` of `ACC` sets Z and N and keeps C and V; a sub-word
load extends and writes tag INT; index and stack-pointer loads change no flag. Pops (R81): the word at the current level's
stack pointer with its tag, and the pointer 8 higher; no flag changes. -/
def Obligations.ScalarLoads : Prop :=
  (∀ (s : State) (e : Fin 104) (o : SOp) (w1 w2 : World), Issues s e w1 →
     (∀ x : TWord, Reads s e o .move w1 x w2 →
       exec (.ld e o) s = .next (retired s w2 e (lenOf o) 1 (({ w2.core e with acc := x } : Core).setZN x.v)) ∧
       exec (.ldIx0 e o) s = .next (retired s w2 e (lenOf o) 1 { w2.core e with ix0 := x }) ∧
       exec (.ldIx1 e o) s = .next (retired s w2 e (lenOf o) 1 { w2.core e with ix1 := x })) ∧
     (∀ x : TWord, Reads s e o .addr w1 x w2 →
       exec (.ldSp e o) s = .next (retired s w2 e (lenOf o) 1 ((w2.core e).setSp x.v))) ∧
     (∀ (x : TWord) (a : W64), Does s e (operandAt o .sub 1) w1 (x, a) w2 →
       let z : W64 := (x.v.extractLsb' 0 8).setWidth 64
       let g : W64 := (x.v.extractLsb' 0 8).signExtend 64
       exec (.ldb e o) s = .next (retired s w2 e (lenOf o) 1 (({ w2.core e with acc := ⟨z, 1#4⟩ } : Core).setZN z)) ∧
       exec (.ldbs e o) s = .next (retired s w2 e (lenOf o) 1 (({ w2.core e with acc := ⟨g, 1#4⟩ } : Core).setZN g))) ∧
     (∀ (x : TWord) (a : W64), Does s e (operandAt o .sub 2) w1 (x, a) w2 →
       let z : W64 := (x.v.extractLsb' 0 16).setWidth 64
       let g : W64 := (x.v.extractLsb' 0 16).signExtend 64
       exec (.ldh e o) s = .next (retired s w2 e (lenOf o) 1 (({ w2.core e with acc := ⟨z, 1#4⟩ } : Core).setZN z)) ∧
       exec (.ldhs e o) s = .next (retired s w2 e (lenOf o) 1 (({ w2.core e with acc := ⟨g, 1#4⟩ } : Core).setZN g))) ∧
     (∀ (x : TWord) (a : W64), Does s e (operandAt o .sub 4) w1 (x, a) w2 →
       let z : W64 := (x.v.extractLsb' 0 32).setWidth 64
       let g : W64 := (x.v.extractLsb' 0 32).signExtend 64
       exec (.ldw e o) s = .next (retired s w2 e (lenOf o) 1 (({ w2.core e with acc := ⟨z, 1#4⟩ } : Core).setZN z)) ∧
       exec (.ldws e o) s = .next (retired s w2 e (lenOf o) 1 (({ w2.core e with acc := ⟨g, 1#4⟩ } : Core).setZN g)))) ∧
  (∀ (s : State) (e : Fin 104) (o : SOp) (w1 w2 : World) (l : Loaded), Issues s e w1 → formOf o ≠ none →
     Does s e (loadMem (w1.core e).sp 8 scalarLoad) w1 l w2 → Usable (w2.core e) .move l.tag →
     let x : TWord := ⟨w64 (leNat l.bytes), l.tag⟩
     let p := (w1.core e).sp + 8#64
     exec (.pop e o) s = .next (retired s w2 e (lenOf o) 1 (({ w2.core e with acc := x } : Core).setSp p)) ∧
     exec (.popIx0 e o) s = .next (retired s w2 e (lenOf o) 1 (({ w2.core e with ix0 := x } : Core).setSp p)) ∧
     exec (.popIx1 e o) s = .next (retired s w2 e (lenOf o) 1 (({ w2.core e with ix1 := x } : Core).setSp p)))

/-- Stores and pushes (R81, R83): the low bytes of the register at the effective address (for a push, 8 below the stack
pointer, which moves there); no flag and no other register changes. The store itself is `storeMemE`. Effective addresses
into a register with tag PTR, and the stack frame (R81): no flag changes, memory is not read. -/
def Obligations.ScalarStores : Prop :=
  (∀ (s : State) (e : Fin 104) (o : SOp) (w1 w2 w3 : World), Issues s e w1 →
     (∀ p ∈ ([(Instr.st, 8, Core.acc), (Instr.stb, 1, Core.acc), (Instr.sth, 2, Core.acc), (Instr.stw, 4, Core.acc),
         (Instr.stIx0, 8, Core.ix0), (Instr.stIx1, 8, Core.ix1)] : List ((Fin 104 → SOp → Instr) × Nat × (Core → TWord))),
       ∀ a : W64, Usable (w1.core e) .move (p.2.2 (w1.core e)).t → Does s e (memAddr o) w1 a w2 →
         Does s e (storeMemE a p.2.1 (p.2.2 (w1.core e)).v (p.2.2 (w1.core e)).t false) w2 () w3 →
         exec (p.1 e o) s = .next (retired s w3 e (lenOf o) 1 (w3.core e))) ∧
     (∀ p ∈ ([(Instr.push, Core.acc), (Instr.pushIx0, Core.ix0), (Instr.pushIx1, Core.ix1)] :
         List ((Fin 104 → SOp → Instr) × (Core → TWord))),
       let a := (w1.core e).sp - 8#64
       formOf o ≠ none → Usable (w1.core e) .move (p.2 (w1.core e)).t →
         Does s e (storeMemE a 8 (p.2 (w1.core e)).v (p.2 (w1.core e)).t false) w1 () w2 →
         exec (p.1 e o) s = .next (retired s w2 e (lenOf o) 1 ((w2.core e).setSp a)))) ∧
  (∀ (s : State) (e : Fin 104) (o : SOp) (w1 w2 : World), Issues s e w1 →
     (∀ a : W64, Does s e (memAddr o) w1 a w2 →
       exec (.lea e o) s = .next (retired s w2 e (lenOf o) 1 { w2.core e with acc := ⟨a, 3#4⟩ }) ∧
       exec (.leaIx0 e o) s = .next (retired s w2 e (lenOf o) 1 { w2.core e with ix0 := ⟨a, 3#4⟩ }) ∧
       exec (.leaIx1 e o) s = .next (retired s w2 e (lenOf o) 1 { w2.core e with ix1 := ⟨a, 3#4⟩ })) ∧
     (∀ n : W64, formOf o = some (.imm n) → n.toNat % 8 = 0 →
       exec (.alloc e o) s = .next (retired s w1 e (lenOf o) 1 ((w1.core e).setSp ((w1.core e).sp - n))) ∧
       exec (.free e o) s = .next (retired s w1 e (lenOf o) 1 ((w1.core e).setSp ((w1.core e).sp + n)))))

/-- Integer arithmetic (R81, R58): the result with tag INT; Z and N of it, C the carry or borrow out, V the signed overflow.
The carry in of `adc` and the borrow in of `sbb` is C. Multiply and divide (R81, R84, R87, R88): issue puts the result in
the queue of deliveries; a divide that finds one pending delivers it first; a delivery writes PRL and PRH with tag INT and
leaves the queue. -/
def Obligations.Arithmetic : Prop :=
  (∀ (s : State) (e : Fin 104) (o : SOp) (w1 w2 : World), Issues s e w1 →
     (∀ y : TWord, Usable (w1.core e) .int (w1.core e).acc.t → Reads s e o .int w1 y w2 →
       let c := w2.core e
       let a := (w1.core e).acc.v
       let b := y.v
       let k := w64 c.fC.toNat
       exec (.add e o) s = .next (retired s w2 e (lenOf o) 1 (({ c with acc := ⟨a + b, 1#4⟩ } : Core).setAll (a + b)
         (decide (2 ^ 64 ≤ a.toNat + b.toNat)) (decide ((a + b).toInt ≠ a.toInt + b.toInt)))) ∧
       exec (.adc e o) s = .next (retired s w2 e (lenOf o) 1 (({ c with acc := ⟨a + b + k, 1#4⟩ } : Core).setAll (a + b + k)
         (decide (2 ^ 64 ≤ a.toNat + b.toNat + c.fC.toNat))
         (decide ((a + b + k).toInt ≠ a.toInt + b.toInt + (c.fC.toNat : Int))))) ∧
       exec (.sub e o) s = .next (retired s w2 e (lenOf o) 1 (({ c with acc := ⟨a - b, 1#4⟩ } : Core).setAll (a - b)
         (decide (a.toNat < b.toNat)) (decide ((a - b).toInt ≠ a.toInt - b.toInt)))) ∧
       exec (.sbb e o) s = .next (retired s w2 e (lenOf o) 1 (({ c with acc := ⟨a - b - k, 1#4⟩ } : Core).setAll (a - b - k)
         (decide (a.toNat < b.toNat + c.fC.toNat))
         (decide ((a - b - k).toInt ≠ a.toInt - b.toInt - (c.fC.toNat : Int)))))) ∧
     (o.mode = 0#3 → o.opnd = 0#20 → Usable (w1.core e) .int (w1.core e).acc.t →
       let c := w1.core e
       exec (.neg e o) s = .next (retired s w1 e (lenOf o) 1 (({ c with acc := ⟨-c.acc.v, 1#4⟩ } : Core).setAll (-c.acc.v)
         (decide (0 < c.acc.v.toNat)) (decide ((-c.acc.v).toInt ≠ -c.acc.v.toInt))))) ∧
     (∀ y : TWord, Reads s e o .int w1 y w2 →
       let c := w2.core e
       let b := y.v
       (Usable (w1.core e) .int (w1.core e).ix0.t →
         let a := (w1.core e).ix0.v
         exec (.addxIx0 e o) s = .next (retired s w2 e (lenOf o) 1 (({ c with ix0 := ⟨a + b, 1#4⟩ } : Core).setAll (a + b)
           (decide (2 ^ 64 ≤ a.toNat + b.toNat)) (decide ((a + b).toInt ≠ a.toInt + b.toInt))))) ∧
       (Usable (w1.core e) .int (w1.core e).ix1.t →
         let a := (w1.core e).ix1.v
         exec (.addxIx1 e o) s = .next (retired s w2 e (lenOf o) 1 (({ c with ix1 := ⟨a + b, 1#4⟩ } : Core).setAll (a + b)
           (decide (2 ^ 64 ≤ a.toNat + b.toNat)) (decide ((a + b).toInt ≠ a.toInt + b.toInt))))))) ∧
  (∀ (s : State) (e : Fin 104) (o : SOp) (w1 w2 : World) (y : TWord),
     (Issues s e w1 → Usable (w1.core e) .int (w1.core e).acc.t → Reads s e o .int w1 y w2 →
       let a := (w1.core e).acc.v
       let b := y.v
       let c := w2.core e
       let mulDone (p : BitVec 128) : Res := .next (retired s w2 e (lenOf o) 1
         { c with pend := c.pend ++ [⟨c.seq, p.extractLsb' 0 64, p.extractLsb' 64 64, false⟩] })
       let divDone (q r : W64) : Res := .next (retired s w2 e (lenOf o) 1
         { c.deliverDiv with pend := c.deliverDiv.pend ++ [⟨c.seq, q, r, true⟩] })
       exec (.mul e o) s = mulDone (a.signExtend 128 * b.signExtend 128) ∧
       exec (.mulu e o) s = mulDone (a.setWidth 128 * b.setWidth 128) ∧
       (b ≠ 0#64 → exec (.div e o) s = divDone (a.sdiv b) (a.srem b)) ∧
       (b ≠ 0#64 → exec (.divu e o) s = divDone (a.udiv b) (a.umod b))) ∧
     (∀ (p : Pend) (q : List Pend), (s.w.core e).pend = p :: q → p ∉ q →
       let t : Res := .next { s with w := s.w.modEng e.val (fun x =>
         { x with core := { x.core with prl := ⟨p.lo, 1#4⟩, prh := ⟨p.hi, 1#4⟩, pend := q } }) }
       (p.div = false → exec (.mulDelivery e false) s = t) ∧ (p.div = true → exec (.divDelivery e false) s = t)) ∧
     (∀ d p : Pend, (s.w.core e).pend = [d, p] → d.div = true → p.div = false → d.seq < p.seq →
       let t : Res := .next { s with w := s.w.modEng e.val (fun x =>
         { x with core := { x.core with prl := ⟨p.lo, 1#4⟩, prh := ⟨p.hi, 1#4⟩, pend := [] } }) }
       exec (.mulDelivery e true) s = t ∧ exec (.divDelivery e true) s = t))

/-- Bitwise operations and counts (R81): tag INT, Z and N of the result, C and V cleared. Shifts and rotates (R81) by bits
[5:0] of the operand: C the last bit out, kept when the count is 0; V cleared. -/
def Obligations.BitwiseAndShifts : Prop :=
  (∀ (s : State) (e : Fin 104) (o : SOp) (w1 w2 : World), Issues s e w1 →
     Usable (w1.core e) .int (w1.core e).acc.t →
     (∀ p ∈ ([(Instr.and, fun a b => a &&& b), (Instr.or, fun a b => a ||| b), (Instr.xor, fun a b => a ^^^ b)] :
         List ((Fin 104 → SOp → Instr) × (W64 → W64 → W64))), ∀ y : TWord, Reads s e o .int w1 y w2 →
       let r := p.2 (w1.core e).acc.v y.v
       exec (p.1 e o) s = .next (retired s w2 e (lenOf o) 1 (({ w2.core e with acc := ⟨r, 1#4⟩ } : Core).setZNclr r))) ∧
     (∀ p ∈ ([(Instr.not, fun a => ~~~ a), (Instr.clz, fun a => w64 (clz64 a)), (Instr.ctz, fun a => w64 (ctz64 a)),
         (Instr.popc, fun a => w64 (popc64 a)), (Instr.bswap, bswap64)] : List ((Fin 104 → SOp → Instr) × (W64 → W64))),
       o.mode = 0#3 → o.opnd = 0#20 →
       let r := p.2 (w1.core e).acc.v
       exec (p.1 e o) s = .next (retired s w1 e (lenOf o) 1 (({ w1.core e with acc := ⟨r, 1#4⟩ } : Core).setZNclr r)))) ∧
  (∀ (s : State) (e : Fin 104) (o : SOp) (w1 w2 : World) (y : TWord), Issues s e w1 →
     Usable (w1.core e) .int (w1.core e).acc.t → Reads s e o .int w1 y w2 →
     let a := (w1.core e).acc.v
     let n := y.v.toNat % 64
     let c := w2.core e
     let done (r : W64) (cy : Bool) : Res :=
       .next (retired s w2 e (lenOf o) 1 (({ c with acc := ⟨r, 1#4⟩ } : Core).setAll r (if n = 0 then c.fC else cy) false))
     exec (.shl e o) s = done (a <<< n) (a.getLsbD (64 - n)) ∧
     exec (.shr e o) s = done (a >>> n) (a.getLsbD (n - 1)) ∧
     exec (.sar e o) s = done (a.sshiftRight n) (a.getLsbD (n - 1)) ∧
     exec (.rol e o) s = done (a.rotateLeft n) (a.getLsbD (64 - n)) ∧
     exec (.ror e o) s = done (a.rotateRight n) (a.getLsbD (n - 1)))

/-- Comparisons (R81, R82): flags only. `cmp` and `cmpx` set the flags of the difference, `tst` those of the AND with C and
V cleared. PTR and DESC are not compared with each other. Scalar floating point (R81, R85, R104): the exact result rounded
once under FCSR.RM into binary64, tag FLT, with its flags joining the sticky flags of FCSR; the sign and payload of a NaN
result are free. `fcvt.fi` saturates toward zero. -/
def Obligations.ComparisonsAndFloat : Prop :=
  (∀ (s : State) (e : Fin 104) (o : SOp) (w1 w2 : World) (b : TWord) (at' : W64), Issues s e w1 →
     Does s e (operandAt o .cmp 8) w1 (b, at') w2 →
     let c := w2.core e
     let fits (a : TWord) : Prop := Usable (w1.core e) .cmp a.t ∧ ¬(a.t = 3#4 ∧ b.t = 4#4) ∧ ¬(a.t = 4#4 ∧ b.t = 3#4)
     let diff (a : W64) : Res := .next (retired s w2 e (lenOf o) 1 (c.setAll (a - b.v) (decide (a.toNat < b.v.toNat))
       (decide ((a - b.v).toInt ≠ a.toInt - b.v.toInt))))
     (fits (w1.core e).acc → exec (.cmp e o) s = diff (w1.core e).acc.v ∧
       exec (.tst e o) s = .next (retired s w2 e (lenOf o) 1 (c.setZNclr ((w1.core e).acc.v &&& b.v)))) ∧
     (fits (w1.core e).ix0 → exec (.cmpxIx0 e o) s = diff (w1.core e).ix0.v) ∧
     (fits (w1.core e).ix1 → exec (.cmpxIx1 e o) s = diff (w1.core e).ix1.v)) ∧
  (∀ (s : State) (e : Fin 104) (o : SOp) (w1 w2 : World), Issues s e w1 →
     let put (w : World) (x : Exact) : Res :=
       let c := w.core e
       let r := finish fmt64 c.fcsrMode x
       if isNanV x.v then
         .next (retired s { w with freeCtr := w.freeCtr + 1 } e (lenOf o) 1
           (({ c with acc := ⟨quietNan (Config.nanBits w.freeCtr), 2#4⟩ } : Core).fcsrOr r.2))
       else .next (retired s w e (lenOf o) 1 (({ c with acc := ⟨w64 r.1, 2#4⟩ } : Core).fcsrOr r.2))
     let a := dec64 (w1.core e).acc.v
     (∀ y : TWord, Usable (w1.core e) .flt (w1.core e).acc.t → Reads s e o .flt w1 y w2 →
       let b := dec64 y.v
       exec (.fadd e o) s = put w2 (addF a b) ∧ exec (.fsub e o) s = put w2 (addF a (negF b)) ∧
       exec (.fmul e o) s = put w2 (mulF a b) ∧ exec (.fdiv e o) s = put w2 (divF a b) ∧
       exec (.fcmp e o) s = .next (retired s w2 e (lenOf o) 1
         (let c := w2.core e
          let un := isNanV a || isNanV b
          ({ c with st := stFlags c.st (!un && decide (cmpF a b = Ordering.eq)) (!un && decide (cmpF a b = Ordering.lt)) false un } :
            Core).fcsrOr (if isSNan a || isSNan b then FFlags.inval else FFlags.none)))) ∧
     (o.mode = 0#3 → o.opnd = 0#20 → Usable (w1.core e) .int (w1.core e).acc.t →
       exec (.fcvtIf e o) s = put w1 (exact (intF (w1.core e).acc.v.toInt))) ∧
     (o.mode = 0#3 → o.opnd = 0#20 → Usable (w1.core e) .flt (w1.core e).acc.t →
       exec (.fsqrt e o) s = put w1 (sqrtF a) ∧
       exec (.fcvtFi e o) s = .next (retired s w1 e (lenOf o) 1
         (({ w1.core e with acc := ⟨BitVec.ofInt 64 (toIntF 64 a).1, 1#4⟩ } : Core).fcsrOr (toIntF 64 a).2))))

/-- Tags and flags (R63, R64, R81): `gtag` of an immediate, a register or a word; `stag` of the tags RAW to DESC; `chk` of
the tag the accumulator has; `setf`. Instructions without operand (R81, R103): `nop`, the counters, `pause` and its end. -/
def Obligations.TagsAndCounters : Prop :=
  (∀ (s : State) (e : Fin 104) (o : SOp) (w1 w2 : World), Issues s e w1 →
     let c := w1.core e
     let got (w : World) (t : Nat) : Res :=
       .next (retired s w e (lenOf o) 1 (({ w.core e with acc := ⟨w64 t, 1#4⟩ } : Core).setZNclr (w64 t)))
     (∀ v, formOf o = some (.imm v) ∨ formOf o = some (.immHi v) → exec (.gtag e o) s = got w1 0) ∧
     (∀ r, formOf o = some (.reg r) → exec (.gtag e o) s = got w1 (c.readReg r).t.toNat) ∧
     (∀ (a : W64) (t : Tag) (w3 : World), Does s e (memAddr o) w1 a w2 → Does s e (tagOfWord a) w2 t w3 →
       exec (.gtag e o) s = got w3 t.toNat) ∧
     (∀ t : W64, formOf o = some (.imm t) → t.toNat < 5 →
       exec (.stag e o) s = .next (retired s w1 e (lenOf o) 1 { c with acc := ⟨c.acc.v, t.setWidth 4⟩ })) ∧
     (∀ t : W64, formOf o = some (.imm t) → t.toNat < 8 ∨ t.toNat = 15 → c.acc.t.toNat = t.toNat →
       exec (.chk e o) s = .next (retired s w1 e (lenOf o) 1 c)) ∧
     (o.mode = 0#3 → o.opnd = 0#20 → Usable c .int c.acc.t →
       exec (.setf e o) s = .next (retired s w1 e (lenOf o) 1
         { c with st := (c.st &&& ~~~ 0xF#64) ||| (c.acc.v &&& 0xF#64) }))) ∧
  (∀ (s : State) (e : Fin 104) (o : SOp) (w1 : World),
     (Issues s e w1 → o.mode = 0#3 → o.opnd = 0#20 →
       let c := w1.core e
       exec (.nop e o) s = .next (retired s w1 e (lenOf o) 1 c) ∧
       exec (.rdcyc e o) s = .next (retired s w1 e (lenOf o) 1
         { c with acc := ⟨sgetD (w1.eng e.val).ctrs 0x11 0#64, 1#4⟩ }) ∧
       exec (.rdinst e o) s = .next (retired s w1 e (lenOf o) 1 { c with acc := ⟨c.instret, 1#4⟩ }) ∧
       exec (.pause e o) s = .next (retired s (w1.modEng e.val (fun x => { x with wait := .pause })) e (lenOf o) 32 c)) ∧
     ((s.w.eng e.val).wait = .pause →
       exec (.pauseExpire e) s = .next { s with w := s.w.modEng e.val (fun x => { x with wait := .none }) }))

/-- Branches, jumps, calls and returns (R56, R81, R82, R86): where the next instruction is. Service calls, returns and the
interrupt enable (R81, R117, R118, R119, R131, R132): a call retires and enters its handler with the following instruction in
the frame and the service number in INFO (that it counts as retired is the model's reading, log 104); a return restores the
frame. -/
def Obligations.ControlFlow : Prop :=
  (∀ (s : State) (e : Fin 104) (o : SOp) (b : BOp) (w1 w2 w3 : World), Issues s e w1 →
     let c := w1.core e
     let dest := c.pc + b.disp.signExtend 64 * 4#64
     (condition (s.w.core e) b.sel = condition c b.sel →
       (condition c b.sel = some true → dest.toNat % 4 = 0 → exec (.bcc e b) s = .next { s with w := retiredTo w1 e dest 2 c }) ∧
       (condition c b.sel = some false → exec (.bcc e b) s = .next (retired s w1 e 4 1 c))) ∧
     (b.sel = 0#4 → (s.w.core e).ix0 = c.ix0 → Usable c .sub c.ix0.t → dest.toNat % 4 = 0 →
       let d : Core := { c with ix0 := ⟨c.ix0.v - 1#64, 1#4⟩ }
       exec (.loop e b) s =
         .next (if c.ix0.v = 1#64 then retired s w1 e 4 1 d else { s with w := retiredTo w1 e dest 2 d })) ∧
     (b.sel = 1#4 → (s.w.core e).ix1 = c.ix1 → Usable c .sub c.ix1.t → dest.toNat % 4 = 0 →
       let d : Core := { c with ix1 := ⟨c.ix1.v - 1#64, 1#4⟩ }
       exec (.loop e b) s =
         .next (if c.ix1.v = 1#64 then retired s w1 e 4 1 d else { s with w := retiredTo w1 e dest 2 d })) ∧
     (∀ t : W64, Does s e (jumpTarget o) w1 t w2 → t.toNat % 4 = 0 →
       exec (.jmp e o) s = .next { s with w := retiredTo w2 e t 2 (w2.core e) } ∧
       (Does s e (storeMemE ((w2.core e).sp - 8#64) 8 ((w2.core e).pc + w64 (lenOf o)) 7#4 false) w2 () w3 →
         exec (.call e o) s = .next { s with w := retiredTo w3 e t 2 ((w3.core e).setSp ((w2.core e).sp - 8#64)) })) ∧
     (∀ l : Loaded, o.mode = 0#3 → o.opnd = 0#20 → Does s e (loadMem c.sp 8 scalarLoad) w1 l w2 → l.tag = 7#4 →
       let t := w64 (leNat l.bytes)
       t.toNat % 4 = 0 →
       exec (.ret e o) s = .next { s with w := retiredTo w2 e t 6 ((w2.core e).setSp (c.sp + 8#64)) })) ∧
  (∀ (s : State) (e : Fin 104) (n : BitVec 12) (w1 w2 : World), Issues s e w1 →
     let c := w1.core e
     let w := w1.modEng e.val Engine.commitAll
     (∀ p ∈ ([(Instr.svc, 0x0D#8), (Instr.mon, 0x0E#8)] : List ((Fin 104 → YOp → Instr) × Byte)),
       (p.2 = 0x0E#8 → c.pl ≠ 2#2 ∧ (s.w.eng e.val).speculating = false) → (w1.eng e.val).tq = [] → c = s.w.core e →
       let at' : Core := { s.w.core e with
         pc := (s.w.core e).pc + 4#64, sys := sset (s.w.core e).sys 0x305 (c.sysGet 0x305)
         tf := { (s.w.core e).tf with latch0 := c.tf.latch0, latch1 := c.tf.latch1 } }
       exec (p.1 e ⟨0#11, n⟩) s = toWorld s (
         enterEvent s.anat (w1.setEng e.val (({ w1.eng e.val with core := at' }).retire 14 w1.freeCtr)) e.val
           { code := p.2, intr := false, asyn := false, sub := 0#8, unit := 0, info := n.setWidth 16, faddr := 0#64
             tileInfo := 0#64, src := c.pl, tgt := trapTarget at' p.2 false } (lateChoice w1))) ∧
     (∀ l : List TWord, c.pl ≠ 2#2 → Does s e (frameWords (w.core e).sp) w l w2 →
       (l.getD 1 TWord.zero).t = 6#4 → (l.getD 0 TWord.zero).t = 7#4 →
       let st := (l.getD 1 TWord.zero).v
       (w.core e).pl.toNat ≤ fld st 8 2 → fld st 8 2 ≠ 3 → st &&& ~~~ 0x38F#64 = 0#64 →
       exec (.rte e ⟨0#11, 0#12⟩) s =
         .next { s with w := retiredTo w2 e (l.getD 0 TWord.zero).v 14 ((w2.core e).restore l) }) ∧
     (c.pl ≠ 2#2 →
       exec (.ei e ⟨0#11, 0#12⟩) s = .next (retired s w e 4 1 { w.core e with st := (w.core e).st ||| 0x80#64 }) ∧
       exec (.di e ⟨0#11, 0#12⟩) s = .next (retired s w e 4 1 { w.core e with st := (w.core e).st &&& ~~~ 0x80#64 })))

/-- System registers (R80, R99 to R101): a read gives the register's value with tag INT to every level that may read it; a
write, a set and a clear by a level that may write change each field by its access code, in the registers that only hold
their value. Writes of one register that only hold their value, with what they mark (R101, R104, R152, R157, R202, R263,
R302, R306): the new value is the written one in the fields that can be written. -/
def Obligations.SystemRegisters : Prop :=
  (∀ (s : State) (e : Fin 104) (n : BitVec 12) (w1 : World) (r : SysReg), Issues s e w1 → sysReg n.toNat = some r →
     let c := w1.core e
     let tile := decide (0x180 ≤ n.toNat) && decide (n.toNat < 0x1C0)
     let w := if tile then w1.modEng e.val Engine.commitAll else w1
     (c.pl.toNat ≤ r.rd → n ≠ 0x109#12 →
       exec (.sread e ⟨0#11, n⟩) s =
         .next (retired s w e 4 3 { w.core e with acc := ⟨sysValue s.anat w e.val n.toNat, 1#4⟩ })) ∧
     (∀ l : Nat, r.wr = some l → c.pl.toNat ≤ l → Usable c .addr c.acc.t →
       n.toNat ∈ [0x102, 0x104, 0x108, 0x140, 0x141, 0x142, 0x143, 0x198, 0x1A0, 0x1A1, 0x1A2, 0x1A3, 0x1A4, 0x1A5, 0x1A8,
         0x1B9, 0x1BA, 0x1BB, 0x1BC, 0x1BD, 0x1BE, 0x1BF, 0x1C0, 0x203, 0x204, 0x205, 0x206, 0x207, 0x212, 0x213, 0x219, 0x21A,
         0x240, 0x304, 0x305, 0x340, 0x341, 0x342, 0x343, 0x344, 0x360] →
       let old := sysValue s.anat w e.val n.toNat
       ∀ p ∈ ([(Instr.swrite, SysAct.write, regWrite r.spec old c.acc.v), (Instr.sset, SysAct.setBits, regSset r.spec old c.acc.v),
           (Instr.sclr, SysAct.clrBits, regSclr r.spec old c.acc.v)] : List ((Fin 104 → YOp → Instr) × SysAct × W64)),
         sysAccepts n.toNat p.2.1 c.acc.v p.2.2 = true →
         exec (p.1 e ⟨0#11, n⟩) s = .next (retired s w e 4 3 ((w.core e).sysSet n.toNat p.2.2)))) ∧
  (∀ (s : State) (e : Fin 104) (w1 : World), Issues s e w1 → (w1.core e).pl.toNat ≤ 2 →
     Usable (w1.core e) .addr (w1.core e).acc.t →
     let c := w1.core e
     let v := c.acc.v
     let w := w1.modEng e.val Engine.commitAll
     let wr (n : Nat) (r : RegSpec) (u : World) : W64 := regWrite r (sysValue s.anat u e.val n) v
     (v.toNat % 4 ≤ 1 → exec (.fcsrWrite e 0#11) s =
       .next (retired s w1 e 4 3 (c.sysSet 0x1C0 (wr 0x1C0 ⟨0#64, 3#64, 0x1F0#64, 0#64, false⟩ w1)))) ∧
     (vtypeOk v = true → exec (.vtypeWrite e 0#11) s =
       .next (retired s w1 e 4 3 ((c.setVtype (wr 0x101 (regRW 6#64 0x383F#64) w1)).sticky 0x104 0))) ∧
     (exec (.vlWrite e 0#11) s = .next (retired s w1 e 4 3
       ((c.sysSet 0x100 (w64 (min (v.toNat % 2 ^ 14) c.vt.vlmax))).sticky 0x104 0))) ∧
     (sysAccepts 0x140 .write v 0#64 = true → exec (.routeCfgWrite e 0#11) s =
       .next (retired s w1 e 4 3 (c.sysSet 0x140 (wr 0x140 (regRW 0#64 0xFFF01FF000F#64) w1)))) ∧
     (sysAccepts 0x142 .write v 0#64 = true → exec (.routeRowsWrite e 0#11) s =
       .next (retired s w1 e 4 3 (c.sysSet 0x142 (wr 0x142 (regRW 0#64 0xFFFFFFFF0001FFFF#64) w1)))) ∧
     (∀ n : BitVec 4, tsOk v = true → exec (.tsWrite e n 0#11) s =
       .next (retired s w e 4 3 (((w.core e).sysSet (0x180 + n.toNat)
         (wr (0x180 + n.toNat) (regRW 0#64 0x1FFFFF#64) w)).sticky 0x198 0))) ∧
     (∀ n : BitVec 2, asOk v = true → exec (.asWrite e n 0#11) s =
       .next (retired s w e 4 3 (((w.core e).sysSet (0x190 + n.toNat)
         (wr (0x190 + n.toNat) (regRW 0#64 0xFFFF#64) w)).sticky 0x198 0))) ∧
     (sysAccepts 0x1BC .write v 0#64 = true → exec (.trndWrite e 0#11) s =
       .next (retired s w e 4 3 ((w.core e).sysSet 0x1BC (wr 0x1BC (regRW 0#64 0xF03#64) w)))) ∧
     (c.pl.toNat ≤ 1 → sysAccepts 0x360 .write v 0#64 = true → exec (.pfCtlWrite e 0#11) s =
       .next (retired s w1 e 4 3 (c.sysSet 0x360 (wr 0x360 (regRW 0x2001003#64 0xFF007F07#64) w1)))) ∧
     -- a context is taken where it matches the engine's tenant, context 0 only at level 0 (R425)
     (c.pl.toNat ≤ 1 → (v.toNat % 2 ^ 16 = 0 ∧ c.pl = 0#2) ∨
         (∃ x, ctxMatch s.anat w1 (v.toNat % 2 ^ 16) (w1.eng e.val).who = .ok x) →
       exec (.transCtxWrite e 0#11) s = .next (retired s w1 e 4 3 (c.sysSet 0x300 (w64 (v.toNat % 2 ^ 16))))) ∧
     -- a software prefetch descriptor joins the running ones, or the reason is marked (R392)
     (c.pl.toNat ≤ 1 →
       let x := w.eng e.val
       exec (.pfTdesc e 0#11) s = .next (
         if 4 ≤ x.pfd.length then retired s w e 4 3 (x.core.sysSet 0x362 (x.core.sysGet 0x362 ||| 0x40#64))
         else match readPfDesc s.anat w x v with
           | some d => retired s (w.modEng e.val (fun y => { y with pfd := y.pfd ++ [d] })) e 4 3 x.core
           | none => retired s w e 4 3 (x.core.sysSet 0x362 (x.core.sysGet 0x362 ||| 0x80#64)))) ∧
     -- the mask window (R157): the selected word of the selected register, with the advance of `MWIN_SEL`
     (exec (.mwinData e 0#2 0#11) s =
       .next (retired s w1 e 4 3 (({ c with acc := ⟨c.mwinGet, 1#4⟩ } : Core).mwinNext))) ∧
     (∀ k : BitVec 2, k ≠ 0#2 →
       let q := c.sysGet 0x108
       let new := if k = 1#2 then v else if k = 2#2 then c.mwinGet ||| v else c.mwinGet &&& ~~~ v
       exec (.mwinData e k 0#11) s = .next (retired s w1 e 4 3
         (((c.setMreg (fld q 8 3) (setFld (c.mreg (fld q 8 3)) (64 * fld q 0 7) 64 new.toNat)).mwinNext).sticky 0x104 0))))

/-- Taking an event (R117, R118, R119): when the 12 words of the frame can be pushed below the stack pointer of the target
level, the engine goes on at the handler with that stack pointer, interrupts off, at the target level and with VSTART 0.
Interrupts and their sources (R135, R136, R140, R246, R138): an interrupt that can be taken is taken, at an engine without
tile instructions at once; the timers let TIME reach their value; a pre-emption request raises source 10; an internal state
error is a machine check. -/
def Obligations.EventsAndInterrupts : Prop :=
  (∀ (a : Anat) (w w1 : World) (e : Nat) (v : Event) (late : Bool), v.tgt ≠ 3#2 →
     let c := (w.eng e).core.deliverAll late
     let f := c.spOf v.tgt - 96#64
     pushWords a e v.tgt (w.setEng e { w.eng e with core := c }) f
       [⟨c.pc, 7#4⟩, ⟨c.st, 6#4⟩, c.acc, c.ix0, c.ix1, c.prl, c.prh, ⟨v.cause, 1#4⟩, ⟨v.faddr, 1#4⟩, ⟨c.sysGet 0x102, 1#4⟩,
         ⟨v.tileInfo, 1#4⟩, ⟨0#64, 0#4⟩] = (.ok (), w1) →
     let t := ((enterEvent a w e v late).eng e).core
     let d := (w1.eng e).core
     t.spOf v.tgt = f ∧ t.ie = false ∧ t.pl = v.tgt ∧ t.sysGet 0x102 = 0#64 ∧
     t.pc = d.sysGet (if v.tgt = 0#2 then 0x206 else 0x205) + (if v.intr then 0x800#64 else 0#64) + w64 (64 * v.code.toNat) ∧
     (t.acc, t.ix0, t.ix1, t.prl, t.prh) = (d.acc, d.ix0, d.ix1, d.prl, d.prh) ∧
     (∀ k, k ≠ e → (enterEvent a w e v late).eng k = w1.eng k) ∧ (enterEvent a w e v late).mem = w1.mem) ∧
  (∀ (s : State) (e : Fin 104),
     let c := s.w.core e
     (∀ (k : BitVec 13) (src : Nat × BitVec 2), irqChoose s.anat s.w e.val = some src → irqOpen s.anat s.w e.val = true →
       (s.w.eng e.val).tq = [] →
       exec (.interruptTake e k) s = toWorld s (
         let u := s.w.modEng e.val (fun x => { x with wait := .none })
         enterEvent s.anat u e.val
           { code := BitVec.ofNat 8 src.1, intr := true, asyn := false, sub := 0#8, unit := 0, info := 0#16, faddr := 0#64
             tileInfo := 0#64, src := c.pl, tgt := src.2 } (lateChoice s.w))) ∧
     (s.w.timeRun = true → s.w.time.toNat < (c.sysGet 0x21A).toNat →
       exec (.timerMon e) s = .next { s with w := { s.w with time := c.sysGet 0x21A } }) ∧
     (s.w.timeRun = true → s.w.time.toNat < (c.sysGet 0x219).toNat →
       exec (.timerSup e) s = .next { s with w := { s.w with time := c.sysGet 0x219 } }) ∧
     (s.anat.logicalOf e.val ≠ none → exec (.preemptionRequest e) s =
       .next { s with w := s.w.modEng e.val (fun x => { x with irq := x.irq ||| 0x400#11 }) }) ∧
     (s.anat.logicalOf e.val ≠ none → dieRuns s.anat e.val = true →
       exec (.internalStateError e) s = .next { s with w := machineCheck s.anat s.w e.val 2#8 0#64 }))

/-- Fences, acquire and release (R145, R146, R395 to R400): a fence with nothing to wait for goes on; one that must wait for
stores holds the engine; `fence.s` reports the oldest late error of a drained buffer; `ld.aq` reads its target; `st.rl`
enters the store buffer as a release. The end of a waiting `fence.s` (R145): with no late error it retires. -/
def Obligations.Fences : Prop :=
  (∀ (s : State) (e : Fin 104) (w1 w2 w3 w4 : World), Issues s e w1 →
     let w := w1.modEng e.val Engine.commitAll
     let x := w.eng e.val
     (∀ f : BitVec 23, fld f 9 14 = 0 → fld f 4 4 < 4 → fld f 0 4 < 4 → (bit f 8 = true ∨ (fld f 4 4 ≠ 0 ∧ fld f 0 4 ≠ 0)) →
       let inval := bit f 8 && bit f 0
       exec (.fence e f) s = .next (
         if 2 ≤ fld f 4 4 ∧ x.sb ≠ [] then
           retired s (w.modEng e.val (fun y => { y with wait := .fence inval })) e 4 1 (w.core e)
         else if inval then retired s (invalN w e.val) e 4 1 ((invalN w e.val).core e)
         else retired s w e 4 1 (w.core e))) ∧
     (x.sb = [] → x.lateErr = [] → exec (.fenceS e 0#23) s = .next (retired s w e 4 1 (w.core e))) ∧
     (x.sb ≠ [] → exec (.fenceS e 0#23) s = toWorld s (w.modEng e.val (fun y => { y with wait := .fenceS, core := s.w.core e }))) ∧
     (∀ (f : BitVec 23) (a : W64) (t : TlbEntry) (l : Loaded), Does s e (acqAddr f) w1 a w2 → a.toNat % 8 = 0 →
       Does s e (translate a .load) w2 t w3 → Does s e (loadVia t a 8 { scalarLoad with acq := true }) w3 l w4 →
       Usable (w4.core e) .move l.tag →
       let v := w64 (leNat l.bytes)
       let u := match placeOf w4 (t.ga a.toNat) with
         | .remote => invalN w4 e.val
         | .host _ => invalN w4 e.val
         | _ => w4
       exec (.ldAq e f) s = .next (retired s u e 4 1 (({ u.core e with acc := ⟨v, l.tag⟩ } : Core).setZN v))) ∧
     (∀ (f : BitVec 23) (a : W64), Usable (w1.core e) .move (w1.core e).acc.t → Does s e (acqAddr f) w1 a w2 →
       Does s e (storeMemE a 8 (w1.core e).acc.v (w1.core e).acc.t true) w2 () w3 →
       exec (.stRl e f) s = .next (retired s w3 e 4 1 (w3.core e)))) ∧
  (∀ (s : State) (e : Fin 104) (w1 : World), (s.w.eng e.val).wait = .fenceS → (s.w.eng e.val).sb = [] →
     let r : State := { s with w := s.w.setEng e.val { s.w.eng e.val with wait := .none } }
     Issues r e w1 → (w1.eng e.val).lateErr = [] →
     exec (.fenceSDrained e) s = .next (retired r w1 e 4 1 (w1.core e)))

/-- Memory (R47, R512, R513): the canonical form is kept; a byte reads back, under the domain that wrote it, as last
written; a byte of a line that was not written reads under every domain as before, and so does a byte that was not written
in a line of the same domain and key. -/
def Obligations.MemoryReadsBack : Prop :=
  ∀ (k : Keystone) (d : Byte) (v : Nat) (m : Memory) (l : List (Nat × Byte)), m.wf = true →
    (wrBytes k d v m l).wf = true ∧
    (∀ (o : Nat) (b : Byte), rdByte (wrBytes k d v m (l ++ [(o, b)])) k d o = b) ∧
    (∀ (x : Nat) (d2 : Byte), (∀ p ∈ l, p.1 / 128 ≠ x / 128) → rdByte (wrBytes k d v m l) k d2 x = rdByte m k d2 x) ∧
    (∀ (x : Nat) (r : LineRec), (∀ p ∈ l, p.1 ≠ x) → sget m.lines (x / 128) = some r → r.dom = d → r.gen = keyGen k d →
      rdByte (wrBytes k d v m l) k d x = rdByte m k d x)

/-- Retired stores (R141, R142, R395, R396, R438, R499): an entry that may be performed reaches local HBM and leaves the
store buffer, memory having changed by exactly its bytes and tags; it is posted to host memory; it is sent to another node;
an error response goes to the LATE_ERR queue, or beyond eight entries into its counter. -/
def Obligations.StoresPerformed : Prop :=
  ∀ (s : State) (e : Fin 104) (idx : Nat) (t : SbEntry), (s.w.eng e.val).sb[idx]? = some t → t.atom = none →
    ((s.w.eng e.val).mayPerform idx = true → dieRuns s.anat e.val = true →
      (∀ off : Nat, placeOf s.w t.ga = .hbm off → hbmStatus s.anat s.w off = none →
        exec (.storePerformed e idx) s =
          toWorld s (sbDone (engCommit s.w e.val t.cls t.tcls t.kdom t.tag (atOff off t.data)) e.val idx) ∧
        ((blocks (atOff off t.data) 4096).foldl granuleWritten s.w = s.w →
          (sbDone (engCommit s.w e.val t.cls t.tcls t.kdom t.tag (atOff off t.data)) e.val idx).mem =
            storeMem s.w.ks s.w.places t.kdom s.w.freeCtr t.tag s.w.mem (atOff off t.data))) ∧
      (∀ iova : Nat, placeOf s.w t.ga = .host iova → s.w.pcieUp = true →
        exec (.storePerformed e idx) s =
          toWorld s (sbDone ((hostStore s.w t).modEng e.val (fun y => y.updateN t.ga t.data)) e.val idx)) ∧
      (placeOf s.w t.ga = .remote → exec (.storePerformed e idx) s = toWorld s (sbSend s.w e.val idx t (storeTxn t))) ∧
      (∀ off : Nat, placeOf s.w t.ga = .regs off → exec (.storePerformed e idx) s =
        toWorld s (sbDone ((byteRuns t.data 0 128).foldl (fun v r =>
          bar0Write s.anat v (.engine e.val) (off + r.1) r.2.length (w64 (leNat r.2))) s.w) e.val idx))) ∧
    (∀ (status : Byte) (tid : Nat), t.sent = some tid → statusReport status ≠ 0#8 →
      let x := (txnDrop s.w tid).eng e.val
      exec (.lateErrAppend e idx status) s = toWorld s (sbDone ((txnDrop s.w tid).setEng e.val
        (if x.lateErr.length < 8 then { x with lateErr := x.lateErr ++ [⟨t.va, statusReport status, t.pl, BitVec.ofNat 4 t.size⟩] }
         else ({ x with core := x.core.sysSet 0x220 (setBit (x.core.sysGet 0x220) 15 true) }).count 0x221 1)) e.val idx))

/-- Cache maintenance (R353 to R355): writes of `CMO_OP` with the operation of the command in the accumulator. Invalidation
of translations (R435, R436): where no store of an engine in scope is still to be performed, the entries of the operation
go; at scope 0 they are those of this engine alone. -/
def Obligations.CachesAndTranslations : Prop :=
  (∀ (s : State) (e : Fin 104) (w1 w2 : World) (t : TlbEntry), Issues s e w1 → (w1.core e).pl.toNat ≤ 1 →
     Usable (w1.core e) .addr (w1.core e).acc.t →
     let w := w1.modEng e.val Engine.commitAll
     let op := (w1.core e).acc.v.toNat % 8
     let va := (w.core e).sysGet 0x344
     let ga := t.ga va.toNat
     let line := lineOf w2 ga
     let done (u : World) : Res := .next (retired s u e 4 3 (u.core e))
     (op = 2 → exec (.invalN e 0#11) s = done (invalN w e.val)) ∧
     (op = 3 → exec (.isync e 0#11) s = done (w.modEng e.val (fun x => { x with l1i := [] }))) ∧
     (∀ off : Nat, Does s e (translate va .clean) w t w2 → placeOf w2 ga = .hbm off → hbmStatus s.anat w2 off = none →
       (findLine (w2.eng e.val).ec (ecSet line) line = none →
         (op = 0 → exec (.clean e 0#11) s = done w2) ∧
         (op = 1 → exec (.flush e 0#11) s = done (w2.modEng e.val (fun x => x.dropL1 line)))) ∧
       (∀ c : CLine, findLine (w2.eng e.val).ec (ecSet line) line = some c → c.kdom = t.kdom →
         (op = 0 → exec (.clean e 0#11) s = done (cleanLine w2 e.val c)) ∧
         (op = 1 → exec (.flush e 0#11) s = done (
           let u := cleanLine w2 e.val c
           (match findLine (u.eng e.val).ec (ecSet line) line with
             | some d => ecDrop u e.val d
             | none => u).modEng e.val (fun x => x.dropL1 line))))) ∧
     (∀ off : Nat, op = 4 → Does s e (translate va .atom) w t w2 → t.se = false →
       let u := drainLocal s.anat e.val ((w2.eng e.val).sb.length) w2
       placeOf u ((ga >>> 7) <<< 7) = .hbm off → hbmStatus s.anat u off = none →
       exec (.zero e 0#11) s =
         done (engCommit u e.val 0 t.tcls t.kdom .whole (atOff off (offsets (List.replicate 128 0#8)))))) ∧
  (∀ (s : State) (e : Fin 104) (w1 : World), Issues s e w1 → (w1.core e).pl.toNat ≤ 1 →
     Usable (w1.core e) .addr (w1.core e).acc.t →
     let v := (w1.core e).acc.v
     let w := w1.modEng e.val Engine.commitAll
     ∀ p ∈ ([(Instr.tlbInvAll, 0), (Instr.tlbInvCtx, 1), (Instr.tlbInvAddress, 2), (Instr.tlbInvWalk, 3)] :
         List ((Fin 104 → BitVec 11 → Instr) × Nat)), fld v 0 3 = p.2 → fld v 4 3 ≤ 2 →
       (∀ k ∈ tlbReach s.anat e.val (fld v 4 3), (w.eng k).sb = []) →
       let ctx := fld v 16 16
       let va := ((w.core e).sysGet 0x304).toNat
       let u := tlbRemove s.anat w e.val p.2 (fld v 4 3) ctx va
       exec (p.1 e 0#11) s = .next (retired s u e 4 3 (u.core e)) ∧
       (fld v 4 3 = 0 → u = w.modEng e.val (fun x => { x with
         tlbI := x.tlbI.filter (tlbKeep p.2 ctx va false), tlbD := x.tlbD.filter (tlbKeep p.2 ctx va false)
         tlb2 := x.tlb2.filter (tlbKeep p.2 ctx va false), walk := x.walk.filter (tlbKeep p.2 ctx va true) })))

/-- Speculation (R402, R407, R408): begin opens it where none is open, commit and discard end an open one and leave a closed
one alone. Table walks and prefetches (R386 to R389, R392, R434): a walk leaves what translation leaves; a trained stream
and a running descriptor issue their next candidate; a descriptor with no line left ends; an idle stream is freed. -/
def Obligations.SpeculationAndPrefetch : Prop :=
  (∀ (s : State) (e : Fin 104) (w1 : World), Issues s e w1 → (w1.core e).pl.toNat ≤ 1 →
     Usable (w1.core e) .addr (w1.core e).acc.t →
     let w := w1.modEng e.val Engine.commitAll
     let x := w.eng e.val
     let op := (w1.core e).acc.v.toNat % 8
     let done (u : World) : Res := .next (retired s u e 4 3 (u.core e))
     (op = 1 → x.spec.state = 0 → exec (.specBegin e 0#11) s =
       done (w.modEng e.val (fun y => { y with spec :=
         { state := 1, failed := y.spec.failed, lost := false, conflict := false, parkCode := 0#8, parkWhy := 0
           parkAddr := 0#64, wl := [] } }))) ∧
     (op = 2 → exec (.specCommit e 0#11) s = done (if x.spec.state = 0 then w else specCommit w e.val)) ∧
     (op = 4 → exec (.specDiscard e 0#11) s = done (if x.spec.state = 0 then w else
       { w with freeCtr := w.freeCtr + 1 }.modEng e.val (fun y => (y.unpark w.freeCtr).discardSpec)))) ∧
  (∀ (s : State) (e : Fin 104) (i : Nat),
     let x := s.w.eng e.val
     let ctl := x.core.sysGet 0x360
     let on := (s.anat.logicalOf e.val).isSome = true ∧ dieRuns s.anat e.val = true ∧ s.w.eclk = true ∧ x.locked = none
     (∀ (va : W64) (k : Fin 3) (t : TlbEntry) (w2 : World), canIssue s.anat s.w e.val = true →
       engTranslate s.anat s.w e.val x.core.pl va (if k.val = 0 then .load else if k.val = 1 then .store else .fetch) = (.ok t, w2) →
       exec (.tableWalk e va k) s = toWorld s w2) ∧
     (∀ t : Stream, on → x.streams[i]? = some t → bit ctl 0 = true → t.trained = true → t.issued < fld ctl 8 7 →
       let w1 := s.w.modEng e.val (fun y => { y with streams := lmod y.streams i (fun z => { z with issued := z.issued + 1 }) })
       let line : Int := t.line + t.stride * (t.issued + 1)
       0 ≤ line → exec (.prefetchIssue e (.stream i)) s =
         toWorld s (pfCandidate s.anat w1 e.val 1 t.ctx t.pl (w64 (line.toNat * 128)) (bit ctl 2))) ∧
     (∀ d : PfDesc, on → x.pfd[i]? = some d → bit ctl 1 = true →
       exec (.prefetchIssue e (.desc i)) s = toWorld s (match pfLine d 65536 0 d.next with
         | none => s.w.modEng e.val (fun y => { y with pfd := dropAt y.pfd i })
         | some va => pfCandidate s.anat
             (s.w.modEng e.val (fun y => { y with pfd := lmod y.pfd i (fun z => { z with next := z.next + 1 }) }))
             e.val 2 d.ctx d.pl va d.pier)) ∧
     (∀ va : W64, on → bit ctl 1 = true → fld ctl 24 8 ≠ 0 → (∃ t ∈ x.tq, t.pass = true) →
       exec (.prefetchIssue e (.pass va)) s =
         toWorld s (pfCandidate s.anat s.w e.val 2 (x.core.ctx x.core.pl) x.core.pl va false)) ∧
     exec (.streamFree e i) s = toWorld s (s.w.modEng e.val (fun x => { x with streams := dropAt x.streams i })))

/-- Fills and victims (R343, R351, R352, R356, R357): a miss that finds a free or clean way is placed there and is over; a
dirty victim is waited for, and its acknowledgement places the line. Scrubbing and retirement of ways (R365, R369, R628,
R661): the scrubber moves on by one set; a way is journalled and its RET bit set at once; when its sets have been treated,
its lines are gone and BUSY clears. -/
def Obligations.CacheLines : Prop :=
  (∀ (s : State) (idx : Nat),
     (∀ (e : Fin 104) (m : EMiss), (s.w.eng e.val).misses[idx]? = some m → dieRuns s.anat e.val = true →
       let x := s.w.eng e.val
       (m.way = none → hbmLine m.line = false →
         exec (.engineCacheFill e idx none) s = toWorld s (s.w.modEng e.val (fun y => { y with
           misses := y.misses.filter (fun z => decide (z.line ≠ m.line)), pfOut := y.pfOut.filter (fun p => decide (p.1 ≠ m.line)) }))) ∧
       (m.way = none → hbmLine m.line = true →
         let w1 := ecFill s.w e.val m
         exec (.engineCacheFill e idx none) s = toWorld s (
           if (w1.eng e.val).misses.any (fun z => decide (z.line = m.line)) then w1 else w1.modEng e.val (fun y => y.pfDone m.line)) ∧
         (∀ (i : Nat) (aged : List CLine), x.ecMask m.cls ≠ 0 →
           pickWay (waysOf (x.ecMask m.cls)) (sgetD x.ec (ecSet m.line) []) (classPri (x.core.sysGet 0x343)) = some (i, aged) →
           aged.find? (fun c => decide (c.way = i)) = none →
           w1 = ecPlace (ecRequest (s.w.modEng e.val (fun y => { y with
             ec := sset y.ec (ecSet m.line) aged, misses := y.misses.filter (fun z => decide (z.line ≠ m.line)) })) e.val m) e.val m i)) ∧
       (∀ i : Nat, m.way = some i → exec (.ecVictimAck e idx) s = toWorld s (
         let w1 := match (sgetD x.ec (ecSet m.line) []).find? (fun c => decide (c.way = i)) with
           | some c => ecDrop s.w e.val c
           | none => s.w
         let w2 := w1.modEng e.val (fun y => { y with misses := y.misses.filter (fun z => decide (z.line ≠ m.line)) })
         (ecPlace (ecRequest w2 e.val m) e.val m i).modEng e.val (fun y => y.pfDone m.line)))) ∧
     (∀ (p : Fin 128) (m : PMiss), (s.w.pier p.val).misses[idx]? = some m → pierUp s.anat p.val = true →
       pierOf m.line = p.val →
       let ways := (waysOf (pierMask s.w (p.val / 32) m.part m.cls)).filter (fun i => !bit (pierRet s.w p.val) i)
       (∀ (i : Nat) (aged : List CLine), m.way = none → ways ≠ [] →
         pickWay ways (sgetD (s.w.pier p.val).sets (pierSet m.line) [])
           (classPri (s.w.reg (dcBase (p.val / 32) + 0x10) 0x88888888#64)) = some (i, aged) →
         (aged.find? (fun c => decide (c.way = i)) = none →
           exec (.pierAllocate p idx) s = toWorld s (pierPlace (pierForget
             (s.w.modPier p.val (fun x => { x with sets := sset x.sets (pierSet m.line) aged })) m.line) m i))) ∧
       (∀ i : Nat, m.way = some i → exec (.pierVictimComplete p idx) s = toWorld s (
         pierPlace (pierForget (match (sgetD (s.w.pier p.val).sets (pierSet m.line) []).find? (fun c => decide (c.way = i)) with
           | some c => pierDrop s.w c.line
           | none => s.w) m.line) m i)))) ∧
  (∀ (s : State) (p : Fin 128), pierUp s.anat p.val = true →
     let off := dcBase (p.val / 32) + 0x200 + 8 * (p.val % 32)
     (bit (s.w.reg (dcBase (p.val / 32)) 1#64) 0 = true →
       exec (.pierScrub p none) s = toWorld s (s.w.modPier p.val (fun x => { x with scrub := (x.scrub + 1) % 4096 }))) ∧
     (∀ k : Fin 16, s.w.av.journal.any (fun j => decide (j.cls = 3) && decide (j.res = [p.val, k.val])) = false →
       let w := avEvent { s.w with av := { s.w.av with journal := s.w.av.journal ++ [⟨3, [p.val, k.val], s.w.av.minutes, false⟩] } } 3
       bit (pierRet w p.val) k.val = false →
       exec (.wayRetire p k) s = toWorld s ((w.setReg off (setBit (setBit (pierRet w p.val) k.val true) 16 true)).modPier p.val
         (fun x => { x with retiring := k.val :: x.retiring }))) ∧
     ((s.w.pier p.val).retiring ≠ [] →
       exec (.wayRetireDone p) s = toWorld s (
         let ls := (((s.w.pier p.val).sets.map (fun q => q.2)).flatten).filter (fun c => (s.w.pier p.val).retiring.contains c.way)
         let w1 := ls.foldl (fun v c => pierDrop v c.line) s.w
         journalDone ((w1.setReg off (setBit (pierRet w1 p.val) 16 false)).modPier p.val (fun y => { y with retiring := [] }))
           (fun j => decide (j.cls = 3) && decide (j.res.head? = some p.val)))))

/-- Vector integer arithmetic (R159, R163, R164, R167): each active element of the destination group takes the operation's
result modulo its width; `vmacc` and `vnmsac` also read the old element. Compares into a mask (R171): a bit for each active
element; a quiet compare sets NV for a signalling NaN, `vmflt` and `vmfle` for any NaN. -/
def Obligations.VectorIntegerAndCompares : Prop :=
  (∀ (s : State) (e : Fin 104) (o : VR) (w1 : World) (sc : Nat × FFlags), Issues s e w1 → EltReady s e o w1 true sc →
     let c := w1.core e
     let t := c.vt
     let a (i : Nat) := c.elt o.va.toNat t.ew i
     let b (i : Nat) := c.eltB o sc.1 i
     let old (i : Nat) := c.elt o.vd.toNat t.ew i
     t.isInt = true →
     (∀ p ∈ ([(Instr.vadd, fun _ a b => a + b), (Instr.vsub, fun w a b => a + 2 ^ w - b), (Instr.vmul, fun _ a b => a * b),
         (Instr.vmulh, fun w a b => (ofInt (2 * w) (sInt w a * sInt w b)) / 2 ^ w), (Instr.vmulhu, fun w a b => a * b / 2 ^ w),
         (Instr.vdiv, fun w a b => if b = 0 then 2 ^ w - 1 else ofInt w ((sInt w a).tdiv (sInt w b))),
         (Instr.vdivu, fun w a b => if b = 0 then 2 ^ w - 1 else a / b),
         (Instr.vrem, fun w a b => if b = 0 then a else ofInt w ((sInt w a).tmod (sInt w b))),
         (Instr.vremu, fun _ a b => if b = 0 then a else a % b),
         (Instr.vmin, fun w a b => if sInt w a ≤ sInt w b then a else b), (Instr.vminu, fun _ a b => min a b),
         (Instr.vmax, fun w a b => if sInt w a ≤ sInt w b then b else a), (Instr.vmaxu, fun _ a b => max a b),
         (Instr.vand, fun _ a b => a &&& b), (Instr.vor, fun _ a b => a ||| b), (Instr.vxor, fun _ a b => a ^^^ b),
         (Instr.vsll, fun w a b => a * 2 ^ (b % w)), (Instr.vsrl, fun w a b => a / 2 ^ (b % w)),
         (Instr.vsra, fun w a b => ofInt w (sInt w a / 2 ^ (b % w))), (Instr.vsadd, fun w a b => satS w (sInt w a + sInt w b)),
         (Instr.vsaddu, fun w a b => min (a + b) (2 ^ w - 1)), (Instr.vssub, fun w a b => satS w (sInt w a - sInt w b)),
         (Instr.vssubu, fun _ a b => a - b)] : List ((Fin 104 → VR → Instr) × (Nat → Nat → Nat → Nat))),
       (∀ i, a i < 2 ^ t.ew ∧ b i < 2 ^ t.ew) →
       exec (p.1 e o) s = .next (retired s w1 e 4 1
         (c.eltDone c o sc.2 (fun i => (p.2 t.ew (a i) (b i) % 2 ^ t.ew, FFlags.none))))) ∧
     exec (.vmacc e o) s = .next (retired s w1 e 4 1
       (c.eltDone c o sc.2 (fun i => ((a i * b i + old i) % 2 ^ t.ew, FFlags.none)))) ∧
     exec (.vnmsac e o) s = .next (retired s w1 e 4 1
       (c.eltDone c o sc.2 (fun i => (ofInt t.ew ((old i : Int) - a i * b i), FFlags.none))))) ∧
  (∀ (s : State) (e : Fin 104) (o : VR) (w1 : World) (sc : Nat × FFlags), Issues s e w1 →
     let c := w1.core e
     let t := c.vt
     let w := t.ew
     let a (i : Nat) := c.elt o.va.toNat w i
     let b (i : Nat) := c.eltB o sc.1 i
     maskOk o.vm o.ms = true → maskReg o.vd = true → groupOk o.va.toNat t.g = true →
     ((o.sc = false ∧ groupOk o.vb.toNat t.g = true ∧ sc = (0, FFlags.none)) ∨ (o.sc = true ∧ o.vb = 0#5 ∧ Does s e (scalarElt t) w1 sc w1)) →
     (t.isInt = true → ∀ p ∈ ([(Instr.vmseq, fun x y => decide (x = y)), (Instr.vmsne, fun x y => decide (x ≠ y)),
         (Instr.vmslt, fun x y => decide (sInt w x < sInt w y)), (Instr.vmsle, fun x y => decide (sInt w x ≤ sInt w y)),
         (Instr.vmsltu, fun x y => decide (x < y)), (Instr.vmsleu, fun x y => decide (x ≤ y)),
         (Instr.vmsgt, fun x y => decide (sInt w y < sInt w x)), (Instr.vmsgtu, fun x y => decide (y < x))] :
         List ((Fin 104 → VR → Instr) × (Nat → Nat → Bool))),
       exec (p.1 e o) s = .next (retired s w1 e 4 1 (c.cmpDone o sc.2 (fun i => (p.2 (a i) (b i), FFlags.none))))) ∧
     (∀ k : Fmt, t.fmt = some k → ∀ p ∈ ([(Instr.vmfeq, false, fun u r => !u && decide (r = Ordering.eq)),
         (Instr.vmfne, false, fun u r => u || decide (r ≠ Ordering.eq)), (Instr.vmflt, true, fun u r => !u && decide (r = Ordering.lt)),
         (Instr.vmfle, true, fun u r => !u && decide (r ≠ Ordering.gt)), (Instr.vmfunord, false, fun u _ => u)] :
         List ((Fin 104 → VR → Instr) × Bool × (Bool → Ordering → Bool))),
       exec (p.1 e o) s = .next (retired s w1 e 4 1 (c.cmpDone o sc.2 (fun i =>
         let x := decodeF k (a i)
         let y := decodeF k (b i)
         let un := isNanV x || isNanV y
         (p.2.2 un (cmpF x y), if isSNan x || isSNan y || (p.2.1 && un) then FFlags.inval else FFlags.none))))))

/-- Vector floating point (R164, R168 to R170, R267): each active element is rounded once under VTYPE.RM; flags of the
active elements join VFSR. Conversions (R175): from side a to side b of the type in force and the code of the instruction;
`vcvt.fi` does not round by draw. -/
def Obligations.VectorFloat : Prop :=
  (∀ (s : State) (e : Fin 104) (o : VR) (w1 : World) (sc : Nat × FFlags) (k : Fmt), Issues s e w1 →
     let c := w1.core e
     let t := c.vt
     let d := c.drawsFor true
     let v (x : Nat) : FVal := decodeF k x
     let a (i : Nat) := v (c.elt o.va.toNat t.ew i)
     let b (i : Nat) := v (c.eltB o sc.1 i)
     let old (i : Nat) := v (c.elt o.vd.toNat t.ew i)
     let done (f : Nat → Exact) : Res :=
       .next (retired s w1 e 4 1 (c.eltDone d.2 o sc.2 (fun i => finish k (c.vecMode t d.1 i) (f i))))
     t.fmt = some k →
     (EltReady s e o w1 true sc →
       exec (.vfadd e o) s = done (fun i => addF (a i) (b i)) ∧ exec (.vfsub e o) s = done (fun i => addF (a i) (negF (b i))) ∧
       exec (.vfmul e o) s = done (fun i => mulF (a i) (b i)) ∧ exec (.vfdiv e o) s = done (fun i => divF (a i) (b i)) ∧
       exec (.vfmin e o) s = done (fun i => minMaxF false (a i) (b i)) ∧
       exec (.vfmax e o) s = done (fun i => minMaxF true (a i) (b i)) ∧
       exec (.vfmacc e o) s = done (fun i => fmaF (a i) (b i) (old i)) ∧
       exec (.vfnmacc e o) s = done (fun i => fmaF (negF (a i)) (b i) (negF (old i))) ∧
       exec (.vfmsac e o) s = done (fun i => fmaF (a i) (b i) (negF (old i))) ∧
       exec (.vfnmsac e o) s = done (fun i => fmaF (negF (a i)) (b i) (old i))) ∧
     (EltReady s e o w1 false sc →
       exec (.vfsqrt e o) s = done (fun i => sqrtF (a i)) ∧
       exec (.vfabs e o) s = done (fun i => exact (hush (absF (a i)))) ∧
       exec (.vfneg e o) s = done (fun i => exact (hush (negF (a i)))))) ∧
  (∀ (s : State) (e : Fin 104) (o : VR) (ty : BitVec 4) (w1 : World), Issues s e w1 →
     let c := w1.core e
     let t := c.vt
     let other := if ty.toNat ≤ 3 then etSide ty.toNat else none
     ∀ p ∈ ([(Instr.vcvtW, true, (pairSides t.et (codeSide ty.toNat) sameKind).map (fun p => (p.2, p.1))),
         (Instr.vcvtN, true, pairSides t.et (codeSide ty.toNat) sameKind),
         (Instr.vcvtIf, true, (pairSides t.et other (fun a b => !sameKind a b)).map (fun p => (p.2, p.1))),
         (Instr.vcvtFi, false, pairSides t.et other (fun a b => !sameKind a b)),
         (Instr.vcvtFf, true, (pairSides t.et (if 4 ≤ ty.toNat then etSide ty.toNat else none) sameKind).map (fun p => (p.2, p.1)))] :
         List ((Fin 104 → VR → BitVec 4 → Instr) × Bool × Option (Side × Side))),
       ∀ a b : Side, p.2.2 = some (a, b) → maskOk o.vm o.ms = true →
         groupOk o.va.toNat (if a.width = t.ew then t.g else t.groupFor a.width) = true →
         groupOk o.vd.toNat (if b.width = t.ew then t.g else t.groupFor b.width) = true →
         let d := c.drawsFor p.2.1
         let res (i : Nat) := convert a b (c.vecMode t d.1 i) (c.elt o.va.toNat a.width i)
         exec (p.1 e o ty) s = .next (retired s w1 e 4 1
           (({ d.2 with v := (c.putElts o o.vd.toNat b.width (fun i => some (res i).1)).v } : Core).vecEnd true
             (c.eltFlags o FFlags.none (fun i => (res i).2)))))

/-- Mask operations and summaries (R172), VL and VTYPE (R152, R165), `vid`, `vmv` (R173). Moves and permutations (R164,
R173, R174): what each active element of the destination takes, and what reaches `ACC`. -/
def Obligations.VectorMoves : Prop :=
  (∀ (s : State) (e : Fin 104) (o : VR) (q : SOp) (w1 w2 : World), Issues s e w1 →
     let c := w1.core e
     let t := c.vt
     let a (i : Nat) := (c.mreg o.va.toNat).getLsbD i
     let b (i : Nat) := (c.mreg o.vb.toNat).getLsbD i
     (maskFields o = true →
       let done (f : Nat → Bool) : Res := .next (retired s w1 e 4 1
         (({ c with m := (c.putMask o o.vd.toNat f).m } : Core).vecEnd true FFlags.none))
       exec (.mand e o) s = done (fun i => a i && b i) ∧ exec (.mor e o) s = done (fun i => a i || b i) ∧
       exec (.mxor e o) s = done (fun i => a i != b i) ∧ exec (.mandn e o) s = done (fun i => a i && !b i) ∧
       exec (.mset e o) s = done (fun _ => true) ∧ exec (.mclr e o) s = done (fun _ => false) ∧
       (o.vb = 0#5 → exec (.mnot e o) s = done (fun i => !a i))) ∧
     (maskFields o = true → t.vstart = 0 →
       let done (v : W64) : Res := .next (retired s w1 e 4 1 (({ c with acc := ⟨v, 1#4⟩ } : Core).vecEnd false FFlags.none))
       exec (.mpopc e o) s = done (w64 ((List.range t.vl).filter a).length) ∧
       exec (.mfirst e o) s = done (match (List.range t.vl).find? a with
         | some i => w64 i
         | none => 0xFFFFFFFFFFFFFFFF#64)) ∧
     (∀ v : TWord, Reads s e q .sub w1 v w2 → vtypeOk v.v = true →
       let d := (w2.core e).setVtype v.v
       let m := d.vt.vlmax
       let done (n : Nat) : Res := .next (retired s w2 e (lenOf q) 1
         (({ d.sysSet 0x100 (w64 n) with acc := ⟨w64 n, 1#4⟩ } : Core).vecEnd true FFlags.none))
       (Usable c .sub c.acc.t → exec (.vsetvl e q) s = done (min c.acc.v.toNat m)) ∧
       exec (.vsetvlmax e q) s = done m)) ∧
  (∀ (s : State) (e : Fin 104) (o : VR) (w1 : World), Issues s e w1 → o.sc = false →
     let c := w1.core e
     let t := c.vt
     let a (i : Nat) := c.elt o.va.toNat t.ew i
     let put (f : Nat → Option Nat) (fl : FFlags) : Res := .next (retired s w1 e 4 1
       (({ c with v := (c.putElts o o.vd.toNat t.ew f).v } : Core).vecEnd true fl))
     let apart := groupsMeet o.vd.toNat t.g o.va.toNat t.g = false
     (maskOk o.vm o.ms = true → groupOk o.vd.toNat t.g = true →
       (∀ x : Nat × FFlags, Does s e (scalarElt t) w1 x w1 → exec (.vbcast e o) s = put (fun _ => some x.1) x.2) ∧
       exec (.vid e o) s = put (fun i => some i) FFlags.none ∧
       (groupOk o.va.toNat t.g = true → exec (.vmv e o) s = put (fun i => some (a i)) FFlags.none) ∧
       (groupOk o.va.toNat t.g = true → t.vstart = 0 → apart →
         (Usable c .sub c.acc.t →
           let n := c.acc.v.toNat
           exec (.vslideup e o) s = put (fun i => if n ≤ i then some (a (i - n)) else none) FFlags.none ∧
           exec (.vslidedown e o) s = put (fun i => some (if i + n < t.vlmax then a (i + n) else 0)) FFlags.none) ∧
         (groupOk o.vb.toNat t.g = true → groupsMeet o.vd.toNat t.g o.vb.toNat t.g = false →
           exec (.vrgather e o) s = put (fun i =>
             let j := c.elt o.vb.toNat t.ew i
             some (if j < t.vlmax then a j else 0)) FFlags.none)) ∧
       (maskReg o.va = true → t.vstart = 0 → exec (.viota e o) s = put (fun i =>
         some (((List.range i).filter (fun j => bit (c.mreg o.va.toNat) j)).length)) FFlags.none)) ∧
     (o.vm = true → groupOk o.vd.toNat t.g = true → groupOk o.va.toNat t.g = true → t.vstart = 0 → apart →
       let l := (List.range t.vl).filter (c.active o)
       let k := ((List.range l.length).zip l).foldl (fun k2 p => k2.setElt o.vd.toNat t.ew p.1 (a p.2)) c
       exec (.vcompress e o) s =
         .next (retired s w1 e 4 1 (({ k with acc := ⟨w64 l.length, 1#4⟩ } : Core).vecEnd true FFlags.none))) ∧
     (o.vm = false → o.ms = 0#3 → t.vstart = 0 → Usable c .sub c.ix0.t →
       let i := c.ix0.v.toNat
       (groupOk o.vd.toNat t.g = true → ∀ x : Nat × FFlags, Does s e (scalarElt t) w1 x w1 →
         exec (.vins e o) s = .next (retired s w1 e 4 1
           ((if i < t.vl then c.setElt o.vd.toNat t.ew i x.1 else c).vecEnd true x.2))) ∧
       (groupOk o.va.toNat t.g = true → t.fmt = none →
         let got (v : W64) : Res := .next (retired s w1 e 4 1
           (({ c with acc := ⟨if i < t.vl then v else 0#64, 1#4⟩ } : Core).vecEnd false FFlags.none))
         exec (.vext e o) s = got (BitVec.ofInt 64 (sInt t.ew (a i))) ∧ exec (.vextu e o) s = got (w64 (a i))) ∧
       (groupOk o.va.toNat t.g = true → ∀ k : Fmt, t.fmt = some k →
         let x := decodeF k (a i)
         let r : W64 × FFlags := if i < t.vl then
           (if isNanV x then 0x7FF8000000000000#64 else w64 (encodeF fmt64 .near x).1, (encodeF fmt64 .near x).2)
           else (0#64, FFlags.none)
         let got : Res := .next (retired s w1 e 4 1 (({ c with acc := ⟨r.1, 2#4⟩ } : Core).vecEnd true r.2))
         exec (.vext e o) s = got ∧ exec (.vextu e o) s = got)))

/-- Vector loads (R176, R180, R187, R190): each active element takes the bytes at its address, in order, with `VSTART`
cleared and VSTAT.DIRTY set at the end; an element of one field is checked for alignment, translated and read, a KEYH word
reading as zero. Vector stores (R176, R181, R186, R188): the pieces are exactly the active elements' bytes at their
addresses; they enter the store buffer as blocks, or the W lines of a speculation; no vector register changes and
VSTAT.DIRTY is not set. -/
def Obligations.VectorMemory : Prop :=
  (∀ (s : State) (e : Fin 104) (o : VM) (w1 w3 : World) (b : W64 × W64), Issues s e w1 →
     let c := w1.core e
     let n : Env := ⟨s.anat, e.val⟩
     ∀ p ∈ ([(Instr.vl, .unit), (Instr.vls, .strided), (Instr.vlx, .indexed), (Instr.vlseg, .seg), (Instr.vlsseg, .segStrided),
         (Instr.vlr, .reg), (Instr.vlm, .mask)] : List ((Fin 104 → VM → Instr) × AMode)),
       vmOk p.2 o c.vt true = true → Does s e (vmBase p.2 o) w1 b w1 →
       (Does s e (loadElements p.2 o c b (List.range (vmCount p.2 c.vt).1)) w1 () w3 →
         exec (p.1 e o) s = .next (retired s w3 e 4 1 ((w3.core e).vecEnd true FFlags.none))) ∧
       (∀ (i : Nat) (r : List Nat) (u v v' : World) (t : TlbEntry) (l : Loaded), fieldsOf p.2 o = 1 →
         let m := (vmCount p.2 c.vt).2
         let va := vmAddr p.2 o c b.1 b.2 i 0
         (vmActive p.2 o c i = true → va.toNat % m = 0 → Does s e (translate va .load) u t v →
           Does s e (loadVia t va m vectorLoad) v l v' → l.tag ≠ 5#4 →
           loadElements p.2 o c b (i :: r) n u = loadElements p.2 o c b r n
             (v'.modEng e.val (fun x => { x with core := putLoaded p.2 o x.core i [leNat l.bytes] }))) ∧
         (vmActive p.2 o c i = false → ¬(c.vt.vstart ≤ i ∧ c.vt.mu = true) →
           loadElements p.2 o c b (i :: r) n u = loadElements p.2 o c b r n u)) ∧
       (∀ u : World, loadElements p.2 o c b [] n u = .ok () u)) ∧
  (∀ (s : State) (e : Fin 104) (o : VM) (w1 w2 w3 : World) (b : W64 × W64) (ps : List Piece), Issues s e w1 →
     (w1.eng e.val).sbRoom ≠ 0 →
     let c := w1.core e
     ∀ p ∈ ([(Instr.vs, .unit), (Instr.vss, .strided), (Instr.vsx, .indexed), (Instr.vsseg, .seg), (Instr.vssseg, .segStrided),
         (Instr.vsr, .reg), (Instr.vsm, .mask)] : List ((Fin 104 → VM → Instr) × AMode)),
       let k := vmCount p.2 c.vt
       vmOk p.2 o c.vt false = true → Does s e (vmBase p.2 o) w1 b w1 →
       Does s e (vecPieces p.2 o c b k.2 (List.range k.1) []) w1 ps w2 → Does s e (retirePieces 1 ps) w2 () w3 →
       exec (p.1 e o) s = .next (retired s w3 e 4 1 ((w3.core e).vecEnd false FFlags.none)) ∧
       ps.map (fun q => (q.va, q.bytes)) = (((List.range k.1).filter (vmActive p.2 o c)).map (fun i =>
         (List.range (fieldsOf p.2 o)).map (fun f => (vmAddr p.2 o c b.1 b.2 i f, leBytes k.2 (storedValue p.2 o c i f))))).flatten ∧
       ((w2.eng e.val).speculating = false →
         w3 = w2.modEng e.val (fun y => (blockEntries y 1 ps).foldl Engine.pushStore y)))

/-- Integer reductions (R192 to R196): the tree over the active elements combined with the initial value in VB, in the low
bits of VD; with no active element the initial value. Sums are those of the elements, modulo the width, in whatever order. -/
def Obligations.IntegerReductions : Prop :=
  (∀ (s : State) (e : Fin 104) (o : VR) (w1 : World), Issues s e w1 →
    let c := w1.core e
    let t := c.vt
    redOk o t = true → t.isInt = true → t.vstart = 0 →
    (s.w.eng e.val).core.vt = t →
    ∀ p ∈ ([(Instr.vredsum, true, fun w x => ofInt 64 (sInt w x), fun _ a b => a + b),
        (Instr.vredsumu, true, fun _ x => x, fun _ a b => a + b),
        (Instr.vredmin, false, fun _ x => x, fun w a b => if sInt w a ≤ sInt w b then a else b),
        (Instr.vredmax, false, fun _ x => x, fun w a b => if sInt w a ≤ sInt w b then b else a),
        (Instr.vredminu, false, fun _ x => x, fun _ a b => if a ≤ b then a else b),
        (Instr.vredmaxu, false, fun _ x => x, fun _ a b => if a ≤ b then b else a),
        (Instr.vredand, false, fun _ x => x, fun _ a b => a &&& b), (Instr.vredor, false, fun _ x => x, fun _ a b => a ||| b),
        (Instr.vredxor, false, fun _ x => x, fun _ a b => a ^^^ b)] :
        List ((Fin 104 → VR → Instr) × Bool × (Nat → Nat → Nat) × (Nat → Nat → Nat → Nat))),
      let rw := if p.2.1 then 64 else t.ew
      let init := fld (c.vreg o.vb.toNat) 0 rw
      let r := redTree (fun a b => (p.2.2.2 rw a b % 2 ^ rw, FFlags.none)) init (redLeaves c o t (p.2.2.1 t.ew))
      exec (p.1 e o) s = .next (retired s w1 e 4 1 ((c.putLow o.vd.toNat rw (r.1.getD init)).vecEnd true FFlags.none))) ∧
  (∀ (w init : Nat) (l : List (Option Nat)), l.length ≤ 8192 → (∃ x, some x ∈ l) →
    (redTree (fun a b => ((a + b) % 2 ^ w, FFlags.none)) init l).1 = some ((init + (l.filterMap id).foldl (· + ·) 0) % 2 ^ w)) ∧
  (∀ (init : Nat) (f : RedOp Nat) (l : List (Option Nat)), l.length ≤ 8192 → (∀ x, some x ∉ l) → (redTree f init l).1 = none)

/-- Floating-point reductions and statistics (R192 to R199): every combination is rounded to nearest-even in the format of
the result; `vredosum` goes in ascending order; the flags of active elements and combinations join VFSR. Expert routing
(R311 to R317): `vtopk` writes the K records of each segment; `vdispatch` waits behind the tile instructions, performs the
atomics of its records and writes results, counters and marks; row moves end with no mark of their own. -/
def Obligations.FloatReductionsAndRouting : Prop :=
  (∀ (s : State) (e : Fin 104) (o : VR) (w1 : World) (k : Fmt), Issues s e w1 →
     let c := w1.core e
     let t := c.vt
     t.fmt = some k → t.isInt = false → t.vstart = 0 → (s.w.eng e.val).core.vt = t →
     let flags (l : List (Option (FVal × FFlags))) : FFlags :=
       l.foldl (fun a x => match x with | some y => a.or y.2 | none => a) FFlags.none
     let done (wide : Bool) (leaf : FVal → FVal × FFlags) (f : FVal → FVal → Exact) (tree : Bool) : Res :=
       let rk := if wide then fmt32 else k
       let rw := if wide then 32 else t.ew
       let bits := fld (c.vreg o.vb.toNat) 0 rw
       let raw := redLeaves c o t (fun x => leaf (decodeF k x))
       let ls := raw.map (fun x => x.map (fun y => y.1))
       let op : RedOp FVal := fun a b => (decodeF rk (finish rk .near (f a b)).1, (finish rk .near (f a b)).2)
       let r : Option FVal × FFlags := if tree then redTree op (decodeF rk bits) ls
         else ls.foldl (fun acc x => match x with
           | some y => (some (op (acc.1.getD (decodeF rk bits)) y).1, acc.2.or (op (acc.1.getD (decodeF rk bits)) y).2)
           | none => acc) (none, FFlags.none)
       .next (retired s w1 e 4 1 ((c.putLow o.vd.toNat rw (match r.1 with
         | some y => (encodeF rk .near y).1
         | none => bits)).vecEnd true ((flags raw).or r.2)))
     (redOk o t = true →
       let square (x : FVal) : FVal × FFlags := (decodeF fmt32 (finish fmt32 .near (mulF x x)).1, (finish fmt32 .near (mulF x x)).2)
       exec (.vredsum e o) s = done true (fun x => (x, FFlags.none)) addF true ∧
       exec (.vredosum e o) s = done true (fun x => (x, FFlags.none)) addF false ∧
       exec (.vredssq e o) s = done true square addF true ∧
       exec (.vredmin e o) s = done false (fun x => (x, FFlags.none)) (minMaxF false) true ∧
       exec (.vredmax e o) s = done false (fun x => (x, FFlags.none)) (minMaxF true) true ∧
       (let raw := redLeaves c o t (leafT k)
        let bits := fld (c.vreg o.vb.toNat) 0 96
        let r := redTree mergeT (tripleOf bits) (raw.map (fun x => x.map (fun y => y.1)))
        let fl := raw.foldl (fun a x => match x with | some y => a.or y.2 | none => a) FFlags.none
        exec (.vstat e o) s = .next (retired s w1 e 4 1 ((c.putLow o.vd.toNat 96 (match r.1 with
          | some y => y.n + 2 ^ 32 * y.mu + 2 ^ 64 * y.m2
          | none => bits)).vecEnd true (fl.or r.2))))) ∧
     (o.vm = false → o.ms = 0#3 → o.sc = false →
       let r := mergeT (tripleOf (fld (c.vreg o.va.toNat) 0 96)) (tripleOf (fld (c.vreg o.vb.toNat) 0 96))
       exec (.vstatm e o) s = .next (retired s w1 e 4 1
         ((c.putLow o.vd.toNat 96 (r.1.n + 2 ^ 32 * r.1.mu + 2 ^ 64 * r.1.m2)).vecEnd true r.2)))) ∧
  (∀ (s : State) (e : Fin 104) (o : VR) (w1 : World), Issues s e w1 → o.sc = false → o.vb = 0#5 → maskOk o.vm o.ms = true →
     let c := w1.core e
     let t := c.vt
     groupOk o.va.toNat t.g = true →
     (let seg := fld (c.sysGet 0x140) 16 9
      let k := fld (c.sysGet 0x140) 0 4
      let go := t.groupFor 64
      let n := (t.vl + seg - 1) / seg
      topkType t.et = true → go ≤ 8 → o.vd.toNat % go = 0 → groupsMeet o.vd.toNat go o.va.toNat t.g = false → seg ≠ 0 → k ≠ 0 →
       t.vstart = 0 → n * k ≤ go * 128 →
       exec (.vtopk e o) s = .next (retired s w1 e 4 1 (((List.range n).foldl (fun a i =>
         let rs := topkSegment c o t (fld (c.sysGet 0x140) 32 12) k (i * seg) (min seg (t.vl - i * seg))
         (List.range k).foldl (fun b j => b.setElt o.vd.toNat 64 (i * k + j) (rs.getD j 0)) a) c).vecEnd true FFlags.none))) ∧
     (t.et = 3 → groupOk o.vd.toNat t.g = true → groupsMeet o.vd.toNat t.g o.va.toNat t.g = false → t.vstart = 0 →
       (w1.eng e.val).speculating = false → ∀ (w2 w3 : World) (d : Disp),
       Does s e drainE (w1.modEng e.val Engine.commitAll) () w2 → Does s e (dispatchRecords c o) w2 d w3 →
       let x : Engine := { w3.eng e.val with core := (w3.core e).putDispatch o.vd.toNat t.vl d }.countDispatch d
       exec (.vdispatch e o) s =
         .next (retired s (w3.setEng e.val x) e 4 1 ((x.core.markDispatch d).vecEnd true FFlags.none))) ∧
     (t.et = 3 → o.vd = 0#5 → Usable c .addr c.ix0.t → (w1.eng e.val).sbRoom ≠ 0 → ∀ w2 : World,
       ∀ p ∈ ([(Instr.vscatrows, true), (Instr.vgathrows, false)] : List ((Fin 104 → VR → Instr) × Bool)),
       Does s e (rollbackOnWait (moveRecords c o p.2 w1.freeCtr (List.range t.vl))) { w1 with freeCtr := w1.freeCtr + 1 } () w2 →
       exec (p.1 e o) s = .next (retired s w2 e 4 1 ((w2.core e).vecEnd false FFlags.none))))

/-- Tile loads, moves and read-out (R205, R213, R229 to R233, R279, R280): the rows read, or converted, become the contents
of the destination, which commits when the instruction leaves the tile queue. Tile stores (R214, R229 to R233, R279): behind
every tile instruction in flight, the rows of the tile, of the accumulator's image or of its FP32 read-out; what lies in
this module's HBM is written at once, the rest as blocks. The tile queue (R210, R214, R246, R302): its oldest instruction
commits, what it held enters the store buffer and its cycles and skipped rows are counted; an interrupt that has waited 4096
cycles for it discards it. -/
def Obligations.TileMemory : Prop :=
  (∀ (s : State) (e : Fin 104) (o : TOp) (w1 w2 : World), TileIssues s e w1 →
     let x := w1.eng e.val
     let c := x.core
     let d := o.td.toNat
     let a := o.ta.toNat
     let k := o.ad.toNat
     let named (td ta ad base : Bool) : Prop := Does s e (tFields o ⟨td, ta, false, ad, false, false, base⟩) w1 () w1
     (∀ b st : W64, named true false false true → Does s e (tBase o) w1 b w1 → Does s e (indexReg c.acc) w1 st w1 →
       let t := c.ts d
       t.unshaped = false → t.badFmt = false → splitNames x [d] [] = false →
       ∀ p ∈ ([(Instr.tld, false), (Instr.tldLast, true)] : List ((Fin 104 → TOp → Instr) × Bool)), ∀ rows : List (List Byte),
         Does s e ((List.range t.rows).mapM (fun r =>
           readRow (tileLoad p.2) (tileInfo d 0 false false) (b + w64 r * st) (t.rowb + t.scales))) w1 rows w2 →
         exec (p.1 e o) s = .next (tileEntered s w2 e ((w2.core e).writeTile d (tileOf t rows)) (plainWork (tileInfo d 0 false false)))) ∧
     (∀ (b : W64) (l : List Byte), named false false true true → Does s e (tBase o) w1 b w1 → splitNames x [] [k] = false →
       b.toNat % 64 = 0 → Does s e (imageWords b (tileInfo 0 k false false)) w1 l w2 →
       exec (.tlda e o) s = .next (tileEntered s w2 e ((w2.core e).writeAcc k x.shadowH1 (imageElts 0 l))
         (plainWork (tileInfo 0 k false false)))) ∧
     (named true false false false → splitNames x [d] [] = false →
       exec (.tzero e o) s = .next (tileEntered s w1 e (c.writeTile d emptySlot) (plainWork (tileInfo d 0 false false)))) ∧
     (named true true false false → splitNames x [d, a] [] = false →
       let t := c.ts a
       let src := c.tile a
       let new := slotOf 128 (fun r => if r < t.rows then BitVec.ofNat 1024 ((src.row r).toNat % 2 ^ (8 * t.rowb)) else 0#1024) src.scaleRow
       exec (.tmov e o) s = .next (tileEntered s w1 e ((c.writeTile d new).sysSet (0x180 + d) (c.sysGet (0x180 + a)))
         (plainWork (tileInfo d 0 false false)))) ∧
     (named false false true false → splitNames x [] [k] = false →
       exec (.tzacc e o) s = .next (tileEntered s w1 e (c.writeAcc k x.shadowH1 []) (plainWork (tileInfo 0 k false false)))) ∧
     (named true false true false → splitNames x [d] [k] = false →
       let t := c.ts d
       let h := c.ash k
       t.unshaped = false → h.1 ≠ 0 → h.2 ≠ 0 → t.badFmt = false → t.rows = h.1 → h.2 ≤ t.e →
       (t.fmt = 10 → fld (c.sysGet (0x1A8 + d)) 32 4 < 4) → ∀ n : Nat, Does s e reserveRead w1 n w2 →
       let row (r : Nat) := cvtRow t (fld (c.sysGet (0x1A8 + d)) 32 4) r ((List.range t.e).map (fun j =>
         (if j < h.2 then c.readOut k r j else FVal.fin false 0 0, c.readMode n (128 * r + j))))
       exec (.tcvt e o) s = .next (tileEntered s w2 e
         ((w2.core e).writeTile d (slotOf t.rows (fun r => (row r).1) (fun r => (row r).2))) (plainWork (tileInfo d k false false))))) ∧
  (∀ (s : State) (e : Fin 104) (o : TOp) (w1 w3 w4 : World) (b : W64) (ps : List Piece), Issues s e w1 →
     let w2 := w1.modEng e.val Engine.commitAll
     let x := w2.eng e.val
     let c := x.core
     let a := o.ta.toNat
     let k := o.ad.toNat
     let done : Res := .next (retired s (w4.tileWaited e.val false) e 4 1 ((w4.core e).sticky 0x198 0))
     Does s e (tBase o) w2 b w2 → Does s e (tileStore ps) w3 () w4 →
     (∀ (st : W64) (l : List (List Piece)), Does s e (tFields o ⟨false, true, false, false, false, false, true⟩) w2 () w2 →
       Does s e (indexReg c.acc) w2 st w2 → (c.ts a).unshaped = false → (c.ts a).badFmt = false → splitNames x [a] [] = false →
       Does s e ((List.range (c.ts a).rows).mapM (fun r =>
         rowPieces (tileInfo a 0 false false) (b + w64 r * st) (rowImage (c.ts a) (c.tile a) r))) w2 l w3 → ps = l.flatten →
       exec (.tstTile e o) s = done) ∧
     (Does s e (tFields o ⟨false, false, false, true, false, false, true⟩) w2 () w2 → splitNames x [] [k] = false →
       let img := ((List.range 16384).map (fun i => leBytes 6 (c.accElt k (i / 128) (i % 128)).toNat)).flatten
       b.toNat % 64 = 0 → Does s e ((List.range 12288).mapM (fun i =>
         atRow (b + w64 (8 * i)) (tileInfo 0 k false false) (checkPiece (b + w64 (8 * i)) ((img.drop (8 * i)).take 8)))) w2 ps w3 →
       exec (.tsta e o) s = done) ∧
     (∀ (st : W64) (n : Nat) (u : World) (l : List (List Piece)), Does s e (tFields o ⟨false, false, false, true, false, false, true⟩) w2 () w2 →
       Does s e (indexReg c.acc) w2 st w2 → splitNames x [] [k] = false → (c.ash k).1 ≠ 0 → (c.ash k).2 ≠ 0 →
       Does s e reserveRead w2 n u →
       Does s e ((List.range (c.ash k).1).mapM (fun m => rowPieces (tileInfo 0 k false false) (b + w64 m * st)
         ((List.range (c.ash k).2).map (fun j =>
           leBytes 4 (encodeF fmt32 (c.readMode n (128 * m + j)) (c.readOut k m j)).1)).flatten)) u l w3 → ps = l.flatten →
       exec (.tstf e o) s = done) ∧
     (∀ w5 : World, (w3.eng e.val).speculating = false → Does s e drainE w3 () w5 → (w5.eng e.val).sbRoom ≠ 0 →
       (∀ t ∈ (w5.eng e.val).sb, ∀ p ∈ ps, t.touches p.ga p.bytes.length = false) → (∀ p ∈ ps, p.local w5 = true) →
       ((ps.foldl (pieceCommit e.val) w5).eng e.val).speculating = false →
       w4 = (ps.foldl (pieceCommit e.val) w5).modEng e.val (fun y => y))) ∧
  (∀ (s : State) (e : Fin 104) (t : TileOp) (r : List TileOp), (s.w.eng e.val).tq = t :: r →
     (dieRuns s.anat e.val = true → s.w.eclk = true →
       let w1 := s.w.modEng e.val (fun x => (({ x with tq := r, sb := x.sb ++ t.held }).count 0x19C t.busy).count 0x1A6 t.skip)
       ((s.w.eng e.val).wait ≠ .tile → exec (.tileCommit e) s = toWorld s w1) ∧
       ((s.w.eng e.val).wait = .tile → irqChoose s.anat w1 e.val = none →
         exec (.tileCommit e) s = toWorld s (w1.modEng e.val (fun x => { x with wait := .none }))) ∧
       (∀ src : Nat × BitVec 2, (s.w.eng e.val).wait = .tile → irqChoose s.anat w1 e.val = some src →
         exec (.tileCommit e) s = toWorld s (enterIrq s.anat ((s.w.lose e.val r).modEng e.val (fun y =>
           (({ y with wait := .none, tq := [], core := t.after }).count 0x19C t.busy).count 0x1A6 t.skip)) e.val src 0#64))) ∧
     (∀ (n : BitVec 13) (src : Nat × BitVec 2), (s.w.eng e.val).wait = .tile → irqChoose s.anat s.w e.val = some src →
       exec (.tileWaitExpire e n) s = toWorld s (discardForIrq s.anat s.w e.val src t n.toNat)))

/-- Passes of the matrix array (R218, R222 to R226, R235 to R242, R277, R290 to R304): a register form enters the tile queue
with the working copy of its one chunk committed; a memory-streamed form with that of its chunks in ascending order. -/
def Obligations.ArrayPasses : Prop :=
  ∀ (s : State) (e : Fin 104) (o : TOp) (w1 w2 w3 : World), TileIssues s e w1 →
    let x := w1.eng e.val
    let c := x.core
    (Does s e (tFields o ⟨false, true, true, true, true, true, false⟩) w1 () w1 →
      ∀ p ∈ ([(Instr.tmma, .dense, false, false), (Instr.tmmaz, .dense, true, false), (Instr.tmmap, .dense, false, true),
          (Instr.tmmapz, .dense, true, true), (Instr.tmmas, .two, false, true), (Instr.tmmasz, .two, true, true),
          (Instr.tmmaq, .one, false, true), (Instr.tmmaqz, .one, true, true)] :
          List ((Fin 104 → TOp → Instr) × Struct × Bool × Bool)),
        let f := x.regForm o p.2.1 p.2.2.1 p.2.2.2
        (∀ q ∈ f.faults, q.2 = false) →
        exec (p.1 e o) s = .next (tileEntered s w1 e f.after f.work)) ∧
    (Does s e (tFields o ⟨false, false, false, true, true, false, true⟩) w1 () w1 →
      ∀ (b : W64) (d : List W64) (k : TileWork), Does s e (tBase o) w1 b w1 →
      let w (i : Nat) : W64 := d.getD i 0#64
      let h := passHead (w 0)
      let done : Res := .next (tileEntered s w3 e (w3.core e) k)
      (Does s e (readDesc b 8) w1 d w2 →
        ∀ z : Bool,
        (Does s e (streamPass o h .dense z (decide (h.kind ≠ 1)) (fld (w 7) 0 16) h.m h.n (kloopChunk c w)) w2 k w3 →
          (z = false → exec (.tmmak e o) s = done) ∧ (z = true → exec (.tmmakz e o) s = done)) ∧
        (let v := convOf w
         Does s e (streamPass o h .dense z (v.bad h) (v.fh * v.fw * v.cch) h.m h.n (convChunk w)) w2 k w3 →
          (z = false → exec (.tconv e o) s = done) ∧ (z = true → exec (.tconvz e o) s = done))) ∧
      (Does s e (readDesc b 16) w1 d w2 →
        ∀ z : Bool, Does s e (streamPass o h (sparseStruct w) z (decide (h.kind ≠ 3) || decide (fld (w 7) 16 2 = 3)) (fld (w 7) 0 16)
          ((List.range h.m).filter (c.sparseX w)).length ((List.range h.n).filter (c.sparseY w)).length (sparseChunk c w)) w2 k w3 →
        (z = false → exec (.tmmaks e o) s = done) ∧ (z = true → exec (.tmmaksz e o) s = done)))

/-- Integer products in the array (R222, R223, R278): the chunk sum over 2^lv leaves of two dense integer rows is their dot
product, and an accumulator element takes the saturated sum. -/
def Obligations.IntegerDotProduct : Prop :=
  ∀ (lv : Nat) (xs ys : List Int) (zx zy : Bool) (q : FVal) (old : BitVec 48), xs.length = ys.length → xs.length ≤ 2 ^ lv →
    let dot := (List.zipWith (· * ·) xs ys).sum
    let l := products (⟨xs.map intF, zx⟩, []) ⟨ys.map intF, zy⟩
    (chunkSum true lv l).toInt = dot ∧
      (accAdd true q old (chunkSum true lv l)).toInt = max (-(2 ^ 47 : Int)) (min (2 ^ 47 - 1) (old.toInt + dot))

/-- The batch gatherer (R319 to R330, R243): a submission answers 0 and joins the queue, or answers its reason and is
counted; launches, block ends, completion words, errors of a half, and the writes of `BG_CTL` and of a lease. -/
def Obligations.Gatherer : Prop :=
  ∀ (s : State),
    (∀ (e : Fin 104) (o : TOp) (w1 w3 : World) (b : W64) (r : List Byte × Bool), Issues s e w1 →
      Does s e (tFields o ⟨false, false, false, false, false, false, true⟩) w1 () w1 → Does s e (tBase o) w1 b w1 →
      (w1.eng e.val).speculating = false → b.toNat % 32 = 0 → r.2 = false →
      Does s e (readWords (tileLoad false) b 32) (w1.modEng e.val Engine.commitAll) r w3 →
      let d := e.val / 26
      let w0 := wordAt r.1 0
      let q := bgQueue s.anat w3 d (fld w0 16 6)
      let g := w3.gath d
      let x := w3.eng e.val
      let answer (u : World) (st : Nat) : Res := .next (retired s u e 4 24 { u.core e with acc := ⟨w64 st, 1#4⟩ })
      let ok := bgOn w3 d = true ∧ bgReqOk w0 = true ∧ q.good = true ∧ q.ctx = x.core.ctx x.core.pl
      (bgOn w3 d = false → exec (.tgsub e o) s = answer (bgCount w3 d 1 1) 1) ∧
      (ok → 512 ≤ g.pend.length → exec (.tgsub e o) s = answer (bgCount w3 d 1 1) 5) ∧
      (ok → g.pend.length < 512 →
        let req : BgReq := { queue := fld w0 16 6, seq := g.next, logical := (s.anat.logicalOf e.val).getD 0x7F, oper := x.who.oper
                             tenant := x.who.id, notify := bit w0 24, x := wordAt r.1 1, y := wordAt r.1 2, done := wordAt r.1 3
                             time := w3.time }
        exec (.tgsub e o) s = answer (bgCount (w3.setGath d { g with pend := g.pend ++ [req], next := g.next + 1 }) d 0 1) 0)) ∧
    (∀ d : Fin 4, unitRuns s.anat s.w d.val = true → (∀ r ∈ (s.w.gath d.val).pend, (bgQueue s.anat s.w d.val r.queue).good = true) →
      exec (.bgEvaluate d) s = toWorld s (bgPlace (bgReclaim (bgLaunches s.anat d.val 512 s.w) d.val) d.val)) ∧
    (∀ (e : Fin 104) (k : BgBlock) (b : BgBatch), let d := e.val / 26
      (s.w.gath d).blocks.find? (fun b => decide (b.half = some e.val)) = some k →
      (s.w.gath d).batches.find? (fun b => decide (b.id = k.batch)) = some b → unitRuns s.anat s.w d = true →
      (bgPool s.w d).contains e.val = true → ∀ (r : BgReq × Nat) (rs : List (BgReq × Nat)), b.rows = r :: rs →
      let q := bgQOf b.entry
      let env (r : BgReq) : UnitEnv := bgEnv s.anat d q.ctx r.who (s.w.eng e.val).part
      (∀ (sts : List Nat) (w1 : World), runUnit (env r.1) (bgBlock q b.rows k.b env) s.w = (some (.ok (.ok sts)), w1) →
        exec (.bgBlockDone e) s = toWorld s (bgPlace ((clearUbuf w1 (bgRef d)).modGath d (fun y =>
          let y1 := { y with
            blocks := y.blocks.filter (fun x => decide (x ≠ k))
            batches := y.batches.map (fun x => if x.id = b.id then
              { x with left := x.left - 1, rows := (x.rows.zip sts).map (fun z => (z.1.1, z.2)) } else x) }
          if b.left ≤ 1 then bgEnd y1 b.id else y1)) d)) ∧
      (∀ (st : Nat) (w1 : World), runUnit (env r.1) (bgBlock q b.rows k.b env) s.w = (some (.ok (.error st)), w1) →
        exec (.bgBlockDone e) s = toWorld s (bgPlace ((clearUbuf w1 (bgRef d)).modGath d (fun y => bgFail y b.id st)) d))) ∧
    (∀ (d : Fin 4) (i : Nat) (f : BgFin) (w1 : World), (s.w.gath d.val).fin[i]? = some f → unitRuns s.anat s.w d.val = true →
      unitWrites s.w (bgRef d.val) = false → f.req.done.toNat % 8 = 0 → f.req.notify = false →
      let v := packW [(63, 1), (48, f.status), (40, f.rows), (0, f.launch)]
      runUnit (bgEnv s.anat d.val f.ctx f.req.who 0) (uWrite false f.req.done (leBytes 8 v.toNat) 0) s.w = (some (.ok ()), w1) →
      exec (.bgCompletionWord d i) s = toWorld s (w1.modGath d.val (fun y => { y with fin := dropAt y.fin i }))) ∧
    (∀ e : Fin 104, let d := e.val / 26
      let w1 := bgCount (s.w.modGath d (fun g => { g with out := e.val :: g.out })) d 6 1
      (bgPool s.w d).contains e.val = true → dieRuns s.anat e.val = true →
      ((w1.gath d).blocks.find? (fun b => decide (b.half = some e.val)) = none → exec (.bgHalfErr e) s = toWorld s w1) ∧
      (∀ k : BgBlock, (w1.gath d).blocks.find? (fun b => decide (b.half = some e.val)) = some k →
        (k.fails = 0 → exec (.bgHalfErr e) s = toWorld s (w1.modGath d (fun g => { g with blocks := g.blocks.map (fun x =>
          if x = k then { x with half := none, fails := 1 } else x) }))) ∧
        (1 ≤ k.fails → exec (.bgHalfErr e) s = toWorld s (w1.modGath d (fun g => bgFail g k.batch 4))))) ∧
    (∀ (d : Fin 4) (v : W64), dieRuns s.anat (26 * d.val) = true →
      let w1 := s.w.setReg (bgBase d.val) (v &&& 1#64)
      exec (.bgCtlWrite d v) s = toWorld s (if bit v 0 then w1 else bgWithdraw w1 d.val (fun _ => true))) ∧
    (∀ (e : Fin 104) (v : W64), dieRuns s.anat e.val = true → engShut s.anat e.val = false →
      exec (.tileLeaseWrite e v) s = toWorld s (s.w.setReg (engBase e.val + 0x800) (v &&& 0xF#64)))

/-- Atomic instructions (R446 to R454, R460): a non-returning one retires with its entries in the store buffer; a returning
one puts its entry there for this module's memory and waits; the home pier performs an entry and answers a returning one;
the answer reaches `ACC`. -/
def Obligations.AtomicInstructions : Prop :=
  ∀ (s : State) (e : Fin 104) (o : AOp) (w1 w2 : World) (p : AtomPlan),
    (Issues s e w1 → ∀ q ∈ ([(Instr.amoAddW, 0), (Instr.amoAddD, 1), (Instr.amoCasW, 2), (Instr.amoCasD, 3), (Instr.amoMinD, 4),
        (Instr.amoMaxD, 5), (Instr.amoMinuD, 6), (Instr.amoMaxuD, 7), (Instr.amoFaddS, 8), (Instr.amoFaddB, 9),
        (Instr.amoFminS, 10), (Instr.amoFmaxS, 11), (Instr.amoXadd, 12), (Instr.amoXaddx, 13), (Instr.amoSmerge, 14)] :
        List ((Fin 104 → AOp → Instr) × Nat)), Does s e (atomPrep q.2 o) w1 p w2 →
      (o.ret = false → (w2.eng e.val).sbRoom ≠ 0 →
        exec (q.1 e o) s = .next (retired s (w2.modEng e.val (fun k => (atomEntries k p o q.2).foldl Engine.pushStore k)) e 4 1 (w2.core e))) ∧
      (o.ret = true → (w2.eng e.val).atomResp = none →
        let y := (w2.eng e.val).commitAll
        let z := targetSize q.2 o.line
        let en := atomEntry y p.t p.ea 0 z (log2Size z) (p.req o q.2 y.core.ix1.v p.src)
        y.sbRoom ≠ 0 → (localOff w2 en.ga).isSome = true →
        exec (q.1 e o) s = toWorld s (w2.setEng e.val
          { y with sb := y.sb ++ [en], wait := .atomic q.2 p.ea, core := (s.w.eng e.val).core }))) ∧
    (∀ (idx off : Nat) (t : SbEntry) (r : AtomReq), (s.w.eng e.val).sb[idx]? = some t → t.atom = some r → localOff s.w t.ga = some off →
      (s.w.eng e.val).mayPerform idx = true → dieRuns s.anat (homeDie off * 26) = true →
      let z := performAtom s.anat s.w r off 0 (s.w.eng e.val).part t.tcls t.kdom
      (r.ret = true → exec (.pierAtomic e idx) s =
        toWorld s (sbDone (z.2.modEng e.val (fun y => { y with atomResp := some (atomAnswer false z.1) })) e.val idx)) ∧
      (∀ old : Nat, r.ret = false → z.1 = .done old → exec (.pierAtomic e idx) s = toWorld s (sbDone z.2 e.val idx)) ∧
      (∀ st : Byte, r.ret = false → z.1 = .refused st → exec (.pierAtomic e idx) s = toWorld s (sbError z.2 e.val idx t st))) ∧
    (∀ (aop : Nat) (va : W64) (r : AtomResp), (s.w.eng e.val).wait = .atomic aop va → (s.w.eng e.val).atomResp = some r →
      r.code = 0#8 → (s.w.eng e.val).mcPend = [] → aop < 8 →
      let c := (s.w.eng e.val).core
      let d : Core := { c with acc := ⟨w64 r.val, 1#4⟩, pc := c.pc + 4#64, seq := c.seq + 1
                               st := if aop = 2 then setBit c.st 0 (decide (r.val = fld c.ix1.v 0 32))
                                     else if aop = 3 then setBit c.st 0 (decide (r.val = c.ix1.v.toNat)) else c.st }
      exec (.atomicResponse e) s = toWorld s ({ s.w.modEng e.val (fun x =>
        ({ x with wait := .none, atomResp := none, mcPend := [], core := d }).retire 1 s.w.freeCtr) with freeCtr := s.w.freeCtr + 1 }))

/-- What the atomic unit makes of a target (R447, R456, R457, R459): with no header, each lane takes its operation's value
of the old lane and the operand's lane, the bytes beside the target stay, and the old value is the answer. -/
def Obligations.AtomicUnit : Prop :=
  (∀ (old b cmp : Nat),
    laneOp 0 old b cmp = (old + b) % 2 ^ 32 ∧ laneOp 1 old b cmp = (old + b) % 2 ^ 64 ∧
    laneOp 2 old b cmp = (if old = cmp then b else old) ∧ laneOp 3 old b cmp = (if old = cmp then b else old) ∧
    laneOp 4 old b cmp = (if sInt 64 old ≤ sInt 64 b then old else b) ∧ laneOp 5 old b cmp = (if sInt 64 old ≤ sInt 64 b then b else old) ∧
    laneOp 6 old b cmp = min old b ∧ laneOp 7 old b cmp = max old b) ∧
  (∀ (a : Anat) (w : World) (r : AtomReq) (off cls part tcls : Nat) (d : Byte), r.aop ≤ 7 → r.line = false →
    hbmStatus a w off = none → off % elemSize r.aop = 0 →
    (∀ i < 16, inTagged w.places (off / 128 * 128 + 8 * i) = false) → poisonIn w.mem w.ks w.places off (elemSize r.aop) = none →
    r.operand.length = elemSize r.aop →
    let n := elemSize r.aop
    let old := leNat (rdBytes w.mem w.ks d off n)
    performAtom a w r off cls part tcls d =
      (.done old, unitCommit w cls part tcls d .whole (atOff off (offsets (leBytes n (laneOp r.aop old (leNat r.operand) r.cmp.toNat)))))) ∧
  (∀ (old : Nat) (x : FVal) (ex : Int), old < 2 ^ 128 →
    sInt 128 (exaAdd old (exaConv x ex)).1 = max (-(2 ^ 127 : Int)) (min (2 ^ 127 - 1) (sInt 128 old + (exaConv x ex).1)))

/-- Key handles and domains (R515 to R520): what each instruction answers in `ACC` and what becomes of the slot; an erase
that the engine itself asked for has ended when the instruction issues again. -/
def Obligations.Keystone : Prop :=
  ∀ (s : State) (e : Fin 104) (o : YOp) (w1 : World), Issues s e w1 → o.opf = 0#11 → (w1.core e).pl = 0#2 →
    let w2 := w1.modEng e.val Engine.commitAll
    let answer (u : World) (cyc : Nat) (v : W64) : Res := .next (retired s u e 4 cyc { u.core e with acc := ⟨v, 1#4⟩ })
    w2.ks.ready = true →
    (Usable (w1.core e) .sub (w1.core e).acc.t → ∀ p ∈ ([(Instr.kdreset, 0#12, true), (Instr.kdfree, 4#12, false)] :
        List ((Fin 104 → YOp → Instr) × BitVec 12 × Bool)), o.fn = p.2.1 →
      let k := (w1.core e).acc.v.extractLsb' 0 8
      (w2.ks.erasing = none → k = 0#8 → exec (p.1 e o) s = answer w2 64 1#64) ∧
      (w2.ks.erasing = none → k ≠ 0#8 → exec (p.1 e o) s = toWorld s ((eraseStart w2 e.val k p.2.2).modEng e.val (fun x =>
        { x with core := (s.w.eng e.val).core }))) ∧
      (∀ x : Erase, w2.ks.erasing = some x → x.e = e.val → exec (p.1 e o) s = answer (eraseEnd w2 x) 64 0#64)) ∧
    (o.fn = 1#12 → Usable (w1.core e) .addr (w1.core e).ix0.t → Usable (w1.core e) .addr (w1.core e).ix1.t →
      ∀ (b : List Byte) (w3 : World), Does s e (readBlob (w1.core e).ix0.v) w2 b w3 →
      w3.ks.ready = true → w3.ks.erasing = none →
      (∀ st : Nat, blobCheck w3 b = .error st → exec (.khload e o) s = answer w3 400 (w64 st)) ∧
      (∀ (k slot : Nat) (sl : KSlot) (ctr : W64) (w4 : World), blobCheck w3 b = .ok (k, slot, sl, ctr) →
        Does s e (storeMemE (w1.core e).ix1.v 8 (handleOf (BitVec.ofNat 8 k) slot sl.use sl.gen) 5#4 false) w3 () w4 →
        let w5 : World := { w4 with freeCtr := w4.freeCtr + 1 }
        let d := w5.ks.get k
        exec (.khload e o) s = answer (w5.setDom k { d with
          lastCtr := some ctr, slots := sset d.slots slot { sl with salt := BitVec.ofNat 32 (Config.free w4.freeCtr) } }) 400 0#64)) ∧
    (w2.ks.erasing = none → ∀ (h : W64) (w3 : World), Does s e handleWord w2 h w3 →
      let d := w3.ks.get (fld h 52 8)
      let slot := fld h 48 4
      w3.ks.ready = true → w3.ks.erasing = none →
      (o.fn = 2#12 →
        (∀ st : Nat, handleStatus w3 h = some st → exec (.khdrop e o) s = answer w3 64 (w64 st)) ∧
        (handleStatus w3 h = none → handleCurrent w3 h = false → exec (.khdrop e o) s = answer w3 64 5#64) ∧
        (handleStatus w3 h = none → handleCurrent w3 h = true → exec (.khdrop e o) s = answer (w3.setDom (fld h 52 8) { d with
          slots := sset d.slots slot { KSlot.empty with gen := (d.slot slot).gen + 1#32 } }) 64 0#64)) ∧
      (o.fn = 3#12 →
        (∀ st : Nat, handleStatus w3 h = some st → exec (.khinfo e o) s = answer w3 32 (w64 st)) ∧
        (handleStatus w3 h = none → exec (.khinfo e o) s = answer w3 32 (setFld h 0 32 (handleCurrent w3 h).toNat))))

/-- Task control (R546, R547): `tnext` answers 1 for an empty queue and otherwise starts the task at the head; `tdone`
answers 1 without a task, and otherwise writes the completion word, sends the task's vector and ends it; `dbell` answers as
a doorbell would, with a refusal recorded in the page of the engine's function (log 40); doorbells of a task queue and the
write of `TQ_CFG`. Messages (R549): a message to an engine of this
module answers 3 where none is bound, 2 without a grant, 1 when its queue is full, and otherwise joins the queue and raises
the source; `mrecv` stores the oldest or answers that there is none. -/
def Obligations.TasksAndMessages : Prop :=
  (∀ (s : State) (e : Fin 104) (o : YOp) (w1 : World) (l : Nat), s.anat.logicalOf e.val = some l →
     (Issues s e w1 → o.opf = 0#11 → (w1.core e).pl ≠ 2#2 →
       let w2 := w1.modEng e.val Engine.commitAll
       let q := w2.log l
       let ctx := fld q.cfg 48 16
       let answer (u : World) (cyc n : Nat) : Res := .next (retired s u e 4 cyc { u.core e with acc := ⟨w64 n, 1#4⟩ })
       (o.fn = 0#12 →
         (q.head = q.tail → exec (.tnext e o) s = answer w2 8 1) ∧
         (∀ (r : List Byte × Bool) (w3 : World), q.head ≠ q.tail →
           (∃ x, ctxMatch s.anat w2 ctx (tenantOf (tenantReg w2 e.val)) = .ok x) →
           let va := q.base + w64 (64 * (q.head.toNat % 2 ^ fld q.cfg 0 5))
           va.toNat % 64 = 0 → Does s e (viaCtx ctx (tenantReg w2 e.val) (readWords ⟨0, false, false, false⟩ va 64)) w2 r w3 →
           let d := (List.range 8).map (wordAt r.1)
           (fld (d.getD 0 0#64) 0 4 ≠ 1 →
             exec (.tnext e o) s = answer (w3.modLog l (fun y => { y with head := y.head + 1#16 })) 8 2) ∧
           (fld (d.getD 0 0#64) 0 4 = 1 →
             let w4 := taskStart s.anat w3 e.val l d va ctx
             let x := w4.eng e.val
             exec (.tnext e o) s = toWorld s { w4.setEng e.val (({ x with core := { x.core with seq := x.core.seq + 1 } }).retire 8
               w4.freeCtr).freshCounts with freeCtr := w4.freeCtr + 1 }))) ∧
       (o.fn = 1#12 → Usable (w1.core e) .sub (w1.core e).acc.t →
         (q.task = none → exec (.tdone e o) s = answer w2 4 1) ∧
         (∀ (t : TaskRec) (w3 : World) (b : Bool), q.task = some t →
           let word := packW [(63, 1), (48, fld (w1.core e).acc.v 0 8), (40, l), (0, fld w2.time 0 40)]
           Does s e (viaCtx ctx (w2.eng e.val).tenant (doneWrite t.doneAddr word)) w2 (some b) w3 →
           exec (.tdone e o) s = answer (tdoneEnd w3 l b) 4 (if b then 0 else 2))) ∧
       (o.fn = 2#12 → Usable (w1.core e) .sub (w1.core e).acc.t → Usable (w1.core e) .sub (w1.core e).ix0.t →
         let v := (w1.core e).acc.v
         let t := fld (w1.core e).ix0.v 0 12
         let by' := (w2.eng e.val).who
         (bit (w1.core e).ix0.v 12 = true → fld v 16 3 = 0 →
           let r := taskBell s.anat w2 by' false t (v.extractLsb' 0 16)
           exec (.dbell e o) s = answer (if r.1 = 0 then r.2 else dbRefuse r.2 by'.fn r.1 1 t) 4 r.1) ∧
         (bit (w1.core e).ix0.v 12 = true → fld v 16 3 ≠ 0 →
           let st := if fld v 16 3 ≤ 4 then 5 else 6
           exec (.dbell e o) s = answer (dbRefuse w2 by'.fn st 1 t) 4 st) ∧
         (∀ (st : Nat) (w3 : World), bit (w1.core e).ix0.v 12 = false →
           chanBell s.anat w2 by' false (fld v 16 3) t (v.extractLsb' 0 16) = some (st, w3) →
           exec (.dbell e o) s = answer (if st = 0 then w3 else dbRefuse w3 by'.fn st 0 t) 4 st))) ∧
     (∀ (f : Fin 65) (l : BitVec 7) (t : BitVec 16) (p : Nat), fnLive s.w f.val = true → tdiShut s.w f.val = false → l.toNat < 96 →
       let q := s.w.log l.toNat
       let own : Tenant := ⟨bit q.cfg 23, fld q.cfg 24 6⟩
       (reaches (pageTenant f.val) own = false → exec (.dbTask f l t) s = toWorld s (dbRefuse s.w f.val 1 1 l.toNat)) ∧
       (reaches (pageTenant f.val) own = true → s.anat.physOf l.toNat = some p → (t - q.head).toNat ≤ ringLimit (fld q.cfg 0 5) →
         (q.tail - q.head).toNat ≤ (t - q.head).toNat →
         exec (.dbTask f l t) s = toWorld s (s.w.modLog l.toNat (fun x => { x with tail := t })))) ∧
     (∀ (l : Fin 96) (v : W64), fnLive s.w 0 = true → 4 ≤ fld v 0 5 → fld v 0 5 ≤ 16 →
       let cfg := (s.w.log l.val).cfg
       exec (.tqCfgWrite l v) s = toWorld s (if tdiLocked s.w ⟨bit cfg 23, fld cfg 24 6⟩ then s.w.countReg 0x2E120 1
         else s.w.modLog l.val (fun q => { q with cfg := v &&& 0xFFFF00003F80001F#64 })))) ∧
  (∀ (s : State) (e : Fin 104) (o : YOp) (w1 : World), Issues s e w1 → o.opf = 0#11 →
     let w2 := w1.modEng e.val Engine.commitAll
     let va := (w1.core e).ix0.v
     let answer (u : World) (v : W64) : Res := .next (retired s u e 4 4 { u.core e with acc := ⟨v, 1#4⟩ })
     Usable (w1.core e) .addr (w1.core e).ix0.t →
     (o.fn = 3#12 → Usable (w1.core e) .sub (w1.core e).acc.t → (w1.eng e.val).speculating = false → va.toNat % 64 = 0 →
       ∀ (t : TlbEntry) (b : List Byte × Bool) (w3 w4 : World), Does s e (translate va .load) w2 t w3 →
       Does s e (readWords ⟨0, false, false, false⟩ va 64) w3 b w4 →
       let v := (w1.core e).acc.v
       let m : Msg := { node := BitVec.ofNat 12 (w4.nodeId.getD 0), kdom := t.kdom
                        src := BitVec.ofNat 7 ((s.anat.logicalOf e.val).getD 0x7F), body := b.1 }
       let l := fld v 0 7
       (bit v 24 = false ∨ fld v 12 12 = w4.nodeId.getD 0) →
       (s.anat.physOf l = none → exec (.msend e o) s = answer w4 3#64) ∧
       (∀ p : Nat, s.anat.physOf l = some p →
         (kdGranted w4 t.kdom (w4.eng p).who = false → exec (.msend e o) s = answer w4 2#64) ∧
         (kdGranted w4 t.kdom (w4.eng p).who = true → 16 ≤ (w4.log l).msgs.length → exec (.msend e o) s = answer w4 1#64) ∧
         (kdGranted w4 t.kdom (w4.eng p).who = true → (w4.log l).msgs.length < 16 → exec (.msend e o) s =
           answer ((w4.modLog l (fun q => { q with msgs := q.msgs ++ [m] })).raiseIrq p 7) 0#64))) ∧
     (o.fn = 4#12 → (w1.core e).pl ≠ 2#2 → ∀ l : Nat, s.anat.logicalOf e.val = some l →
       ((w2.log l).msgs = [] → exec (.mrecv e o) s = answer w2 0x8000000000000000#64) ∧
       (∀ (m : Msg) (r : List Msg) (p : Piece) (w3 w4 : World), (w2.log l).msgs = m :: r → va.toNat % 64 = 0 →
         Does s e (placePiece false va m.body) w2 p w3 → (w3.eng e.val).sbRoom ≠ 0 → Does s e (retirePieces 0 [p]) w3 () w4 →
         exec (.mrecv e o) s = answer (w4.modLog l (fun q => { q with msgs := r }))
           (packW [(36, m.node.toNat), (28, m.kdom.toNat), (16, m.src.toNat)]))))

/-- Channel doorbells (R523 to R529): an accepted TAIL moves TAIL and starts an idle channel; START and RELOAD load the
entry; STOP stops; DCONS moves DCONS; a refused one is counted and recorded with its status. -/
def Obligations.ChannelDoorbells : Prop :=
  ∀ (s : State) (f : Fin 65) (ch : BitVec 12) (v : BitVec 16), fnLive s.w f.val = true → tdiShut s.w f.val = false →
    let n := ch.toNat
    let old := s.w.chan n
    let by' := pageTenant f.val
    (∀ p ∈ ([(Instr.tail f ch v, 0, v), (Instr.start f ch, 1, 0#16), (Instr.stop f ch, 2, 0#16), (Instr.reload f ch, 3, 0#16),
        (Instr.dcons f ch v, 4, v)] : List (Instr × Nat × BitVec 16)),
      (∀ (st : Nat) (w1 : World), (f.val = 0 → p.2.1 = 0 ∨ p.2.1 = 4 ∨ tdiLocked s.w (bellEntry s.w p.2.1 n).who = false) →
        chanBell s.anat s.w by' false p.2.1 n p.2.2 = some (st, w1) →
        exec p.1 s = toWorld s (if st = 0 then w1 else (w1.countReg (dbPage f.val + 0x18) 1).setReg (dbPage f.val + 0x10)
          (packW [(63, 1), (16, st), (12, 0), (0, n)]))) ∧
      (f.val = 0 → (p.2.1 = 1 ∨ p.2.1 = 2 ∨ p.2.1 = 3) → tdiLocked s.w (bellEntry s.w p.2.1 n).who = true →
        exec p.1 s = toWorld s (s.w.countReg 0x2E120 1))) ∧
    (∀ cmd : Nat, cmd < 5 →
      let c := bellEntry s.w cmd n
      (reaches by' c.who = false ∨ c.type = 4 → chanBell s.anat s.w by' false cmd n v = some (1, s.w)) ∧
      (reaches by' c.who = true → c.type ≠ 4 →
        ((cmd = 1 ∨ cmd = 3) → entryOk s.anat c.words = false → chanBell s.anat s.w by' false cmd n v = some (2, s.w)) ∧
        ((cmd = 1 ∨ cmd = 3) → entryOk s.anat c.words = true → tableBad s.anat s.w (s.w.places.ctBase + 128 * n) 128 = false →
          ((cmd = 1 ∧ (old.st = 1 ∨ old.st = 2)) ∨ (cmd = 3 ∧ old.st = 2) → chanBell s.anat s.w by' false cmd n v = some (5, s.w)) ∧
          (¬((cmd = 1 ∧ (old.st = 1 ∨ old.st = 2)) ∨ (cmd = 3 ∧ old.st = 2)) → dieRuns s.anat (26 * s.anat.super) = true →
            dieRuns s.anat (26 * c.die) = true → ∀ w1 : World,
            ccPut { s.w with ccache := s.w.ccache.map (fun p => (p.1, p.2.filter (fun x => decide (x ≠ n)))) } c.die n = some w1 →
            chanBell s.anat s.w by' false cmd n v = some (0, putChan w1 n (chanLoad s.w n (decide (cmd = 1)))))) ∧
        ((cmd = 0 ∨ cmd = 2 ∨ cmd = 4) → old.st = 0 → chanBell s.anat s.w by' false cmd n v = some (2, s.w)) ∧
        (old.st ≠ 0 → dieRuns s.anat (26 * c.die) = true → ∀ w1 : World, ccTouch s.w c.die n = some w1 →
          (cmd = 0 → (v - old.head).toNat ≤ ringLimit c.ringLog → (old.tail - old.head).toNat ≤ (v - old.head).toNat →
            chanBell s.anat s.w by' false 0 n v =
              some (0, putChan w1 n { old with tail := v, st := if old.st = 1 ∧ v ≠ old.head then 2 else old.st })) ∧
          (cmd = 2 → old.st ≠ 3 → old.res = none → chanBell s.anat s.w by' false 2 n v =
            some (0, putChan (clearUbuf w1 n) n { old with st := 3, staged := none })) ∧
          (cmd = 4 → (v - old.dcons).toNat ≤ (old.dprod - old.dcons).toNat → chanBell s.anat s.w by' false 4 n v =
            some (0, ctStore (w1.setChan n { old with dcons := v }) n 7 (packW [(48, old.dprod.toNat), (32, v.toNat)]))))))

/-- Descriptors (R534 to R541): a channel that runs takes its next descriptor; what the program of its type answers becomes
the descriptor's result, an INGEST chunk that verifies is staged, and a staged chunk goes to its buffer when the destination
ring has room. Completions (R524, R530 to R532): once the record has been written, the descriptor ends: HEAD moves, the
status is kept, and the channel idles, runs on or stops. -/
def Obligations.Descriptors : Prop :=
  (∀ (s : State) (ch : BitVec 12) (c : Chan) (w1 : World),
     let n := ch.toNat
     let ends (x : Option (Except UFault ChanRes) × World) (i : Instr) : Prop :=
       (∀ r : ChanRes, x = (some (.ok r), w1) → exec i s = toWorld s (w1.setChan n { c with res := some r })) ∧
       (∀ g : UFault, x = (some (.error g), w1) → exec i s = toWorld s (w1.setChan n { c with res := some (resFail g 0) })) ∧
       (x = (none, w1) → exec i s = toWorld s w1)
     (chanReady s.anat s.w n 1 = some c → ends (runUnit (chanEnv s.anat n c) (copyBody c) s.w) (.copyDescriptor ch)) ∧
     (chanReady s.anat s.w n 3 = some c → ends (runUnit (chanEnv s.anat n c) (egressBody c) s.w) (.egressDescriptor ch)) ∧
     (chanReady s.anat s.w n 2 = some c →
       (∀ g : Staged, runUnit (chanEnv s.anat n c) (ingestBody c) s.w = (some (.ok (.ok g)), w1) →
         exec (.ingestDescriptor ch) s = toWorld s (w1.setChan n { c with staged := some g })) ∧
       (∀ r : ChanRes, runUnit (chanEnv s.anat n c) (ingestBody c) s.w = (some (.ok (.error r)), w1) →
         exec (.ingestDescriptor ch) s = toWorld s (w1.setChan n { c with res := some r }))) ∧
     (∀ g : Staged, s.w.chan n = c → c.staged = some g → c.res = none → c.st = 2 → unitRuns s.anat s.w c.die = true →
       (c.dprod - c.dcons).toNat < ringLimit c.dringLog → g.fp = false →
       ends (runUnit (chanEnv s.anat n c) (destBody c g) s.w) (.ingestDestTake ch))) ∧
  (∀ (s : State) (ch : BitVec 12) (r : ChanRes),
     let n := ch.toNat
     let c := s.w.chan n
     c.res = some r → unitRuns s.anat s.w c.die = true →
     (unitWrites s.w n = true → exec (.descriptorCompletion ch) s = toWorld s (s.w.setChan n { c with res := some r })) ∧
     (unitWrites s.w n = false → r.phase = 2 → (s.w.ubuf n).werr = none →
       exec (.descriptorCompletion ch) s = toWorld s (endDesc s.anat s.w n c r) ∧
       (bit (c.word 0) 8 = false → bit (c.word 0) 9 = false → r.entry = none →
         endDesc s.anat s.w n c r = putChan (endCount (clearUbuf s.w n) c r) n { c with
           head := c.head + 1#16, clap := if c.head + 1#16 = 0#16 then !c.clap else c.clap, last := r.status, staged := none, res := none
           st := if c.st = 3 ∨ stops r.status = true then 3 else if c.head + 1#16 = c.tail then 1 else 2 })))

/-- What leaves a key (R513, R537, R541): a chunk sealed under a key opens under the same key, vector and header to the
bytes that were sealed. -/
def Obligations.SealsOpen : Prop :=
  ∀ (key : Nat) (iv aad pt : List Byte), iv.length = 12 →
    gcmOpen key iv aad (gcmSeal key iv aad pt).1 (gcmSeal key iv aad pt).2 = some pt

/-- HBM requests (R373 to R376): a request takes a slot while one is free, its requester has fewer than eight slots on the
bank and no request for its line waits; one over its quota is counted and logged; one that finds no place waits, or is held
back. Bank accesses (R377 to R382, R593): the access chosen starts, as a row hit or miss; one that has ended frees its slot
and those of the reads it serves; age promotes; refresh closes a row; calibration windows of a channel. -/
def Obligations.HbmScheduling : Prop :=
  (∀ (s : State) (req : Byte) (off : BitVec 41) (write : Bool),
     let h := homeStack off.toNat
     let l := stackOffset off.toNat / 128
     let g := 64 * h + hbmPc l
     let f := s.w.fe g
     let x : HReq := { req := req.toNat, line := l, write := write, time := s.w.time, seq := f.next, started := false, promoted := false }
     let queued (w : World) : World :=
       if 256 ≤ f.wait.length ∨ 64 ≤ (f.wait.filter (fun y => decide (y.req = req.toNat))).length then feCount w g 6 1
       else w.setFe g { f with wait := f.wait ++ [x], next := f.next + 1 }
     populated s.anat.part off.toNat = true → stackUp s.anat s.w h = true → req.toNat < 184 →
     (f.wait.any (fun y => decide (y.line = l)) = false →
       (f.slots.any (fun y => decide (y.line = l) && y.write && (!write || !y.started)) = true →
         exec (.hbmRequest req off write) s = toWorld s (feCount s.w g 4 1)) ∧
       (f.slots.any (fun y => decide (y.line = l) && y.write && (!write || !y.started)) = false →
         (∀ w1 : World, f.slots.length < 64 → feQuota f req.toNat (hbmBank l) = true →
           pertEvent s.w (g / 384) 2 2 [g % 384] = (false, w1) →
           exec (.hbmRequest req off write) s =
             toWorld s (w1.setFe g { f with slots := f.slots ++ [x], next := f.next + 1 }.settle)) ∧
         (64 ≤ f.slots.length → feQuota f req.toNat (hbmBank l) = true →
           exec (.hbmRequest req off write) s = toWorld s (queued s.w)))) ∧
     (f.slots.any (fun y => decide (y.line = l) && y.write && (!write || !y.started)) = false →
       feQuota f req.toNat (hbmBank l) = false →
       let w1 := feCount s.w g 0 1
       exec (.hbmRequest req off write) s = toWorld s (queued (if bit (w1.reg (hbmBase (g / 64) + 8) 0#64) 63 then w1
         else w1.setReg (hbmBase (g / 64) + 8) (packW [(63, 1), (40, req.toNat), (32, g % 64), (0, hbmBank l)]))))) ∧
  (∀ (s : State) (g : Fin 1536),
     (∀ (x : HReq) (w1 w2 : World), feOpen s.anat s.w g.val = true → feNext (s.w.setFe g.val (feFill (s.w.fe g.val))) g.val = some x →
       let f := feFill (s.w.fe g.val)
       let b := hbmBank x.line
       pertEvent (s.w.setFe g.val f) (g.val / 384) 1 2 [g.val % 384] = (false, w1) →
       pertEvent (feCount w1 g.val (if sget f.rows b = some (hbmRow x.line) then 2 else 3) 1) (g.val / 384) 4 2 [g.val % 384] = (false, w2) →
       exec (.bankAccessStart g) s = toWorld s (w2.setFe g.val { f with
         rows := sset f.rows b (hbmRow x.line), slots := f.slots.map (fun y => if y = x then { y with started := true } else y) })) ∧
     (∀ (b : Fin 16) (x : HReq),
       feOldest (s.w.fe g.val).slots (fun x => x.started && decide (hbmBank x.line = b.val)) = some x →
       let f := s.w.fe g.val
       ((f.slots ++ f.wait).filter (fun y => !x.write && decide (y ≠ x) && decide (y.line = x.line) && !y.write)) = [] →
       exec (.bankAccessDone g b) s = toWorld s (s.w.setFe g.val (
         let f1 := { f with slots := f.slots.filter (fun y => decide (y ≠ x)) }
         if f1.slots.length < 64 then feRefill f1 else f1))) ∧
     (∀ x : HReq, feOldest ((s.w.fe g.val).slots ++ (s.w.fe g.val).wait) (fun x => !x.promoted && !x.started) = some x →
       let f := s.w.fe g.val
       let up (y : HReq) : HReq := if y = x then { y with promoted := true } else y
       exec (.agePromote g) s = toWorld s (feCount ((s.w.timeTo (x.time + 400#64)).setFe g.val
         { f with slots := f.slots.map up, wait := f.wait.map up }) g.val 1 1)) ∧
     (∀ b : Fin 16, stackUp s.anat s.w (g.val / 64) = true →
       (s.w.fe g.val).slots.any (fun x => x.started && decide (hbmBank x.line = b.val)) = false →
       exec (.refresh g b) s = toWorld s (s.w.setFe g.val { s.w.fe g.val with rows := sdel (s.w.fe g.val).rows b.val })) ∧
     (∀ (h : Fin 24) (c : Fin 32), stackUp s.anat s.w h.val = true → s.w.timeRun = true →
       (∀ i < 32, (s.w.fe (64 * h.val + 2 * i)).cal = false) →
       exec (.calWindowStart h c) s = toWorld s (calSet (s.w.timeTo (nextWindow s.w.time (100000 * c.val + 4000 * h.val))) h.val c.val true)) ∧
     (∀ (h : Fin 24) (c : Fin 32), let k := 64 * h.val + 2 * c.val
       (s.w.fe k).cal = true →
       let n := Config.free s.w.freeCtr % 1501
       exec (.calWindowEnd h c) s =
         toWorld s (feCount (feCount { calSet s.w h.val c.val false with freeCtr := s.w.freeCtr + 1 } k 5 n) (k + 1) 5 n)))

/-- Ports between states (R482, R483, R486, R501, R502): enabling a disabled port trains it, locked lanes lead to
negotiation, timers and foreign training blocks take a port down with their reasons, and a retrained port is UP and replays.
Lanes and rotation (R465 to R472): the steps of a rotation at both ends, the end of a calibration, and the failure of a lane
while the spare one is free. -/
def Obligations.LinksAndLanes : Prop :=
  (∀ (s : State) (p : Fin 32), portRuns s.anat p.val = true →
     let w := s.w
     let x := w.port p.val
     let up := x.state = 3 ∨ x.state = 4
     let down (reason : Nat) : Res := toWorld s (portLeave s.anat w p.val 5 reason)
     (exec (.lnkEnable p true) s = toWorld s (
       let w1 := w.setReg (portBase p.val) (setBit (lnkCtl w p.val) 0 true)
       if x.state = 0 then portTrain s.anat w1 p.val else w1)) ∧
     (x.state ≠ 0 → exec (.lnkEnable p false) s =
       toWorld s (portLeave s.anat (w.setReg (portBase p.val) (setBit (lnkCtl w p.val) 0 false)) p.val 0 9)) ∧
     (x.state = 3 → exec (.retrain p) s = toWorld s (lnkEvent (w.modPort p.val (fun y => { y.rotAbort with state := 4 })) p.val 2)) ∧
     (∀ (rx tx : BitVec 9), x.state = 1 → 4 ≤ ((lanesLocked rx).filter id).length → 4 ≤ ((lanesLocked tx).filter id).length →
       let a := laneLayout (lanesLocked rx)
       let b := laneLayout (lanesLocked tx)
       let w1 := w.modPort p.val (fun y => (y.setDir true a.1 a.2.1 a.2.2).setDir false b.1 b.2.1 b.2.2)
       exec (.laneTrainLocked p rx tx) s = toWorld s (toNegotiate (if a.2.1 || b.2.1 then lnkEvent w1 p.val 4 else w1) p.val)) ∧
     (x.state = 1 → exec (.laneTrainTimeout p) s = down 0) ∧ (x.state = 2 → exec (.negotiateTimeout p) s = down 10) ∧
     (x.state = 4 → exec (.retrainTimeout p) s = down 3) ∧ (up → exec (.silenceTimeout p) s = down 1) ∧
     (∀ v : W64, up → v ≠ x.hs.own → v ≠ x.hs.peer → exec (.trainingBlock p v) s = down 11) ∧
     (∀ v : W64, x.state = 3 → v = x.hs.own ∨ v = x.hs.peer →
       exec (.trainingBlock p v) s = toWorld s (lnkEvent (w.modPort p.val (fun y => { y.rotAbort with state := 4 })) p.val 2)) ∧
     (x.state = 4 → exec (.retrainLocked p) s = toWorld s (
       let w1 := lnkEvent (w.modPort p.val (fun y => { y with state := 3, replays := 0, nakOut := false })) p.val 0
       portDrain p.val x.egress.length (if x.ackIdx < x.txIdx then replayFrom w1 p.val x.ackIdx else w1))) ∧
     (bit (lnkCtl w p.val) 0 = true → w.nodeId.isSome = true → w.pwr.refStop = false →
       let t : Res := toWorld s (w.modPort p.val (fun y => y.stop 1 y.reason))
       (x.state = 5 → exec (.downRetry p) s = t) ∧ (x.state = 6 → exec (.refusedRetry p) s = t))) ∧
  (∀ (s : State) (p : Fin 32) (k : Fin 8) (b : BitVec 32), portRuns s.anat p.val = true → (s.w.port p.val).state = 3 →
     let w := s.w
     let x := w.port p.val
     let rot (w : World) (c lane block : Nat) : World := w.emit (.ctl p.val (ctlSlot 3 c lane (w64 block)))
     (x.halfRx = false → x.halfTx = false → x.rotTx.stopped = false → x.rotTx.phase = 0 → bit (lnkCtl w p.val) 1 = true →
       exec (.laneRotationStart p k b) s = toWorld s (rot ((w.timeTo (rotTime w.time p.val k.val)).modPort p.val (fun y =>
         { y with rotTx := ⟨1, k.val, b.toNat + 64, false⟩, tx := y.tx.set 8 ⟨k.val, 2⟩ })) 0 k.val (b.toNat + 64))) ∧
     (x.halfRx = false → x.rotRx.stopped = false → x.rotRx.phase = 0 →
       exec (.rotPrep p k b true) s = toWorld s (rot (w.modPort p.val (fun y =>
         { y with rotRx := ⟨2, k.val, b.toNat, false⟩, rx := (y.rx.set k.val ⟨15, 3⟩).set 8 ⟨k.val, 0⟩ })) 1 k.val b.toNat)) ∧
     exec (.rotPrep p k b false) s = toWorld s (rot w 4 k.val b.toNat) ∧
     (x.rotTx.phase = 1 → exec (.rotAck p) s = toWorld s (w.modPort p.val (fun y => { y with
       rotTx := { y.rotTx with phase := 2 }, tx := (y.tx.set y.rotTx.lane ⟨15, 3⟩).set 8 ⟨y.rotTx.lane, 0⟩ }))) ∧
     (x.rotRx.phase = 2 →
       let w1 := w.countReg (laneReg p.val x.rotRx.lane 4) 1
       exec (.laneCalibrationDone p true) s = toWorld s (rot (w1.modPort p.val (fun y => { y with
         rotRx := { y.rotRx with phase := 3 } })) 2 x.rotRx.lane x.rotRx.block) ∧
       exec (.laneCalibrationDone p false) s = toWorld s (rot (laneFail s.anat (w1.countReg (laneReg p.val x.rotRx.lane 5) 1) p.val
         x.rotRx.lane true) 4 x.rotRx.lane x.rotRx.block)) ∧
     (x.rotTx.phase = 2 → exec (.rotReady p b) s = toWorld s (portCount ((rot w 3 x.rotTx.lane (b.toNat + 64)).modPort p.val (fun y =>
       let r := rotEnd y.rotTx y.tx
       { y with rotTx := r.1, tx := r.2 })) p.val 12 1)) ∧
     (x.rotRx.phase = 3 → exec (.rotReturn p) s = toWorld s (portCount (w.modPort p.val (fun y =>
       let r := rotEnd y.rotRx y.rx
       { y with rotRx := r.1, rx := r.2 })) p.val 12 1)) ∧
     (x.rotTx.phase = 1 → exec (.rotAbort p) s = toWorld s (w.modPort p.val (fun y =>
       let r := rotEnd y.rotTx y.tx
       { y with rotTx := r.1, tx := r.2 }))) ∧
     (x.rotTx.phase = 2 → exec (.rotAbort p) s =
       toWorld s (laneFail s.anat (w.countReg (laneReg p.val x.rotTx.lane 5) 1) p.val x.rotTx.lane false)) ∧
     ((x.rx.length = 9 ∧ (∀ l ∈ x.rx, l.works = true) ∧ x.halfRx = false ∧ (x.rx.getD 8 Lane.dark).st = 1 ∧ (x.rx.getD k.val Lane.dark).carries ≠ 15) →
       exec (.laneFail p (k.castAdd 1) true) s = toWorld s (
         let w1 := (lnkEvent w p.val 5).modPort p.val (fun y => y.setDir true
           ((x.rx.set k.val ⟨15, 4⟩).set 8 ⟨(x.rx.getD k.val Lane.dark).carries, 0⟩) false true)
         avEvent { w1 with av := { w1.av with lanes := w1.av.minutes :: w1.av.lanes } } 8)))

/-- Flits, replay, credit, pause (R473 to R481, R487, R491, R503, R506): an accepted DATA flit advances the receive index;
one with a bad CRC is counted and answered by one NAK; a NAK or a timeout replays; CREDIT and PAUSE, epochs, receive
buffers. The handshake (R484 to R491): fragments are kept; HELLO, certificate, key exchange and signature each answer and
lead on; a refused step takes the port to REFUSED; the first encrypted flit brings it UP with its counts at 0; rekeying. -/
def Obligations.FlitsAndHandshake : Prop :=
  (∀ (s : State) (p : Fin 32), portRuns s.anat p.val = true → (s.w.port p.val).state = 3 →
     let w := s.w
     let n := p.val
     let x := w.port n
     (∀ (f : NetFlit) (w1 : World), pertEvent (portCount w n 1 1) (n / 8) 4 3 [16 * (n % 8) + 15] = (false, w1) → f.crcOk = true →
       fld f.hdr 0 4 = 1 → fld f.hdr 4 3 = 1 → (w1.port n).state = 3 → f.tagOk = true →
       let w2 := w1.modPort n (fun y => (y.ackTo (y.ackOf (fld f.hdr 20 12))).rxEpoch (bit f.hdr 7))
       let y := w2.port n
       let w3 := portDrain n y.egress.length w2
       (fld f.hdr 8 12 ≠ y.rxIdx % 4096 → exec (.dataFlit p f) s = toWorld s (sendNak w3 n)) ∧
       (fld f.hdr 8 12 = y.rxIdx % 4096 → exec (.dataFlit p f) s = toWorld s (ctlTakeAll
         (portCount (w3.modPort n (fun z => { z with rxIdx := z.rxIdx + 1, nakOut := false })) n 3
           (16 * (((List.range 14).map (fun i => i + 1)).filter (fun j => decide (slotClass f j < 6))).length)) n f))) ∧
     (∀ (f : NetFlit) (w1 : World), pertEvent (portCount w n 1 1) (n / 8) 4 3 [16 * (n % 8) + 15] = (false, w1) → f.crcOk = false →
       exec (.dataFlit p f) s = toWorld s (sendNak (portCount w1 n 5 1) n)) ∧
     (∀ f : NetFlit, let w1 := portCount w n 1 1
       f.crcOk = true → fld f.hdr 0 4 = 1 → fld f.hdr 4 3 = 0 → (w1.port n).state = 3 → f.tagOk = true →
       let w2 := w1.modPort n (fun y => (y.ackTo (y.ackOf (fld f.hdr 20 12))).rxEpoch (bit f.hdr 7))
       exec (.ctlFlit p f) s = toWorld s (ctlTakeAll (portDrain n (w2.port n).egress.length w2) n f)) ∧
     (∀ c : BitVec 96, exec (.credit p c) s = toWorld s (
       let w1 := (creditStalled w n).modPort n (fun y => { y with credit := (List.range 6).map (fun v =>
         creditOf (y.sent.getD v 0) (y.credit.getD v 0) (((List.range 6).map (fun v => fld c (16 * v) 16)).getD v 0)) })
       portDrain n (w1.port n).egress.length w1)) ∧
     (∀ i : W64, x.ackIdx ≤ i.toNat → i.toNat < x.txIdx → exec (.nak p i) s = toWorld s (replayFrom w n i.toNat)) ∧
     exec (.nakTimeout p) s = toWorld s (w.modPort n (fun y => { y with nakOut := false })) ∧
     (x.ackIdx < x.txIdx → exec (.replayTimeout p) s = toWorld s (replayFrom w n x.ackIdx)) ∧
     exec (.pauseSlot p true) s = toWorld s (w.modPort n (fun y => { y with paused := true })) ∧
     exec (.epochKeyRetire p) s = toWorld s (w.modPort n (fun y => { y with prevKey := false })) ∧
     (∀ v : W64, (∀ i < 6, 3 ≤ fld v (10 * i) 10) → ((List.range 6).map (fun i => fld v (10 * i) 10)).foldl (· + ·) 0 ≤ 1024 →
       exec (.lnkVcbufWrite p v) s = toWorld s (w.setReg (portBase n + 0x18) (setFld v 60 4 0))) ∧
     (x.rotTx.phase = 0 → x.rotRx.phase = 0 → exec (.controlMessageRepeat p) s =
       toWorld s (x.hs.due.reverse.foldl (fun v k => v.emit (.hs n k)) w))) ∧
  (∀ (s : State) (p : Fin 32), portRuns s.anat p.val = true →
     let w := s.w
     let n := p.val
     let x := w.port n
     let refused (reason : Nat) : Res := toWorld s (portLeave s.anat w n 6 reason)
     (x.state = 2 →
       (∀ (k : Byte) (i : BitVec 16) (b : BitVec 96), exec (.hs p k i b) s = toWorld s (w.modPort n (fun y => { y with
         hs := { y.hs with frag := (k.toNat, i.toNat, leBytes 12 b.toNat) ::
           y.hs.frag.filter (fun f => !(decide (f.1 = k.toNat) && decide (f.2.1 = i.toNat))) } }))) ∧
       (∀ b : List Byte, x.hs.hello = false →
         let at' (i k : Nat) : Nat := leNat ((b.drop i).take k)
         (b.length ≠ 48 ∨ 32 ≤ at' 4 1 → exec (.hello p b) s = refused 12) ∧
         (b.length = 48 → at' 4 1 < 32 → at' 0 1 ≤ 1 → 1 ≤ at' 1 1 → (at' 5 1 / 2 % 2 = 1 → devAllowed s.anat w = true) →
           (at' 2 2 % 4096 = w.nodeId.getD 0 → exec (.hello p b) s = refused 7) ∧
           (at' 2 2 % 4096 ≠ w.nodeId.getD 0 → exec (.hello p b) s = toWorld s (sendHs (hsGot (w.modPort n (fun y => { y with
             nid := at' 2 2 % 4096, pport := at' 4 1, gen := 1, dev := decide (at' 5 1 / 2 % 2 = 1), sw := decide (at' 5 1 % 2 = 1)
             palloc := (List.range 6).map (fun v => at' (16 + 2 * v) 2) })) n 1
               (fun h => { h with hello := true, peer := w64 (at' 8 8) })) n 2)))) ∧
       (∀ c : CertFacts, x.hs.hello = true → x.hs.cert = false →
         (certOk w n c = false → exec (.cert p c) s = refused 5) ∧
         (certOk w n c = true → exec (.cert p c) s = toWorld s (
           let w1 := hsGot w n 2 (fun h => { h with cert := true })
           if initiator w1 n then sendHs w1 n 3 else w1))) ∧
       (x.hs.cert = true → x.hs.kem = false →
         (initiator w n = false → exec (.kemEk p false) s = refused 12 ∧
           exec (.kemEk p true) s = toWorld s (sendHs (sendHs (hsGot w n 3 (fun h => { h with kem := true })) n 4) n 5)) ∧
         (initiator w n = true → exec (.kemCt p false) s = refused 12 ∧
           exec (.kemCt p true) s = toWorld s (sendHs (hsGot w n 4 (fun h => { h with kem := true })) n 5))) ∧
       (x.hs.kem = true → x.hs.sig = false → exec (.sig p false) s = refused 5 ∧
         exec (.sig p true) s = toWorld s (sendHs (hsGot w n 5 (fun h => { h with sig := true })) n 6)) ∧
       (x.hs.sig = true → exec (.firstEncryptedFlit p true) s = toWorld s (lnkEvent (w.modPort n (fun y => { y with
         state := 3, hs := { y.hs with due := [] }, txIdx := 0, rxIdx := 0, ackIdx := 0, kept := [], nakOut := false, replays := 0
         sent := List.replicate 6 0, credit := List.replicate 6 0, freed := List.replicate 6 0, epTx := 0, epRx := 0, prevKey := false
         rekey := false, paused := false, egress := [], auth := [], epCount := 0 })) n 0))) ∧
     (x.state = 3 → exec (.rekey p) s = toWorld s (
       let w1 := w.modPort n (fun y => { y with rekey := true, hs := { y.hs with kem := false, sig := false, frag := [] } })
       if initiator w1 n then sendHs w1 n 3 else w1)))

/-- Requests of other nodes (R492 to R499, R549): each is performed under its key domain and grant and answered with its
STATUS and, for a read or a returning atomic, its data. Transactions for other nodes (R493, R498): a third hop is not made;
a malformed request is counted and answered with STATUS 2, and a malformed response is counted only; a request of a node for
which no route is left is answered. -/
def Obligations.RemoteRequests : Prop :=
  (∀ (s : State) (p : Fin 32) (t : NetTxn) (o : StoreOut) (w1 : World), Arrived s p t w1 →
     let done (i : Instr) (opc : Nat) (r : Answer) : Prop := t.opc.toNat = opc →
       exec i s = toWorld s (sendAnswer r.w (p.val / 8) t.src.toNat t.kdom t.tid.toNat r.st r.data)
     let off := t.addr.toNat
     let n := netSize t
     done (.rd p t) 1 (doRead s.anat w1 t) ∧ done (.wr p t) 2 (doWrite s.anat w1 t n (wrBody t)) ∧
     done (.wrm p t) 3 (doWrite s.anat w1 t 64 (wrmBody t)) ∧ done (.atom p t) 4 (doAtom s.anat w1 t false) ∧
     done (.atoml p t) 5 (doAtom s.anat w1 t true) ∧ done (.msg p t) 6 (doMsg s.anat w1 t) ∧
     done (.mgmt p t o) 7 ⟨0#8, [], mgmtBody s.anat w1 t.src.toNat t.slots o⟩ ∧
     (∀ (k : Nat) (l : List (Nat × Byte)), region off = .hbm → populated s.anat.part off = true →
       (grantOk w1 t true [(off, k)] = false → doWrite s.anat w1 t k l = ⟨7#8, [], w1⟩) ∧
       (grantOk w1 t true [(off, k)] = true → hbmStatus s.anat w1 off = none → coversSealed w1 (atOff off l) = false →
         doWrite s.anat w1 t k l = ⟨0#8, [], unitCommit w1 6 (remotePart w1 off) 7 t.kdom .raw (atOff off l)⟩)) ∧
     (region off = .host ∨ region off = .regs → doRead s.anat w1 t = ⟨2#8, [], w1⟩)) ∧
  (∀ (s : State) (p : Fin 32) (t : NetTxn), portRuns s.anat p.val = true → (s.w.port p.val).state = 3 → s.w.pwr.gated = false →
     ∀ q ∈ ([(Instr.rd p t, 1), (Instr.wr p t, 2), (Instr.wrm p t, 3), (Instr.atom p t, 4), (Instr.atoml p t, 5),
         (Instr.msg p t, 6)] : List (Instr × Nat)), t.opc.toNat = q.2 →
     let w0 := slotsFreed s.w p.val (min t.hops.toNat 2) (netSlots t)
     let answer (w : World) (st : Byte) := sendAnswer w (p.val / 8) t.src.toNat t.kdom t.tid.toNat st []
     (netOk t = false → exec q.1 s = toWorld s (answer (portCount w0 p.val 9 1) 2#8)) ∧
     (netOk t = true → t.dst.toNat ≠ w0.nodeId.getD 0 → w0.nodeId = s.w.nodeId →
       (t.hops = 2#2 → exec q.1 s = toWorld s (answer w0 4#8)) ∧
       (t.hops ≠ 2#2 →
         let x := { netTxn t with hops := t.hops.toNat + 1 }
         (∀ (k : Nat) (w1 : World), choosePort w0 (p.val / 8) x = (.ok k, w1) →
           exec q.1 s = toWorld s (portSend (portCount w1 p.val 8 1) k x)) ∧
         (∀ (st : Byte) (w1 : World), choosePort w0 (p.val / 8) x = (.error st, w1) → exec q.1 s = toWorld s (answer w1 st)))))

/-- Responses, timeouts and pair keys (R494 to R497): a response ends its request and one for none is discarded; a timeout
ends a request with STATUS 4 while its port has not paused; a new pair key restarts the counters and sends what waited. -/
def Obligations.ResponsesAndTimeouts : Prop :=
  ∀ (s : State) (p : Fin 32) (t : NetTxn) (w1 : World),
    (Arrived s p t w1 → ∀ q ∈ ([(Instr.rspd p t, 0x10, netSize t), (Instr.cmpTransaction p t, 0x11, 0)] : List (Instr × Nat × Nat)),
      t.opc.toNat = q.2.1 →
      (txnOfTid w1 t.tid.toNat = none → exec q.1 s = toWorld s w1) ∧
      (∀ x : Nat × OutTxn, txnOfTid w1 t.tid.toNat = some x →
        exec q.1 s = toWorld s (completeTxn s.anat w1 x.1 (t.aux.zeroExtend 8) (t.slots.take q.2.2)))) ∧
    (∀ (tid : BitVec 16) (x : Nat × OutTxn), txnOfTid s.w tid.toNat = some x →
      exec (.transactionTimeout tid) s = toWorld s (if (s.w.port x.2.port).paused then s.w
        else completeTxn s.anat (portCount s.w x.2.port 10 1) x.1 4#8 [])) ∧
    (∀ n : BitVec 12, s.w.ks.ready = true →
      let w2 := { s.w with pairKeys := n.toNat :: s.w.pairKeys.filter (fun k => decide (k ≠ n.toNat)), seals := sdel s.w.seals n.toNat }
      exec (.pairKeyExchange n true) s = toWorld s ((keyWaiters w2 n.toNat).foldl txnGo w2)) ∧
    (∀ (n : BitVec 12) (k : Nat) (r : List Nat), s.w.pairKeys.contains n.toNat = false → keyWaiters s.w n.toNat = k :: r →
      exec (.pairKeyTimeout n) s = toWorld s (completeTxn s.anat s.w k 2#8 []))

/-- Step marks (R650): `stepmark` sets `RNG_STEP`, answers 1 outside an enabled job and 0 for a step already marked or not
due, and otherwise records the engine's state and waits for the snapshot. Snapshots (R652 to R657): arming needs every mark;
waiting too long abandons with reason 2; a granule's copy takes the data kept by an early copy; the commit writes each
replica's record and then frees the slot. Tail's commands and registers (R647, R656): BASE, RESTORE and the three registers
are refused with `CFG_ERR` outside IDLE and HALTED, ABORT outside a snapshot; a restore without a readable replica ends with
status 1. -/
def Obligations.Snapshots : Prop :=
  (∀ (s : State) (e : Fin 104) (o : YOp) (w1 : World), Issues s e w1 → o.opf = 0#11 → o.fn = 12#12 →
     (w1.eng e.val).speculating = false → Usable (w1.core e) .sub (w1.core e).acc.t → Usable (w1.core e) .sub (w1.core e).ix0.t →
     let st := (w1.core e).acc.v
     let w2 := (w1.modEng e.val Engine.commitAll).modEng e.val (fun x => { x with
       core := (x.core.sysSet 0x1BE st).sysSet 0x1BF (setFld (x.core.sysGet 0x1BF) 0 52 0) })
     let answer (u : World) (n : Nat) : Res := .next (retired s u e 4 4 { u.core e with acc := ⟨w64 n, 1#4⟩ })
     (s.anat.logicalOf e.val = none → exec (.stepmark e o) s = answer w2 1) ∧
     (∀ l : Nat, s.anat.logicalOf e.val = some l →
       (tailSlotFor w2 l = none → exec (.stepmark e o) s = answer w2 1) ∧
       (∀ j : Nat, tailSlotFor w2 l = some j →
         let w3 := tailClash w2 l j
         (bit (tailCtl w3 j) 0 = false → exec (.stepmark e o) s = answer w3 1) ∧
         (bit (tailCtl w3 j) 0 = true → sget (w3.tail j).marks l = some st → exec (.stepmark e o) s = answer w3 0) ∧
         (bit (tailCtl w3 j) 0 = true → sget (w3.tail j).marks l ≠ some st →
           let r := tailStep (w3.modTail j (fun t => { t with
             marks := sset t.marks l st, recs := sset t.recs l (markOf (w1.core e) st (w1.core e).ix0.v) })) j st
           (r.2 = false → exec (.stepmark e o) s = answer r.1 0) ∧
           (r.2 = true → exec (.stepmark e o) s = toWorld s (r.1.modEng e.val (fun x => { x with
             wait := .mark j, core := (s.w.eng e.val).core }))))))) ∧
  (∀ (s : State) (j : Fin 8), let w := s.w; let n := j.val; let t := w.tail n
     (exec (.tailArm j) s = toWorld s (if t.state = 1 ∧ allMarked s.anat w n = true then tailArm s.anat w n else w)) ∧
     (t.state = 1 → allMarked s.anat w n = false → exec (.tailWaitExpire j) s =
       toWorld s (abandonTail (w.timeTo (t.since + w64 (100000 * fld (tailCtl w n) 32 16))) n 2)) ∧
     (∀ g : BitVec 29, exec (.earlyCopy g) s = toWorld s ((List.range 8).foldl (fun v k =>
       if (v.tail k).grans.any (fun x => x.g = g.toNat ∧ x.data = none) then
         tailCount (v.modTail k (fun u => { u with grans := u.grans.map (fun x =>
           if x.g = g.toNat ∧ x.data = none then { x with data := some (granuleData v g.toNat x.kdom) } else x) })) k 2 1
       else v) w)) ∧
     (∀ (g : TailGran) (r : List TailGran), t.grans = g :: r → t.state = 3 →
       (g.data = none → hbmStatus s.anat w (4096 * g.g) ≠ none → exec (.granuleCopy j) s = toWorld s (abandonTail w n 4)) ∧
       (∀ d : List Byte, g.data = some d ∨ g.data = none ∧ hbmStatus s.anat w (4096 * g.g) = none ∧ d = granuleData w g.g g.kdom →
         let w1 := imgWrite s.anat n g.dst d (w.modTail n (fun u => { u with grans := r }))
         exec (.granuleCopy j) s = toWorld s (if (w1.tail n).state = 3 then tailCount w1 n 3 4096 else w1))) ∧
     (t.state = 3 → t.grans = [] → t.reps.length ≤ t.done →
       unitWrites w (tailRef n 0) = false → unitWrites w (tailRef n 1) = false →
       (((w.ubuf (tailRef n 0)).werr ≠ none ∨ (w.ubuf (tailRef n 1)).werr ≠ none) → ((abandonTail w n 3).tail n).state ≠ 3 →
         exec (.snapshotCommit j) s = toWorld s (abandonTail w n 3)) ∧
       ((w.ubuf (tailRef n 0)).werr = none → (w.ubuf (tailRef n 1)).werr = none → ((commitEnd w n).tail n).state ≠ 3 →
         exec (.snapshotCommit j) s = toWorld s (commitEnd w n))) ∧
     (t.state = 3 → t.grans = [] → t.done < t.reps.length →
       unitWrites w (tailRef n 0) = false → unitWrites w (tailRef n 1) = false →
       (w.ubuf (tailRef n 0)).werr = none → (w.ubuf (tailRef n 1)).werr = none →
       let w1 := commitRep s.anat w n t.done
       unitWrites w1 (tailRef n 0) = true ∨ unitWrites w1 (tailRef n 1) = true →
         exec (.snapshotCommit j) s = toWorld s w1)) ∧
  (∀ (s : State) (j : Fin 8), let w := s.w; let n := j.val; let t := w.tail n
     ((t.state = 1 ∨ t.state = 2 ∨ t.state = 3 ∨ t.state = 4) → exec (.base j) s = toWorld s (tailEvent w n 2) ∧
       (∀ (r : Fin 3) (v : W64), exec (.tailRegWrite j r v) s = toWorld s (tailEvent w n 2)) ∧
       (t.state ≠ 4 → exec (.restore j) s = toWorld s (tailEvent w n 2)) ∧
       exec (.tailAbort j) s = toWorld s (abandonTail w n 1)) ∧
     ((t.state = 0 ∨ t.state = 5) → exec (.tailAbort j) s = toWorld s (tailEvent w n 2) ∧
       exec (.base j) s = toWorld s (tailBaseCmd w n) ∧
       ((tailBaseCmd w n).tail n).used = 0 ∧ ((tailBaseCmd w n).tail n).base = true ∧ ((tailBaseCmd w n).tail n).state = 0 ∧
       (∀ v : W64, exec (.tailRegWrite j 0 v) s = toWorld s (w.setReg (tailBase n + 0x28) (v &&& 0xFFFFFFFFF000#64)) ∧
         exec (.tailRegWrite j 1 v) s = toWorld s (w.setReg (tailBase n + 0x30) (v &&& 0xFFFFFFF#64)) ∧
         exec (.tailRegWrite j 2 v) s = toWorld s (w.modTail n (fun u => { u with step := v }))) ∧
       let w1 := w.modTail n (fun u => { u with
         state := 4, half := false, used := 0, list := 0, marks := [], recs := [], due := [], owed := false })
       (repChains s.anat w1 n = [] → exec (.restore j) s = toWorld s (clearUbuf (clearUbuf (tailEvent
         (w1.modTail n (fun u => { u with state := 0, reason := 0x81 })) n 9) (tailRef n 0)) (tailRef n 1))) ∧
       (∀ (p : Nat × Nat) (l : List (Nat × Nat)) (w2 : World), repChains s.anat w1 n = p :: l →
         (runUnit (tailEnv s.anat w1 n p.1 p.2) (restoreProg s.anat n) w1 = (none, w2) →
           exec (.restore j) s = toWorld s w2) ∧
         (runUnit (tailEnv s.anat w1 n p.1 p.2) (restoreProg s.anat n) w1 = (some (.ok none), w2) →
           exec (.restore j) s = toWorld s (clearUbuf (clearUbuf (tailEvent (w2.modTail n (fun u => { u with state := 0 })) n 8)
             (tailRef n 0)) (tailRef n 1))))))

/-- The host's accesses to BAR0 (R9, R41 to R43, R45, R553, R556): a read is completed with the register's bytes, a wrong
size or place sets ALIGN, a die that does not run sets its bit and reads as ones, a reserved offset reads as zero and takes
no write, a field changes by its own code, and a degraded link answers Unsupported Request. The host's window into device
memory (R553, R558, R559, R568): reads are completed with the bytes, poisoned ones as such, under the domain of the frame;
what may not be reached completes with an error and counts. -/
def Obligations.HostAccesses : Prop :=
  (∀ (s : State) (f : Fin 65) (off : BitVec 27) (n : BitVec 13) (l : List Byte) (tee : Bool),
     let w := s.w; let o := off.toNat; let b := o / 8 * 8; let k := n.toNat; let v := w64 (leNat l)
     let done (u : World) (x : W64) : Res := toWorld s (u.emit (.cpl 0 (leBytes k x.toNat)))
     (barReaches w f.val o k = true → barUnsupported w f.val tee = true →
       exec (.bar0Read f off n tee) s = toWorld s (w.emit (.cpl 3 []))) ∧
     (barUnsupported w f.val tee = true → exec (.bar0Write f off l tee) s = toWorld s w) ∧
     (barUnsupported w f.val tee = false →
       (barReaches w f.val o k = true → barAligned o k = false → exec (.bar0Read f off n tee) s = done (barErr w 4) 0#64) ∧
       (barReaches w f.val o l.length = true → barAligned o l.length = false →
         exec (.bar0Write f off l tee) s = toWorld s (barErr w 4)) ∧
       (f.val = 0 → barReaches w 0 o k = true → barAligned o k = true →
         (∀ d : Nat, barAbsent s.anat o = some d → exec (.bar0Read f off n tee) s = done (barErr w d) (ones 64 0 (8 * k))) ∧
         (barAbsent s.anat o = none → exec (.bar0Read f off n tee) s =
           done w (if 0x18000 ≤ o ∧ o < 0x20000 then 0#64 else barPart (barView s.anat w b) o k))) ∧
       (f.val = 0 → barReaches w 0 o l.length = true → barAligned o l.length = true →
         (∀ d : Nat, barAbsent s.anat o = some d → exec (.bar0Write f off l tee) s = toWorld s (barErr w d)) ∧
         (barSpec b = none → barAbsent s.anat o = none → exec (.bar0Write f off l tee) s = toWorld s w) ∧
         (∀ r : RegSpec, b < 0x10000 → barSpec b = some r → r.ctr = true ∨ r.rw ||| r.w1c ||| r.w1s ≠ 0#64 →
           exec (.bar0Write f off l tee) s =
             toWorld s (w.setReg b (regWrite r (barView s.anat w b) (barMerge r (barView s.anat w b) v o l.length)))) ∧
         (∀ r : RegSpec, b < 0x10000 → barSpec b = some r → r.ctr = false → r.rw ||| r.w1c ||| r.w1s = 0#64 →
           exec (.bar0Write f off l tee) s = toWorld s w)) ∧
       (f.val ≠ 0 → barReaches w f.val o k = true → barAligned o k = true →
         exec (.bar0Read f off n tee) s = done w (barPart (vfView s.anat w f.val b) o k)) ∧
       (f.val ≠ 0 → barReaches w f.val o l.length = true → barAligned o l.length = true → vfPlace f.val b = none →
         exec (.bar0Write f off l tee) s = toWorld s w))) ∧
  (∀ (s : State) (o : BitVec 40) (n : BitVec 13) (l : List Byte),
     let w := s.w; let k := n.toNat; let off := bar2Off w o.toNat; let d := bar2Dom w off
     w.pcieUp = true →
     (bar2Fits w o.toNat k = true →
       (hifDegraded w = true → exec (.bar2Read o n) s = toWorld s (w.emit (.cpl 3 []))) ∧
       (hifDegraded w = false → bar2Refused s.anat w off k = true →
         exec (.bar2Read o n) s = toWorld s ((bar2Count w).emit (.cpl 2 []))) ∧
       (hifDegraded w = false → bar2Refused s.anat w off k = false →
         let b := (dataOnly w w.mem d off k (inTagged w.places off)).1
         let w1 := (blocks (atOff off (offsets b)) 128).foldl (fun v x =>
           pierAccess v (x / 128) 3 (hostPart w off) 7 d false true false) w
         (poisonIn w.mem w.ks w.places off k = none → exec (.bar2Read o n) s = toWorld s (w1.emit (.cpl 0 b))) ∧
         (poisonIn w.mem w.ks w.places off k ≠ none →
           exec (.bar2Read o n) s = toWorld s ((w1.countReg 0x2E110 1).emit (.cpl 1 b))))) ∧
     (bar2Fits w o.toNat l.length = true →
       let b := atOff off (offsets l)
       (hifDegraded w = true → exec (.bar2Write o l) s = toWorld s w) ∧
       (hifDegraded w = false → (bar2Refused s.anat w off l.length = true ∨ inTables w off l.length = true ∨ coversSealed w b = true) →
         exec (.bar2Write o l) s = toWorld s (bar2Count w)) ∧
       (hifDegraded w = false → bar2Refused s.anat w off l.length = false → inTables w off l.length = false →
         coversSealed w b = false → exec (.bar2Write o l) s =
           toWorld s (if inLockedChan w off l.length then w.countReg 0x2E120 1 else unitCommit w 3 (hostPart w off) 7 d .raw b))))

/-- Functions and the link (R553, R555, R562, R568, R569): training sets `HIF_STAT`, losing the link empties the host's
state, resets of functions stop the channels of their owners, unmasking sends a pending message, configuration sets its
fields, and a failed IDE stream puts the interfaces bound to it in ERROR. -/
def Obligations.HostFunctions : Prop :=
  ∀ (s : State), let w := s.w
    (∀ (sp : BitVec 3) (wd : BitVec 5), pcieRuns s.anat w = true → w.host.perstHigh = true → w.pcieUp = false →
      (sp = 1#3 ∨ 5#3 ≤ sp) → exec (.linkUp sp wd) s = toWorld s ({ w with pcieUp := true }.setReg 0x2E000
        (packW [(8, wd.toNat), (4, if sp < 5#3 ∨ wd < 4#5 then 1 else 0), (3, if 6#3 ≤ sp then 1 else 0), (0, sp.toNat)]))) ∧
    (∀ b : Bool, w.pcieUp = true →
      let u := hifEvent ((((mbReset { w with
        pcieUp := false, host := { w.host with fns := [], vfEn := false, bar2Log := 30, ide := [] } }).setReg 0x2E000 0#64).clearRegs
          0x2C000 0x400).countReg 0x2E118 1) 0
      exec (.linkDown b) s = toWorld s (if b then { u with host := { u.host with perstHigh := false } } else u)) ∧
    (∀ v : Fin 64, fnPresent w (1 + v.val) = true → (w.fn (1 + v.val)).flr = false →
      exec (.vfFlr v) s = toWorld s (vfReset w v.val)) ∧
    (w.pcieUp = true → (w.fn 0).flr = false →
      let u := (((mbReset (stopOwners w (fun t => t.oper))).clearRegs 0x20000 0x1000).clearRegs 0x2C000 0x20).modFn 0 (fun x =>
        { x with msixEn := false, busMaster := false, flr := true })
      exec .pfFlr s = toWorld s (hifEvent ((List.range 64).foldl vfReset { u with host := { u.host with vfEn := false } }) 1)) ∧
    (∀ f : Fin 65, exec (.flrComplete f) s = toWorld s (w.modFn f.val (fun x => { x with flr := false }))) ∧
    (∀ (f : Fin 65) (r : CfgReq), w.pcieUp = true →
      ((w.fn f.val).flr = true ∨ w.dict.up = false → exec (.configurationRequest f r) s = toWorld s (w.emit (.cpl 4 []))) ∧
      ((w.fn f.val).flr = false → w.dict.up = true → fnPresent w f.val = false →
        exec (.configurationRequest f r) s = toWorld s (w.emit (.cpl 3 []))) ∧
      ((w.fn f.val).flr = false → w.dict.up = true → fnPresent w f.val = true →
        (∀ b : Bool, r = .msixEnable b → exec (.configurationRequest f r) s =
          toWorld s ((w.modFn f.val (fun x => { x with msixEn := b })).emit (.cpl 0 []))) ∧
        (∀ b : Bool, r = .busMaster b → exec (.configurationRequest f r) s =
          toWorld s ((w.modFn f.val (fun x => { x with busMaster := b })).emit (.cpl 0 []))) ∧
        (∀ b : Bool, r = .vfEnable b → f.val = 0 → exec (.configurationRequest f r) s =
          toWorld s ({ w with host := { w.host with vfEn := b } }.emit (.cpl 0 []))) ∧
        (∀ k : BitVec 6, r = .bar2Size k → f.val = 0 → 30 ≤ k.toNat → k.toNat ≤ 40 → exec (.configurationRequest f r) s =
          toWorld s ({ w with host := { w.host with bar2Log := k.toNat } }.emit (.cpl 0 []))))) ∧
    (∀ i : Fin 5, w.pcieUp = true → i.val ∈ w.host.ide → exec (.ideErr i) s =
      toWorld s ((((List.range 64).map (fun k => k + 1)).filter (fun f => decide ((w.fn f).tdiStream = some i.val) &&
        (decide ((w.fn f).tdi = 1) || decide ((w.fn f).tdi = 2)))).foldl tdiError (hifEvent w 4))) ∧
    (∀ (f : Fin 65) (v : Byte), fnPresent w f.val = true → hifDegraded w = false → v.toNat < msixCount f.val →
      let p := msixPba f.val v.toNat
      let u := w.setReg (msixEntry f.val v.toNat + 8) (setBit (w.reg (msixEntry f.val v.toNat + 8) 0x100000000#64) 32 false)
      ((bit (u.reg p 0#64) (v.toNat % 64) = false ∨ (w.fn f.val).msixEn = false ∨ (w.fn f.val).busMaster = false) →
        exec (.msixUnmask f v) s = toWorld s u) ∧
      (bit (u.reg p 0#64) (v.toNat % 64) = true → (w.fn f.val).msixEn = true → (w.fn f.val).busMaster = true →
        exec (.msixUnmask f v) s = toWorld s ((u.setReg p (setBit (u.reg p 0#64) (v.toNat % 64) false)).emit (.msix f.val v.toNat))))

/-- SPDM (R564 to R568): requests are answered in the order of the protocol, with UnexpectedRequest otherwise; a session
carries key updates, import keys, stream keys and interface locks, and ends with them. -/
def Obligations.SecureSessions : Prop :=
  ∀ (s : State) (f : Fin 65), let w := s.w; let x := w.fn f.val
    spdmUp w f.val = true →
    let ans (u : World) (k : Nat) : Res := toWorld s (spdmAnswer u f.val k)
    exec (.getVersion f) s = ans (w.modFn f.val (fun y => { y with spdm := 1 })) 0 ∧
    (x.spdm = 1 → exec (.getCapabilities f) s = ans (w.modFn f.val (fun y => { y with spdm := 2 })) 0) ∧
    (x.spdm = 2 → exec (.negotiateAlgorithms f true) s = ans (w.modFn f.val (fun y => { y with spdm := 3 })) 0 ∧
      exec (.negotiateAlgorithms f false) s = ans w 1) ∧
    (∀ (i k : BitVec 4) (m : Byte) (g : Bool), x.spdm ≠ 3 → ∀ c ∈ ([.getDigests f, .getCertificate f i, .challenge f k,
      .getMeasurements f m, .keyExchange f g] : List Instr), exec c s = ans w 4) ∧
    (x.spdm = 3 → exec (.getDigests f) s = ans (w.modFn f.val id) 0 ∧
      (∀ i : BitVec 4, exec (.getCertificate f i) s = if i ≤ 1#4 then ans (w.modFn f.val id) 0 else ans w 1) ∧
      (∀ i : BitVec 4, exec (.challenge f i) s = if i = 0#4 then ans (w.modFn f.val id) 0 else ans w 1) ∧
      (∀ m : Byte, exec (.getMeasurements f m) s = if m ≤ 5#8 ∨ m = 255#8 then ans (w.modFn f.val id) 0 else ans w 1) ∧
      (x.sess = 0 → exec (.keyExchange f true) s = ans (w.modFn f.val (fun y => { y with sess := 1, keyUpd := 0 })) 0)) ∧
    (x.sess = 1 → exec (.finish f true) s = ans (w.modFn f.val (fun y => { y with sess := 2 })) 0 ∧
      exec (.finish f false) s = ans (w.modFn f.val (fun y => { y with sess := 0 })) 1) ∧
    (x.sess ≠ 2 → exec (.endSession f) s = ans w 4 ∧ exec (.keyUpdate f) s = ans w 4 ∧ exec (.heartbeat f) s = ans w 4) ∧
    (x.sess = 2 → exec (.endSession f) s = ans (endSession w f.val) 0 ∧
      ((endSession w f.val).fn f.val).sess = 0 ∧ (f.val = 0 → (endSession w 0).host.ide = []) ∧
      exec (.keyUpdate f) s = ans (w.modFn f.val (fun y => { y with keyUpd := y.keyUpd + 1 })) 0 ∧
      exec (.heartbeat f) s = ans (w.modFn f.val id) 0 ∧
      (∀ (v : Fin 64) (k : Byte), f.val = 1 + v.val →
        exec (.setImportKey v k false) s = ans w 2 ∧
        (w.host.unlocked = true → exec (.setImportKey v k true) s = ans w 1) ∧
        (w.host.unlocked = false → k ≠ 0#8 → bit (kdtWord w k 0) 8 = false → fld (kdtWord w k 0) 16 6 = v.val →
          fld (kdtWord w k 0) 0 4 = 1 → (w.ks.get k.toNat).state = 1 → exec (.setImportKey v k true) s =
            ans ({ w with freeCtr := w.freeCtr + 1 }.setDom k.toNat { w.ks.get k.toNat with
              imp := some (Config.free w.freeCtr % 2 ^ 256), lastCtr := some 0#64 }) 0)) ∧
      (f.val = 0 → (∀ i : Fin 5, let l := w.host.ide.filter (fun y => y ≠ i.val)
          exec (.ideKm i true) s = ans { w with host := { w.host with ide := i.val :: l } } 0 ∧
          exec (.ideKm i false) s = ans { w with host := { w.host with ide := l } } 0) ∧
        (∀ v : Fin 64, let y := w.fn (1 + v.val)
          let go (t : Nat) (st : Option Nat) : Res := ans (w.modFn (1 + v.val) (fun z => { z with tdi := t, tdiStream := st })) 0
          (∀ i : Fin 5, exec (.tdisp v (.lock i)) s =
            if y.tdi = 0 ∧ 1 ≤ i.val ∧ i.val ∈ w.host.ide then go 1 (some i.val) else ans w 1) ∧
          exec (.tdisp v .start) s = (if y.tdi = 1 then go 2 y.tdiStream else ans w 1) ∧
          exec (.tdisp v .stop) s = go 0 none) ∧
        (s.anat.part ≠ .d48 → exec (.debugUnlock true) s = ans w 1) ∧ exec (.debugUnlock false) s = ans w 1 ∧
        (s.anat.part = .d48 →
          let u := endSessions (spdmAnswer (((List.range 255).map (fun i => i + 1)).foldl unlockErase w) 0 0)
          exec (.debugUnlock true) s = toWorld s { u with host := { u.host with unlocked := true, aliasKey := u.host.aliasKey + 1 } })))

/-- Arbitration (R571 to R584): an idle instance grants by round robin among the highest class, an owner in a transfer keeps
the grant unless a higher class preempts it, which abandons and counts its beats, and a requester stage serves the highest
priority and raises that of the losers. Operating points (R605 to R607): a request or a ceiling moves the target, a step
waits for the loop and for the end of a stretch, its commit switches the point and counts it, and a slew's end closes a
downward step. Droop and throttling (R608, R609, R615): a droop stretches the clock by its depth and counts, escalation
raises the droop ceiling or reports that it cannot, decay lowers it, and heat raises and cool lowers the thermal ceiling. -/
def Obligations.ClockingAndPowerPoints : Prop :=
  (∀ (s : State) (i : ArbInst) (rs : List ArbReq), dieRuns s.anat (26 * arbDie i) = true → s.w.pwr.gated = false →
     let w := s.w; let x := w.arb i; let l := arbSane i rs
     ((∀ p : Fin 32, i ≠ .queues p) → (arbPertHit w i 2).1 = false → (arbPertHit w i 1).2 = w → (arbPertHit w i 2).2 = w →
       let ends (y : Arb) (u : World) : Res := toWorld s (match y.owner with
         | some k => ((if decide (y.moved ≤ 1) && !l.isEmpty then (arbPertHit u i 1).2 else u).setArb i y).emit
             (.grant (arbKey i) k (turnHints (arbInputs i) y l))
         | none => (if decide (y.moved ≤ 1) && !l.isEmpty then (arbPertHit u i 1).2 else u).setArb i y)
       (x.owner = none → exec (.arbGrant i rs) s = ends (arbNew w i x l) w) ∧
       (∀ o : Nat, x.owner = some o →
         (0 < x.moved → arbHigher x l = false → (arbPertHit w i 4).1 = false → (arbPertHit w i 4).2 = w →
           exec (.arbGrant i rs) s = ends x.beat w) ∧
         (0 < x.moved → (o ∈ x.prot ∨ x.len ≤ x.moved + 1) → exec (.arbGrant i rs) s = ends x.beat w) ∧
         (arbPreempts i = true → 0 < x.moved → o ∉ x.prot → x.moved + 1 < x.len → arbHigher x l = true →
           (arbPertHit w i 4).2 = w →
           let z := arbAbandon w i x o
           exec (.arbGrant i rs) s = ends (arbNew z.2 i z.1 (l.filter (fun q => x.cls < q.cls.toNat))) z.2) ∧
         (x.moved = 0 → reqOf l o = none → exec (.arbGrant i rs) s = ends (arbNew w i x l) w) ∧
         (∀ r : ArbReq, x.moved = 0 → reqOf l o = some r → (∀ q ∈ l, q.cls.toNat ≤ r.cls.toNat) →
           (x.used + r.beats.toNat ≤ x.burst → exec (.arbGrant i rs) s = ends (x.more r) w) ∧
           (x.burst < x.used + r.beats.toNat → exec (.arbGrant i rs) s = ends (arbNew w i x l) (viaCount w (arbDie i) 2 1))))) ∧
     (∀ (p : Fin 32) (k : Nat), i = .queues p → l ≠ [] → arbPick i x (topInputs l) = some k → exec (.arbGrant i rs) s =
       toWorld s (((arbRound w i l).2.setArb i (arbRound w i l).1).emit (.grant (arbKey i) k []))) ∧
     (∀ (d : Fin 4) (v : W64), dieRuns s.anat (26 * d.val) = true →
       exec (.arbBurstWrite d v) s = toWorld s (w.setReg (viaBase d.val) (v &&& 0xFFFFFFFFFF#64)) ∧
       exec (.egrLostMaxClear d) s = toWorld s (w.setReg (viaBase d.val + 0x10) 0#64) ∧
       (∀ k : Fin 32, w.host.unlocked = true → exec (.pertSelWrite d k v) s = toWorld s (pertSelWrite w d.val k.val v)))) ∧
  (∀ (s : State) (d : Fin 4), let w := s.w; let a := s.anat; let x := w.die d.val
     (∀ v : W64, dieRuns a (26 * d.val) = true → exec (.pwrOpReqWrite d v) s =
       toWorld s (opSettle a (w.setReg (pwrBase d.val + 8) (v &&& 0xF#64)) d.val)) ∧
     (∀ st : OpStep, x.step = some st →
       exec (.opStepPllLocked d) s = toWorld s (stepUrgent a (w.modDie d.val (fun y => { y with
         step := some { st with locked := true } })) d.val) ∧
       (∀ k : BitVec 32, st.locked = true → st.done = false → x.stretch = 0 → x.slew = false → w.eclk = true →
         exec (.opStepCommit d k) s = toWorld s (opSettle a (stepCommit a
           (pwrCount (w.modDie d.val (fun y => { y with recent := false })) d.val 4 k.toNat) d.val) d.val)) ∧
       (∀ k : BitVec 32, (st.locked = false ∨ st.done = true ∨ x.stretch ≠ 0 ∨ x.slew = true ∨ w.eclk = false) →
         exec (.opStepCommit d k) s = toWorld s w)) ∧
     (∀ v : World, v = w.modDie d.val (fun y => { y with slew := false }) →
       ((v.die d.val).step = none → exec (.vengSlewDone d) s = toWorld s v) ∧
       (∀ st : OpStep, (v.die d.val).step = some st →
         (st.done = false → exec (.vengSlewDone d) s = toWorld s v) ∧
         (st.done = true → exec (.vengSlewDone d) s = toWorld s (opSettle a (pwrOpSet (v.modDie d.val (fun y => { y with
           step := none })) d.val 28 1 0) d.val))))) ∧
  (∀ (s : State) (d : Fin 4), let w := s.w; let a := s.anat; let x := w.die d.val
     let c := fld (pwrOp w d.val) 16 4; let h := fld (pwrOp w d.val) 12 4
     let t := ((w.reg (pwrBase d.val + 0x18) 0#64).extractLsb' 0 16).toInt
     (∀ m : Byte, dieRuns a (26 * d.val) = true → w.eclk = true → exec (.droopDetect d m) s =
       toWorld s (pwrCount (w.modDie d.val (fun y => { y with stretch := max y.stretch (stretchOf m.toNat) })) d.val 0 1)) ∧
     (∀ k : BitVec 32, x.stretch ≠ 0 → exec (.stretchEnd d k) s =
       toWorld s (pwrCount (w.modDie d.val (fun y => { y with stretch := 0, recent := true })) d.val 1 k.toNat)) ∧
     (x.stretch ≠ 0 →
       ((opCur w d.val = 7 ∨ 7 ≤ c) → exec (.droopEscalate d) s = toWorld s (pwrEvent w 12)) ∧
       (opCur w d.val ≠ 7 → c < 7 → exec (.droopEscalate d) s = toWorld s (opSettle a (pwrCount (pwrOpSet
         (w.modDie d.val (fun y => { y with urgent := true })) d.val 16 4 (c + 1)) d.val 2 1) d.val))) ∧
     (dieRuns a (26 * d.val) = true →
       (c ≠ 0 → exec (.droopDecay d) s = toWorld s (opSettle a (pwrOpSet w d.val 16 4 (c - 1)) d.val)) ∧
       (950 ≤ t → exec (.throttle d) s = toWorld s (opSettle a (pwrEvent (pwrOpSet w d.val 12 4 (min 7 (h + 1))) 5) d.val)) ∧
       (t < 920 → exec (.throttleRelease d) s = toWorld s (opSettle a (pwrOpSet w d.val 12 4 (h - 1)) d.val))))

/-- Telemetry and capping (R600, R610, R611, R613, R614): reports reach their registers and the energy of a window, a
missing report leads to SUSPECT, a period over the cap raises a ceiling on every die, and a window adds its shares and its
totals. Coolant and temperature (R603, R616 to R618): losing coolant stops compute, sets HELD and slews the voltages, the
hold gates clocks and after its limit disables the ports, and the return restores the slowest point and the traffic. -/
def Obligations.PowerAndCoolant : Prop :=
  (∀ s : State, s.w.pwr.supply = 2 → let w := s.w; let a := s.anat
     (∀ (r vio vopt : RailRep) (p : BitVec 32) (l : List (List RailRep)),
       let w1 := railWrite (railWrite (railWrite w 0x400010 r) 0x400018 vio) 0x400020 vopt
       let w2 := (liveDies a).foldl (fun v d => ((List.range 5).zip (l.getD d [])).foldl (fun u x =>
         railWrite u (pwrBase d + 0x100 + 8 * x.1) x.2) v) w1
       let w3 : World := { w2 with pwr := { w2.pwr with
         energy := w2.pwr.energy + 50 * p.toNat, period := w2.pwr.period + 50 * p.toNat
         volts := (r.volt.toNat :: w2.pwr.volts).take 20, missing := false } }
       let w4 := if vIn w3 < 48000 then pwrEvent w3 3 else w3
       let w5 := if 58000 < vIn w3 then pwrEvent w4 4 else w4
       exec (.railSample r p l vio vopt) s = toWorld s (if 6500000 < p.toNat ∨ 12000 < r.cur.toNat
         then (liveDies a).foldl (fun v d => if fld (pwrOp v d) 8 4 < 7 then opSettle a (pwrOpSet (v.modDie d (fun x => { x with
           urgent := true })) d 8 4 (fld (pwrOp v d) 8 4 + 1)) d else v) (pwrEvent (w5.countReg 0x400800 1) 11)
         else w5)) ∧
     exec .telemetryMissing s = toWorld s (toSuspect { w with pwr := { w.pwr with missing := true } }) ∧
     (∀ m : BitVec 32,
       let f := if capMode w = 0 then m.toNat * 1000000 else if capMode w = 1 then w.pwr.period else m.toNat * 1100000
       let w1 := capSet (capSet { w with pwr := { w.pwr with period := 0 } } 32 16 (capOf w / 1000000 % 65536)) 16 16 (min (f / 1000000) 65535)
       (w.av.fw.isSome = true → exec (.cappingPeriod m) s = toWorld s w1) ∧
       (w.av.fw = none → capOf w < f → exec (.cappingPeriod m) s =
         toWorld s ((liveDies a).foldl (fun v d => if bit (pwrOp v d) 28 = false ∧ fld (pwrOp v d) 8 4 < 7
           then opSettle a (pwrOpSet v d 8 4 (fld (pwrOp v d) 8 4 + 1)) d else v) { w1 with pwr := { w1.pwr with calm := 0 } })) ∧
       (w.av.fw = none → f ≤ capOf w → 95 * capOf w < 100 * f →
         exec (.cappingPeriod m) s = toWorld s { w1 with pwr := { w1.pwr with calm := 0 } }) ∧
       (w.av.fw = none → 100 * f ≤ 95 * capOf w → w1.pwr.calm < 4 →
         exec (.cappingPeriod m) s = toWorld s { w1 with pwr := { w1.pwr with calm := w1.pwr.calm + 1 } })) ∧
     (∀ sh : List (BitVec 7 × BitVec 48), (∀ x ∈ sh, x.1.toNat ≤ 65) →
       let l := sh.map (fun x => (x.1.toNat, x.2.toNat))
       let m := l.foldl (fun k x => k + x.2) 0
       let e := w.pwr.energy / 1000
       let w1 := windowMode { w with pwr := { w.pwr with energy := w.pwr.energy % 1000 } } m e
       capMode w1 ≠ 1 → exec (.modelWindow sh) s =
         toWorld s (accumulate (accumulate (l.foldl (fun v x => accumulate v x.1 x.2) w1) 66 e) 67 m)) ∧
     (∀ (k n : Nat), (w.reg (0x400100 + 16 * k) 0#64).toNat + n < 2 ^ 64 →
       accumulate w k n = w.setReg (0x400100 + 16 * k) (w64 ((w.reg (0x400100 + 16 * k) 0#64).toNat + n)))) ∧
  (∀ s : State, let w := s.w; let a := s.anat
     (w.pwr.supply = 2 → let w0 := w.setReg 0x400028 (setBit (w.reg 0x400028 0#64) 32 false)
       (w0.held = true → exec .coolantLoss s = toWorld s w0) ∧
       (w0.held = false → w.timeRun = false → exec .coolantLoss s = toWorld s (capSet w0 1 1 1)) ∧
       (w0.held = false → w.timeRun = true →
         let w1 := sendPause (pwrEvent ((capSet w0 1 1 1).countReg 0x400810 1) 7) true
         exec .coolantLoss s = toWorld s { [0, 1, 2, 3].foldl (fun v d => vengSet (pwrOpSet (v.modDie d (fun x => { x with
           step := none, slew := false, stretch := 0, urgent := false })) d 28 1 0) d 5500) w1 with eclk := false })) ∧
     (w.held = true → w.timeRun = true →
       (w.eclk = false → exec .coolantHeldStopped s =
         toWorld s { w with fes := w.fes.map (fun x => (x.1, x.2.quiet)), pwr := { w.pwr with gated := true } }) ∧
       (let l := (List.range 32).filter (fun p => bit (lnkCtl w p) 0)
         let w1 := l.foldl (fun v p => lnkEnable a v p false) w
         exec .holdLimit s = toWorld s { w1 with pwr := { w1.pwr with limited := w1.pwr.limited ++ l } }) ∧
       (w.pwr.refStop = true ∨ bit (capStat w) 0 = true ∧ coolEnough a w = false → exec .coolantRestored s = toBoth s (a, w)) ∧
       (w.pwr.refStop = false → (bit (capStat w) 0 = false ∨ coolEnough a w = true) →
         let w1 := (capSet w 0 2 0).setReg 0x400028 (setBit (w.reg 0x400028 0#64) 32 true)
         let w2 := (liveDies a).foldl (fun v d => vengSet (pwrOpSet (pwrOpSet v d 8 4 7) d 0 4 7) d (setVolt v d 7 (opBand v d))) w1
         let w4 := (liveDies a).foldl (fun v d => opSettle a v d) { w2 with eclk := true, pwr := { w2.pwr with
           gated := false, calm := 0 } }
         let w5 := pwrEvent (sendPause w4 false) 8
         let w6 := w5.pwr.limited.foldl (fun v p => lnkEnable a v p true) { w5 with pwr := { w5.pwr with limited := [] } }
         exec .coolantRestored s = toBoth s (migAll (a, (List.range 32).foldl (fun v p =>
           portDrain p (v.port p).egress.length v) w6)))) ∧
     (∀ (j h : List (BitVec 16)) (i o : BitVec 16), w.pwr.supply = 2 →
       let js (d : Nat) := (j.drop (16 * d)).take 16
       let hs (d : Nat) := (h.drop (6 * d)).take 6
       let w1 := w.setReg 0x400028 (setFld (setFld (w.reg 0x400028 0#64) 0 16 i.toNat) 16 16 o.toNat)
       let w3 := (liveDies a).foldl (fun v d => tempDie a v d (js d) (hs d)) (if 400 < i.toInt then pwrEvent w1 9 else w1)
       ((∀ d ∈ liveDies a, ∀ x ∈ js d ++ hs d, x.toInt < 1050) → exec (.tempSample j h i o) s = toWorld s w3) ∧
       (∀ d ∈ liveDies a, ∀ x ∈ js d ++ hs d, 1050 ≤ x.toInt →
         exec (.tempSample j h i o) s = toWorld s (coolantStop (pwrEvent (capSet w3 0 1 1) 6)))) ∧
     (∀ (b : Nat) (t : Int), b ≤ 3 → let r := bandOf b t
       r ≤ 3 ∧ (∀ k : Nat, 1 ≤ k → k ≤ 3 → bandLimit k ≤ t → k ≤ r) ∧ (b < r → bandLimit r ≤ t) ∧
         (r < b → t ≤ bandLimit (r + 1) - 20) ∧ (1 ≤ r → r ≤ b → bandLimit r - 20 < t)))

/-- Service (R624, R626): a minute of service is counted, every 600,000th moves the voltages, and a forecast below a year is
reported. Supervisors and dies (R33, R34, R570, R643, R644, R687): a takeover gives the role to the lowest supervisor that
runs and ends the sessions, supervisors restart in descending order and the pointer is written last, and a lost die's
engines are absent. -/
def Obligations.ServiceAndSupervisors : Prop :=
  (∀ s : State, let w := s.w
     ((∀ d ∈ s.anat.dies, d.sup = false) → exec .serviceMinute s = toWorld s w) ∧
     (∀ d ∈ s.anat.dies, d.sup = true →
       let v : World := { w with av := { w.av with minutes := w.av.minutes + 1 } }
       exec .serviceMinute s =
         toWorld s (if (w.av.minutes + 1) % 600000 = 0 then (liveDies s.anat).foldl (fun u k => opSlew s.anat u k) v else v)) ∧
     (supRuns s.anat s.anat.super = true →
       let h := [1, 2, 3, 4, 5].map (fun k => if spareUsed w k = 0 then 0xFFFFFFFF else spareFree s.anat w k * 8760 / spareUsed w k)
       let v : World := { w with av := { w.av with hours := h } }
       ((∀ x ∈ h, 8760 ≤ x) → exec .spareForecast s = toWorld s v) ∧
       (∀ x ∈ h, x < 8760 → exec .spareForecast s = toWorld s (avEvent v 11)))) ∧
  (∀ s : State, let w := s.w; let a := s.anat
     (∀ d : Fin 4, let x := a.dies.getD d.val ⟨false, false, false⟩
       (x.up = true → x.lost = false →
         exec (.supervisorHeartbeat d) s =
           toBoth s ({ a with dies := lmod a.dies d.val (fun y => { y with sup := true }) }, w) ∧
         let y := dieHold (a, w) d.val
         exec (.dieLost d) s = toBoth s (y.1, slotLost y.1 (avEvent y.2 7))) ∧
       ((x.up = false ∨ x.lost = true) →
         exec (.supervisorHeartbeat d) s = toBoth s (a, w) ∧ exec (.dieLost d) s = toBoth s (a, w))) ∧
     (∀ (o : StoreOut) (d : Nat), let a1 := { a with dies := lmod a.dies a.super (fun y => { y with sup := false }) }
       [0, 1, 2, 3].find? (supRuns a1) = some d → d ≠ a.super →
       let v := avEvent (endSessions w) 9
       exec (.supervisorTakeover o) s = toBoth s ({ a1 with super := d }, if v.dict.up then takeoverDict { a1 with super := d } v o else v)) ∧
     (∀ (o : StoreOut) (r : FwRun), w.av.fw = some r →
       exec (.supervisorRestarted false o) s = toBoth s (migAll (a, fwEnd w 2 1)) ∧
       (∀ d : Nat, fwNext a r = some d →
         let r1 : FwRun := { r with done := d :: r.done }
         (fwWaiting a r1 = [] → exec (.supervisorRestarted true o) s = toBoth s (migAll (a, fwFinish a w r1 o))) ∧
         (fwWaiting a r1 ≠ [] → fwWaiting a r1 ≠ [a.super] → exec (.supervisorRestarted true o) s =
           toBoth s (a, { w with av := { w.av with fw := some r1 } })))) ∧
     (∀ (r : FwRun) (d : Nat), fwNext a r = some d → d = a.super → ∀ k ∈ fwWaiting a r, k = a.super))

/-- Live migration and engine reset (R633 to R637, R703): a request queues, the switch binds the logical engine to the
engine of its own die and carries the core, abandoning tests the target, and an engine reset of a bound engine starts the
monitor. -/
def Obligations.Migrations : Prop :=
  ∀ s : State, let w := s.w; let a := s.anat
    (∀ (l : Fin 96) (y : Fin 3), (a.physOf l.val = none → exec (.migrationRequest l y) s = toBoth s (a, w)) ∧
      (∀ p : Nat, a.physOf l.val = some p → (y = 0 → (w.eng p).locked ≠ none) → (∀ m ∈ w.av.migs, m.l ≠ l.val) →
        dieRuns a p = true → exec (.migrationRequest l y) s = toBoth s (migNext (a, { w with av := { w.av with
          migs := w.av.migs ++ [⟨l.val, p, none, y.val + 1⟩] } }) (l.val / 24)))) ∧
    (∀ (l : Fin 96) (m : Mig) (d : Nat), w.av.migs.find? (fun x => decide (x.l = l.val)) = some m → m.dst = some d →
      exec (.migrationAbandon l) s = toBoth s (migNext (toTest (a.modRemap l.val (fun r => { r with migrating := false }),
        dropMig w l.val) d false) (l.val / 24)) ∧
      (∀ k : BitVec 13, d / 26 = l.val / 24 → m.src ≠ d → d < 104 → m.src < 104 → (w.eng m.src).sb = [] → w.eclk = true →
        ((w.eng m.src).locked.isSome = true ∨ migReady (w.eng m.src) k.toNat = true) →
        exec (.migrationSwitch l k) s = toBoth s (migSwitch (a, w) m d k.toNat)) ∧
      (∀ k : BitVec 13, (d / 26 ≠ l.val / 24 ∨ m.src = d) → (w.eng m.src).sb = [] →
        exec (.migrationSwitch l k) s = toBoth s (a, w))) ∧
    (∀ e : Fin 104, dieRuns a e.val = true →
      let w1 := leaseEnd (flushEngine (drainLocal a e.val (w.eng e.val).sb.length w) e.val) e.val
      let y := (w1.eng e.val).discardSpec
      let w2 := (w1.setEng e.val { Engine.reset with core := y.core.start, ctrs := y.ctrs.filter (fun p => !startCounters p.1) }).setReg
        (engBase e.val + 0x810) 0x100#64
      (a.logicalOf e.val = none → exec (.engineReset e) s = toWorld s w2) ∧
      (∀ l : Nat, a.logicalOf e.val = some l → exec (.engineReset e) s = toWorld s (w2.setEng e.val
        { Engine.reset with core := { Core.reset with pc := w64 w2.places.entry } })))

/-- Self-test and retirement (R627 to R632, R638, R639): the next engine in turn is tested or migrated, a pass returns it to
the spares and a failure retires it, and a trigger retires its resource by the rule of its class. Spare rows and
pseudo-channels (R626 to R630): a row is journalled and copied into the next spare row of its stack, a pseudo-channel into
the stack's spare one; at the end of the copy the journal entry is done. -/
def Obligations.TestsAndRetirement : Prop :=
  (∀ s : State, let w := s.w; let a := s.anat
     (∀ p : Nat, ((List.range 104).map (fun i => (w.av.turn + i) % 104)).find? (fun k =>
         decide (a.stOf k ≠ .retired) && decide (a.stOf k ≠ .absent)) = some p →
       let x : Anat × World := (a, { w with av := { w.av with turn := (p + 1) % 104 } })
       (a.stOf p = .spare → exec .selftestStart s = toBoth s (toTest x p false)) ∧
       (a.stOf p = .active → a.spare (p / 26) = none → exec .selftestStart s = toBoth s (a, avEvent x.2 12)) ∧
       (∀ l : Nat, a.stOf p = .active → a.spare (p / 26) ≠ none → a.logicalOf p = some l →
         exec .selftestStart s = toBoth s (migRequest x l 3)) ∧
       ((a.stOf p = .selfTest ∨ a.stOf p = .target) → exec .selftestStart s = toBoth s x)) ∧
     (∀ p : Fin 104, a.stOf p.val = .selfTest → (∃ t ∈ w.av.tests, t.1 = p.val) →
       exec (.selftestDone p true) s = toBoth s (migNext (a.setPhys p.val 0x7F .spare, { w with av := { w.av with
         tests := w.av.tests.filter (fun t => decide (t.1 ≠ p.val)) } }) (p.val / 26)) ∧
       exec (.selftestDone p false) s = toBoth s (toRetired (a, journalAdd w 1 [p.val] 2) p.val)) ∧
     (∀ p : Fin 104, dieRuns a p.val = true →
       (∀ l : Nat, a.stOf p.val = .active → a.logicalOf p.val = some l →
         exec (.retirement (.engine p)) s = toBoth s (migRequest (a, journalAdd w 1 [p.val] 2) l 2)) ∧
       ((a.stOf p.val = .spare ∨ a.stOf p.val = .selfTest) →
         exec (.retirement (.engine p)) s = toBoth s (toRetired (a, journalAdd w 1 [p.val] 2) p.val)) ∧
       ((a.stOf p.val = .retired ∨ a.stOf p.val = .absent ∨ a.stOf p.val = .target) →
         exec (.retirement (.engine p)) s = toBoth s (a, w))) ∧
     (∀ (p : Fin 128) (k : Fin 16), pierUp a p.val = true → exec (.retirement (.way p k)) s = toBoth s (a, wayRetire w p.val k.val)) ∧
     (∀ h : Fin 24, stackUp a w h.val = true →
       exec (.retirement (.stack h)) s = toBoth s (a, stackLost w h.val) ∧
       (∀ pc : Fin 64, exec (.retirement (.pc h pc)) s = toBoth s (a, pcRetire w h.val pc.val) ∧
         (∀ (b : Fin 16) (r : Nat), exec (.retirement (.row h pc b r)) s = toBoth s (a, rowSpare w h.val pc.val b.val r))))) ∧
  (∀ (s : State) (h : Fin 24) (pc : Fin 64),
     let r := s.w.stack h.val
     (∀ (b : Fin 16) (row : Nat), let k := (pc.val, b.val, row)
       stackUp s.anat s.w h.val = true → r.copying.contains k = false → r.used < 4096 →
       exec (.rowSpare h pc b row) s = toWorld s ((journalAdd s.w 5 [h.val, pc.val, b.val, row] 4).setStack h.val
         { r with used := r.used + 1, copying := k :: r.copying })) ∧
     (∀ (b : Fin 16) (row : Nat), let k := (pc.val, b.val, row)
       r.copying.contains k = true →
       exec (.rowSpareDone h pc b row []) s = toWorld s (journalDone (s.w.setStack h.val
         { r with copying := r.copying.filter (fun x => decide (x ≠ k)), spared := k :: r.spared })
         (fun j => decide (j.cls = 5) && decide (j.res = [h.val, pc.val, b.val, row])))) ∧
     (stackUp s.anat s.w h.val = true →
       (r.pcCopy = none → r.pcGone = none →
         exec (.pcRetire h pc) s = toWorld s ((journalAdd s.w 4 [h.val, pc.val] 5).setStack h.val { r with pcCopy := some pc.val })) ∧
       (∀ q : Nat, r.pcCopy = none → r.pcGone = some q → q ≠ pc.val → exec (.pcRetire h pc) s = toWorld s (stackLost s.w h.val))) ∧
     (∀ q : Nat, r.pcCopy = some q →
       let w1 := s.w.setStack h.val { r with pcCopy := none, pcGone := some q }
       let g := 64 * h.val + q
       exec (.pcRetireDone h []) s = toWorld s (journalDone (w1.setFe g { w1.fe g with rows := [] })
         (fun j => decide (j.cls = 4) && decide (j.res = [h.val, q])))))

/-- The mailbox windows (R669 to R672): a started READ places the bytes from its offset and reports, an abort is reported by
its code, WRITE and DESCRIBE report theirs, and a request whose window was reset is performed without a report. Dictionary
writes that name one object (R643, R667, R680, R682 to R685, R690): the only generation is 1, defaults are restored by
range, an activation needs two valid copies of its bank, and a conflict is resolved by a slot that is present. -/
def Obligations.DictionaryRequests : Prop :=
  (∀ (s : State) (win : MbWin) (o : StoreOut), let w := s.w; let a := s.anat; let p := winPath win
     (∀ r : MbReq, mbNext a w p 1 = some (r, false) →
       (∀ c : Nat, dictRead a w p r.obj = .error c → exec (.mbRead win) s = toWorld s (mbAnswer w p c [] none)) ∧
       (∀ v : List Byte, dictRead a w p r.obj = .ok v →
         (v.length < r.offset → exec (.mbRead win) s = toWorld s (mbAnswer w p 5 [] (some v.length))) ∧
         (r.offset ≤ v.length → objHeld w r.obj = false →
           exec (.mbRead win) s = toWorld s (mbAnswer w p 0 ((v.drop r.offset).take r.len) (some v.length))))) ∧
     (∀ (r : MbReq) (gone : Bool), mbNext a w p 2 = some (r, gone) → (mbWriteOf a w p r o).cut = false →
       let z := mbWriteOf a w p r o
       exec (.mbWrite win o) s = toWorld s (if gone then dropSeg (dropOrphan z.w) p else mbReport z.w p z.code 1)) ∧
     (∀ r : MbReq, mbNext a w p 2 = some (r, false) → (mbWriteOf a w p r o).cut = true →
       exec (.mbWrite win o) s = toWorld s (mbWriteOf a w p r o).w) ∧
     (∀ r : MbReq, mbNext a w p 6 = some (r, false) →
       (∀ c : Nat, objAbort w r.obj = some c → exec (.mbDescribe win) s = toWorld s (mbAnswer w p c [] none)) ∧
       (objAbort w r.obj = none → exec (.mbDescribe win) s = toWorld s (mbAnswer w p 0 (describe a w p r.obj) none))) ∧
     (∀ r : MbReq, mbNext a w p 1 = some (r, true) → exec (.mbRead win) s = toWorld s (dropOrphan w)) ∧
     (∀ r : MbReq, mbNext a w p 6 = some (r, true) → exec (.mbDescribe win) s = toWorld s (dropOrphan w))) ∧
  (∀ (s : State) (o : StoreOut), let w := s.w; let a := s.anat
     serving a w = true →
     (∀ (p : DictPath) (v : Byte), objHeld w 0x100103 = false →
       exec (.genSelWrite p v) s = toWorld s (if v = 1#8 then w.modDict (fun d => { d with gen := d.gen.set (pathKey p) 1#8 }) else w)) ∧
     (∀ v : BitVec 16, objHeld w 0x101001 = false →
       (rangeNamed v.toNat = false → exec (.restoreDefaults v o) s = toWorld s w) ∧
       (rangeNamed v.toNat = true → persistRefused a w = true → exec (.restoreDefaults v o) s = toWorld s (slotLost a w)) ∧
       (rangeNamed v.toNat = true → persistRefused a w = false → exec (.restoreDefaults v o) s =
         toWorld s ((restoreObjs v.toNat).foldl (fun r obj => if r.cut then r else
           let z := storeValue a r.w obj (specOf a obj).dflt o
           ⟨if r.code = 0 then z.code else r.code, z.cut, z.w⟩) (WrRes.fail w 0)).w)) ∧
     (∀ b : Byte, objHeld w 0x303301 = false →
       (1 < b.toNat ∨ w.av.fw.isSome = true → exec (.fwActivate b o) s = toWorld s w) ∧
       (b.toNat ≤ 1 → w.av.fw = none → a.ready ≠ 6 →
         let w1 := w.modDict (fun d => { d with cur := sset d.cur 0x303301 [b] })
         (validCopies a w1 b.toNat o < 2 → exec (.fwActivate b o) s =
           toWorld s (fwStoreEvent { w1 with av := { w1.av with fwStatus := 1 } } false 3)) ∧
         (2 ≤ validCopies a w1 b.toNat o → exec (.fwActivate b o) s =
           toWorld s { w1 with av := { w1.av with fwStatus := 3, fw := some ⟨decide (b.toNat = 1), []⟩ } }))) ∧
     (∀ n : Byte, objHeld w 0x304201 = false →
       (n.toNat ∉ slotsPresent a w → exec (.storeResolve n o) s = toWorld s w) ∧
       (n.toNat ∈ slotsPresent a w → let z := w.dict.conflicts.foldl (resolveOne a n.toNat o) (WrRes.fail w 0)
         exec (.storeResolve n o) s = toWorld s (if z.cut ∨ z.code ≠ 0 then z.w
           else z.w.modDict (fun d => { d with conflicts := [], storeEvt := setBit d.storeEvt 0 false })))))

/-- Gatemi's requests (R674 to R677, R687): a frame for this module's node is served at once, or kept while no supervisor
serves; any other frame has no effect; a frame of another version is refused. What Gatemi reports (R671, R674, R678): a
transfer whose gap ends is dropped with its abort, heartbeats carry the state, event frames carry the bits that have newly
set, and bus-off is counted. -/
def Obligations.Gatemi : Prop :=
  (∀ (s : State) (f : CanFrame) (o : StoreOut), let w := s.w; let a := s.anat
     ∀ q ∈ ([(.gatemiRead f, 1, ⟨0#3, none, 0#3⟩), (.gatemiWrite f o, 2, o), (.seg f o, 4, o), (.segAck f, 5, ⟨0#3, none, 0#3⟩),
         (.gatemiDescribe f, 6, ⟨0#3, none, 0#3⟩), (.gatemiAbort f, 7, ⟨0#3, none, 0#3⟩)] : List (Instr × Nat × StoreOut)),
     let b0 := f.bytes.getD 0 0#8
     (gTaken w f = false ∨ canUp a w = false ∨ w.dict.up = false → exec q.1 s = toWorld s w) ∧
     (gTaken w f = true → canUp a w = true → w.dict.up = true → a.ready ≠ 6 →
       (fld b0 4 4 = 1 → fld b0 0 4 = q.2.1 →
         (serving a w = true → exec q.1 s = toWorld s (gServe a w 2 f.bytes q.2.2)) ∧
         (serving a w = false → w.dict.frames.length < 32 → exec q.1 s =
           toWorld s { w with dict := { w.dict with frames := w.dict.frames ++ [f.bytes] } }) ∧
         (serving a w = false → 32 ≤ w.dict.frames.length → exec q.1 s = toWorld s w)) ∧
       (fld b0 4 4 ≠ 1 → serving a w = true → exec q.1 s =
         toWorld s (gAbort a w 2 (f.bytes.getD 1 0#8) ((f.bytes.drop 2).take 3) (0xD + 128 * (bit (f.bytes.getD 5 0#8) 0).toNat))))) ∧
  (∀ s : State, let w := s.w; let a := s.anat
     (∀ p : SegPath, let k := segKey p
       (sget w.dict.segs k = none → exec (.segmentGapTimeout p) s = toWorld s w) ∧
       (∀ x : DSeg, sget w.dict.segs k = some x → exec (.segmentGapTimeout p) s =
         toWorld s (if k < 2 then mbReport (dropSeg w k) k 0xA 0 else gAbort a (dropSeg w k) k x.tid (gObj x.obj) 0xA))) ∧
     (∀ t : BitVec 32,
       let flags := (bit (capStat w) 1).toNat + 2 * (a.dies.any (fun d => d.lost)).toNat + 4 * (!w.dict.conflicts.isEmpty).toNat
       ((supRuns a a.super = true ∨ a.ready = 6) → canUp a w = true → exec (.gatemiHeartbeat t) s =
         toWorld s (w.emit (.can (14 * 128 + w.dict.node) ([BitVec.ofNat 8 a.ready, BitVec.ofNat 8 flags, 0#8, 0#8] ++ leBytes 4 t.toNat)))) ∧
       (canUp a w = false → exec (.gatemiHeartbeat t) s = toWorld s w)) ∧
     (∀ e : EvSrc, serving a w = true →
       let bits := sgetD w.dict.evPend (evtKey e) 0#64
       let w1 := w.modDict (fun d => { d with evPend := sdel d.evPend (evtKey e) })
       (bits = 0#64 → exec (.eventFrame e) s = toWorld s w) ∧
       (bits ≠ 0#64 → bit (evtMask a w) (evtVector (evtKey e)) = false → exec (.eventFrame e) s = toWorld s w1) ∧
       (bits ≠ 0#64 → bit (evtMask a w) (evtVector (evtKey e)) = true → exec (.eventFrame e) s =
         toWorld s (canSend a w1 1 (gObj (evtObj e) ++ [0#8] ++ leBytes 4 bits.toNat ++ leBytes 8 w.time.toNat)))) ∧
     (canUp a w = true → exec .busOff s = toWorld s { w with dict := { w.dict with busOff := (ctrAdd w.dict.busOff 1).1 } }))

/-- The choice among the copies of a persistent object (R683): the chosen record is a copy with the highest sequence number,
one that more than half of those copies agree with is chosen without conflict, and copies that agree are never in conflict. -/
def Obligations.CopyChoice : Prop :=
  ∀ l : List (Nat × DRec), l ≠ [] → ∃ (r : DRec) (c : Bool), pickRec l = some (r, c) ∧
    (∃ n : Nat, (n, r) ∈ l) ∧ (∀ x ∈ l, x.2.seq ≤ r.seq) ∧
    ((∀ x ∈ l, ∀ y ∈ l, x.2.seq = y.2.seq → x.2.val = y.2.val) → c = false) ∧
    (l.length = 3 → ∀ x ∈ l, ∀ y ∈ l, x.1 ≠ y.1 → x.2.seq = r.seq → y.2.seq = r.seq → x.2.val = y.2.val →
      c = false ∧ r.val = x.2.val)

/-- Start-up's signals (R597, R695, R696, R702 to R706, R714): the input starts step 1 and its loss ends everything, the
clock and the released reset end step 2 with the node id, and a module reset keeps the store, the fuses and the pins. The
reference clock (R590): its loss while the module runs begins a holdover that its return ends without a gap, and whose end
stops the compute clocks and the ports. -/
def Obligations.StartSignals : Prop :=
  (∀ s : State, let w := s.w; let x : Anat × World := (s.anat, w)
     (w.pwr.supply = 0 →
       exec .inputLockout s = toBoth s x ∧
       exec .inputQualified s = toWorld s { w with pwr := { w.pwr with supply := 1 } } ∧
       exec .modReset s = toBoth s (s.anat, { w with pwr := { w.pwr with modReset := true } })) ∧
     (w.pwr.supply ≠ 0 →
       exec .inputLockout s = toBoth s (powerOff x) ∧ exec .inputQualified s = toWorld s w ∧
       exec .modReset s = toBoth s (moduleReset (s.anat, { w with pwr := { w.pwr with modReset := true } })) ∧
       (∀ slot : BitVec 7, w.pwr.refStop = false → w.pwr.holdover = false → exec (.refclkPresent slot) s =
         toBoth s (s.anat, if w.pwr.supply = 1 ∧ w.pwr.modReset = false
           then { w with pwr := { w.pwr with refclk := true, supply := 2 }, dict := { w.dict with node := slot.toNat } }
           else { w with pwr := { w.pwr with refclk := true } }))) ∧
     (∀ slot : BitVec 7, w.pwr.modReset = true →
       exec (.modResetRelease slot) s = toWorld s (if w.pwr.supply = 1 ∧ w.pwr.refclk = true
         then { w with pwr := { w.pwr with modReset := false, supply := 2 }, dict := { w.dict with node := slot.toNat } }
         else { w with pwr := { w.pwr with modReset := false } })) ∧
     exec .perstNDeassert s = toWorld s { w with host := { w.host with perstHigh := true } } ∧
     (let y := moduleReset x;
       y.1.part = s.anat.part ∧ y.1.ready = 0 ∧ (∀ l : Nat, y.1.physOf l = none) ∧ y.2.engines = [] ∧ y.2.eclk = false ∧
         y.2.timeRun = false ∧ y.2.av.journal = w.av.journal ∧ y.2.av.minutes = w.av.minutes ∧ y.2.pwr.supply = 1 ∧
         y.2.ks.base = w.ks.base + topGen w.ks + 1) ∧
     ((powerOff x).2.mem = Memory.reset ∧ (powerOff x).2.pwr.supply = 0)) ∧
  (∀ s : State, let w := s.w
     (w.pwr.supply ≠ 2 → exec .refclkLoss s = toBoth s (s.anat, { w with pwr := { w.pwr with refclk := false } })) ∧
     (w.pwr.supply = 2 → w.pwr.holdover = false → w.pwr.refStop = false → w.timeRun = true → exec .refclkLoss s =
       toBoth s (s.anat, avEvent { w with pwr := { w.pwr with refclk := false, holdover := true } } 10)) ∧
     (w.pwr.holdover = true →
       exec .refclkReturn s = toWorld s { w with pwr := { w.pwr with refclk := true, holdover := false } } ∧
       exec .refclkHoldoverExpire s = toWorld s { w with
         eclk := false, timeRun := false, pwr := { w.pwr with holdover := false, refStop := true, gated := true } }))

/-- Steps 3 to 11 (R25 to R28, R33, R640 to R642, R695 to R701): `POWER_ON` runs steps 3 to 9 once step 2 has ended, fails
without a supervisor or a bank, and makes Keystone ready; `ENGINES_START` binds the engines of each die and starts clocks
and links; and the recovery service answers a module in FAILED. -/
def Obligations.StartSteps : Prop :=
  ∀ s : State, let w := s.w; let a := s.anat; let x : Anat × World := (a, w)
    (∀ u : PowerUp, w.pwr.supply = 2 → a.ready = 0 → w.dict.up = false →
      let y := stepThree x u
      let b := bootBank y.1 y.2 u
      let v := stepSix (y.1, stepFour y.1 b.2) u
      ((∀ d ∈ y.1.dies, d.sup = false) → exec (.powerOn u) s = toBoth s (toFailed y)) ∧
      (∀ d ∈ y.1.dies, d.sup = true →
        (b.1 = none ∨ 0x200000 < u.code.length → exec (.powerOn u) s = toBoth s (toFailed (y.1, b.2))) ∧
        (∀ k : Nat, b.1 = some k → u.code.length ≤ 0x200000 →
          (liveDies v.1 = [] → exec (.powerOn u) s = toBoth s (toFailed v)) ∧
          (liveDies v.1 ≠ [] →
            let z := stepNine (stepEight v.1 (stepSeven v.1 v.2 u) u) u
            z.ks.ready = true ∧ z.host.aliasKey = (stepEight v.1 (stepSeven v.1 v.2 u) u).host.aliasKey + 1 ∧
            exec (.powerOn u) s = toBoth s ({ v.1 with ready := 3 },
              if bit (z.reg 0x400028 0#64) 32 then z else capSet z 1 1 1))))) ∧
    (∀ u : PowerUp, (w.pwr.supply ≠ 2 ∨ a.ready ≠ 0 ∨ w.dict.up = true) → exec (.powerOn u) s = toBoth s x) ∧
    (w.pwr.supply = 2 → a.ready = 3 → (bit (capStat w) 0 = false ∨ coolEnough a w = true) →
      exec .enginesStart s = toBoth s (startEngines (a, capSet w 0 1 0))) ∧
    ((w.pwr.supply ≠ 2 ∨ a.ready ≠ 3 ∨ bit (capStat w) 0 = true ∧ coolEnough a w = false) → exec .enginesStart s = toBoth s x) ∧
    (∀ (f : CanFrame) (o : StoreOut),
      (a.ready ≠ 6 → exec (.failedRecovery f o) s = toBoth s x) ∧
      (a.ready = 6 → canUp a w = true → gTaken w f = true →
        let v := gServe a w 2 f.bytes o
        (fwPointer a v = fwPointer a w → exec (.failedRecovery f o) s = toBoth s (a, v)) ∧
        (fwPointer a v ≠ fwPointer a w → let r := moduleReset (a, v)
          exec (.failedRecovery f o) s = toBoth s (r.1, { r.2 with pwr := { r.2.pwr with refclk := false } }))))
end

