-- ==== Sys2Proof/Laws/Store.lean ====
section
/-!
SUPPORT. Sparse stores and bit fields: what is written is read, and nothing else changes.
-/

namespace Sys2Proof.Machine

@[simp] theorem sget_sset_same {α : Type} (m : Store α) (k : Nat) (x : α) : sget (sset m k x) k = some x := by
  induction m with
  | nil => simp [sset, sget]
  | cons p r ih =>
    obtain ⟨j, y⟩ := p
    unfold sset
    split
    · simp [sget]
    · split
      · simp [sget]
      · simp_all [sget]

theorem sget_sset_other {α : Type} (m : Store α) {j k : Nat} (x : α) (h : j ≠ k) : sget (sset m k x) j = sget m j := by
  induction m with
  | nil => simp [sset, sget, h.symm]
  | cons p r ih =>
    obtain ⟨i, y⟩ := p
    unfold sset
    split
    · simp [sget, h.symm]
    · split
      · have hk : k ≠ j := fun e => h e.symm
        simp_all [sget]
      · simp [sget, ih]

@[simp] theorem sgetD_sset_same {α : Type} (m : Store α) (k : Nat) (x d : α) : sgetD (sset m k x) k d = x := by
  simp [sgetD]

theorem sgetD_sset_other {α : Type} (m : Store α) {j k : Nat} (x d : α) (h : j ≠ k) : sgetD (sset m k x) j d = sgetD m j d := by
  simp [sgetD, sget_sset_other m x h]

/-- Writing a store twice at one place keeps the second value. -/
theorem sset_sset {α : Type} (m : Store α) (k : Nat) (x y : α) : sset (sset m k x) k y = sset m k y := by
  induction m with
  | nil => simp [sset]
  | cons p r ih =>
    obtain ⟨j, z⟩ := p
    by_cases h1 : k < j
    · simp [sset, h1]
    · by_cases h2 : j = k
      · simp [sset, h2]
      · simp [sset, h1, h2, ih]

theorem sget_map_pair {α β : Type} (m : Store α) (g : Nat → α → β) (k : Nat) :
    sget (m.map (fun p => (p.1, g p.1 p.2))) k = (sget m k).map (g k) := by
  induction m with
  | nil => rfl
  | cons p r ih =>
    obtain ⟨j, y⟩ := p
    by_cases h : j = k
    · subst h; simp [sget]
    · simp [sget, h, ih]

@[simp] theorem lmod_length {α : Type} (l : List α) (k : Nat) (f : α → α) : (lmod l k f).length = l.length := by
  induction l generalizing k with
  | nil => cases k <;> rfl
  | cons x r ih => cases k <;> simp [lmod, ih]

theorem lmod_getElem? {α : Type} (l : List α) (k j : Nat) (f : α → α) :
    (lmod l k f)[j]? = if j = k then (l[j]?).map f else l[j]? := by
  induction l generalizing k j with
  | nil => cases k <;> simp [lmod]
  | cons x r ih =>
    cases k with
    | zero => cases j <;> simp [lmod]
    | succ k => cases j <;> simp [lmod, ih]

/-- n ones at bit lo. -/
theorem ones_getLsbD {w : Nat} (lo n i : Nat) (h : i < w) : (ones w lo n).getLsbD i = (decide (lo ≤ i) && decide (i < lo + n)) := by
  have e : (2 ^ n - 1) * 2 ^ lo = (2 ^ n - 1) <<< lo := by rw [Nat.shiftLeft_eq]
  simp only [ones, BitVec.getLsbD_ofNat, h, decide_true, Bool.true_and, e, Nat.testBit_shiftLeft, Nat.testBit_two_pow_sub_one]
  by_cases h1 : lo ≤ i
  · have : (i - lo < n) ↔ (i < lo + n) := by omega
    simp [h1, this]
  · simp [h1]

end Sys2Proof.Machine
end

