-- ==== Sys2Proof/Laws/Engine.lean ====
section
/-!
SUPPORT. Programs over one engine, the engines of a world, and how an instruction ends.
-/

namespace Sys2Proof.Machine

/-! Programs. -/

theorem EM.bind_run {α β : Type} (x : EM α) (f : α → EM β) (n : Env) (w : World) :
    (x >>= f) n w = match x n w with
      | .ok a w1 => f a n w1
      | .error er w1 => .error er w1 := by
  show EStateM.bind (x n) (fun a => f a n) w = _
  unfold EStateM.bind
  cases x n w <;> rfl

theorem EM.bind_ok {α β : Type} {x : EM α} {n : Env} {w w1 : World} {a : α} (f : α → EM β) (h : x n w = .ok a w1) :
    (x >>= f) n w = f a n w1 := by rw [EM.bind_run, h]

theorem EM.bind_error {α β : Type} {x : EM α} {n : Env} {w w1 : World} {er : Exc} (f : α → EM β) (h : x n w = .error er w1) :
    (x >>= f) n w = .error er w1 := by rw [EM.bind_run, h]

theorem EM.map_run {α β : Type} (f : α → β) (x : EM α) (n : Env) (w : World) :
    (f <$> x) n w = match x n w with
      | .ok a w1 => .ok (f a) w1
      | .error er w1 => .error er w1 := by
  show EStateM.map f (x n) w = _
  unfold EStateM.map
  cases x n w <;> rfl

@[simp] theorem EM.pure_run {α : Type} (a : α) (n : Env) (w : World) : (pure a : EM α) n w = .ok a w := rfl
@[simp] theorem EM.throw_run {α : Type} (x : Exc) (n : Env) (w : World) : (throw x : EM α) n w = .error x w := rfl
@[simp] theorem EM.get_run (n : Env) (w : World) : (get : EM World) n w = .ok w w := rfl
@[simp] theorem EM.read_run (n : Env) (w : World) : (read : EM Env) n w = .ok n w := rfl
@[simp] theorem EM.set_run (v : World) (n : Env) (w : World) : (set v : EM PUnit) n w = .ok () v := rfl
@[simp] theorem EM.modify_run (f : World → World) (n : Env) (w : World) : (modify f : EM PUnit) n w = .ok () (f w) := rfl

theorem EM.ite_run {α : Type} (c : Prop) [Decidable c] (x y : EM α) (n : Env) (w : World) :
    (if c then x else y) n w = if c then x n w else y n w := by split <;> rfl

/-! Engines of a world. -/

@[simp] theorem eng_setEng (w : World) (e : Nat) (x : Engine) : (w.setEng e x).eng e = x := by simp [World.eng, World.setEng]

theorem eng_setEng_other (w : World) {e f : Nat} (x : Engine) (h : f ≠ e) : (w.setEng e x).eng f = w.eng f := by
  simp [World.eng, World.setEng, sgetD_sset_other _ _ _ h]

@[simp] theorem setEng_setEng (w : World) (e : Nat) (x y : Engine) : (w.setEng e x).setEng e y = w.setEng e y := by
  simp [World.setEng, sset_sset]

@[simp] theorem eng_modEng (w : World) (e : Nat) (f : Engine → Engine) : (w.modEng e f).eng e = f (w.eng e) := by
  simp [World.modEng]

@[simp] theorem modEng_modEng (w : World) (e : Nat) (f g : Engine → Engine) :
    (w.modEng e f).modEng e g = w.modEng e (fun x => g (f x)) := by simp [World.modEng]

theorem eng_modEng_other (w : World) {e k : Nat} (f : Engine → Engine) (h : k ≠ e) : (w.modEng e f).eng k = w.eng k :=
  eng_setEng_other w _ h

@[simp] theorem getC_run (n : Env) (w : World) : getC n w = .ok (w.eng n.e).core w := rfl
@[simp] theorem getE_run (n : Env) (w : World) : getE n w = .ok (w.eng n.e) w := rfl
@[simp] theorem modE_run (f : Engine → Engine) (n : Env) (w : World) : modE f n w = .ok () (w.modEng n.e f) := rfl
@[simp] theorem modC_run (f : Core → Core) (n : Env) (w : World) :
    modC f n w = .ok () (w.modEng n.e (fun x => { x with core := f x.core })) := rfl
@[simp] theorem raise_run {α : Type} (c s : Byte) (a : W64) (n : Env) (w : World) :
    (raise c s a : EM α) n w = .error (.trap (trapOf c s a)) w := rfl

theorem need_run (b : Bool) (n : Env) (w : World) :
    need b n w = if b then .ok () w else .error (.trap (trapOf 1#8 0#8 0#64)) w := by cases b <;> rfl

/-- A tag that its column accepts passes. -/
theorem checkTag_ok {c : Col} {t : Tag} {a : W64} {n : Env} {w : World} (h : Usable (w.eng n.e).core c t) :
    checkTag c t a n w = .ok () w := by
  obtain ⟨h1, h2⟩ := h
  have h3 : t ≠ tagPoison := by intro e; subst e; simp [tagPoison] at h1
  have h4 : ¬ 8 ≤ t.toNat := by omega
  unfold checkTag
  simp [EM.bind_run, h3, h4, h2]

/-- A tag that its column refuses raises TAG; the tag is neither POISON nor reserved. -/
theorem checkTag_refused {c : Col} {t : Tag} {a : W64} {n : Env} {w : World} (h1 : t.toNat < 8)
    (h2 : c.accepts t (w.eng n.e).core.pl = false) : checkTag c t a n w = .error (.trap (trapOf 3#8 0#8 a)) w := by
  have h3 : t ≠ tagPoison := by intro e; subst e; simp [tagPoison] at h1
  have h4 : ¬ 8 ≤ t.toNat := by omega
  unfold checkTag
  simp [EM.bind_run, h3, h4, h2, tagFault]

theorem useAcc_ok {c : Col} {n : Env} {w : World} (h : Usable (w.eng n.e).core c (w.eng n.e).core.acc.t) :
    useAcc c n w = .ok (w.eng n.e).core.acc.v w := by
  unfold useAcc
  simp [EM.bind_run, EM.map_run, checkTag_ok h]

theorem form_ok {o : SOp} {f : Form} {n : Env} {w : World} (h : formOf o = some f) : form o n w = .ok f w := by
  unfold form; simp [h]

theorem form_illegal {o : SOp} {n : Env} {w : World} (h : formOf o = none) :
    form o n w = .error (.trap (trapOf 1#8 0#8 0#64)) w := by
  unfold form; simp [h, illegal]

/-! How an instruction ends. -/

/-- An instruction whose body raises nothing retires. -/
theorem runWith_ok {α : Type} {u l cy : Nat} {e : Fin 104} {body : EM α} {next : α → Core → W64}
    {post : α → Core → Engine → Engine} {s : State} {w1 w2 : World} {r : α} (hi : Issues s e w1)
    (hb : Does s e body w1 r w2) :
    runWith u l cy e body next post s.anat s.w =
      { w2.setEng e.val (post r (s.w.eng e.val).core
          (({ w2.eng e.val with core := { (w2.eng e.val).core with
            pc := next r (w2.eng e.val).core, seq := (w2.eng e.val).core.seq + 1 } }).retire cy w2.freeCtr)) with
        freeCtr := w2.freeCtr + 1 } := by
  obtain ⟨h1, h2⟩ := hi
  have hp : (do fetchCheck; body : EM α) ⟨s.anat, e.val⟩ s.w = .ok r w2 := by
    rw [EM.bind_run, h2]; exact hb
  unfold runWith
  rw [if_pos h1]
  simp only [hp]
  rfl

theorem instr_ok {u l cy : Nat} {e : Fin 104} {body : EM (Option W64)} {s : State} {w1 w2 : World} {r : Option W64}
    (hi : Issues s e w1) (hb : Does s e body w1 r w2) :
    instr u l cy e body s =
      .next { s with w := retiredTo w2 e (r.getD ((w2.core e).pc + w64 l)) cy (w2.core e) } := by
  unfold instr runInstr
  rw [runWith_ok hi hb]
  rfl

theorem seqInstr_ok {u l cy : Nat} {e : Fin 104} {body : EM Unit} {s : State} {w1 w2 : World} (hi : Issues s e w1)
    (hb : Does s e body w1 () w2) : seqInstr u l cy e body s = .next (retired s w2 e l cy (w2.core e)) := by
  have : Does s e (do body; return none : EM (Option W64)) w1 none w2 := by
    unfold Does at hb ⊢
    rw [EM.bind_run, hb]; rfl
  unfold seqInstr
  rw [instr_ok hi this]
  rfl

/-- An instruction whose body raises an exception takes it, outside a speculation. -/
theorem runWith_trap {α : Type} {u l cy : Nat} {e : Fin 104} {body : EM α} {next : α → Core → W64}
    {post : α → Core → Engine → Engine} {s : State} {w1 w2 : World} {t : Trap} (hi : Issues s e w1)
    (hn : (s.w.eng e.val).speculating = false) (hb : body ⟨s.anat, e.val⟩ w1 = .error (.trap t) w2) :
    runWith u l cy e body next post s.anat s.w = takeTrap s.anat s.w w2 e.val u l t := by
  obtain ⟨h1, h2⟩ := hi
  have hp : (do fetchCheck; body : EM α) ⟨s.anat, e.val⟩ s.w = .error (.trap t) w2 := by
    rw [EM.bind_run, h2]; exact hb
  unfold runWith
  rw [if_pos h1]
  simp only [hp, hn, Bool.false_and]
  rfl

theorem seqInstr_trap {u l cy : Nat} {e : Fin 104} {body : EM Unit} {s : State} {w1 w2 : World} {t : Trap}
    (hi : Issues s e w1) (hn : (s.w.eng e.val).speculating = false) (hb : body ⟨s.anat, e.val⟩ w1 = .error (.trap t) w2) :
    seqInstr u l cy e body s = .next { s with w := takeTrap s.anat s.w w2 e.val u l t } := by
  unfold seqInstr instr runInstr
  rw [runWith_trap hi hn (w2 := w2) (t := t) (by rw [EM.bind_run, hb])]

/-- An engine that cannot issue leaves everything as it is. -/
theorem runWith_idle {α : Type} {u l cy : Nat} {e : Fin 104} {body : EM α} {next : α → Core → W64}
    {post : α → Core → Engine → Engine} {a : Anat} {w : World} (h : canIssue a w e.val = false) :
    runWith u l cy e body next post a w = w := by
  unfold runWith; simp [h]

theorem retiredTo_setEng (w : World) (e : Fin 104) (x : Engine) (pc : W64) (cy : Nat) (c : Core) :
    retiredTo (w.setEng e.val x) e pc cy c =
      { w.setEng e.val (({ x with core := { c with pc := pc, seq := c.seq + 1 } }).retire cy w.freeCtr) with
        freeCtr := w.freeCtr + 1 } := by
  unfold retiredTo
  rw [eng_setEng, setEng_setEng]
  rfl

@[simp] theorem core_modC (w : World) (e : Fin 104) (f : Core → Core) :
    (w.modEng e.val (fun x => { x with core := f x.core })).core e = f (w.core e) := by
  unfold World.core
  rw [eng_modEng]

/-- A last change of the registers shows in the registers with which the instruction retires. -/
@[simp] theorem retired_modC (s : State) (w : World) (e : Fin 104) (l cy : Nat) (f : Core → Core) (c : Core) :
    retired s (w.modEng e.val (fun x => { x with core := f x.core })) e l cy c = retired s w e l cy c := by
  unfold retired World.modEng
  rw [retiredTo_setEng]
  rfl

end Sys2Proof.Machine
end

