-- ==== Sys2Proof/Laws/Memory.lean ====
section
/-!
SUPPORT. Memory: every operation keeps its canonical form, and a byte written is the byte read.
-/

namespace Sys2Proof.Machine

/-! Cells. -/

theorem cellsWf_mono {lo lo' : Nat} (h : lo ≤ lo') : ∀ {l : List Host.Cell}, cellsWf lo' l = true → cellsWf lo l = true
  | [], _ => rfl
  | (a, b) :: r, w => by
    simp only [cellsWf, Bool.and_eq_true, decide_eq_true_eq] at w ⊢
    exact ⟨⟨Nat.le_trans h w.1.1, w.1.2⟩, w.2⟩

theorem cset_wf : ∀ {l : List Host.Cell} {lo x : Nat} (v : Byte), lo ≤ x → cellsWf lo l = true → cellsWf lo (cset l x v) = true
  | [], lo, x, v, hx, _ => by
    unfold cset
    split
    · rfl
    · simp_all [cellsWf]
  | (a, b) :: r, lo, x, v, hx, w => by
    simp only [cellsWf, Bool.and_eq_true, decide_eq_true_eq] at w
    obtain ⟨⟨ha, hb⟩, hr⟩ := w
    unfold cset
    split
    · rename_i hlt
      split
      · simp [cellsWf, ha, hb, hr]
      · rename_i hv
        simp [cellsWf, hx, hv, hb, hr, Nat.succ_le_of_lt hlt]
    · rename_i hlt
      split
      · rename_i hax
        split
        · exact cellsWf_mono (Nat.le_succ_of_le ha) hr
        · rename_i hv
          simp [cellsWf, ha, hv, hr]
      · rename_i hax
        have : a + 1 ≤ x := by omega
        simp [cellsWf, ha, hb, cset_wf v this hr]

theorem cget_above : ∀ {l : List Host.Cell} {lo x : Nat}, cellsWf lo l = true → x < lo → cget l x = 0#8
  | [], _, _, _, _ => rfl
  | (a, b) :: r, lo, x, w, h => by
    simp only [cellsWf, Bool.and_eq_true, decide_eq_true_eq] at w
    obtain ⟨⟨ha, _⟩, hr⟩ := w
    have hax : a ≠ x := by omega
    simp [cget, hax, cget_above hr (by omega : x < a + 1)]

/-- A byte written is the byte read. -/
theorem cget_cset_same : ∀ {l : List Host.Cell} {lo : Nat} (x : Nat) (v : Byte), cellsWf lo l = true → cget (cset l x v) x = v
  | [], _, x, v, _ => by
    unfold cset
    split
    · simp_all [cget]
    · simp [cget]
  | (a, b) :: r, lo, x, v, w => by
    have w0 := w
    simp only [cellsWf, Bool.and_eq_true, decide_eq_true_eq] at w
    obtain ⟨⟨ha, hb⟩, hr⟩ := w
    unfold cset
    split
    · rename_i hlt
      have hax : a ≠ x := by omega
      split
      · rename_i hv
        simp [cget, hax, hv, cget_above hr (by omega : x < a + 1)]
      · simp [cget]
    · rename_i hlt
      split
      · rename_i hax
        split
        · rename_i hv
          rw [hv]
          exact cget_above hr (by omega)
        · simp [cget, hax]
      · rename_i hax
        simp [cget, hax, cget_cset_same x v hr]

/-- A write leaves every other byte alone. -/
theorem cget_cset_other : ∀ {l : List Host.Cell} {lo : Nat} {x y : Nat} (v : Byte), cellsWf lo l = true → y ≠ x →
    cget (cset l x v) y = cget l y
  | [], _, x, y, v, _, h => by
    unfold cset
    split
    · rfl
    · simp [cget, h.symm]
  | (a, b) :: r, lo, x, y, v, w, h => by
    simp only [cellsWf, Bool.and_eq_true, decide_eq_true_eq] at w
    obtain ⟨⟨ha, hb⟩, hr⟩ := w
    unfold cset
    split
    · split
      · rfl
      · simp [cget, h.symm]
    · split
      · rename_i hax
        have hay : a ≠ y := by omega
        split
        · simp [cget, hay]
        · simp [cget, hay]
      · by_cases hay : a = y
        · simp [cget, hay]
        · simp [cget, hay, cget_cset_other v hr h]

/-! Memory operations. -/

theorem Memory.reset_wf : Memory.reset.wf = true := rfl

theorem wrByte_wf (k : Keystone) (d : Byte) (v : Nat) {m : Memory} (off : Nat) (b : Byte) (h : m.wf = true) :
    (wrByte k d v m off b).wf = true := cset_wf b (Nat.zero_le _) h

theorem wrBytes_wf (k : Keystone) (d : Byte) (v : Nat) : ∀ (l : List (Nat × Byte)) {m : Memory}, m.wf = true →
    (wrBytes k d v m l).wf = true
  | [], _, h => h
  | (o, b) :: r, _, h => wrBytes_wf k d v r (wrByte_wf k d v o b h)

theorem setTag_wf (k : Keystone) (p : Places) (v : Nat) {m : Memory} (off : Nat) (t : Tag) (h : m.wf = true) :
    (setTag k p v m off t).wf = true := wrByte_wf _ _ _ _ _ h

theorem poisonAt_wf (k : Keystone) (p : Places) (v : Nat) {m : Memory} (off : Nat) (h : m.wf = true) :
    (poisonAt k p v m off).wf = true := by
  unfold poisonAt
  split
  · exact setTag_wf _ _ _ _ _ h
  · exact h

/-- A fold whose steps keep the canonical form keeps it. -/
theorem foldl_wf {α : Type} {f : Memory → α → Memory} (hf : ∀ m x, m.wf = true → (f m x).wf = true) :
    ∀ (l : List α) {m : Memory}, m.wf = true → (l.foldl f m).wf = true
  | [], _, h => h
  | x :: r, _, h => foldl_wf hf r (hf _ x h)

/-- A store keeps the canonical form. -/
theorem storeMem_wf (k : Keystone) (p : Places) (d : Byte) (v : Nat) (act : TagAct) {m : Memory} (l : List (Nat × Byte))
    (h : m.wf = true) : (storeMem k p d v act m l).wf = true := by
  have key : ∀ (m : Memory) (x : Nat), m.wf = true →
      (if tagAfter act (tagAt m k p x) (covered l x 8) = tagAt m k p x then m
        else setTag k p v m x (tagAfter act (tagAt m k p x) (covered l x 8))).wf = true := by
    intro m x hm
    split
    · exact hm
    · exact setTag_wf _ _ _ _ _ hm
  exact foldl_wf key ((blocks l 8).filter (inTagged p)) (wrBytes_wf k d v l h)

theorem storeLocal_wf {w : World} (d : Byte) (act : TagAct) (l : List (Nat × Byte)) (h : w.mem.wf = true) :
    (storeLocal w d act l).mem.wf = true := storeMem_wf _ _ _ _ _ _ h

theorem withStore_wf (w : World) {m : Memory} (s : SbEntry) (h : m.wf = true) : (withStore w m s).wf = true := by
  unfold withStore
  repeat' split
  · exact storeMem_wf _ _ _ _ _ _ h
  · exact h
  · exact h

/-- A byte written under a domain is read under it (R512). -/
theorem rdByte_wrByte_same (k : Keystone) (d : Byte) (v : Nat) {m : Memory} (off : Nat) (b : Byte) (h : m.wf = true) :
    rdByte (wrByte k d v m off b) k d off = b := by
  have hm : ∀ x : BitVec 128, bit (x ||| ones 128 (off % 128) 1) (off % 128) = true := by
    intro x
    have hi : off % 128 < 128 := Nat.mod_lt _ (by decide)
    simp [bit, ones_getLsbD _ _ _ hi]
  have h1 : bit (ones 128 (off % 128) 1) (off % 128) = true := by simpa using hm 0#128
  have h2 : bit (ones 128 0 128) (off % 128) = true := by
    have hi : off % 128 < 128 := Nat.mod_lt _ (by decide)
    simp [bit, ones_getLsbD _ _ _ hi, hi]
  have hc := cget_cset_same (l := m.cells) off b h
  unfold rdByte wrByte
  simp only [sget_sset_same]
  repeat' split
  all_goals simp_all

end Sys2Proof.Machine
end

