-- ==== Sys2Proof/Laws/Scalar.lean ====
section
/-!
SUPPORT. What the shared operations of the scalar instructions do when nothing is raised: one lemma for each.
-/

namespace Sys2Proof.Machine

/-- The rest of a program after a part that raises nothing. -/
theorem Does.bind {α β : Type} {s : State} {e : Fin 104} {x : EM α} {w1 w2 : World} {r : α} (h : Does s e x w1 r w2)
    (f : α → EM β) : (x >>= f) ⟨s.anat, e.val⟩ w1 = f r ⟨s.anat, e.val⟩ w2 := EM.bind_ok f h

/-- An instruction whose body ends by changing the registers. -/
theorem seqInstr_modC {s : State} {e : Fin 104} {u l cy : Nat} {x : EM Unit} {w1 w2 : World} (f : Core → Core)
    (hi : Issues s e w1) (h : x ⟨s.anat, e.val⟩ w1 = modC f ⟨s.anat, e.val⟩ w2) :
    seqInstr u l cy e x s = .next (retired s w2 e l cy (f (w2.core e))) := by
  have h2 : Does s e x w1 () (w2.modEng e.val (fun y => { y with core := f y.core })) := h
  rw [seqInstr_ok hi h2, core_modC, retired_modC]

/-- An operand that can be read has a legal form. -/
theorem operandAt_form {s : State} {e : Fin 104} {o : SOp} {col : Col} {n : Nat} {w1 w2 : World} {x : TWord × W64}
    (h : Does s e (operandAt o col n) w1 x w2) : ∃ f, formOf o = some f := by
  unfold Does operandAt form at h
  cases hf : formOf o with
  | none => simp [hf, EM.bind_run, illegal] at h
  | some f => exact ⟨f, rfl⟩

theorem operand_at {s : State} {e : Fin 104} {o : SOp} {col : Col} {w1 w2 : World} {x : TWord}
    (h : Reads s e o col w1 x w2) : ∃ a, Does s e (operandAt o col 8) w1 (x, a) w2 := by
  unfold Reads Does operand at h
  rw [EM.bind_run] at h
  cases hx : operandAt o col 8 ⟨s.anat, e.val⟩ w1 with
  | error er w => simp [hx] at h
  | ok r w =>
    simp [hx] at h
    obtain ⟨h1, h2⟩ := h
    exact ⟨r.2, by unfold Does; rw [hx, ← h1, ← h2]⟩

theorem operand_form {s : State} {e : Fin 104} {o : SOp} {col : Col} {w1 w2 : World} {x : TWord}
    (h : Reads s e o col w1 x w2) : ∃ f, formOf o = some f := by
  obtain ⟨a, ha⟩ := operand_at h
  exact operandAt_form ha

/-- The accumulator, where its column accepts it, is what the instruction uses. -/
theorem useAcc_does {s : State} {e : Fin 104} {c : Col} {w : World} (h : Usable (w.core e) c (w.core e).acc.t) :
    Does s e (useAcc c) w (w.core e).acc.v w := useAcc_ok h

theorem form_does {s : State} {e : Fin 104} {o : SOp} {f : Form} {w : World} (h : formOf o = some f) :
    Does s e (form o) w f w := form_ok h

theorem checkTag_does {s : State} {e : Fin 104} {c : Col} {t : Tag} {a : W64} {w : World} (h : Usable (w.core e) c t) :
    Does s e (checkTag c t a) w () w := checkTag_ok h

theorem noOperand_does {s : State} {e : Fin 104} {o : SOp} {w : World} (h1 : o.mode = 0#3) (h2 : o.opnd = 0#20) :
    Does s e (noOperand o) w () w := by
  unfold Does noOperand need; simp [h1, h2]

theorem getC_does (s : State) (e : Fin 104) (w : World) : Does s e getC w (w.core e) w := rfl

theorem arith_ok {s : State} {e : Fin 104} {o : SOp} {w1 w2 : World} {b : TWord} (f : W64 → W64 → Bool → AluRes)
    (hi : Issues s e w1) (ha : Usable (w1.core e) .int (w1.core e).acc.t) (hr : Reads s e o .int w1 b w2) :
    arith e o f s = .next (retired s w2 e (lenOf o) 1
      (let r := f (w1.core e).acc.v b.v (w2.core e).fC
       ({ w2.core e with acc := ⟨r.r, 1#4⟩ } : Core).setAll r.r r.c r.v)) := by
  obtain ⟨fm, hf⟩ := operand_form hr
  refine seqInstr_modC (fun c => let r := f (w1.core e).acc.v b.v c.fC
    ({ c with acc := ⟨r.r, 1#4⟩ } : Core).setAll r.r r.c r.v) hi ?_
  rw [(form_does hf).bind, (useAcc_does ha).bind, hr.bind]

theorem bitwise_ok {s : State} {e : Fin 104} {o : SOp} {w1 w2 : World} {b : TWord} (f : W64 → W64 → W64)
    (hi : Issues s e w1) (ha : Usable (w1.core e) .int (w1.core e).acc.t) (hr : Reads s e o .int w1 b w2) :
    bitwise e o f s = .next (retired s w2 e (lenOf o) 1
      (({ w2.core e with acc := ⟨f (w1.core e).acc.v b.v, 1#4⟩ } : Core).setZNclr (f (w1.core e).acc.v b.v))) := by
  obtain ⟨fm, hf⟩ := operand_form hr
  refine seqInstr_modC (fun c => ({ c with acc := ⟨f (w1.core e).acc.v b.v, 1#4⟩ } : Core).setZNclr
    (f (w1.core e).acc.v b.v)) hi ?_
  rw [(form_does hf).bind, (useAcc_does ha).bind, hr.bind]

theorem unary_ok {s : State} {e : Fin 104} {o : SOp} {w1 : World} (f : W64 → W64) (hi : Issues s e w1) (hm : o.mode = 0#3)
    (ho : o.opnd = 0#20) (ha : Usable (w1.core e) .int (w1.core e).acc.t) :
    unary e o f s = .next (retired s w1 e (lenOf o) 1
      (({ w1.core e with acc := ⟨f (w1.core e).acc.v, 1#4⟩ } : Core).setZNclr (f (w1.core e).acc.v))) := by
  refine seqInstr_modC (fun c => ({ c with acc := ⟨f (w1.core e).acc.v, 1#4⟩ } : Core).setZNclr (f (w1.core e).acc.v)) hi ?_
  rw [(noOperand_does hm ho).bind, (useAcc_does ha).bind]

theorem shiftBy_ok {s : State} {e : Fin 104} {o : SOp} {w1 w2 : World} {b : TWord} (k : Shift)
    (hi : Issues s e w1) (ha : Usable (w1.core e) .int (w1.core e).acc.t) (hr : Reads s e o .int w1 b w2) :
    shiftBy e o k s = .next (retired s w2 e (lenOf o) 1
      (let r := shiftRes k (w1.core e).acc.v (fld b.v 0 6) (w2.core e).fC
       ({ w2.core e with acc := ⟨r.1, 1#4⟩ } : Core).setAll r.1 r.2 false)) := by
  obtain ⟨fm, hf⟩ := operand_form hr
  refine seqInstr_modC (fun c => let r := shiftRes k (w1.core e).acc.v (fld b.v 0 6) c.fC
    ({ c with acc := ⟨r.1, 1#4⟩ } : Core).setAll r.1 r.2 false) hi ?_
  rw [(form_does hf).bind, (useAcc_does ha).bind, hr.bind]

theorem multiply_ok {s : State} {e : Fin 104} {o : SOp} {w1 w2 : World} {b : TWord} (f : W64 → W64 → BitVec 128)
    (hi : Issues s e w1) (ha : Usable (w1.core e) .int (w1.core e).acc.t) (hr : Reads s e o .int w1 b w2) :
    multiply e o f s = .next (retired s w2 e (lenOf o) 1
      (let c := w2.core e
       let p := f (w1.core e).acc.v b.v
       { c with pend := c.pend ++ [⟨c.seq, p.setWidth 64, (p >>> 64).setWidth 64, false⟩] })) := by
  obtain ⟨fm, hf⟩ := operand_form hr
  refine seqInstr_modC (fun c => let p := f (w1.core e).acc.v b.v
    { c with pend := c.pend ++ [⟨c.seq, p.setWidth 64, (p >>> 64).setWidth 64, false⟩] }) hi ?_
  rw [(form_does hf).bind, (useAcc_does ha).bind, hr.bind]

theorem divide_ok {s : State} {e : Fin 104} {o : SOp} {w1 w2 : World} {b : TWord} (q r : W64 → W64 → W64)
    (hi : Issues s e w1) (ha : Usable (w1.core e) .int (w1.core e).acc.t) (hr : Reads s e o .int w1 b w2) (hb : b.v ≠ 0#64) :
    divide e o q r s = .next (retired s w2 e (lenOf o) 1
      (let d := (w2.core e).deliverDiv
       { d with pend := d.pend ++ [⟨d.seq, q (w1.core e).acc.v b.v, r (w1.core e).acc.v b.v, true⟩] })) := by
  obtain ⟨fm, hf⟩ := operand_form hr
  refine seqInstr_modC (fun c => let d := c.deliverDiv
    { d with pend := d.pend ++ [⟨d.seq, q (w1.core e).acc.v b.v, r (w1.core e).acc.v b.v, true⟩] }) hi ?_
  rw [(form_does hf).bind, (useAcc_does ha).bind, hr.bind, if_neg hb]

theorem addIndex_ok {s : State} {e : Fin 104} {o : SOp} {w1 w2 : World} {b : TWord} (src : Core → TWord)
    (set : Core → TWord → Core) (hi : Issues s e w1) (ha : Usable (w1.core e) .int (src (w1.core e)).t)
    (hr : Reads s e o .int w1 b w2) :
    addIndex e o src set s = .next (retired s w2 e (lenOf o) 1
      (let r := aluAdd (src (w1.core e)).v b.v false
       (set (w2.core e) ⟨r.r, 1#4⟩).setAll r.r r.c r.v)) := by
  obtain ⟨fm, hf⟩ := operand_form hr
  refine seqInstr_modC (fun c => let r := aluAdd (src (w1.core e)).v b.v false
    (set c ⟨r.r, 1#4⟩).setAll r.r r.c r.v) hi ?_
  rw [(form_does hf).bind, (getC_does s e w1).bind, (checkTag_does ha).bind, hr.bind]

theorem checkPair_does {s : State} {e : Fin 104} {a b : Tag} {at' : W64} {w : World} (h1 : ¬(a = 3#4 ∧ b = 4#4))
    (h2 : ¬(a = 4#4 ∧ b = 3#4)) : Does s e (checkPair a b at') w () w := by
  unfold Does checkPair
  rw [if_neg]
  · rfl
  · simp only [Bool.or_eq_true, Bool.and_eq_true, decide_eq_true_eq]
    exact fun h => h.elim h1 h2

theorem compareReg_ok {s : State} {e : Fin 104} {o : SOp} {w1 w2 : World} {b : TWord} {at' : W64} (src : Core → TWord)
    (flags : Core → W64 → W64 → Core) (hi : Issues s e w1) (hr : Does s e (operandAt o .cmp 8) w1 (b, at') w2)
    (ha : Usable (w1.core e) .cmp (src (w1.core e)).t) (h1 : ¬((src (w1.core e)).t = 3#4 ∧ b.t = 4#4))
    (h2 : ¬((src (w1.core e)).t = 4#4 ∧ b.t = 3#4)) :
    compareReg e o src flags s =
      .next (retired s w2 e (lenOf o) 1 (flags (w2.core e) (src (w1.core e)).v b.v)) := by
  obtain ⟨fm, hf⟩ := operandAt_form hr
  refine seqInstr_modC (fun c => flags c (src (w1.core e)).v b.v) hi ?_
  rw [(form_does hf).bind, (getC_does s e w1).bind, (checkTag_does ha).bind, hr.bind, (checkPair_does h1 h2).bind]

theorem loadIndex_ok {s : State} {e : Fin 104} {o : SOp} {w1 w2 : World} {x : TWord} (set : Core → TWord → Core)
    (hi : Issues s e w1) (hr : Reads s e o .move w1 x w2) :
    loadIndex e o set s = .next (retired s w2 e (lenOf o) 1 (set (w2.core e) x)) := by
  refine seqInstr_modC (fun c => set c x) hi ?_
  rw [hr.bind]

theorem loadAddr_ok {s : State} {e : Fin 104} {o : SOp} {w1 w2 : World} {a : W64} (set : Core → TWord → Core)
    (hi : Issues s e w1) (hr : Does s e (memAddr o) w1 a w2) :
    loadAddr e o set s = .next (retired s w2 e (lenOf o) 1 (set (w2.core e) ⟨a, 3#4⟩)) := by
  refine seqInstr_modC (fun c => set c ⟨a, 3#4⟩) hi ?_
  rw [hr.bind]

theorem loadSub_ok {s : State} {e : Fin 104} {o : SOp} {n : Nat} {sign : Bool} {w1 w2 : World} {x : TWord} {a : W64}
    (hi : Issues s e w1) (hr : Does s e (operandAt o .sub n) w1 (x, a) w2) :
    loadSub e o n sign s = .next (retired s w2 e (lenOf o) 1
      (let y := x.v.toNat % 256 ^ n
       let v := if sign && decide (256 ^ n / 2 ≤ y) then w64 (2 ^ 64 + y - 256 ^ n) else w64 y
       ({ w2.core e with acc := ⟨v, 1#4⟩ } : Core).setZN v)) := by
  refine seqInstr_modC (fun c => let y := x.v.toNat % 256 ^ n
    let v := if sign && decide (256 ^ n / 2 ≤ y) then w64 (2 ^ 64 + y - 256 ^ n) else w64 y
    ({ c with acc := ⟨v, 1#4⟩ } : Core).setZN v) hi ?_
  rw [hr.bind]

theorem popReg_ok {s : State} {e : Fin 104} {o : SOp} {w1 w2 : World} {l : Loaded} {f : Form} (set : Core → TWord → Core)
    (hi : Issues s e w1) (hf : formOf o = some f) (hl : Does s e (loadMem (w1.core e).sp 8 scalarLoad) w1 l w2)
    (ht : Usable (w2.core e) .move l.tag) :
    popReg e o set s = .next (retired s w2 e (lenOf o) 1
      ((set (w2.core e) ⟨w64 (leNat l.bytes), l.tag⟩).setSp ((w1.core e).sp + 8#64))) := by
  refine seqInstr_modC (fun k => (set k ⟨w64 (leNat l.bytes), l.tag⟩).setSp ((w1.core e).sp + 8#64)) hi ?_
  rw [(form_does hf).bind, (getC_does s e w1).bind, hl.bind, (checkTag_does ht).bind]

theorem storeReg_ok {s : State} {e : Fin 104} {o : SOp} {n : Nat} {w1 w2 w3 : World} {a : W64} (src : Core → TWord)
    (hi : Issues s e w1) (ht : Usable (w1.core e) .move (src (w1.core e)).t) (ha : Does s e (memAddr o) w1 a w2)
    (hs : Does s e (storeMemE a n (src (w1.core e)).v (src (w1.core e)).t false) w2 () w3) :
    storeReg e o n src s = .next (retired s w3 e (lenOf o) 1 (w3.core e)) := by
  unfold Does memAddr form at ha
  cases hf : formOf o with
  | none => simp [hf, EM.bind_run, illegal] at ha
  | some f =>
    cases f with
    | mem b d =>
      have ha' : Does s e (effAddr b d) w1 a w2 := by
        unfold Does; rw [hf] at ha; exact ha
      refine seqInstr_ok hi (w2 := w3) ?_
      unfold Does
      rw [(form_does hf).bind]
      show (getC >>= _) _ _ = _
      rw [(getC_does s e w1).bind, (checkTag_does ht).bind, ha'.bind]
      exact hs
    | imm v => rw [hf] at ha; simp [EM.bind_run, illegal] at ha
    | immHi v => rw [hf] at ha; simp [EM.bind_run, illegal] at ha
    | reg r => rw [hf] at ha; simp [EM.bind_run, illegal] at ha

theorem pushReg_ok {s : State} {e : Fin 104} {o : SOp} {f : Form} {w1 w2 : World} (src : Core → TWord)
    (hi : Issues s e w1) (hf : formOf o = some f) (ht : Usable (w1.core e) .move (src (w1.core e)).t)
    (hs : Does s e (storeMemE ((w1.core e).sp - 8#64) 8 (src (w1.core e)).v (src (w1.core e)).t false) w1 () w2) :
    pushReg e o src s = .next (retired s w2 e (lenOf o) 1 ((w2.core e).setSp ((w1.core e).sp - 8#64))) := by
  refine seqInstr_modC (fun k => k.setSp ((w1.core e).sp - 8#64)) hi ?_
  rw [(form_does hf).bind, (getC_does s e w1).bind, (checkTag_does ht).bind, hs.bind]

theorem frameSize_does {s : State} {e : Fin 104} {o : SOp} {n : W64} {w : World} (hf : formOf o = some (.imm n))
    (hn : fld n 0 3 = 0) : Does s e (frameSize o) w n w := by
  unfold Does frameSize
  rw [(form_does hf).bind]
  simp [need, hn, EM.bind_run]

end Sys2Proof.Machine
end

