-- ==== Sys2Proof/Laws/State.lean ====
section
/-!
SUPPORT. What each update of the state leaves as it is, field by field, and what a read after a write of one unit gives.
-/

namespace Sys2Proof.Machine

variable (w : World)

/-! `World.setReg`. -/

@[simp] theorem setReg_time (off : Nat) (v : W64) : (w.setReg off v).time = w.time := rfl
@[simp] theorem setReg_timeRun (off : Nat) (v : W64) : (w.setReg off v).timeRun = w.timeRun := rfl
@[simp] theorem setReg_eclk (off : Nat) (v : W64) : (w.setReg off v).eclk = w.eclk := rfl
@[simp] theorem setReg_mem (off : Nat) (v : W64) : (w.setReg off v).mem = w.mem := rfl
@[simp] theorem setReg_ks (off : Nat) (v : W64) : (w.setReg off v).ks = w.ks := rfl
@[simp] theorem setReg_places (off : Nat) (v : W64) : (w.setReg off v).places = w.places := rfl
@[simp] theorem setReg_nodeId (off : Nat) (v : W64) : (w.setReg off v).nodeId = w.nodeId := rfl
@[simp] theorem setReg_stacksLost (off : Nat) (v : W64) : (w.setReg off v).stacksLost = w.stacksLost := rfl
@[simp] theorem setReg_engines (off : Nat) (v : W64) : (w.setReg off v).engines = w.engines := rfl
@[simp] theorem setReg_logs (off : Nat) (v : W64) : (w.setReg off v).logs = w.logs := rfl
@[simp] theorem setReg_ports (off : Nat) (v : W64) : (w.setReg off v).ports = w.ports := rfl
@[simp] theorem setReg_txns (off : Nat) (v : W64) : (w.setReg off v).txns = w.txns := rfl
@[simp] theorem setReg_nextTid (off : Nat) (v : W64) : (w.setReg off v).nextTid = w.nextTid := rfl
@[simp] theorem setReg_pairKeys (off : Nat) (v : W64) : (w.setReg off v).pairKeys = w.pairKeys := rfl
@[simp] theorem setReg_seals (off : Nat) (v : W64) : (w.setReg off v).seals = w.seals := rfl
@[simp] theorem setReg_gaths (off : Nat) (v : W64) : (w.setReg off v).gaths = w.gaths := rfl
@[simp] theorem setReg_fes (off : Nat) (v : W64) : (w.setReg off v).fes = w.fes := rfl
@[simp] theorem setReg_stacks (off : Nat) (v : W64) : (w.setReg off v).hbmStacks = w.hbmStacks := rfl
@[simp] theorem setReg_chans (off : Nat) (v : W64) : (w.setReg off v).chans = w.chans := rfl
@[simp] theorem setReg_ccache (off : Nat) (v : W64) : (w.setReg off v).ccache = w.ccache := rfl
@[simp] theorem setReg_ubufs (off : Nat) (v : W64) : (w.setReg off v).ubufs = w.ubufs := rfl
@[simp] theorem setReg_host (off : Nat) (v : W64) : (w.setReg off v).host = w.host := rfl
@[simp] theorem setReg_dict (off : Nat) (v : W64) : (w.setReg off v).dict = w.dict := rfl
@[simp] theorem setReg_pwr (off : Nat) (v : W64) : (w.setReg off v).pwr = w.pwr := rfl
@[simp] theorem setReg_arbs (off : Nat) (v : W64) : (w.setReg off v).arbs = w.arbs := rfl
@[simp] theorem setReg_pert (off : Nat) (v : W64) : (w.setReg off v).pert = w.pert := rfl
@[simp] theorem setReg_piers (off : Nat) (v : W64) : (w.setReg off v).piers = w.piers := rfl
@[simp] theorem setReg_tlbs (off : Nat) (v : W64) : (w.setReg off v).tlbs = w.tlbs := rfl
@[simp] theorem setReg_av (off : Nat) (v : W64) : (w.setReg off v).av = w.av := rfl
@[simp] theorem setReg_pcieUp (off : Nat) (v : W64) : (w.setReg off v).pcieUp = w.pcieUp := rfl
@[simp] theorem setReg_out (off : Nat) (v : W64) : (w.setReg off v).out = w.out := rfl
@[simp] theorem setReg_freeCtr (off : Nat) (v : W64) : (w.setReg off v).freeCtr = w.freeCtr := rfl

/-! `World.setEng`. -/

@[simp] theorem setEng_time (e : Nat) (x : Engine) : (w.setEng e x).time = w.time := rfl
@[simp] theorem setEng_timeRun (e : Nat) (x : Engine) : (w.setEng e x).timeRun = w.timeRun := rfl
@[simp] theorem setEng_eclk (e : Nat) (x : Engine) : (w.setEng e x).eclk = w.eclk := rfl
@[simp] theorem setEng_mem (e : Nat) (x : Engine) : (w.setEng e x).mem = w.mem := rfl
@[simp] theorem setEng_ks (e : Nat) (x : Engine) : (w.setEng e x).ks = w.ks := rfl
@[simp] theorem setEng_places (e : Nat) (x : Engine) : (w.setEng e x).places = w.places := rfl
@[simp] theorem setEng_nodeId (e : Nat) (x : Engine) : (w.setEng e x).nodeId = w.nodeId := rfl
@[simp] theorem setEng_stacksLost (e : Nat) (x : Engine) : (w.setEng e x).stacksLost = w.stacksLost := rfl
@[simp] theorem setEng_logs (e : Nat) (x : Engine) : (w.setEng e x).logs = w.logs := rfl
@[simp] theorem setEng_ports (e : Nat) (x : Engine) : (w.setEng e x).ports = w.ports := rfl
@[simp] theorem setEng_txns (e : Nat) (x : Engine) : (w.setEng e x).txns = w.txns := rfl
@[simp] theorem setEng_nextTid (e : Nat) (x : Engine) : (w.setEng e x).nextTid = w.nextTid := rfl
@[simp] theorem setEng_pairKeys (e : Nat) (x : Engine) : (w.setEng e x).pairKeys = w.pairKeys := rfl
@[simp] theorem setEng_seals (e : Nat) (x : Engine) : (w.setEng e x).seals = w.seals := rfl
@[simp] theorem setEng_gaths (e : Nat) (x : Engine) : (w.setEng e x).gaths = w.gaths := rfl
@[simp] theorem setEng_fes (e : Nat) (x : Engine) : (w.setEng e x).fes = w.fes := rfl
@[simp] theorem setEng_stacks (e : Nat) (x : Engine) : (w.setEng e x).hbmStacks = w.hbmStacks := rfl
@[simp] theorem setEng_chans (e : Nat) (x : Engine) : (w.setEng e x).chans = w.chans := rfl
@[simp] theorem setEng_ccache (e : Nat) (x : Engine) : (w.setEng e x).ccache = w.ccache := rfl
@[simp] theorem setEng_ubufs (e : Nat) (x : Engine) : (w.setEng e x).ubufs = w.ubufs := rfl
@[simp] theorem setEng_host (e : Nat) (x : Engine) : (w.setEng e x).host = w.host := rfl
@[simp] theorem setEng_dict (e : Nat) (x : Engine) : (w.setEng e x).dict = w.dict := rfl
@[simp] theorem setEng_pwr (e : Nat) (x : Engine) : (w.setEng e x).pwr = w.pwr := rfl
@[simp] theorem setEng_arbs (e : Nat) (x : Engine) : (w.setEng e x).arbs = w.arbs := rfl
@[simp] theorem setEng_pert (e : Nat) (x : Engine) : (w.setEng e x).pert = w.pert := rfl
@[simp] theorem setEng_piers (e : Nat) (x : Engine) : (w.setEng e x).piers = w.piers := rfl
@[simp] theorem setEng_tlbs (e : Nat) (x : Engine) : (w.setEng e x).tlbs = w.tlbs := rfl
@[simp] theorem setEng_av (e : Nat) (x : Engine) : (w.setEng e x).av = w.av := rfl
@[simp] theorem setEng_pcieUp (e : Nat) (x : Engine) : (w.setEng e x).pcieUp = w.pcieUp := rfl
@[simp] theorem setEng_bar0 (e : Nat) (x : Engine) : (w.setEng e x).bar0 = w.bar0 := rfl
@[simp] theorem setEng_out (e : Nat) (x : Engine) : (w.setEng e x).out = w.out := rfl
@[simp] theorem setEng_freeCtr (e : Nat) (x : Engine) : (w.setEng e x).freeCtr = w.freeCtr := rfl

/-! `World.modEng`. -/

@[simp] theorem modEng_time (e : Nat) (f : Engine → Engine) : (w.modEng e f).time = w.time := rfl
@[simp] theorem modEng_timeRun (e : Nat) (f : Engine → Engine) : (w.modEng e f).timeRun = w.timeRun := rfl
@[simp] theorem modEng_eclk (e : Nat) (f : Engine → Engine) : (w.modEng e f).eclk = w.eclk := rfl
@[simp] theorem modEng_mem (e : Nat) (f : Engine → Engine) : (w.modEng e f).mem = w.mem := rfl
@[simp] theorem modEng_ks (e : Nat) (f : Engine → Engine) : (w.modEng e f).ks = w.ks := rfl
@[simp] theorem modEng_places (e : Nat) (f : Engine → Engine) : (w.modEng e f).places = w.places := rfl
@[simp] theorem modEng_nodeId (e : Nat) (f : Engine → Engine) : (w.modEng e f).nodeId = w.nodeId := rfl
@[simp] theorem modEng_stacksLost (e : Nat) (f : Engine → Engine) : (w.modEng e f).stacksLost = w.stacksLost := rfl
@[simp] theorem modEng_logs (e : Nat) (f : Engine → Engine) : (w.modEng e f).logs = w.logs := rfl
@[simp] theorem modEng_ports (e : Nat) (f : Engine → Engine) : (w.modEng e f).ports = w.ports := rfl
@[simp] theorem modEng_txns (e : Nat) (f : Engine → Engine) : (w.modEng e f).txns = w.txns := rfl
@[simp] theorem modEng_nextTid (e : Nat) (f : Engine → Engine) : (w.modEng e f).nextTid = w.nextTid := rfl
@[simp] theorem modEng_pairKeys (e : Nat) (f : Engine → Engine) : (w.modEng e f).pairKeys = w.pairKeys := rfl
@[simp] theorem modEng_seals (e : Nat) (f : Engine → Engine) : (w.modEng e f).seals = w.seals := rfl
@[simp] theorem modEng_gaths (e : Nat) (f : Engine → Engine) : (w.modEng e f).gaths = w.gaths := rfl
@[simp] theorem modEng_fes (e : Nat) (f : Engine → Engine) : (w.modEng e f).fes = w.fes := rfl
@[simp] theorem modEng_stacks (e : Nat) (f : Engine → Engine) : (w.modEng e f).hbmStacks = w.hbmStacks := rfl
@[simp] theorem modEng_chans (e : Nat) (f : Engine → Engine) : (w.modEng e f).chans = w.chans := rfl
@[simp] theorem modEng_ccache (e : Nat) (f : Engine → Engine) : (w.modEng e f).ccache = w.ccache := rfl
@[simp] theorem modEng_ubufs (e : Nat) (f : Engine → Engine) : (w.modEng e f).ubufs = w.ubufs := rfl
@[simp] theorem modEng_host (e : Nat) (f : Engine → Engine) : (w.modEng e f).host = w.host := rfl
@[simp] theorem modEng_dict (e : Nat) (f : Engine → Engine) : (w.modEng e f).dict = w.dict := rfl
@[simp] theorem modEng_pwr (e : Nat) (f : Engine → Engine) : (w.modEng e f).pwr = w.pwr := rfl
@[simp] theorem modEng_arbs (e : Nat) (f : Engine → Engine) : (w.modEng e f).arbs = w.arbs := rfl
@[simp] theorem modEng_pert (e : Nat) (f : Engine → Engine) : (w.modEng e f).pert = w.pert := rfl
@[simp] theorem modEng_piers (e : Nat) (f : Engine → Engine) : (w.modEng e f).piers = w.piers := rfl
@[simp] theorem modEng_tlbs (e : Nat) (f : Engine → Engine) : (w.modEng e f).tlbs = w.tlbs := rfl
@[simp] theorem modEng_av (e : Nat) (f : Engine → Engine) : (w.modEng e f).av = w.av := rfl
@[simp] theorem modEng_pcieUp (e : Nat) (f : Engine → Engine) : (w.modEng e f).pcieUp = w.pcieUp := rfl
@[simp] theorem modEng_bar0 (e : Nat) (f : Engine → Engine) : (w.modEng e f).bar0 = w.bar0 := rfl
@[simp] theorem modEng_out (e : Nat) (f : Engine → Engine) : (w.modEng e f).out = w.out := rfl
@[simp] theorem modEng_freeCtr (e : Nat) (f : Engine → Engine) : (w.modEng e f).freeCtr = w.freeCtr := rfl

/-! `World.emit`. -/

@[simp] theorem emit_time (o : Out) : (w.emit o).time = w.time := rfl
@[simp] theorem emit_timeRun (o : Out) : (w.emit o).timeRun = w.timeRun := rfl
@[simp] theorem emit_eclk (o : Out) : (w.emit o).eclk = w.eclk := rfl
@[simp] theorem emit_mem (o : Out) : (w.emit o).mem = w.mem := rfl
@[simp] theorem emit_ks (o : Out) : (w.emit o).ks = w.ks := rfl
@[simp] theorem emit_places (o : Out) : (w.emit o).places = w.places := rfl
@[simp] theorem emit_nodeId (o : Out) : (w.emit o).nodeId = w.nodeId := rfl
@[simp] theorem emit_stacksLost (o : Out) : (w.emit o).stacksLost = w.stacksLost := rfl
@[simp] theorem emit_engines (o : Out) : (w.emit o).engines = w.engines := rfl
@[simp] theorem emit_logs (o : Out) : (w.emit o).logs = w.logs := rfl
@[simp] theorem emit_ports (o : Out) : (w.emit o).ports = w.ports := rfl
@[simp] theorem emit_txns (o : Out) : (w.emit o).txns = w.txns := rfl
@[simp] theorem emit_nextTid (o : Out) : (w.emit o).nextTid = w.nextTid := rfl
@[simp] theorem emit_pairKeys (o : Out) : (w.emit o).pairKeys = w.pairKeys := rfl
@[simp] theorem emit_seals (o : Out) : (w.emit o).seals = w.seals := rfl
@[simp] theorem emit_gaths (o : Out) : (w.emit o).gaths = w.gaths := rfl
@[simp] theorem emit_fes (o : Out) : (w.emit o).fes = w.fes := rfl
@[simp] theorem emit_stacks (o : Out) : (w.emit o).hbmStacks = w.hbmStacks := rfl
@[simp] theorem emit_chans (o : Out) : (w.emit o).chans = w.chans := rfl
@[simp] theorem emit_ccache (o : Out) : (w.emit o).ccache = w.ccache := rfl
@[simp] theorem emit_ubufs (o : Out) : (w.emit o).ubufs = w.ubufs := rfl
@[simp] theorem emit_host (o : Out) : (w.emit o).host = w.host := rfl
@[simp] theorem emit_dict (o : Out) : (w.emit o).dict = w.dict := rfl
@[simp] theorem emit_pwr (o : Out) : (w.emit o).pwr = w.pwr := rfl
@[simp] theorem emit_arbs (o : Out) : (w.emit o).arbs = w.arbs := rfl
@[simp] theorem emit_pert (o : Out) : (w.emit o).pert = w.pert := rfl
@[simp] theorem emit_piers (o : Out) : (w.emit o).piers = w.piers := rfl
@[simp] theorem emit_tlbs (o : Out) : (w.emit o).tlbs = w.tlbs := rfl
@[simp] theorem emit_av (o : Out) : (w.emit o).av = w.av := rfl
@[simp] theorem emit_pcieUp (o : Out) : (w.emit o).pcieUp = w.pcieUp := rfl
@[simp] theorem emit_bar0 (o : Out) : (w.emit o).bar0 = w.bar0 := rfl
@[simp] theorem emit_freeCtr (o : Out) : (w.emit o).freeCtr = w.freeCtr := rfl

/-! `World.modLog`. -/

@[simp] theorem modLog_time (l : Nat) (f : LogEng → LogEng) : (w.modLog l f).time = w.time := rfl
@[simp] theorem modLog_timeRun (l : Nat) (f : LogEng → LogEng) : (w.modLog l f).timeRun = w.timeRun := rfl
@[simp] theorem modLog_eclk (l : Nat) (f : LogEng → LogEng) : (w.modLog l f).eclk = w.eclk := rfl
@[simp] theorem modLog_mem (l : Nat) (f : LogEng → LogEng) : (w.modLog l f).mem = w.mem := rfl
@[simp] theorem modLog_ks (l : Nat) (f : LogEng → LogEng) : (w.modLog l f).ks = w.ks := rfl
@[simp] theorem modLog_places (l : Nat) (f : LogEng → LogEng) : (w.modLog l f).places = w.places := rfl
@[simp] theorem modLog_nodeId (l : Nat) (f : LogEng → LogEng) : (w.modLog l f).nodeId = w.nodeId := rfl
@[simp] theorem modLog_stacksLost (l : Nat) (f : LogEng → LogEng) : (w.modLog l f).stacksLost = w.stacksLost := rfl
@[simp] theorem modLog_engines (l : Nat) (f : LogEng → LogEng) : (w.modLog l f).engines = w.engines := rfl
@[simp] theorem modLog_ports (l : Nat) (f : LogEng → LogEng) : (w.modLog l f).ports = w.ports := rfl
@[simp] theorem modLog_txns (l : Nat) (f : LogEng → LogEng) : (w.modLog l f).txns = w.txns := rfl
@[simp] theorem modLog_nextTid (l : Nat) (f : LogEng → LogEng) : (w.modLog l f).nextTid = w.nextTid := rfl
@[simp] theorem modLog_pairKeys (l : Nat) (f : LogEng → LogEng) : (w.modLog l f).pairKeys = w.pairKeys := rfl
@[simp] theorem modLog_seals (l : Nat) (f : LogEng → LogEng) : (w.modLog l f).seals = w.seals := rfl
@[simp] theorem modLog_gaths (l : Nat) (f : LogEng → LogEng) : (w.modLog l f).gaths = w.gaths := rfl
@[simp] theorem modLog_fes (l : Nat) (f : LogEng → LogEng) : (w.modLog l f).fes = w.fes := rfl
@[simp] theorem modLog_stacks (l : Nat) (f : LogEng → LogEng) : (w.modLog l f).hbmStacks = w.hbmStacks := rfl
@[simp] theorem modLog_chans (l : Nat) (f : LogEng → LogEng) : (w.modLog l f).chans = w.chans := rfl
@[simp] theorem modLog_ccache (l : Nat) (f : LogEng → LogEng) : (w.modLog l f).ccache = w.ccache := rfl
@[simp] theorem modLog_ubufs (l : Nat) (f : LogEng → LogEng) : (w.modLog l f).ubufs = w.ubufs := rfl
@[simp] theorem modLog_host (l : Nat) (f : LogEng → LogEng) : (w.modLog l f).host = w.host := rfl
@[simp] theorem modLog_dict (l : Nat) (f : LogEng → LogEng) : (w.modLog l f).dict = w.dict := rfl
@[simp] theorem modLog_pwr (l : Nat) (f : LogEng → LogEng) : (w.modLog l f).pwr = w.pwr := rfl
@[simp] theorem modLog_arbs (l : Nat) (f : LogEng → LogEng) : (w.modLog l f).arbs = w.arbs := rfl
@[simp] theorem modLog_pert (l : Nat) (f : LogEng → LogEng) : (w.modLog l f).pert = w.pert := rfl
@[simp] theorem modLog_piers (l : Nat) (f : LogEng → LogEng) : (w.modLog l f).piers = w.piers := rfl
@[simp] theorem modLog_tlbs (l : Nat) (f : LogEng → LogEng) : (w.modLog l f).tlbs = w.tlbs := rfl
@[simp] theorem modLog_av (l : Nat) (f : LogEng → LogEng) : (w.modLog l f).av = w.av := rfl
@[simp] theorem modLog_pcieUp (l : Nat) (f : LogEng → LogEng) : (w.modLog l f).pcieUp = w.pcieUp := rfl
@[simp] theorem modLog_bar0 (l : Nat) (f : LogEng → LogEng) : (w.modLog l f).bar0 = w.bar0 := rfl
@[simp] theorem modLog_out (l : Nat) (f : LogEng → LogEng) : (w.modLog l f).out = w.out := rfl
@[simp] theorem modLog_freeCtr (l : Nat) (f : LogEng → LogEng) : (w.modLog l f).freeCtr = w.freeCtr := rfl

/-! `World.setPort`. -/

@[simp] theorem setPort_time (p : Nat) (x : Port) : (w.setPort p x).time = w.time := rfl
@[simp] theorem setPort_timeRun (p : Nat) (x : Port) : (w.setPort p x).timeRun = w.timeRun := rfl
@[simp] theorem setPort_eclk (p : Nat) (x : Port) : (w.setPort p x).eclk = w.eclk := rfl
@[simp] theorem setPort_mem (p : Nat) (x : Port) : (w.setPort p x).mem = w.mem := rfl
@[simp] theorem setPort_ks (p : Nat) (x : Port) : (w.setPort p x).ks = w.ks := rfl
@[simp] theorem setPort_places (p : Nat) (x : Port) : (w.setPort p x).places = w.places := rfl
@[simp] theorem setPort_nodeId (p : Nat) (x : Port) : (w.setPort p x).nodeId = w.nodeId := rfl
@[simp] theorem setPort_stacksLost (p : Nat) (x : Port) : (w.setPort p x).stacksLost = w.stacksLost := rfl
@[simp] theorem setPort_engines (p : Nat) (x : Port) : (w.setPort p x).engines = w.engines := rfl
@[simp] theorem setPort_logs (p : Nat) (x : Port) : (w.setPort p x).logs = w.logs := rfl
@[simp] theorem setPort_txns (p : Nat) (x : Port) : (w.setPort p x).txns = w.txns := rfl
@[simp] theorem setPort_nextTid (p : Nat) (x : Port) : (w.setPort p x).nextTid = w.nextTid := rfl
@[simp] theorem setPort_pairKeys (p : Nat) (x : Port) : (w.setPort p x).pairKeys = w.pairKeys := rfl
@[simp] theorem setPort_seals (p : Nat) (x : Port) : (w.setPort p x).seals = w.seals := rfl
@[simp] theorem setPort_gaths (p : Nat) (x : Port) : (w.setPort p x).gaths = w.gaths := rfl
@[simp] theorem setPort_fes (p : Nat) (x : Port) : (w.setPort p x).fes = w.fes := rfl
@[simp] theorem setPort_stacks (p : Nat) (x : Port) : (w.setPort p x).hbmStacks = w.hbmStacks := rfl
@[simp] theorem setPort_chans (p : Nat) (x : Port) : (w.setPort p x).chans = w.chans := rfl
@[simp] theorem setPort_ccache (p : Nat) (x : Port) : (w.setPort p x).ccache = w.ccache := rfl
@[simp] theorem setPort_ubufs (p : Nat) (x : Port) : (w.setPort p x).ubufs = w.ubufs := rfl
@[simp] theorem setPort_host (p : Nat) (x : Port) : (w.setPort p x).host = w.host := rfl
@[simp] theorem setPort_dict (p : Nat) (x : Port) : (w.setPort p x).dict = w.dict := rfl
@[simp] theorem setPort_pwr (p : Nat) (x : Port) : (w.setPort p x).pwr = w.pwr := rfl
@[simp] theorem setPort_arbs (p : Nat) (x : Port) : (w.setPort p x).arbs = w.arbs := rfl
@[simp] theorem setPort_pert (p : Nat) (x : Port) : (w.setPort p x).pert = w.pert := rfl
@[simp] theorem setPort_piers (p : Nat) (x : Port) : (w.setPort p x).piers = w.piers := rfl
@[simp] theorem setPort_tlbs (p : Nat) (x : Port) : (w.setPort p x).tlbs = w.tlbs := rfl
@[simp] theorem setPort_av (p : Nat) (x : Port) : (w.setPort p x).av = w.av := rfl
@[simp] theorem setPort_pcieUp (p : Nat) (x : Port) : (w.setPort p x).pcieUp = w.pcieUp := rfl
@[simp] theorem setPort_bar0 (p : Nat) (x : Port) : (w.setPort p x).bar0 = w.bar0 := rfl
@[simp] theorem setPort_out (p : Nat) (x : Port) : (w.setPort p x).out = w.out := rfl
@[simp] theorem setPort_freeCtr (p : Nat) (x : Port) : (w.setPort p x).freeCtr = w.freeCtr := rfl

/-! `World.modPort`. -/

@[simp] theorem modPort_time (p : Nat) (f : Port → Port) : (w.modPort p f).time = w.time := rfl
@[simp] theorem modPort_timeRun (p : Nat) (f : Port → Port) : (w.modPort p f).timeRun = w.timeRun := rfl
@[simp] theorem modPort_eclk (p : Nat) (f : Port → Port) : (w.modPort p f).eclk = w.eclk := rfl
@[simp] theorem modPort_mem (p : Nat) (f : Port → Port) : (w.modPort p f).mem = w.mem := rfl
@[simp] theorem modPort_ks (p : Nat) (f : Port → Port) : (w.modPort p f).ks = w.ks := rfl
@[simp] theorem modPort_places (p : Nat) (f : Port → Port) : (w.modPort p f).places = w.places := rfl
@[simp] theorem modPort_nodeId (p : Nat) (f : Port → Port) : (w.modPort p f).nodeId = w.nodeId := rfl
@[simp] theorem modPort_stacksLost (p : Nat) (f : Port → Port) : (w.modPort p f).stacksLost = w.stacksLost := rfl
@[simp] theorem modPort_engines (p : Nat) (f : Port → Port) : (w.modPort p f).engines = w.engines := rfl
@[simp] theorem modPort_logs (p : Nat) (f : Port → Port) : (w.modPort p f).logs = w.logs := rfl
@[simp] theorem modPort_txns (p : Nat) (f : Port → Port) : (w.modPort p f).txns = w.txns := rfl
@[simp] theorem modPort_nextTid (p : Nat) (f : Port → Port) : (w.modPort p f).nextTid = w.nextTid := rfl
@[simp] theorem modPort_pairKeys (p : Nat) (f : Port → Port) : (w.modPort p f).pairKeys = w.pairKeys := rfl
@[simp] theorem modPort_seals (p : Nat) (f : Port → Port) : (w.modPort p f).seals = w.seals := rfl
@[simp] theorem modPort_gaths (p : Nat) (f : Port → Port) : (w.modPort p f).gaths = w.gaths := rfl
@[simp] theorem modPort_fes (p : Nat) (f : Port → Port) : (w.modPort p f).fes = w.fes := rfl
@[simp] theorem modPort_stacks (p : Nat) (f : Port → Port) : (w.modPort p f).hbmStacks = w.hbmStacks := rfl
@[simp] theorem modPort_chans (p : Nat) (f : Port → Port) : (w.modPort p f).chans = w.chans := rfl
@[simp] theorem modPort_ccache (p : Nat) (f : Port → Port) : (w.modPort p f).ccache = w.ccache := rfl
@[simp] theorem modPort_ubufs (p : Nat) (f : Port → Port) : (w.modPort p f).ubufs = w.ubufs := rfl
@[simp] theorem modPort_host (p : Nat) (f : Port → Port) : (w.modPort p f).host = w.host := rfl
@[simp] theorem modPort_dict (p : Nat) (f : Port → Port) : (w.modPort p f).dict = w.dict := rfl
@[simp] theorem modPort_pwr (p : Nat) (f : Port → Port) : (w.modPort p f).pwr = w.pwr := rfl
@[simp] theorem modPort_arbs (p : Nat) (f : Port → Port) : (w.modPort p f).arbs = w.arbs := rfl
@[simp] theorem modPort_pert (p : Nat) (f : Port → Port) : (w.modPort p f).pert = w.pert := rfl
@[simp] theorem modPort_piers (p : Nat) (f : Port → Port) : (w.modPort p f).piers = w.piers := rfl
@[simp] theorem modPort_tlbs (p : Nat) (f : Port → Port) : (w.modPort p f).tlbs = w.tlbs := rfl
@[simp] theorem modPort_av (p : Nat) (f : Port → Port) : (w.modPort p f).av = w.av := rfl
@[simp] theorem modPort_pcieUp (p : Nat) (f : Port → Port) : (w.modPort p f).pcieUp = w.pcieUp := rfl
@[simp] theorem modPort_bar0 (p : Nat) (f : Port → Port) : (w.modPort p f).bar0 = w.bar0 := rfl
@[simp] theorem modPort_out (p : Nat) (f : Port → Port) : (w.modPort p f).out = w.out := rfl
@[simp] theorem modPort_freeCtr (p : Nat) (f : Port → Port) : (w.modPort p f).freeCtr = w.freeCtr := rfl

/-! `World.modFn`. -/

@[simp] theorem modFn_time (f : Nat) (g : HostFn → HostFn) : (w.modFn f g).time = w.time := rfl
@[simp] theorem modFn_timeRun (f : Nat) (g : HostFn → HostFn) : (w.modFn f g).timeRun = w.timeRun := rfl
@[simp] theorem modFn_eclk (f : Nat) (g : HostFn → HostFn) : (w.modFn f g).eclk = w.eclk := rfl
@[simp] theorem modFn_mem (f : Nat) (g : HostFn → HostFn) : (w.modFn f g).mem = w.mem := rfl
@[simp] theorem modFn_ks (f : Nat) (g : HostFn → HostFn) : (w.modFn f g).ks = w.ks := rfl
@[simp] theorem modFn_places (f : Nat) (g : HostFn → HostFn) : (w.modFn f g).places = w.places := rfl
@[simp] theorem modFn_nodeId (f : Nat) (g : HostFn → HostFn) : (w.modFn f g).nodeId = w.nodeId := rfl
@[simp] theorem modFn_stacksLost (f : Nat) (g : HostFn → HostFn) : (w.modFn f g).stacksLost = w.stacksLost := rfl
@[simp] theorem modFn_engines (f : Nat) (g : HostFn → HostFn) : (w.modFn f g).engines = w.engines := rfl
@[simp] theorem modFn_logs (f : Nat) (g : HostFn → HostFn) : (w.modFn f g).logs = w.logs := rfl
@[simp] theorem modFn_ports (f : Nat) (g : HostFn → HostFn) : (w.modFn f g).ports = w.ports := rfl
@[simp] theorem modFn_txns (f : Nat) (g : HostFn → HostFn) : (w.modFn f g).txns = w.txns := rfl
@[simp] theorem modFn_nextTid (f : Nat) (g : HostFn → HostFn) : (w.modFn f g).nextTid = w.nextTid := rfl
@[simp] theorem modFn_pairKeys (f : Nat) (g : HostFn → HostFn) : (w.modFn f g).pairKeys = w.pairKeys := rfl
@[simp] theorem modFn_seals (f : Nat) (g : HostFn → HostFn) : (w.modFn f g).seals = w.seals := rfl
@[simp] theorem modFn_gaths (f : Nat) (g : HostFn → HostFn) : (w.modFn f g).gaths = w.gaths := rfl
@[simp] theorem modFn_fes (f : Nat) (g : HostFn → HostFn) : (w.modFn f g).fes = w.fes := rfl
@[simp] theorem modFn_stacks (f : Nat) (g : HostFn → HostFn) : (w.modFn f g).hbmStacks = w.hbmStacks := rfl
@[simp] theorem modFn_chans (f : Nat) (g : HostFn → HostFn) : (w.modFn f g).chans = w.chans := rfl
@[simp] theorem modFn_ccache (f : Nat) (g : HostFn → HostFn) : (w.modFn f g).ccache = w.ccache := rfl
@[simp] theorem modFn_ubufs (f : Nat) (g : HostFn → HostFn) : (w.modFn f g).ubufs = w.ubufs := rfl
@[simp] theorem modFn_dict (f : Nat) (g : HostFn → HostFn) : (w.modFn f g).dict = w.dict := rfl
@[simp] theorem modFn_pwr (f : Nat) (g : HostFn → HostFn) : (w.modFn f g).pwr = w.pwr := rfl
@[simp] theorem modFn_arbs (f : Nat) (g : HostFn → HostFn) : (w.modFn f g).arbs = w.arbs := rfl
@[simp] theorem modFn_pert (f : Nat) (g : HostFn → HostFn) : (w.modFn f g).pert = w.pert := rfl
@[simp] theorem modFn_piers (f : Nat) (g : HostFn → HostFn) : (w.modFn f g).piers = w.piers := rfl
@[simp] theorem modFn_tlbs (f : Nat) (g : HostFn → HostFn) : (w.modFn f g).tlbs = w.tlbs := rfl
@[simp] theorem modFn_av (f : Nat) (g : HostFn → HostFn) : (w.modFn f g).av = w.av := rfl
@[simp] theorem modFn_pcieUp (f : Nat) (g : HostFn → HostFn) : (w.modFn f g).pcieUp = w.pcieUp := rfl
@[simp] theorem modFn_bar0 (f : Nat) (g : HostFn → HostFn) : (w.modFn f g).bar0 = w.bar0 := rfl
@[simp] theorem modFn_out (f : Nat) (g : HostFn → HostFn) : (w.modFn f g).out = w.out := rfl
@[simp] theorem modFn_freeCtr (f : Nat) (g : HostFn → HostFn) : (w.modFn f g).freeCtr = w.freeCtr := rfl

/-! `World.modDict`. -/

@[simp] theorem modDict_time (f : DictSt → DictSt) : (w.modDict f).time = w.time := rfl
@[simp] theorem modDict_timeRun (f : DictSt → DictSt) : (w.modDict f).timeRun = w.timeRun := rfl
@[simp] theorem modDict_eclk (f : DictSt → DictSt) : (w.modDict f).eclk = w.eclk := rfl
@[simp] theorem modDict_mem (f : DictSt → DictSt) : (w.modDict f).mem = w.mem := rfl
@[simp] theorem modDict_ks (f : DictSt → DictSt) : (w.modDict f).ks = w.ks := rfl
@[simp] theorem modDict_places (f : DictSt → DictSt) : (w.modDict f).places = w.places := rfl
@[simp] theorem modDict_nodeId (f : DictSt → DictSt) : (w.modDict f).nodeId = w.nodeId := rfl
@[simp] theorem modDict_stacksLost (f : DictSt → DictSt) : (w.modDict f).stacksLost = w.stacksLost := rfl
@[simp] theorem modDict_engines (f : DictSt → DictSt) : (w.modDict f).engines = w.engines := rfl
@[simp] theorem modDict_logs (f : DictSt → DictSt) : (w.modDict f).logs = w.logs := rfl
@[simp] theorem modDict_ports (f : DictSt → DictSt) : (w.modDict f).ports = w.ports := rfl
@[simp] theorem modDict_txns (f : DictSt → DictSt) : (w.modDict f).txns = w.txns := rfl
@[simp] theorem modDict_nextTid (f : DictSt → DictSt) : (w.modDict f).nextTid = w.nextTid := rfl
@[simp] theorem modDict_pairKeys (f : DictSt → DictSt) : (w.modDict f).pairKeys = w.pairKeys := rfl
@[simp] theorem modDict_seals (f : DictSt → DictSt) : (w.modDict f).seals = w.seals := rfl
@[simp] theorem modDict_gaths (f : DictSt → DictSt) : (w.modDict f).gaths = w.gaths := rfl
@[simp] theorem modDict_fes (f : DictSt → DictSt) : (w.modDict f).fes = w.fes := rfl
@[simp] theorem modDict_stacks (f : DictSt → DictSt) : (w.modDict f).hbmStacks = w.hbmStacks := rfl
@[simp] theorem modDict_chans (f : DictSt → DictSt) : (w.modDict f).chans = w.chans := rfl
@[simp] theorem modDict_ccache (f : DictSt → DictSt) : (w.modDict f).ccache = w.ccache := rfl
@[simp] theorem modDict_ubufs (f : DictSt → DictSt) : (w.modDict f).ubufs = w.ubufs := rfl
@[simp] theorem modDict_host (f : DictSt → DictSt) : (w.modDict f).host = w.host := rfl
@[simp] theorem modDict_pwr (f : DictSt → DictSt) : (w.modDict f).pwr = w.pwr := rfl
@[simp] theorem modDict_arbs (f : DictSt → DictSt) : (w.modDict f).arbs = w.arbs := rfl
@[simp] theorem modDict_pert (f : DictSt → DictSt) : (w.modDict f).pert = w.pert := rfl
@[simp] theorem modDict_piers (f : DictSt → DictSt) : (w.modDict f).piers = w.piers := rfl
@[simp] theorem modDict_tlbs (f : DictSt → DictSt) : (w.modDict f).tlbs = w.tlbs := rfl
@[simp] theorem modDict_av (f : DictSt → DictSt) : (w.modDict f).av = w.av := rfl
@[simp] theorem modDict_pcieUp (f : DictSt → DictSt) : (w.modDict f).pcieUp = w.pcieUp := rfl
@[simp] theorem modDict_bar0 (f : DictSt → DictSt) : (w.modDict f).bar0 = w.bar0 := rfl
@[simp] theorem modDict_out (f : DictSt → DictSt) : (w.modDict f).out = w.out := rfl
@[simp] theorem modDict_freeCtr (f : DictSt → DictSt) : (w.modDict f).freeCtr = w.freeCtr := rfl

/-! `World.setDom`. -/

@[simp] theorem setDom_time (k : Nat) (d : KDom) : (w.setDom k d).time = w.time := rfl
@[simp] theorem setDom_timeRun (k : Nat) (d : KDom) : (w.setDom k d).timeRun = w.timeRun := rfl
@[simp] theorem setDom_eclk (k : Nat) (d : KDom) : (w.setDom k d).eclk = w.eclk := rfl
@[simp] theorem setDom_mem (k : Nat) (d : KDom) : (w.setDom k d).mem = w.mem := rfl
@[simp] theorem setDom_places (k : Nat) (d : KDom) : (w.setDom k d).places = w.places := rfl
@[simp] theorem setDom_nodeId (k : Nat) (d : KDom) : (w.setDom k d).nodeId = w.nodeId := rfl
@[simp] theorem setDom_stacksLost (k : Nat) (d : KDom) : (w.setDom k d).stacksLost = w.stacksLost := rfl
@[simp] theorem setDom_engines (k : Nat) (d : KDom) : (w.setDom k d).engines = w.engines := rfl
@[simp] theorem setDom_logs (k : Nat) (d : KDom) : (w.setDom k d).logs = w.logs := rfl
@[simp] theorem setDom_ports (k : Nat) (d : KDom) : (w.setDom k d).ports = w.ports := rfl
@[simp] theorem setDom_txns (k : Nat) (d : KDom) : (w.setDom k d).txns = w.txns := rfl
@[simp] theorem setDom_nextTid (k : Nat) (d : KDom) : (w.setDom k d).nextTid = w.nextTid := rfl
@[simp] theorem setDom_pairKeys (k : Nat) (d : KDom) : (w.setDom k d).pairKeys = w.pairKeys := rfl
@[simp] theorem setDom_seals (k : Nat) (d : KDom) : (w.setDom k d).seals = w.seals := rfl
@[simp] theorem setDom_gaths (k : Nat) (d : KDom) : (w.setDom k d).gaths = w.gaths := rfl
@[simp] theorem setDom_fes (k : Nat) (d : KDom) : (w.setDom k d).fes = w.fes := rfl
@[simp] theorem setDom_stacks (k : Nat) (d : KDom) : (w.setDom k d).hbmStacks = w.hbmStacks := rfl
@[simp] theorem setDom_chans (k : Nat) (d : KDom) : (w.setDom k d).chans = w.chans := rfl
@[simp] theorem setDom_ccache (k : Nat) (d : KDom) : (w.setDom k d).ccache = w.ccache := rfl
@[simp] theorem setDom_ubufs (k : Nat) (d : KDom) : (w.setDom k d).ubufs = w.ubufs := rfl
@[simp] theorem setDom_host (k : Nat) (d : KDom) : (w.setDom k d).host = w.host := rfl
@[simp] theorem setDom_dict (k : Nat) (d : KDom) : (w.setDom k d).dict = w.dict := rfl
@[simp] theorem setDom_pwr (k : Nat) (d : KDom) : (w.setDom k d).pwr = w.pwr := rfl
@[simp] theorem setDom_arbs (k : Nat) (d : KDom) : (w.setDom k d).arbs = w.arbs := rfl
@[simp] theorem setDom_pert (k : Nat) (d : KDom) : (w.setDom k d).pert = w.pert := rfl
@[simp] theorem setDom_piers (k : Nat) (d : KDom) : (w.setDom k d).piers = w.piers := rfl
@[simp] theorem setDom_tlbs (k : Nat) (d : KDom) : (w.setDom k d).tlbs = w.tlbs := rfl
@[simp] theorem setDom_av (k : Nat) (d : KDom) : (w.setDom k d).av = w.av := rfl
@[simp] theorem setDom_pcieUp (k : Nat) (d : KDom) : (w.setDom k d).pcieUp = w.pcieUp := rfl
@[simp] theorem setDom_bar0 (k : Nat) (d : KDom) : (w.setDom k d).bar0 = w.bar0 := rfl
@[simp] theorem setDom_out (k : Nat) (d : KDom) : (w.setDom k d).out = w.out := rfl
@[simp] theorem setDom_freeCtr (k : Nat) (d : KDom) : (w.setDom k d).freeCtr = w.freeCtr := rfl

/-! `World.setFe`. -/

@[simp] theorem setFe_time (g : Nat) (f : FrontEnd) : (w.setFe g f).time = w.time := rfl
@[simp] theorem setFe_timeRun (g : Nat) (f : FrontEnd) : (w.setFe g f).timeRun = w.timeRun := rfl
@[simp] theorem setFe_eclk (g : Nat) (f : FrontEnd) : (w.setFe g f).eclk = w.eclk := rfl
@[simp] theorem setFe_mem (g : Nat) (f : FrontEnd) : (w.setFe g f).mem = w.mem := rfl
@[simp] theorem setFe_ks (g : Nat) (f : FrontEnd) : (w.setFe g f).ks = w.ks := rfl
@[simp] theorem setFe_places (g : Nat) (f : FrontEnd) : (w.setFe g f).places = w.places := rfl
@[simp] theorem setFe_nodeId (g : Nat) (f : FrontEnd) : (w.setFe g f).nodeId = w.nodeId := rfl
@[simp] theorem setFe_stacksLost (g : Nat) (f : FrontEnd) : (w.setFe g f).stacksLost = w.stacksLost := rfl
@[simp] theorem setFe_engines (g : Nat) (f : FrontEnd) : (w.setFe g f).engines = w.engines := rfl
@[simp] theorem setFe_logs (g : Nat) (f : FrontEnd) : (w.setFe g f).logs = w.logs := rfl
@[simp] theorem setFe_ports (g : Nat) (f : FrontEnd) : (w.setFe g f).ports = w.ports := rfl
@[simp] theorem setFe_txns (g : Nat) (f : FrontEnd) : (w.setFe g f).txns = w.txns := rfl
@[simp] theorem setFe_nextTid (g : Nat) (f : FrontEnd) : (w.setFe g f).nextTid = w.nextTid := rfl
@[simp] theorem setFe_pairKeys (g : Nat) (f : FrontEnd) : (w.setFe g f).pairKeys = w.pairKeys := rfl
@[simp] theorem setFe_seals (g : Nat) (f : FrontEnd) : (w.setFe g f).seals = w.seals := rfl
@[simp] theorem setFe_gaths (g : Nat) (f : FrontEnd) : (w.setFe g f).gaths = w.gaths := rfl
@[simp] theorem setFe_stacks (g : Nat) (f : FrontEnd) : (w.setFe g f).hbmStacks = w.hbmStacks := rfl
@[simp] theorem setFe_chans (g : Nat) (f : FrontEnd) : (w.setFe g f).chans = w.chans := rfl
@[simp] theorem setFe_ccache (g : Nat) (f : FrontEnd) : (w.setFe g f).ccache = w.ccache := rfl
@[simp] theorem setFe_ubufs (g : Nat) (f : FrontEnd) : (w.setFe g f).ubufs = w.ubufs := rfl
@[simp] theorem setFe_host (g : Nat) (f : FrontEnd) : (w.setFe g f).host = w.host := rfl
@[simp] theorem setFe_dict (g : Nat) (f : FrontEnd) : (w.setFe g f).dict = w.dict := rfl
@[simp] theorem setFe_pwr (g : Nat) (f : FrontEnd) : (w.setFe g f).pwr = w.pwr := rfl
@[simp] theorem setFe_arbs (g : Nat) (f : FrontEnd) : (w.setFe g f).arbs = w.arbs := rfl
@[simp] theorem setFe_pert (g : Nat) (f : FrontEnd) : (w.setFe g f).pert = w.pert := rfl
@[simp] theorem setFe_piers (g : Nat) (f : FrontEnd) : (w.setFe g f).piers = w.piers := rfl
@[simp] theorem setFe_tlbs (g : Nat) (f : FrontEnd) : (w.setFe g f).tlbs = w.tlbs := rfl
@[simp] theorem setFe_av (g : Nat) (f : FrontEnd) : (w.setFe g f).av = w.av := rfl
@[simp] theorem setFe_pcieUp (g : Nat) (f : FrontEnd) : (w.setFe g f).pcieUp = w.pcieUp := rfl
@[simp] theorem setFe_bar0 (g : Nat) (f : FrontEnd) : (w.setFe g f).bar0 = w.bar0 := rfl
@[simp] theorem setFe_out (g : Nat) (f : FrontEnd) : (w.setFe g f).out = w.out := rfl
@[simp] theorem setFe_freeCtr (g : Nat) (f : FrontEnd) : (w.setFe g f).freeCtr = w.freeCtr := rfl

/-! `World.setStack`. -/

@[simp] theorem setStack_time (h : Nat) (r : Reserve) : (w.setStack h r).time = w.time := rfl
@[simp] theorem setStack_timeRun (h : Nat) (r : Reserve) : (w.setStack h r).timeRun = w.timeRun := rfl
@[simp] theorem setStack_eclk (h : Nat) (r : Reserve) : (w.setStack h r).eclk = w.eclk := rfl
@[simp] theorem setStack_mem (h : Nat) (r : Reserve) : (w.setStack h r).mem = w.mem := rfl
@[simp] theorem setStack_ks (h : Nat) (r : Reserve) : (w.setStack h r).ks = w.ks := rfl
@[simp] theorem setStack_places (h : Nat) (r : Reserve) : (w.setStack h r).places = w.places := rfl
@[simp] theorem setStack_nodeId (h : Nat) (r : Reserve) : (w.setStack h r).nodeId = w.nodeId := rfl
@[simp] theorem setStack_stacksLost (h : Nat) (r : Reserve) : (w.setStack h r).stacksLost = w.stacksLost := rfl
@[simp] theorem setStack_engines (h : Nat) (r : Reserve) : (w.setStack h r).engines = w.engines := rfl
@[simp] theorem setStack_logs (h : Nat) (r : Reserve) : (w.setStack h r).logs = w.logs := rfl
@[simp] theorem setStack_ports (h : Nat) (r : Reserve) : (w.setStack h r).ports = w.ports := rfl
@[simp] theorem setStack_txns (h : Nat) (r : Reserve) : (w.setStack h r).txns = w.txns := rfl
@[simp] theorem setStack_nextTid (h : Nat) (r : Reserve) : (w.setStack h r).nextTid = w.nextTid := rfl
@[simp] theorem setStack_pairKeys (h : Nat) (r : Reserve) : (w.setStack h r).pairKeys = w.pairKeys := rfl
@[simp] theorem setStack_seals (h : Nat) (r : Reserve) : (w.setStack h r).seals = w.seals := rfl
@[simp] theorem setStack_gaths (h : Nat) (r : Reserve) : (w.setStack h r).gaths = w.gaths := rfl
@[simp] theorem setStack_fes (h : Nat) (r : Reserve) : (w.setStack h r).fes = w.fes := rfl
@[simp] theorem setStack_chans (h : Nat) (r : Reserve) : (w.setStack h r).chans = w.chans := rfl
@[simp] theorem setStack_ccache (h : Nat) (r : Reserve) : (w.setStack h r).ccache = w.ccache := rfl
@[simp] theorem setStack_ubufs (h : Nat) (r : Reserve) : (w.setStack h r).ubufs = w.ubufs := rfl
@[simp] theorem setStack_host (h : Nat) (r : Reserve) : (w.setStack h r).host = w.host := rfl
@[simp] theorem setStack_dict (h : Nat) (r : Reserve) : (w.setStack h r).dict = w.dict := rfl
@[simp] theorem setStack_pwr (h : Nat) (r : Reserve) : (w.setStack h r).pwr = w.pwr := rfl
@[simp] theorem setStack_arbs (h : Nat) (r : Reserve) : (w.setStack h r).arbs = w.arbs := rfl
@[simp] theorem setStack_pert (h : Nat) (r : Reserve) : (w.setStack h r).pert = w.pert := rfl
@[simp] theorem setStack_piers (h : Nat) (r : Reserve) : (w.setStack h r).piers = w.piers := rfl
@[simp] theorem setStack_tlbs (h : Nat) (r : Reserve) : (w.setStack h r).tlbs = w.tlbs := rfl
@[simp] theorem setStack_av (h : Nat) (r : Reserve) : (w.setStack h r).av = w.av := rfl
@[simp] theorem setStack_pcieUp (h : Nat) (r : Reserve) : (w.setStack h r).pcieUp = w.pcieUp := rfl
@[simp] theorem setStack_bar0 (h : Nat) (r : Reserve) : (w.setStack h r).bar0 = w.bar0 := rfl
@[simp] theorem setStack_out (h : Nat) (r : Reserve) : (w.setStack h r).out = w.out := rfl
@[simp] theorem setStack_freeCtr (h : Nat) (r : Reserve) : (w.setStack h r).freeCtr = w.freeCtr := rfl

/-! `World.setGath`. -/

@[simp] theorem setGath_time (d : Nat) (g : Gath) : (w.setGath d g).time = w.time := rfl
@[simp] theorem setGath_timeRun (d : Nat) (g : Gath) : (w.setGath d g).timeRun = w.timeRun := rfl
@[simp] theorem setGath_eclk (d : Nat) (g : Gath) : (w.setGath d g).eclk = w.eclk := rfl
@[simp] theorem setGath_mem (d : Nat) (g : Gath) : (w.setGath d g).mem = w.mem := rfl
@[simp] theorem setGath_ks (d : Nat) (g : Gath) : (w.setGath d g).ks = w.ks := rfl
@[simp] theorem setGath_places (d : Nat) (g : Gath) : (w.setGath d g).places = w.places := rfl
@[simp] theorem setGath_nodeId (d : Nat) (g : Gath) : (w.setGath d g).nodeId = w.nodeId := rfl
@[simp] theorem setGath_stacksLost (d : Nat) (g : Gath) : (w.setGath d g).stacksLost = w.stacksLost := rfl
@[simp] theorem setGath_engines (d : Nat) (g : Gath) : (w.setGath d g).engines = w.engines := rfl
@[simp] theorem setGath_logs (d : Nat) (g : Gath) : (w.setGath d g).logs = w.logs := rfl
@[simp] theorem setGath_ports (d : Nat) (g : Gath) : (w.setGath d g).ports = w.ports := rfl
@[simp] theorem setGath_txns (d : Nat) (g : Gath) : (w.setGath d g).txns = w.txns := rfl
@[simp] theorem setGath_nextTid (d : Nat) (g : Gath) : (w.setGath d g).nextTid = w.nextTid := rfl
@[simp] theorem setGath_pairKeys (d : Nat) (g : Gath) : (w.setGath d g).pairKeys = w.pairKeys := rfl
@[simp] theorem setGath_seals (d : Nat) (g : Gath) : (w.setGath d g).seals = w.seals := rfl
@[simp] theorem setGath_fes (d : Nat) (g : Gath) : (w.setGath d g).fes = w.fes := rfl
@[simp] theorem setGath_stacks (d : Nat) (g : Gath) : (w.setGath d g).hbmStacks = w.hbmStacks := rfl
@[simp] theorem setGath_chans (d : Nat) (g : Gath) : (w.setGath d g).chans = w.chans := rfl
@[simp] theorem setGath_ccache (d : Nat) (g : Gath) : (w.setGath d g).ccache = w.ccache := rfl
@[simp] theorem setGath_ubufs (d : Nat) (g : Gath) : (w.setGath d g).ubufs = w.ubufs := rfl
@[simp] theorem setGath_host (d : Nat) (g : Gath) : (w.setGath d g).host = w.host := rfl
@[simp] theorem setGath_dict (d : Nat) (g : Gath) : (w.setGath d g).dict = w.dict := rfl
@[simp] theorem setGath_pwr (d : Nat) (g : Gath) : (w.setGath d g).pwr = w.pwr := rfl
@[simp] theorem setGath_arbs (d : Nat) (g : Gath) : (w.setGath d g).arbs = w.arbs := rfl
@[simp] theorem setGath_pert (d : Nat) (g : Gath) : (w.setGath d g).pert = w.pert := rfl
@[simp] theorem setGath_piers (d : Nat) (g : Gath) : (w.setGath d g).piers = w.piers := rfl
@[simp] theorem setGath_tlbs (d : Nat) (g : Gath) : (w.setGath d g).tlbs = w.tlbs := rfl
@[simp] theorem setGath_av (d : Nat) (g : Gath) : (w.setGath d g).av = w.av := rfl
@[simp] theorem setGath_pcieUp (d : Nat) (g : Gath) : (w.setGath d g).pcieUp = w.pcieUp := rfl
@[simp] theorem setGath_bar0 (d : Nat) (g : Gath) : (w.setGath d g).bar0 = w.bar0 := rfl
@[simp] theorem setGath_out (d : Nat) (g : Gath) : (w.setGath d g).out = w.out := rfl
@[simp] theorem setGath_freeCtr (d : Nat) (g : Gath) : (w.setGath d g).freeCtr = w.freeCtr := rfl

/-! `World.modGath`. -/

@[simp] theorem modGath_time (d : Nat) (f : Gath → Gath) : (w.modGath d f).time = w.time := rfl
@[simp] theorem modGath_timeRun (d : Nat) (f : Gath → Gath) : (w.modGath d f).timeRun = w.timeRun := rfl
@[simp] theorem modGath_eclk (d : Nat) (f : Gath → Gath) : (w.modGath d f).eclk = w.eclk := rfl
@[simp] theorem modGath_mem (d : Nat) (f : Gath → Gath) : (w.modGath d f).mem = w.mem := rfl
@[simp] theorem modGath_ks (d : Nat) (f : Gath → Gath) : (w.modGath d f).ks = w.ks := rfl
@[simp] theorem modGath_places (d : Nat) (f : Gath → Gath) : (w.modGath d f).places = w.places := rfl
@[simp] theorem modGath_nodeId (d : Nat) (f : Gath → Gath) : (w.modGath d f).nodeId = w.nodeId := rfl
@[simp] theorem modGath_stacksLost (d : Nat) (f : Gath → Gath) : (w.modGath d f).stacksLost = w.stacksLost := rfl
@[simp] theorem modGath_engines (d : Nat) (f : Gath → Gath) : (w.modGath d f).engines = w.engines := rfl
@[simp] theorem modGath_logs (d : Nat) (f : Gath → Gath) : (w.modGath d f).logs = w.logs := rfl
@[simp] theorem modGath_ports (d : Nat) (f : Gath → Gath) : (w.modGath d f).ports = w.ports := rfl
@[simp] theorem modGath_txns (d : Nat) (f : Gath → Gath) : (w.modGath d f).txns = w.txns := rfl
@[simp] theorem modGath_nextTid (d : Nat) (f : Gath → Gath) : (w.modGath d f).nextTid = w.nextTid := rfl
@[simp] theorem modGath_pairKeys (d : Nat) (f : Gath → Gath) : (w.modGath d f).pairKeys = w.pairKeys := rfl
@[simp] theorem modGath_seals (d : Nat) (f : Gath → Gath) : (w.modGath d f).seals = w.seals := rfl
@[simp] theorem modGath_fes (d : Nat) (f : Gath → Gath) : (w.modGath d f).fes = w.fes := rfl
@[simp] theorem modGath_stacks (d : Nat) (f : Gath → Gath) : (w.modGath d f).hbmStacks = w.hbmStacks := rfl
@[simp] theorem modGath_chans (d : Nat) (f : Gath → Gath) : (w.modGath d f).chans = w.chans := rfl
@[simp] theorem modGath_ccache (d : Nat) (f : Gath → Gath) : (w.modGath d f).ccache = w.ccache := rfl
@[simp] theorem modGath_ubufs (d : Nat) (f : Gath → Gath) : (w.modGath d f).ubufs = w.ubufs := rfl
@[simp] theorem modGath_host (d : Nat) (f : Gath → Gath) : (w.modGath d f).host = w.host := rfl
@[simp] theorem modGath_dict (d : Nat) (f : Gath → Gath) : (w.modGath d f).dict = w.dict := rfl
@[simp] theorem modGath_pwr (d : Nat) (f : Gath → Gath) : (w.modGath d f).pwr = w.pwr := rfl
@[simp] theorem modGath_arbs (d : Nat) (f : Gath → Gath) : (w.modGath d f).arbs = w.arbs := rfl
@[simp] theorem modGath_pert (d : Nat) (f : Gath → Gath) : (w.modGath d f).pert = w.pert := rfl
@[simp] theorem modGath_piers (d : Nat) (f : Gath → Gath) : (w.modGath d f).piers = w.piers := rfl
@[simp] theorem modGath_tlbs (d : Nat) (f : Gath → Gath) : (w.modGath d f).tlbs = w.tlbs := rfl
@[simp] theorem modGath_av (d : Nat) (f : Gath → Gath) : (w.modGath d f).av = w.av := rfl
@[simp] theorem modGath_pcieUp (d : Nat) (f : Gath → Gath) : (w.modGath d f).pcieUp = w.pcieUp := rfl
@[simp] theorem modGath_bar0 (d : Nat) (f : Gath → Gath) : (w.modGath d f).bar0 = w.bar0 := rfl
@[simp] theorem modGath_out (d : Nat) (f : Gath → Gath) : (w.modGath d f).out = w.out := rfl
@[simp] theorem modGath_freeCtr (d : Nat) (f : Gath → Gath) : (w.modGath d f).freeCtr = w.freeCtr := rfl

/-! `World.setTail`. -/

@[simp] theorem setTail_time (j : Nat) (t : TailSlot) : (w.setTail j t).time = w.time := rfl
@[simp] theorem setTail_timeRun (j : Nat) (t : TailSlot) : (w.setTail j t).timeRun = w.timeRun := rfl
@[simp] theorem setTail_eclk (j : Nat) (t : TailSlot) : (w.setTail j t).eclk = w.eclk := rfl
@[simp] theorem setTail_mem (j : Nat) (t : TailSlot) : (w.setTail j t).mem = w.mem := rfl
@[simp] theorem setTail_ks (j : Nat) (t : TailSlot) : (w.setTail j t).ks = w.ks := rfl
@[simp] theorem setTail_places (j : Nat) (t : TailSlot) : (w.setTail j t).places = w.places := rfl
@[simp] theorem setTail_nodeId (j : Nat) (t : TailSlot) : (w.setTail j t).nodeId = w.nodeId := rfl
@[simp] theorem setTail_stacksLost (j : Nat) (t : TailSlot) : (w.setTail j t).stacksLost = w.stacksLost := rfl
@[simp] theorem setTail_engines (j : Nat) (t : TailSlot) : (w.setTail j t).engines = w.engines := rfl
@[simp] theorem setTail_logs (j : Nat) (t : TailSlot) : (w.setTail j t).logs = w.logs := rfl
@[simp] theorem setTail_ports (j : Nat) (t : TailSlot) : (w.setTail j t).ports = w.ports := rfl
@[simp] theorem setTail_txns (j : Nat) (t : TailSlot) : (w.setTail j t).txns = w.txns := rfl
@[simp] theorem setTail_nextTid (j : Nat) (t : TailSlot) : (w.setTail j t).nextTid = w.nextTid := rfl
@[simp] theorem setTail_pairKeys (j : Nat) (t : TailSlot) : (w.setTail j t).pairKeys = w.pairKeys := rfl
@[simp] theorem setTail_seals (j : Nat) (t : TailSlot) : (w.setTail j t).seals = w.seals := rfl
@[simp] theorem setTail_gaths (j : Nat) (t : TailSlot) : (w.setTail j t).gaths = w.gaths := rfl
@[simp] theorem setTail_fes (j : Nat) (t : TailSlot) : (w.setTail j t).fes = w.fes := rfl
@[simp] theorem setTail_stacks (j : Nat) (t : TailSlot) : (w.setTail j t).hbmStacks = w.hbmStacks := rfl
@[simp] theorem setTail_chans (j : Nat) (t : TailSlot) : (w.setTail j t).chans = w.chans := rfl
@[simp] theorem setTail_ccache (j : Nat) (t : TailSlot) : (w.setTail j t).ccache = w.ccache := rfl
@[simp] theorem setTail_ubufs (j : Nat) (t : TailSlot) : (w.setTail j t).ubufs = w.ubufs := rfl
@[simp] theorem setTail_host (j : Nat) (t : TailSlot) : (w.setTail j t).host = w.host := rfl
@[simp] theorem setTail_dict (j : Nat) (t : TailSlot) : (w.setTail j t).dict = w.dict := rfl
@[simp] theorem setTail_pwr (j : Nat) (t : TailSlot) : (w.setTail j t).pwr = w.pwr := rfl
@[simp] theorem setTail_arbs (j : Nat) (t : TailSlot) : (w.setTail j t).arbs = w.arbs := rfl
@[simp] theorem setTail_pert (j : Nat) (t : TailSlot) : (w.setTail j t).pert = w.pert := rfl
@[simp] theorem setTail_piers (j : Nat) (t : TailSlot) : (w.setTail j t).piers = w.piers := rfl
@[simp] theorem setTail_tlbs (j : Nat) (t : TailSlot) : (w.setTail j t).tlbs = w.tlbs := rfl
@[simp] theorem setTail_pcieUp (j : Nat) (t : TailSlot) : (w.setTail j t).pcieUp = w.pcieUp := rfl
@[simp] theorem setTail_bar0 (j : Nat) (t : TailSlot) : (w.setTail j t).bar0 = w.bar0 := rfl
@[simp] theorem setTail_out (j : Nat) (t : TailSlot) : (w.setTail j t).out = w.out := rfl
@[simp] theorem setTail_freeCtr (j : Nat) (t : TailSlot) : (w.setTail j t).freeCtr = w.freeCtr := rfl

/-! `World.modTail`. -/

@[simp] theorem modTail_time (j : Nat) (f : TailSlot → TailSlot) : (w.modTail j f).time = w.time := rfl
@[simp] theorem modTail_timeRun (j : Nat) (f : TailSlot → TailSlot) : (w.modTail j f).timeRun = w.timeRun := rfl
@[simp] theorem modTail_eclk (j : Nat) (f : TailSlot → TailSlot) : (w.modTail j f).eclk = w.eclk := rfl
@[simp] theorem modTail_mem (j : Nat) (f : TailSlot → TailSlot) : (w.modTail j f).mem = w.mem := rfl
@[simp] theorem modTail_ks (j : Nat) (f : TailSlot → TailSlot) : (w.modTail j f).ks = w.ks := rfl
@[simp] theorem modTail_places (j : Nat) (f : TailSlot → TailSlot) : (w.modTail j f).places = w.places := rfl
@[simp] theorem modTail_nodeId (j : Nat) (f : TailSlot → TailSlot) : (w.modTail j f).nodeId = w.nodeId := rfl
@[simp] theorem modTail_stacksLost (j : Nat) (f : TailSlot → TailSlot) : (w.modTail j f).stacksLost = w.stacksLost := rfl
@[simp] theorem modTail_engines (j : Nat) (f : TailSlot → TailSlot) : (w.modTail j f).engines = w.engines := rfl
@[simp] theorem modTail_logs (j : Nat) (f : TailSlot → TailSlot) : (w.modTail j f).logs = w.logs := rfl
@[simp] theorem modTail_ports (j : Nat) (f : TailSlot → TailSlot) : (w.modTail j f).ports = w.ports := rfl
@[simp] theorem modTail_txns (j : Nat) (f : TailSlot → TailSlot) : (w.modTail j f).txns = w.txns := rfl
@[simp] theorem modTail_nextTid (j : Nat) (f : TailSlot → TailSlot) : (w.modTail j f).nextTid = w.nextTid := rfl
@[simp] theorem modTail_pairKeys (j : Nat) (f : TailSlot → TailSlot) : (w.modTail j f).pairKeys = w.pairKeys := rfl
@[simp] theorem modTail_seals (j : Nat) (f : TailSlot → TailSlot) : (w.modTail j f).seals = w.seals := rfl
@[simp] theorem modTail_gaths (j : Nat) (f : TailSlot → TailSlot) : (w.modTail j f).gaths = w.gaths := rfl
@[simp] theorem modTail_fes (j : Nat) (f : TailSlot → TailSlot) : (w.modTail j f).fes = w.fes := rfl
@[simp] theorem modTail_stacks (j : Nat) (f : TailSlot → TailSlot) : (w.modTail j f).hbmStacks = w.hbmStacks := rfl
@[simp] theorem modTail_chans (j : Nat) (f : TailSlot → TailSlot) : (w.modTail j f).chans = w.chans := rfl
@[simp] theorem modTail_ccache (j : Nat) (f : TailSlot → TailSlot) : (w.modTail j f).ccache = w.ccache := rfl
@[simp] theorem modTail_ubufs (j : Nat) (f : TailSlot → TailSlot) : (w.modTail j f).ubufs = w.ubufs := rfl
@[simp] theorem modTail_host (j : Nat) (f : TailSlot → TailSlot) : (w.modTail j f).host = w.host := rfl
@[simp] theorem modTail_dict (j : Nat) (f : TailSlot → TailSlot) : (w.modTail j f).dict = w.dict := rfl
@[simp] theorem modTail_pwr (j : Nat) (f : TailSlot → TailSlot) : (w.modTail j f).pwr = w.pwr := rfl
@[simp] theorem modTail_arbs (j : Nat) (f : TailSlot → TailSlot) : (w.modTail j f).arbs = w.arbs := rfl
@[simp] theorem modTail_pert (j : Nat) (f : TailSlot → TailSlot) : (w.modTail j f).pert = w.pert := rfl
@[simp] theorem modTail_piers (j : Nat) (f : TailSlot → TailSlot) : (w.modTail j f).piers = w.piers := rfl
@[simp] theorem modTail_tlbs (j : Nat) (f : TailSlot → TailSlot) : (w.modTail j f).tlbs = w.tlbs := rfl
@[simp] theorem modTail_pcieUp (j : Nat) (f : TailSlot → TailSlot) : (w.modTail j f).pcieUp = w.pcieUp := rfl
@[simp] theorem modTail_bar0 (j : Nat) (f : TailSlot → TailSlot) : (w.modTail j f).bar0 = w.bar0 := rfl
@[simp] theorem modTail_out (j : Nat) (f : TailSlot → TailSlot) : (w.modTail j f).out = w.out := rfl
@[simp] theorem modTail_freeCtr (j : Nat) (f : TailSlot → TailSlot) : (w.modTail j f).freeCtr = w.freeCtr := rfl

/-! `World.setChan`. -/

@[simp] theorem setChan_time (n : Nat) (c : Chan) : (w.setChan n c).time = w.time := rfl
@[simp] theorem setChan_timeRun (n : Nat) (c : Chan) : (w.setChan n c).timeRun = w.timeRun := rfl
@[simp] theorem setChan_eclk (n : Nat) (c : Chan) : (w.setChan n c).eclk = w.eclk := rfl
@[simp] theorem setChan_mem (n : Nat) (c : Chan) : (w.setChan n c).mem = w.mem := rfl
@[simp] theorem setChan_ks (n : Nat) (c : Chan) : (w.setChan n c).ks = w.ks := rfl
@[simp] theorem setChan_places (n : Nat) (c : Chan) : (w.setChan n c).places = w.places := rfl
@[simp] theorem setChan_nodeId (n : Nat) (c : Chan) : (w.setChan n c).nodeId = w.nodeId := rfl
@[simp] theorem setChan_stacksLost (n : Nat) (c : Chan) : (w.setChan n c).stacksLost = w.stacksLost := rfl
@[simp] theorem setChan_engines (n : Nat) (c : Chan) : (w.setChan n c).engines = w.engines := rfl
@[simp] theorem setChan_logs (n : Nat) (c : Chan) : (w.setChan n c).logs = w.logs := rfl
@[simp] theorem setChan_ports (n : Nat) (c : Chan) : (w.setChan n c).ports = w.ports := rfl
@[simp] theorem setChan_txns (n : Nat) (c : Chan) : (w.setChan n c).txns = w.txns := rfl
@[simp] theorem setChan_nextTid (n : Nat) (c : Chan) : (w.setChan n c).nextTid = w.nextTid := rfl
@[simp] theorem setChan_pairKeys (n : Nat) (c : Chan) : (w.setChan n c).pairKeys = w.pairKeys := rfl
@[simp] theorem setChan_seals (n : Nat) (c : Chan) : (w.setChan n c).seals = w.seals := rfl
@[simp] theorem setChan_gaths (n : Nat) (c : Chan) : (w.setChan n c).gaths = w.gaths := rfl
@[simp] theorem setChan_fes (n : Nat) (c : Chan) : (w.setChan n c).fes = w.fes := rfl
@[simp] theorem setChan_stacks (n : Nat) (c : Chan) : (w.setChan n c).hbmStacks = w.hbmStacks := rfl
@[simp] theorem setChan_ccache (n : Nat) (c : Chan) : (w.setChan n c).ccache = w.ccache := rfl
@[simp] theorem setChan_ubufs (n : Nat) (c : Chan) : (w.setChan n c).ubufs = w.ubufs := rfl
@[simp] theorem setChan_host (n : Nat) (c : Chan) : (w.setChan n c).host = w.host := rfl
@[simp] theorem setChan_dict (n : Nat) (c : Chan) : (w.setChan n c).dict = w.dict := rfl
@[simp] theorem setChan_pwr (n : Nat) (c : Chan) : (w.setChan n c).pwr = w.pwr := rfl
@[simp] theorem setChan_arbs (n : Nat) (c : Chan) : (w.setChan n c).arbs = w.arbs := rfl
@[simp] theorem setChan_pert (n : Nat) (c : Chan) : (w.setChan n c).pert = w.pert := rfl
@[simp] theorem setChan_piers (n : Nat) (c : Chan) : (w.setChan n c).piers = w.piers := rfl
@[simp] theorem setChan_tlbs (n : Nat) (c : Chan) : (w.setChan n c).tlbs = w.tlbs := rfl
@[simp] theorem setChan_av (n : Nat) (c : Chan) : (w.setChan n c).av = w.av := rfl
@[simp] theorem setChan_pcieUp (n : Nat) (c : Chan) : (w.setChan n c).pcieUp = w.pcieUp := rfl
@[simp] theorem setChan_bar0 (n : Nat) (c : Chan) : (w.setChan n c).bar0 = w.bar0 := rfl
@[simp] theorem setChan_out (n : Nat) (c : Chan) : (w.setChan n c).out = w.out := rfl
@[simp] theorem setChan_freeCtr (n : Nat) (c : Chan) : (w.setChan n c).freeCtr = w.freeCtr := rfl

/-! `World.modPier`. -/

@[simp] theorem modPier_time (p : Nat) (f : Pier → Pier) : (w.modPier p f).time = w.time := rfl
@[simp] theorem modPier_timeRun (p : Nat) (f : Pier → Pier) : (w.modPier p f).timeRun = w.timeRun := rfl
@[simp] theorem modPier_eclk (p : Nat) (f : Pier → Pier) : (w.modPier p f).eclk = w.eclk := rfl
@[simp] theorem modPier_mem (p : Nat) (f : Pier → Pier) : (w.modPier p f).mem = w.mem := rfl
@[simp] theorem modPier_ks (p : Nat) (f : Pier → Pier) : (w.modPier p f).ks = w.ks := rfl
@[simp] theorem modPier_places (p : Nat) (f : Pier → Pier) : (w.modPier p f).places = w.places := rfl
@[simp] theorem modPier_nodeId (p : Nat) (f : Pier → Pier) : (w.modPier p f).nodeId = w.nodeId := rfl
@[simp] theorem modPier_stacksLost (p : Nat) (f : Pier → Pier) : (w.modPier p f).stacksLost = w.stacksLost := rfl
@[simp] theorem modPier_engines (p : Nat) (f : Pier → Pier) : (w.modPier p f).engines = w.engines := rfl
@[simp] theorem modPier_logs (p : Nat) (f : Pier → Pier) : (w.modPier p f).logs = w.logs := rfl
@[simp] theorem modPier_ports (p : Nat) (f : Pier → Pier) : (w.modPier p f).ports = w.ports := rfl
@[simp] theorem modPier_txns (p : Nat) (f : Pier → Pier) : (w.modPier p f).txns = w.txns := rfl
@[simp] theorem modPier_nextTid (p : Nat) (f : Pier → Pier) : (w.modPier p f).nextTid = w.nextTid := rfl
@[simp] theorem modPier_pairKeys (p : Nat) (f : Pier → Pier) : (w.modPier p f).pairKeys = w.pairKeys := rfl
@[simp] theorem modPier_seals (p : Nat) (f : Pier → Pier) : (w.modPier p f).seals = w.seals := rfl
@[simp] theorem modPier_gaths (p : Nat) (f : Pier → Pier) : (w.modPier p f).gaths = w.gaths := rfl
@[simp] theorem modPier_fes (p : Nat) (f : Pier → Pier) : (w.modPier p f).fes = w.fes := rfl
@[simp] theorem modPier_stacks (p : Nat) (f : Pier → Pier) : (w.modPier p f).hbmStacks = w.hbmStacks := rfl
@[simp] theorem modPier_chans (p : Nat) (f : Pier → Pier) : (w.modPier p f).chans = w.chans := rfl
@[simp] theorem modPier_ccache (p : Nat) (f : Pier → Pier) : (w.modPier p f).ccache = w.ccache := rfl
@[simp] theorem modPier_ubufs (p : Nat) (f : Pier → Pier) : (w.modPier p f).ubufs = w.ubufs := rfl
@[simp] theorem modPier_host (p : Nat) (f : Pier → Pier) : (w.modPier p f).host = w.host := rfl
@[simp] theorem modPier_dict (p : Nat) (f : Pier → Pier) : (w.modPier p f).dict = w.dict := rfl
@[simp] theorem modPier_pwr (p : Nat) (f : Pier → Pier) : (w.modPier p f).pwr = w.pwr := rfl
@[simp] theorem modPier_arbs (p : Nat) (f : Pier → Pier) : (w.modPier p f).arbs = w.arbs := rfl
@[simp] theorem modPier_pert (p : Nat) (f : Pier → Pier) : (w.modPier p f).pert = w.pert := rfl
@[simp] theorem modPier_tlbs (p : Nat) (f : Pier → Pier) : (w.modPier p f).tlbs = w.tlbs := rfl
@[simp] theorem modPier_av (p : Nat) (f : Pier → Pier) : (w.modPier p f).av = w.av := rfl
@[simp] theorem modPier_pcieUp (p : Nat) (f : Pier → Pier) : (w.modPier p f).pcieUp = w.pcieUp := rfl
@[simp] theorem modPier_bar0 (p : Nat) (f : Pier → Pier) : (w.modPier p f).bar0 = w.bar0 := rfl
@[simp] theorem modPier_out (p : Nat) (f : Pier → Pier) : (w.modPier p f).out = w.out := rfl
@[simp] theorem modPier_freeCtr (p : Nat) (f : Pier → Pier) : (w.modPier p f).freeCtr = w.freeCtr := rfl

/-! `World.setTlb`. -/

@[simp] theorem setTlb_time (d : Nat) (t : Tlbs) : (w.setTlb d t).time = w.time := rfl
@[simp] theorem setTlb_timeRun (d : Nat) (t : Tlbs) : (w.setTlb d t).timeRun = w.timeRun := rfl
@[simp] theorem setTlb_eclk (d : Nat) (t : Tlbs) : (w.setTlb d t).eclk = w.eclk := rfl
@[simp] theorem setTlb_mem (d : Nat) (t : Tlbs) : (w.setTlb d t).mem = w.mem := rfl
@[simp] theorem setTlb_ks (d : Nat) (t : Tlbs) : (w.setTlb d t).ks = w.ks := rfl
@[simp] theorem setTlb_places (d : Nat) (t : Tlbs) : (w.setTlb d t).places = w.places := rfl
@[simp] theorem setTlb_nodeId (d : Nat) (t : Tlbs) : (w.setTlb d t).nodeId = w.nodeId := rfl
@[simp] theorem setTlb_stacksLost (d : Nat) (t : Tlbs) : (w.setTlb d t).stacksLost = w.stacksLost := rfl
@[simp] theorem setTlb_engines (d : Nat) (t : Tlbs) : (w.setTlb d t).engines = w.engines := rfl
@[simp] theorem setTlb_logs (d : Nat) (t : Tlbs) : (w.setTlb d t).logs = w.logs := rfl
@[simp] theorem setTlb_ports (d : Nat) (t : Tlbs) : (w.setTlb d t).ports = w.ports := rfl
@[simp] theorem setTlb_txns (d : Nat) (t : Tlbs) : (w.setTlb d t).txns = w.txns := rfl
@[simp] theorem setTlb_nextTid (d : Nat) (t : Tlbs) : (w.setTlb d t).nextTid = w.nextTid := rfl
@[simp] theorem setTlb_pairKeys (d : Nat) (t : Tlbs) : (w.setTlb d t).pairKeys = w.pairKeys := rfl
@[simp] theorem setTlb_seals (d : Nat) (t : Tlbs) : (w.setTlb d t).seals = w.seals := rfl
@[simp] theorem setTlb_gaths (d : Nat) (t : Tlbs) : (w.setTlb d t).gaths = w.gaths := rfl
@[simp] theorem setTlb_fes (d : Nat) (t : Tlbs) : (w.setTlb d t).fes = w.fes := rfl
@[simp] theorem setTlb_stacks (d : Nat) (t : Tlbs) : (w.setTlb d t).hbmStacks = w.hbmStacks := rfl
@[simp] theorem setTlb_chans (d : Nat) (t : Tlbs) : (w.setTlb d t).chans = w.chans := rfl
@[simp] theorem setTlb_ccache (d : Nat) (t : Tlbs) : (w.setTlb d t).ccache = w.ccache := rfl
@[simp] theorem setTlb_ubufs (d : Nat) (t : Tlbs) : (w.setTlb d t).ubufs = w.ubufs := rfl
@[simp] theorem setTlb_host (d : Nat) (t : Tlbs) : (w.setTlb d t).host = w.host := rfl
@[simp] theorem setTlb_dict (d : Nat) (t : Tlbs) : (w.setTlb d t).dict = w.dict := rfl
@[simp] theorem setTlb_pwr (d : Nat) (t : Tlbs) : (w.setTlb d t).pwr = w.pwr := rfl
@[simp] theorem setTlb_arbs (d : Nat) (t : Tlbs) : (w.setTlb d t).arbs = w.arbs := rfl
@[simp] theorem setTlb_pert (d : Nat) (t : Tlbs) : (w.setTlb d t).pert = w.pert := rfl
@[simp] theorem setTlb_piers (d : Nat) (t : Tlbs) : (w.setTlb d t).piers = w.piers := rfl
@[simp] theorem setTlb_av (d : Nat) (t : Tlbs) : (w.setTlb d t).av = w.av := rfl
@[simp] theorem setTlb_pcieUp (d : Nat) (t : Tlbs) : (w.setTlb d t).pcieUp = w.pcieUp := rfl
@[simp] theorem setTlb_bar0 (d : Nat) (t : Tlbs) : (w.setTlb d t).bar0 = w.bar0 := rfl
@[simp] theorem setTlb_out (d : Nat) (t : Tlbs) : (w.setTlb d t).out = w.out := rfl
@[simp] theorem setTlb_freeCtr (d : Nat) (t : Tlbs) : (w.setTlb d t).freeCtr = w.freeCtr := rfl

/-! `World.setArb`. -/

@[simp] theorem setArb_time (i : ArbInst) (x : Arb) : (w.setArb i x).time = w.time := rfl
@[simp] theorem setArb_timeRun (i : ArbInst) (x : Arb) : (w.setArb i x).timeRun = w.timeRun := rfl
@[simp] theorem setArb_eclk (i : ArbInst) (x : Arb) : (w.setArb i x).eclk = w.eclk := rfl
@[simp] theorem setArb_mem (i : ArbInst) (x : Arb) : (w.setArb i x).mem = w.mem := rfl
@[simp] theorem setArb_ks (i : ArbInst) (x : Arb) : (w.setArb i x).ks = w.ks := rfl
@[simp] theorem setArb_places (i : ArbInst) (x : Arb) : (w.setArb i x).places = w.places := rfl
@[simp] theorem setArb_nodeId (i : ArbInst) (x : Arb) : (w.setArb i x).nodeId = w.nodeId := rfl
@[simp] theorem setArb_stacksLost (i : ArbInst) (x : Arb) : (w.setArb i x).stacksLost = w.stacksLost := rfl
@[simp] theorem setArb_engines (i : ArbInst) (x : Arb) : (w.setArb i x).engines = w.engines := rfl
@[simp] theorem setArb_logs (i : ArbInst) (x : Arb) : (w.setArb i x).logs = w.logs := rfl
@[simp] theorem setArb_ports (i : ArbInst) (x : Arb) : (w.setArb i x).ports = w.ports := rfl
@[simp] theorem setArb_txns (i : ArbInst) (x : Arb) : (w.setArb i x).txns = w.txns := rfl
@[simp] theorem setArb_nextTid (i : ArbInst) (x : Arb) : (w.setArb i x).nextTid = w.nextTid := rfl
@[simp] theorem setArb_pairKeys (i : ArbInst) (x : Arb) : (w.setArb i x).pairKeys = w.pairKeys := rfl
@[simp] theorem setArb_seals (i : ArbInst) (x : Arb) : (w.setArb i x).seals = w.seals := rfl
@[simp] theorem setArb_gaths (i : ArbInst) (x : Arb) : (w.setArb i x).gaths = w.gaths := rfl
@[simp] theorem setArb_fes (i : ArbInst) (x : Arb) : (w.setArb i x).fes = w.fes := rfl
@[simp] theorem setArb_stacks (i : ArbInst) (x : Arb) : (w.setArb i x).hbmStacks = w.hbmStacks := rfl
@[simp] theorem setArb_chans (i : ArbInst) (x : Arb) : (w.setArb i x).chans = w.chans := rfl
@[simp] theorem setArb_ccache (i : ArbInst) (x : Arb) : (w.setArb i x).ccache = w.ccache := rfl
@[simp] theorem setArb_ubufs (i : ArbInst) (x : Arb) : (w.setArb i x).ubufs = w.ubufs := rfl
@[simp] theorem setArb_host (i : ArbInst) (x : Arb) : (w.setArb i x).host = w.host := rfl
@[simp] theorem setArb_dict (i : ArbInst) (x : Arb) : (w.setArb i x).dict = w.dict := rfl
@[simp] theorem setArb_pwr (i : ArbInst) (x : Arb) : (w.setArb i x).pwr = w.pwr := rfl
@[simp] theorem setArb_pert (i : ArbInst) (x : Arb) : (w.setArb i x).pert = w.pert := rfl
@[simp] theorem setArb_piers (i : ArbInst) (x : Arb) : (w.setArb i x).piers = w.piers := rfl
@[simp] theorem setArb_tlbs (i : ArbInst) (x : Arb) : (w.setArb i x).tlbs = w.tlbs := rfl
@[simp] theorem setArb_av (i : ArbInst) (x : Arb) : (w.setArb i x).av = w.av := rfl
@[simp] theorem setArb_pcieUp (i : ArbInst) (x : Arb) : (w.setArb i x).pcieUp = w.pcieUp := rfl
@[simp] theorem setArb_bar0 (i : ArbInst) (x : Arb) : (w.setArb i x).bar0 = w.bar0 := rfl
@[simp] theorem setArb_out (i : ArbInst) (x : Arb) : (w.setArb i x).out = w.out := rfl
@[simp] theorem setArb_freeCtr (i : ArbInst) (x : Arb) : (w.setArb i x).freeCtr = w.freeCtr := rfl

/-! `World.modDie`. -/

@[simp] theorem modDie_time (d : Nat) (f : DiePwr → DiePwr) : (w.modDie d f).time = w.time := rfl
@[simp] theorem modDie_timeRun (d : Nat) (f : DiePwr → DiePwr) : (w.modDie d f).timeRun = w.timeRun := rfl
@[simp] theorem modDie_eclk (d : Nat) (f : DiePwr → DiePwr) : (w.modDie d f).eclk = w.eclk := rfl
@[simp] theorem modDie_mem (d : Nat) (f : DiePwr → DiePwr) : (w.modDie d f).mem = w.mem := rfl
@[simp] theorem modDie_ks (d : Nat) (f : DiePwr → DiePwr) : (w.modDie d f).ks = w.ks := rfl
@[simp] theorem modDie_places (d : Nat) (f : DiePwr → DiePwr) : (w.modDie d f).places = w.places := rfl
@[simp] theorem modDie_nodeId (d : Nat) (f : DiePwr → DiePwr) : (w.modDie d f).nodeId = w.nodeId := rfl
@[simp] theorem modDie_stacksLost (d : Nat) (f : DiePwr → DiePwr) : (w.modDie d f).stacksLost = w.stacksLost := rfl
@[simp] theorem modDie_engines (d : Nat) (f : DiePwr → DiePwr) : (w.modDie d f).engines = w.engines := rfl
@[simp] theorem modDie_logs (d : Nat) (f : DiePwr → DiePwr) : (w.modDie d f).logs = w.logs := rfl
@[simp] theorem modDie_ports (d : Nat) (f : DiePwr → DiePwr) : (w.modDie d f).ports = w.ports := rfl
@[simp] theorem modDie_txns (d : Nat) (f : DiePwr → DiePwr) : (w.modDie d f).txns = w.txns := rfl
@[simp] theorem modDie_nextTid (d : Nat) (f : DiePwr → DiePwr) : (w.modDie d f).nextTid = w.nextTid := rfl
@[simp] theorem modDie_pairKeys (d : Nat) (f : DiePwr → DiePwr) : (w.modDie d f).pairKeys = w.pairKeys := rfl
@[simp] theorem modDie_seals (d : Nat) (f : DiePwr → DiePwr) : (w.modDie d f).seals = w.seals := rfl
@[simp] theorem modDie_gaths (d : Nat) (f : DiePwr → DiePwr) : (w.modDie d f).gaths = w.gaths := rfl
@[simp] theorem modDie_fes (d : Nat) (f : DiePwr → DiePwr) : (w.modDie d f).fes = w.fes := rfl
@[simp] theorem modDie_stacks (d : Nat) (f : DiePwr → DiePwr) : (w.modDie d f).hbmStacks = w.hbmStacks := rfl
@[simp] theorem modDie_chans (d : Nat) (f : DiePwr → DiePwr) : (w.modDie d f).chans = w.chans := rfl
@[simp] theorem modDie_ccache (d : Nat) (f : DiePwr → DiePwr) : (w.modDie d f).ccache = w.ccache := rfl
@[simp] theorem modDie_ubufs (d : Nat) (f : DiePwr → DiePwr) : (w.modDie d f).ubufs = w.ubufs := rfl
@[simp] theorem modDie_host (d : Nat) (f : DiePwr → DiePwr) : (w.modDie d f).host = w.host := rfl
@[simp] theorem modDie_dict (d : Nat) (f : DiePwr → DiePwr) : (w.modDie d f).dict = w.dict := rfl
@[simp] theorem modDie_arbs (d : Nat) (f : DiePwr → DiePwr) : (w.modDie d f).arbs = w.arbs := rfl
@[simp] theorem modDie_pert (d : Nat) (f : DiePwr → DiePwr) : (w.modDie d f).pert = w.pert := rfl
@[simp] theorem modDie_piers (d : Nat) (f : DiePwr → DiePwr) : (w.modDie d f).piers = w.piers := rfl
@[simp] theorem modDie_tlbs (d : Nat) (f : DiePwr → DiePwr) : (w.modDie d f).tlbs = w.tlbs := rfl
@[simp] theorem modDie_av (d : Nat) (f : DiePwr → DiePwr) : (w.modDie d f).av = w.av := rfl
@[simp] theorem modDie_pcieUp (d : Nat) (f : DiePwr → DiePwr) : (w.modDie d f).pcieUp = w.pcieUp := rfl
@[simp] theorem modDie_bar0 (d : Nat) (f : DiePwr → DiePwr) : (w.modDie d f).bar0 = w.bar0 := rfl
@[simp] theorem modDie_out (d : Nat) (f : DiePwr → DiePwr) : (w.modDie d f).out = w.out := rfl
@[simp] theorem modDie_freeCtr (d : Nat) (f : DiePwr → DiePwr) : (w.modDie d f).freeCtr = w.freeCtr := rfl

/-! The state after an instruction, an idle step, a command. -/

@[simp] theorem retiredTo_time (e : Fin 104) (pc : W64) (cyc : Nat) (c : Core) : (retiredTo w e pc cyc c).time = w.time := rfl
@[simp] theorem retiredTo_timeRun (e : Fin 104) (pc : W64) (cyc : Nat) (c : Core) : (retiredTo w e pc cyc c).timeRun = w.timeRun := rfl
@[simp] theorem retiredTo_eclk (e : Fin 104) (pc : W64) (cyc : Nat) (c : Core) : (retiredTo w e pc cyc c).eclk = w.eclk := rfl
@[simp] theorem retiredTo_mem (e : Fin 104) (pc : W64) (cyc : Nat) (c : Core) : (retiredTo w e pc cyc c).mem = w.mem := rfl
@[simp] theorem retiredTo_ks (e : Fin 104) (pc : W64) (cyc : Nat) (c : Core) : (retiredTo w e pc cyc c).ks = w.ks := rfl
@[simp] theorem retiredTo_places (e : Fin 104) (pc : W64) (cyc : Nat) (c : Core) : (retiredTo w e pc cyc c).places = w.places := rfl
@[simp] theorem retiredTo_nodeId (e : Fin 104) (pc : W64) (cyc : Nat) (c : Core) : (retiredTo w e pc cyc c).nodeId = w.nodeId := rfl
@[simp] theorem retiredTo_stacksLost (e : Fin 104) (pc : W64) (cyc : Nat) (c : Core) : (retiredTo w e pc cyc c).stacksLost = w.stacksLost := rfl
@[simp] theorem retiredTo_logs (e : Fin 104) (pc : W64) (cyc : Nat) (c : Core) : (retiredTo w e pc cyc c).logs = w.logs := rfl
@[simp] theorem retiredTo_ports (e : Fin 104) (pc : W64) (cyc : Nat) (c : Core) : (retiredTo w e pc cyc c).ports = w.ports := rfl
@[simp] theorem retiredTo_txns (e : Fin 104) (pc : W64) (cyc : Nat) (c : Core) : (retiredTo w e pc cyc c).txns = w.txns := rfl
@[simp] theorem retiredTo_nextTid (e : Fin 104) (pc : W64) (cyc : Nat) (c : Core) : (retiredTo w e pc cyc c).nextTid = w.nextTid := rfl
@[simp] theorem retiredTo_pairKeys (e : Fin 104) (pc : W64) (cyc : Nat) (c : Core) : (retiredTo w e pc cyc c).pairKeys = w.pairKeys := rfl
@[simp] theorem retiredTo_seals (e : Fin 104) (pc : W64) (cyc : Nat) (c : Core) : (retiredTo w e pc cyc c).seals = w.seals := rfl
@[simp] theorem retiredTo_gaths (e : Fin 104) (pc : W64) (cyc : Nat) (c : Core) : (retiredTo w e pc cyc c).gaths = w.gaths := rfl
@[simp] theorem retiredTo_fes (e : Fin 104) (pc : W64) (cyc : Nat) (c : Core) : (retiredTo w e pc cyc c).fes = w.fes := rfl
@[simp] theorem retiredTo_stacks (e : Fin 104) (pc : W64) (cyc : Nat) (c : Core) : (retiredTo w e pc cyc c).hbmStacks = w.hbmStacks := rfl
@[simp] theorem retiredTo_chans (e : Fin 104) (pc : W64) (cyc : Nat) (c : Core) : (retiredTo w e pc cyc c).chans = w.chans := rfl
@[simp] theorem retiredTo_ccache (e : Fin 104) (pc : W64) (cyc : Nat) (c : Core) : (retiredTo w e pc cyc c).ccache = w.ccache := rfl
@[simp] theorem retiredTo_ubufs (e : Fin 104) (pc : W64) (cyc : Nat) (c : Core) : (retiredTo w e pc cyc c).ubufs = w.ubufs := rfl
@[simp] theorem retiredTo_host (e : Fin 104) (pc : W64) (cyc : Nat) (c : Core) : (retiredTo w e pc cyc c).host = w.host := rfl
@[simp] theorem retiredTo_dict (e : Fin 104) (pc : W64) (cyc : Nat) (c : Core) : (retiredTo w e pc cyc c).dict = w.dict := rfl
@[simp] theorem retiredTo_pwr (e : Fin 104) (pc : W64) (cyc : Nat) (c : Core) : (retiredTo w e pc cyc c).pwr = w.pwr := rfl
@[simp] theorem retiredTo_arbs (e : Fin 104) (pc : W64) (cyc : Nat) (c : Core) : (retiredTo w e pc cyc c).arbs = w.arbs := rfl
@[simp] theorem retiredTo_pert (e : Fin 104) (pc : W64) (cyc : Nat) (c : Core) : (retiredTo w e pc cyc c).pert = w.pert := rfl
@[simp] theorem retiredTo_piers (e : Fin 104) (pc : W64) (cyc : Nat) (c : Core) : (retiredTo w e pc cyc c).piers = w.piers := rfl
@[simp] theorem retiredTo_tlbs (e : Fin 104) (pc : W64) (cyc : Nat) (c : Core) : (retiredTo w e pc cyc c).tlbs = w.tlbs := rfl
@[simp] theorem retiredTo_av (e : Fin 104) (pc : W64) (cyc : Nat) (c : Core) : (retiredTo w e pc cyc c).av = w.av := rfl
@[simp] theorem retiredTo_pcieUp (e : Fin 104) (pc : W64) (cyc : Nat) (c : Core) : (retiredTo w e pc cyc c).pcieUp = w.pcieUp := rfl
@[simp] theorem retiredTo_bar0 (e : Fin 104) (pc : W64) (cyc : Nat) (c : Core) : (retiredTo w e pc cyc c).bar0 = w.bar0 := rfl
@[simp] theorem retiredTo_out (e : Fin 104) (pc : W64) (cyc : Nat) (c : Core) : (retiredTo w e pc cyc c).out = w.out := rfl

@[simp] theorem retired_pending (s : State) (e : Fin 104) (len cyc : Nat) (c : Core) : (retired s w e len cyc c).pending = s.pending := rfl
@[simp] theorem retired_anat (s : State) (e : Fin 104) (len cyc : Nat) (c : Core) : (retired s w e len cyc c).anat = s.anat := rfl
theorem idle_pending (s : State) : (idle s).pending = s.pending := rfl
theorem idle_anat (s : State) : (idle s).anat = s.anat := rfl

/-! A unit read after it was written. -/

@[simp] theorem port_setPort (p : Nat) (x : Port) : (w.setPort p x).port p = x := sgetD_sset_same _ _ _ _
theorem port_setPort_other {p q : Nat} (x : Port) (h : q ≠ p) : (w.setPort p x).port q = w.port q := sgetD_sset_other _ _ _ h
@[simp] theorem fe_setFe (g : Nat) (f : FrontEnd) : (w.setFe g f).fe g = f := sgetD_sset_same _ _ _ _
theorem fe_setFe_other {g h : Nat} (f : FrontEnd) (k : h ≠ g) : (w.setFe g f).fe h = w.fe h := sgetD_sset_other _ _ _ k
@[simp] theorem gath_setGath (d : Nat) (g : Gath) : (w.setGath d g).gath d = g := sgetD_sset_same _ _ _ _
@[simp] theorem tail_setTail (j : Nat) (t : TailSlot) : (w.setTail j t).tail j = t := sgetD_sset_same _ _ _ _
theorem tail_setTail_other {i j : Nat} (t : TailSlot) (h : i ≠ j) : (w.setTail j t).tail i = w.tail i := sgetD_sset_other _ _ _ h
@[simp] theorem fn_modFn (f : Nat) (g : HostFn → HostFn) : (w.modFn f g).fn f = g (w.fn f) := sgetD_sset_same _ _ _ _
@[simp] theorem log_modLog (l : Nat) (f : LogEng → LogEng) : (w.modLog l f).log l = f (w.log l) := sgetD_sset_same _ _ _ _
theorem log_modLog_other {k l : Nat} (f : LogEng → LogEng) (h : k ≠ l) : (w.modLog l f).log k = w.log k :=
  sgetD_sset_other _ _ _ h
@[simp] theorem reg_setReg (off : Nat) (v r : W64) : (w.setReg off v).reg off r = v := sgetD_sset_same _ _ _ _
theorem reg_setReg_other {i off : Nat} (v r : W64) (h : i ≠ off) : (w.setReg off v).reg i r = w.reg i r :=
  sgetD_sset_other _ _ _ h
@[simp] theorem stack_setStack (h : Nat) (r : Reserve) : (w.setStack h r).stack h = r := sgetD_sset_same _ _ _ _
@[simp] theorem tlb_setTlb (d : Nat) (t : Tlbs) : (w.setTlb d t).tlb d = t := sgetD_sset_same _ _ _ _
@[simp] theorem get_setDom (k : Nat) (d : KDom) : (w.setDom k d).ks.get k = d := sgetD_sset_same _ _ _ _

end Sys2Proof.Machine
end

