-- ==== Sys2Proof/Laws/System.lean ====
section
/-!
SUPPORT. What a read and a write of a system register do when nothing is raised, and how an exception enters its handler.
-/

namespace Sys2Proof.Machine

/-- The world in which register n is reached: the tile registers wait for the tile instructions (R211). -/
def tileReached (n : Nat) (w : World) (e : Fin 104) : World :=
  if 0x180 ≤ n ∧ n < 0x1C0 then w.modEng e.val Engine.commitAll else w

/-- The world in which register n is written: a write that reaches outside the core waits too. -/
def writeReached (n : Nat) (w : World) (e : Fin 104) : World :=
  if outsideCore n then (tileReached n w e).modEng e.val Engine.commitAll else tileReached n w e

theorem tileWait_does (s : State) (e : Fin 104) (n : Nat) (w : World) : Does s e (tileWait n) w () (tileReached n w e) := by
  unfold Does tileWait tileReached
  split <;> rfl

theorem commitIf_does (s : State) (e : Fin 104) (n : Nat) (w : World) :
    Does s e (if outsideCore n then modE (fun x => x.commitAll) else pure ()) (tileReached n w e) () (writeReached n w e) := by
  unfold Does writeReached
  split <;> rfl

theorem sysWriteE_does {s : State} {e : Fin 104} {n l : Nat} {k : SysAct} {r : SysReg} {w1 w2 : World} (h1 : sysReg n = some r)
    (h2 : r.wr = some l) (h3 : (w1.core e).pl.toNat ≤ l) (ha : Usable (w1.core e) .addr (w1.core e).acc.t)
    (h4 : sysAccepts n k (w1.core e).acc.v
      (k.apply r.spec (sysValue s.anat (writeReached n w1 e) e.val n) (w1.core e).acc.v) = true)
    (h5 : Does s e (sysStore n k (w1.core e).acc.v
      (k.apply r.spec (sysValue s.anat (writeReached n w1 e) e.val n) (w1.core e).acc.v)) (writeReached n w1 e) () w2) :
    Does s e (sysWriteE n k) w1 () w2 := by
  have hl : ¬l < (w1.core e).pl.toNat := by omega
  have hn : ∀ (b : Bool) (w : World), b = true → need b ⟨s.anat, e.val⟩ w = .ok () w := by
    intro b w hb; subst hb; rfl
  unfold Does sysWriteE sysFind
  simp only [h1, h2, pure_bind]
  rw [(getC_does s e w1).bind, if_neg hl]
  rw [(useAcc_does ha).bind, (tileWait_does s e n w1).bind]
  unfold writeReached at h4 h5
  by_cases ho : outsideCore n = true
  · rw [if_pos ho] at h4 h5 ⊢
    simp only [EM.bind_run, modE_run, EM.read_run, EM.get_run, hn _ _ h4]
    exact h5
  · rw [if_neg ho] at h4 h5 ⊢
    simp only [EM.bind_run, EM.read_run, EM.get_run, hn _ _ h4]
    exact h5

/-- A write of a register by a level that may write it. -/
theorem sysWrite_ok {s : State} {e : Fin 104} {m : BitVec 12} {n l : Nat} {k : SysAct} {r : SysReg} {w1 w2 : World}
    (hm : m.toNat = n) (hi : Issues s e w1) (h1 : sysReg n = some r)
    (h2 : r.wr = some l) (h3 : (w1.core e).pl.toNat ≤ l) (ha : Usable (w1.core e) .addr (w1.core e).acc.t)
    (h4 : sysAccepts n k (w1.core e).acc.v
      (k.apply r.spec (sysValue s.anat (writeReached n w1 e) e.val n) (w1.core e).acc.v) = true)
    (h5 : Does s e (sysStore n k (w1.core e).acc.v
      (k.apply r.spec (sysValue s.anat (writeReached n w1 e) e.val n) (w1.core e).acc.v)) (writeReached n w1 e) () w2) :
    sysInstr e ⟨0#11, m⟩ (fun q => sysWriteE q k) s = .next (retired s w2 e 4 3 (w2.core e)) := by
  subst hm
  exact seqInstr_ok hi (sysWriteE_does h1 h2 h3 ha h4 h5)

/-- A write that changes only the core. -/
theorem sysWrite_modC {s : State} {e : Fin 104} {m : BitVec 12} {n l : Nat} {k : SysAct} {r : SysReg} {w1 : World}
    (g : Core → Core) (hm : m.toNat = n) (hi : Issues s e w1) (h1 : sysReg n = some r) (h2 : r.wr = some l)
    (h3 : (w1.core e).pl.toNat ≤ l) (ha : Usable (w1.core e) .addr (w1.core e).acc.t)
    (h4 : sysAccepts n k (w1.core e).acc.v
      (k.apply r.spec (sysValue s.anat (writeReached n w1 e) e.val n) (w1.core e).acc.v) = true)
    (h5 : sysStore n k (w1.core e).acc.v
      (k.apply r.spec (sysValue s.anat (writeReached n w1 e) e.val n) (w1.core e).acc.v) = modC g) :
    sysInstr e ⟨0#11, m⟩ (fun q => sysWriteE q k) s =
      .next (retired s (writeReached n w1 e) e 4 3 (g ((writeReached n w1 e).core e))) := by
  rw [sysWrite_ok (w2 := (writeReached n w1 e).modEng e.val (fun y => { y with core := g y.core })) hm hi h1 h2 h3 ha h4
    (by rw [h5]; rfl)]
  rw [retired_modC, core_modC]

/-- A read of a register other than `MWIN_DATA` by a level that may read it. -/
theorem sysRead_ok {s : State} {e : Fin 104} {m : BitVec 12} {r : SysReg} {w1 : World} (hi : Issues s e w1)
    (h1 : sysReg m.toNat = some r) (h2 : (w1.core e).pl.toNat ≤ r.rd) (h3 : m.toNat ≠ 0x109) :
    sysInstr e ⟨0#11, m⟩ sysReadE s = .next (retired s (tileReached m.toNat w1 e) e 4 3
      { (tileReached m.toNat w1 e).core e with acc := ⟨sysValue s.anat (tileReached m.toNat w1 e) e.val m.toNat, 1#4⟩ }) := by
  have hl : ¬r.rd < (w1.core e).pl.toNat := by omega
  refine seqInstr_modC (fun c => { c with acc := ⟨sysValue s.anat (tileReached m.toNat w1 e) e.val m.toNat, 1#4⟩ }) hi ?_
  show sysReadE m.toNat _ _ = _
  unfold sysReadE sysFind
  simp only [h1, pure_bind]
  rw [(getC_does s e w1).bind, if_neg hl, (tileWait_does s e m.toNat w1).bind, if_neg h3]
  rfl

end Sys2Proof.Machine
end

