-- ==== Sys2Proof/Laws/Vector.lean ====
section
/-!
SUPPORT. What the shared operations of the vector instructions do when nothing is raised: one lemma for each.
-/

namespace Sys2Proof.Machine

theorem need_does (s : State) (e : Fin 104) (w : World) {b : Bool} (h : b = true) : Does s e (need b) w () w := by
  subst h; rfl

theorem modC_does (s : State) (e : Fin 104) (w : World) (f : Core → Core) :
    Does s e (modC f) w () (w.modEng e.val (fun x => { x with core := f x.core })) := rfl

/-- Two changes of the registers at the end of an instruction. -/
theorem seqInstr_modC2 {s : State} {e : Fin 104} {u l cy : Nat} {x : EM Unit} {w1 w2 : World} (f g : Core → Core)
    (hi : Issues s e w1) (h : x ⟨s.anat, e.val⟩ w1 = (do modC f; modC g : EM Unit) ⟨s.anat, e.val⟩ w2) :
    seqInstr u l cy e x s = .next (retired s w2 e l cy (g (f (w2.core e)))) := by
  have h2 : x ⟨s.anat, e.val⟩ w1 = modC (fun c => g (f c)) ⟨s.anat, e.val⟩ w2 := by
    rw [h]
    show (modC f >>= fun _ => modC g) _ _ = _
    rw [(modC_does s e w2 f).bind, modC_run, modC_run, modEng_modEng]
  exact seqInstr_modC (fun c => g (f c)) hi h2

theorem eltWise_ok {s : State} {e : Fin 104} {o : VR} {okType : VT → Bool} {binary rounds : Bool} {f : VT → EltFn}
    {w1 : World} {sc : Nat × FFlags} (hi : Issues s e w1) (ht : okType (w1.core e).vt = true)
    (hr : EltReady s e o w1 binary sc) :
    eltWise e o okType binary rounds f s = .next (retired s w1 e 4 1
      (let c := w1.core e
       let t := c.vt
       let d := c.drawsFor rounds
       c.eltDone d.2 o sc.2 (fun i => f t (c.vecMode t d.1 i) t.ew (c.elt o.va.toNat t.ew i) (c.eltB o sc.1 i)
         (c.elt o.vd.toNat t.ew i)))) := by
  obtain ⟨h1, h2, h3, h4⟩ := hr
  have hm : (if binary then (if o.sc then decide (o.vb = 0#5) else groupOk o.vb.toNat (w1.core e).vt.g)
      else !o.sc && decide (o.vb = 0#5)) = true := by
    rcases h4 with ⟨hb, hs, hg, _⟩ | ⟨hb, hs, hg, _⟩ | ⟨hb, hs, hg, _⟩ <;> simp [hb, hs, hg]
  have hs : Does s e (if o.sc then scalarElt (w1.core e).vt else pure (0, FFlags.none)) w1 sc w1 := by
    rcases h4 with ⟨_, hs, _, hz⟩ | ⟨_, hs, _, hd⟩ | ⟨_, hs, _, hz⟩
    · unfold Does; rw [hs, hz]; rfl
    · rw [hs]; exact hd
    · unfold Does; rw [hs, hz]; rfl
  have hd : ∃ w2, Does s e (if rounds && decide ((w1.core e).vt.rm = 2) then reserveDraws (w1.core e).vt.vl else pure 0) w1
      ((w1.core e).drawsFor rounds).1 w2 ∧ ∀ (l cy : Nat) (c : Core), retired s w2 e l cy c = retired s w1 e l cy c ∧
        w2.core e = ((w1.core e).drawsFor rounds).2 := by
    unfold Core.drawsFor
    by_cases hc : (rounds && decide ((w1.core e).vt.rm = 2)) = true
    · simp only [hc, if_true]
      let y := (w1.core e).sysGet 0x1BF
      let g : Core → Core := fun k => k.sysSet 0x1BF (setFld y 0 52 (fld y 0 52 + (w1.core e).vt.vl))
      refine ⟨w1.modEng e.val (fun x => { x with core := g x.core }), ?_, ?_⟩
      · unfold Does reserveDraws
        rw [(getC_does s e w1).bind, (modC_does s e w1 _).bind]
        rfl
      · intro l cy c
        exact ⟨retired_modC s w1 e l cy g c, core_modC w1 e g⟩
    · rw [if_neg hc, if_neg hc]
      exact ⟨w1, rfl, fun _ _ _ => ⟨rfl, rfl⟩⟩
  obtain ⟨w2, hd, hw⟩ := hd
  let c := w1.core e
  let t := c.vt
  let d := c.drawsFor rounds
  let res : Nat → Nat × FFlags := fun i => f t (c.vecMode t d.1 i) t.ew (c.elt o.va.toNat t.ew i) (c.eltB o sc.1 i)
    (c.elt o.vd.toNat t.ew i)
  refine (seqInstr_modC2 (w2 := w2) (fun k => { k with v := (c.putElts o o.vd.toNat t.ew (fun i => some (res i).1)).v })
    (fun k => k.vecEnd true (c.eltFlags o sc.2 (fun i => (res i).2))) hi ?_).trans ?_
  · rw [(getC_does s e w1).bind, (need_does s e w1 (by simp [ht, h1, h2, h3])).bind, (need_does s e w1 hm).bind, hs.bind, hd.bind]
    rfl
  · rw [(hw _ _ _).1, (hw 0 0 (w1.core e)).2]
    rfl

theorem vecInt_ok {s : State} {e : Fin 104} {o : VR} (f : Nat → Nat → Nat → Nat) {w1 : World} {sc : Nat × FFlags}
    (hi : Issues s e w1) (ht : (w1.core e).vt.isInt = true) (hr : EltReady s e o w1 true sc) :
    vecInt e o f s = .next (retired s w1 e 4 1
      (let c := w1.core e
       let t := c.vt
       c.eltDone c o sc.2 (fun i => (f t.ew (c.elt o.va.toNat t.ew i) (c.eltB o sc.1 i) % 2 ^ t.ew, FFlags.none)))) := by
  unfold vecInt
  rw [eltWise_ok hi ht hr]
  rfl

theorem vecFp_ok {s : State} {e : Fin 104} {o : VR} (f : FVal → FVal → Exact) {w1 : World} {sc : Nat × FFlags} {k : Fmt}
    (hi : Issues s e w1) (hk : (w1.core e).vt.fmt = some k) (hr : EltReady s e o w1 true sc) :
    vecFp e o f s = .next (retired s w1 e 4 1
      (let c := w1.core e
       let t := c.vt
       let d := c.drawsFor true
       c.eltDone d.2 o sc.2 (fun i => finish k (c.vecMode t d.1 i)
         (f (decodeF k (c.elt o.va.toNat t.ew i)) (decodeF k (c.eltB o sc.1 i)))))) := by
  unfold vecFp
  rw [eltWise_ok hi (by simp [hk]) hr]
  simp only [hk]

theorem vecFp1_ok {s : State} {e : Fin 104} {o : VR} (f : FVal → Exact) {w1 : World} {sc : Nat × FFlags} {k : Fmt}
    (hi : Issues s e w1) (hk : (w1.core e).vt.fmt = some k) (hr : EltReady s e o w1 false sc) :
    vecFp1 e o f s = .next (retired s w1 e 4 1
      (let c := w1.core e
       let t := c.vt
       let d := c.drawsFor true
       c.eltDone d.2 o sc.2 (fun i => finish k (c.vecMode t d.1 i) (f (decodeF k (c.elt o.va.toNat t.ew i)))))) := by
  unfold vecFp1
  rw [eltWise_ok hi (by simp [hk]) hr]
  simp only [hk]

theorem vecFma_ok {s : State} {e : Fin 104} {o : VR} (f : FVal → FVal → FVal → Exact) {w1 : World} {sc : Nat × FFlags}
    {k : Fmt} (hi : Issues s e w1) (hk : (w1.core e).vt.fmt = some k) (hr : EltReady s e o w1 true sc) :
    vecFma e o f s = .next (retired s w1 e 4 1
      (let c := w1.core e
       let t := c.vt
       let d := c.drawsFor true
       c.eltDone d.2 o sc.2 (fun i => finish k (c.vecMode t d.1 i) (f (decodeF k (c.elt o.va.toNat t.ew i))
         (decodeF k (c.eltB o sc.1 i)) (decodeF k (c.elt o.vd.toNat t.ew i)))))) := by
  unfold vecFma
  rw [eltWise_ok hi (by simp [hk]) hr]
  simp only [hk]

theorem vecCmp_ok {s : State} {e : Fin 104} {o : VR} {okType : VT → Bool} {f : VT → Nat → Nat → Bool × FFlags} {w1 : World}
    {sc : Nat × FFlags} (hi : Issues s e w1) (ht : okType (w1.core e).vt = true) (hm : maskOk o.vm o.ms = true)
    (hd : maskReg o.vd = true) (ha : groupOk o.va.toNat (w1.core e).vt.g = true)
    (hb : (o.sc = false ∧ groupOk o.vb.toNat (w1.core e).vt.g = true ∧ sc = (0, FFlags.none)) ∨
      (o.sc = true ∧ o.vb = 0#5 ∧ Does s e (scalarElt (w1.core e).vt) w1 sc w1)) :
    vecCmp e o okType f s = .next (retired s w1 e 4 1
      (let c := w1.core e
       let t := c.vt
       c.cmpDone o sc.2 (fun i => f t (c.elt o.va.toNat t.ew i) (c.eltB o sc.1 i)))) := by
  have h1 : (if o.sc then decide (o.vb = 0#5) else groupOk o.vb.toNat (w1.core e).vt.g) = true := by
    rcases hb with ⟨hs, hg, _⟩ | ⟨hs, hg, _⟩ <;> simp [hs, hg]
  have hs : Does s e (if o.sc then scalarElt (w1.core e).vt else pure (0, FFlags.none)) w1 sc w1 := by
    rcases hb with ⟨hs, _, hz⟩ | ⟨hs, _, hd⟩
    · unfold Does; rw [hs, hz]; rfl
    · rw [hs]; exact hd
  let c := w1.core e
  let t := c.vt
  let res : Nat → Bool × FFlags := fun i => f t (c.elt o.va.toNat t.ew i) (c.eltB o sc.1 i)
  refine seqInstr_modC2 (w2 := w1) (fun k => { k with m := (c.putMask o o.vd.toNat (fun i => (res i).1)).m })
    (fun k => k.vecEnd true (c.eltFlags o sc.2 (fun i => (res i).2))) hi ?_
  rw [(getC_does s e w1).bind, (need_does s e w1 (by simp [ht, hm, hd, ha])).bind, (need_does s e w1 h1).bind, hs.bind]
  rfl

end Sys2Proof.Machine
end

