-- ==== Sys2Proof/Laws/Tile.lean ====
section
/-!
SUPPORT. What the shared operations of tile instructions do when nothing is raised: one lemma for each.
-/

namespace Sys2Proof.Machine

/-- What an engine held before it waited does not matter where the engine is set afterwards. -/
theorem setEng_tileWaited (w : World) (e : Nat) (p : Bool) (x z : Engine) :
    ((w.setEng e x).tileWaited e p).setEng e z = (w.tileWaited e p).setEng e z := by
  show { ((w.setEng e x).setEng e _).setEng e z with freeCtr := w.freeCtr + 1 } = { (w.setEng e _).setEng e z with freeCtr := w.freeCtr + 1 }
  rw [setEng_setEng, setEng_setEng, setEng_setEng]

/-- The engine after its wait has been counted. -/
theorem eng_tileWaited (w : World) (e : Nat) (p : Bool) :
    (w.tileWaited e p).eng e = ((w.eng e).count 0x19D (Config.free w.freeCtr % 2 ^ 48)).count 0x19E
      (if p then Config.free w.freeCtr / 2 ^ 48 else 0) := by
  show (w.setEng e _).eng e = _
  rw [eng_setEng]

/-- The registers of the engine in the world do not matter to entering the queue with others. -/
theorem tileEntered_modC (s : State) (w : World) (e : Fin 104) (f : Core → Core) (c : Core) (k : TileWork) :
    tileEntered s (w.modEng e.val (fun x => { x with core := f x.core })) e c k = tileEntered s w e c k := by
  unfold tileEntered World.modEng
  simp only [setEng_tileWaited, eng_tileWaited, eng_setEng]
  rfl

/-- A tile instruction whose body raises nothing enters the tile queue. -/
theorem tileInstr_ok {s : State} {e : Fin 104} {body : EM TileWork} {w1 w2 : World} {k : TileWork}
    (hi : TileIssues s e w1) (hb : Does s e body w1 k w2) :
    tileInstr e body s = .next (tileEntered s w2 e (w2.core e) k) := by
  obtain ⟨hi, hq⟩ := hi
  have hb' : body ⟨s.anat, e.val⟩ w1 = .ok k w2 := hb
  have hq' : ¬ 8 ≤ (w1.eng e.val).tq.length := by omega
  unfold tileInstr
  refine congrArg (fun w => Host.Outcome.next { s with w := w }) ?_
  refine (runWith_ok (r := k) (w2 := (w2.modEng e.val (fun x => { x with core := x.core.sticky 0x198 0 })).tileWaited e.val k.pass)
    hi ?_).trans ?_
  · unfold Does
    simp only [EM.bind_run, getE_run, if_neg hq', hb']
    rfl
  · unfold World.modEng
    simp only [setEng_tileWaited, eng_tileWaited, eng_setEng]
    rfl

/-- No shape fault holds. -/
theorem shapeCheck_does {s : State} {e : Fin 104} {w : World} {l : List (Nat × Bool)} (h : ∀ q ∈ l, q.2 = false) :
    Does s e (shapeCheck l) w () w := by
  unfold Does shapeCheck
  rw [List.find?_eq_none.mpr]
  · rfl
  · intro x hx; simp [h x hx]

theorem getE_does (s : State) (e : Fin 104) (w : World) : Does s e getE w (w.eng e.val) w := rfl

/-- A tile instruction that ends by changing the registers. -/
theorem tileInstr_modC {s : State} {e : Fin 104} {body : EM TileWork} {w1 w2 : World} {k : TileWork} (f : Core → Core)
    (hi : TileIssues s e w1)
    (hb : Does s e body w1 k (w2.modEng e.val (fun x => { x with core := f x.core }))) :
    tileInstr e body s = .next (tileEntered s w2 e (f (w2.core e)) k) := by
  rw [tileInstr_ok hi hb, tileEntered_modC, core_modC]

theorem regPass_ok {s : State} {e : Fin 104} {o : TOp} {w1 : World} {st : Struct} {zero preds : Bool} (hi : TileIssues s e w1)
    (hf : Does s e (tFields o ⟨false, true, true, true, true, true, false⟩) w1 () w1)
    (hq : ∀ q ∈ ((w1.eng e.val).regForm o st zero preds).faults, q.2 = false) :
    regPass e o st zero preds s = .next (tileEntered s w1 e ((w1.eng e.val).regForm o st zero preds).after
      ((w1.eng e.val).regForm o st zero preds).work) := by
  refine tileInstr_modC (fun _ => ((w1.eng e.val).regForm o st zero preds).after) hi ?_
  unfold Does
  rw [hf.bind, (getE_does s e w1).bind, (shapeCheck_does hq).bind]
  rfl

end Sys2Proof.Machine
end

