-- ==== Sys2Proof/WellFormed.lean ====
section
/-!
DEFINITION. Commands whose operands can occur: where an operand's type admits a value that no instruction word, bus or unit
can produce, the check refuses it.
-/

namespace Sys2Proof

/-- An extension word exists only with MODE 7 (R72). -/
def SOp.wf (o : SOp) : Bool := decide (o.mode = 7#3) || decide (o.ext = 0#32)

/-- A transaction carries whole slots of 16 bytes after its header, 16 at most for a read of 256 bytes (R492, R493). -/
def NetTxn.wf (t : NetTxn) : Bool := decide (t.slots.length % 16 = 0) && decide (t.slots.length ≤ 256)

/-- A flit carries 14 slots of 16 bytes (R473). -/
def NetFlit.wf (f : NetFlit) : Bool := decide (f.slots.length = 224)

/-- A CAN FD frame carries at most 64 bytes. -/
def CanFrame.wf (f : CanFrame) : Bool := decide (f.bytes.length ≤ 64)

/-- A SHA-384 digest has 48 bytes. -/
def CertFacts.wf (c : CertFacts) : Bool := decide (c.digest.length = 48)

/-- A cache of an engine has three levels, and a check finds one of six things (R360). -/
def CacheErr.wf (x : CacheErr) : Bool := decide (x.level.toNat < 3) && decide (1 ≤ x.what.toNat) && decide (x.what.toNat ≤ 6)

/-- A row of a bank of a 16-high stack: 48 × 10⁹ bytes in rows of 2^20 bytes over all banks and pseudo-channels (R373).
DEDUCED (log 101). -/
def rowWf (row : Nat) : Bool := decide (row ≤ 45776)

def RetRes.wf : RetRes → Bool
  | .engine _ => true
  | .way _ _ => true
  | .row _ _ _ n => rowWf n
  | .pc _ _ => true
  | .stack _ => true

/-- The code of a monitor image is at most 2 MiB (R698). -/
def PowerUp.wf (u : PowerUp) : Bool := decide (u.code.length ≤ 0x200000)

/-- An arbiter sees at most one request of an input in a cycle. -/
def arbReqsWf (l : List ArbReq) : Bool := decide ((l.map (fun r => r.input)).Nodup)

/-- The activity model charges tenants 0 to 63, the operator 64 and BASE 65 (R613, R620). -/
def sharesWf (l : List (BitVec 7 × BitVec 48)) : Bool := l.all (fun x => decide (x.1.toNat ≤ 65))

/-- Four dies report five rails each (R600, R619). -/
def railsWf (l : List (List RailRep)) : Bool := decide (l.length = 4) && l.all (fun x => decide (x.length = 5))

/-- A memory request of the host has 1 to 4096 bytes. -/
def burstWf (n : Nat) : Bool := decide (1 ≤ n) && decide (n ≤ 4096)

/-- The command can occur. -/
def Instr.wf (i : Instr) : Bool :=
  match i with
  | .ld _ o => SOp.wf o
  | .ldb _ o => SOp.wf o
  | .ldbs _ o => SOp.wf o
  | .ldh _ o => SOp.wf o
  | .ldhs _ o => SOp.wf o
  | .ldw _ o => SOp.wf o
  | .ldws _ o => SOp.wf o
  | .st _ o => SOp.wf o
  | .stb _ o => SOp.wf o
  | .sth _ o => SOp.wf o
  | .stw _ o => SOp.wf o
  | .ldIx0 _ o => SOp.wf o
  | .ldIx1 _ o => SOp.wf o
  | .stIx0 _ o => SOp.wf o
  | .stIx1 _ o => SOp.wf o
  | .leaIx0 _ o => SOp.wf o
  | .leaIx1 _ o => SOp.wf o
  | .lea _ o => SOp.wf o
  | .ldSp _ o => SOp.wf o
  | .push _ o => SOp.wf o
  | .pop _ o => SOp.wf o
  | .pushIx0 _ o => SOp.wf o
  | .popIx0 _ o => SOp.wf o
  | .pushIx1 _ o => SOp.wf o
  | .popIx1 _ o => SOp.wf o
  | .alloc _ o => SOp.wf o
  | .free _ o => SOp.wf o
  | .add _ o => SOp.wf o
  | .adc _ o => SOp.wf o
  | .sub _ o => SOp.wf o
  | .sbb _ o => SOp.wf o
  | .cmp _ o => SOp.wf o
  | .and _ o => SOp.wf o
  | .or _ o => SOp.wf o
  | .xor _ o => SOp.wf o
  | .tst _ o => SOp.wf o
  | .shl _ o => SOp.wf o
  | .shr _ o => SOp.wf o
  | .sar _ o => SOp.wf o
  | .rol _ o => SOp.wf o
  | .ror _ o => SOp.wf o
  | .neg _ o => SOp.wf o
  | .not _ o => SOp.wf o
  | .clz _ o => SOp.wf o
  | .ctz _ o => SOp.wf o
  | .popc _ o => SOp.wf o
  | .bswap _ o => SOp.wf o
  | .addxIx0 _ o => SOp.wf o
  | .addxIx1 _ o => SOp.wf o
  | .cmpxIx0 _ o => SOp.wf o
  | .cmpxIx1 _ o => SOp.wf o
  | .mul _ o => SOp.wf o
  | .mulu _ o => SOp.wf o
  | .div _ o => SOp.wf o
  | .divu _ o => SOp.wf o
  | .mulDelivery _ _ => true
  | .divDelivery _ _ => true
  | .fadd _ o => SOp.wf o
  | .fsub _ o => SOp.wf o
  | .fmul _ o => SOp.wf o
  | .fdiv _ o => SOp.wf o
  | .fcmp _ o => SOp.wf o
  | .fcvtIf _ o => SOp.wf o
  | .fcvtFi _ o => SOp.wf o
  | .fsqrt _ o => SOp.wf o
  | .gtag _ o => SOp.wf o
  | .stag _ o => SOp.wf o
  | .chk _ o => SOp.wf o
  | .setf _ o => SOp.wf o
  | .bcc _ _ => true
  | .jmp _ o => SOp.wf o
  | .call _ o => SOp.wf o
  | .ret _ o => SOp.wf o
  | .loop _ _ => true
  | .nop _ o => SOp.wf o
  | .rdcyc _ o => SOp.wf o
  | .rdinst _ o => SOp.wf o
  | .pause _ o => SOp.wf o
  | .pauseExpire _ => true
  | .sread _ _ => true
  | .swrite _ _ => true
  | .sset _ _ => true
  | .sclr _ _ => true
  | .fcsrWrite _ _ => true
  | .svc _ _ => true
  | .mon _ _ => true
  | .rte _ _ => true
  | .ei _ _ => true
  | .di _ _ => true
  | .interruptTake _ _ => true
  | .timerMon _ => true
  | .timerSup _ => true
  | .lateErrAppend _ _ _ => true
  | .storePerformed _ _ => true
  | .fence _ _ => true
  | .fenceS _ _ => true
  | .fenceSDrained _ => true
  | .ldAq _ _ => true
  | .stRl _ _ => true
  | .vsetvl _ o => SOp.wf o
  | .vsetvlmax _ o => SOp.wf o
  | .vtypeWrite _ _ => true
  | .vlWrite _ _ => true
  | .mwinData _ _ _ => true
  | .vadd _ _ => true
  | .vsub _ _ => true
  | .vmul _ _ => true
  | .vmulh _ _ => true
  | .vmulhu _ _ => true
  | .vdiv _ _ => true
  | .vdivu _ _ => true
  | .vrem _ _ => true
  | .vremu _ _ => true
  | .vmin _ _ => true
  | .vminu _ _ => true
  | .vmax _ _ => true
  | .vmaxu _ _ => true
  | .vand _ _ => true
  | .vor _ _ => true
  | .vxor _ _ => true
  | .vsll _ _ => true
  | .vsrl _ _ => true
  | .vsra _ _ => true
  | .vsadd _ _ => true
  | .vsaddu _ _ => true
  | .vssub _ _ => true
  | .vssubu _ _ => true
  | .vfadd _ _ => true
  | .vfsub _ _ => true
  | .vfmul _ _ => true
  | .vfdiv _ _ => true
  | .vfsqrt _ _ => true
  | .vfmin _ _ => true
  | .vfmax _ _ => true
  | .vfabs _ _ => true
  | .vfneg _ _ => true
  | .vfmacc _ _ => true
  | .vfnmacc _ _ => true
  | .vfmsac _ _ => true
  | .vfnmsac _ _ => true
  | .vmacc _ _ => true
  | .vnmsac _ _ => true
  | .vmseq _ _ => true
  | .vmsne _ _ => true
  | .vmslt _ _ => true
  | .vmsle _ _ => true
  | .vmsltu _ _ => true
  | .vmsleu _ _ => true
  | .vmsgt _ _ => true
  | .vmsgtu _ _ => true
  | .vmfeq _ _ => true
  | .vmfne _ _ => true
  | .vmflt _ _ => true
  | .vmfle _ _ => true
  | .vmfunord _ _ => true
  | .mand _ _ => true
  | .mor _ _ => true
  | .mxor _ _ => true
  | .mandn _ _ => true
  | .mnot _ _ => true
  | .mpopc _ _ => true
  | .mfirst _ _ => true
  | .mset _ _ => true
  | .mclr _ _ => true
  | .vbcast _ _ => true
  | .vext _ _ => true
  | .vextu _ _ => true
  | .vins _ _ => true
  | .vmv _ _ => true
  | .vslideup _ _ => true
  | .vslidedown _ _ => true
  | .vrgather _ _ => true
  | .vcompress _ _ => true
  | .viota _ _ => true
  | .vid _ _ => true
  | .vcvtW _ _ _ => true
  | .vcvtN _ _ _ => true
  | .vcvtIf _ _ _ => true
  | .vcvtFi _ _ _ => true
  | .vcvtFf _ _ _ => true
  | .vl _ _ => true
  | .vls _ _ => true
  | .vlx _ _ => true
  | .vlseg _ _ => true
  | .vlsseg _ _ => true
  | .vlr _ _ => true
  | .vlm _ _ => true
  | .vs _ _ => true
  | .vss _ _ => true
  | .vsx _ _ => true
  | .vsseg _ _ => true
  | .vssseg _ _ => true
  | .vsr _ _ => true
  | .vsm _ _ => true
  | .vredsum _ _ => true
  | .vredsumu _ _ => true
  | .vredosum _ _ => true
  | .vredssq _ _ => true
  | .vredmin _ _ => true
  | .vredmax _ _ => true
  | .vredminu _ _ => true
  | .vredmaxu _ _ => true
  | .vredand _ _ => true
  | .vredor _ _ => true
  | .vredxor _ _ => true
  | .vstat _ _ => true
  | .vstatm _ _ => true
  | .vtopk _ _ => true
  | .vdispatch _ _ => true
  | .vscatrows _ _ => true
  | .vgathrows _ _ => true
  | .routeCfgWrite _ _ => true
  | .routeRowsWrite _ _ => true
  | .tsWrite _ _ _ => true
  | .asWrite _ _ _ => true
  | .trndWrite _ _ => true
  | .tld _ _ => true
  | .tldLast _ _ => true
  | .tstTile _ _ => true
  | .tlda _ _ => true
  | .tsta _ _ => true
  | .tzero _ _ => true
  | .tmov _ _ => true
  | .tzacc _ _ => true
  | .tcvt _ _ => true
  | .tstf _ _ => true
  | .tmma _ _ => true
  | .tmmaz _ _ => true
  | .tmmak _ _ => true
  | .tmmakz _ _ => true
  | .tconv _ _ => true
  | .tconvz _ _ => true
  | .tmmap _ _ => true
  | .tmmapz _ _ => true
  | .tmmas _ _ => true
  | .tmmasz _ _ => true
  | .tmmaq _ _ => true
  | .tmmaqz _ _ => true
  | .tmmaks _ _ => true
  | .tmmaksz _ _ => true
  | .tileCommit _ => true
  | .tileWaitExpire _ _ => true
  | .tgsub _ _ => true
  | .bgEvaluate _ => true
  | .bgBlockDone _ => true
  | .bgCompletionWord _ _ => true
  | .bgHalfErr _ => true
  | .bgCtlWrite _ _ => true
  | .tileLeaseWrite _ _ => true
  | .amoAddW _ _ => true
  | .amoAddD _ _ => true
  | .amoCasW _ _ => true
  | .amoCasD _ _ => true
  | .amoMinD _ _ => true
  | .amoMaxD _ _ => true
  | .amoMinuD _ _ => true
  | .amoMaxuD _ _ => true
  | .amoFaddS _ _ => true
  | .amoFaddB _ _ => true
  | .amoFminS _ _ => true
  | .amoFmaxS _ _ => true
  | .amoXadd _ _ => true
  | .amoXaddx _ _ => true
  | .amoSmerge _ _ => true
  | .pierAtomic _ _ => true
  | .atomicResponse _ => true
  | .kdreset _ _ => true
  | .khload _ _ => true
  | .khdrop _ _ => true
  | .khinfo _ _ => true
  | .kdfree _ _ => true
  | .tnext _ _ => true
  | .tdone _ _ => true
  | .dbell _ _ => true
  | .msend _ _ => true
  | .mrecv _ _ => true
  | .stepmark _ _ => true
  | .specBegin _ _ => true
  | .specCommit _ _ => true
  | .specDiscard _ _ => true
  | .clean _ _ => true
  | .flush _ _ => true
  | .invalN _ _ => true
  | .isync _ _ => true
  | .zero _ _ => true
  | .tlbInvAll _ _ => true
  | .tlbInvCtx _ _ => true
  | .tlbInvAddress _ _ => true
  | .tlbInvWalk _ _ => true
  | .transCtxWrite _ _ => true
  | .tableWalk _ _ _ => true
  | .pfCtlWrite _ _ => true
  | .pfTdesc _ _ => true
  | .prefetchIssue _ _ => true
  | .streamFree _ _ => true
  | .engineCacheFill _ _ err => err.all CacheErr.wf
  | .ecVictimAck _ _ => true
  | .pierAllocate _ _ => true
  | .pierVictimComplete _ _ => true
  | .pierScrub _ err => err.all CacheErr.wf
  | .wayRetire _ _ => true
  | .wayRetireDone _ => true
  | .hbmRequest _ _ _ => true
  | .bankAccessStart _ => true
  | .bankAccessDone _ _ => true
  | .agePromote _ => true
  | .refresh _ _ => true
  | .calWindowStart _ _ => true
  | .calWindowEnd _ _ => true
  | .rowSpare _ _ _ row => rowWf row
  | .pcRetire _ _ => true
  | .pcRetireDone _ _ => true
  | .laneRotationStart _ _ _ => true
  | .rotPrep _ _ _ _ => true
  | .rotAck _ => true
  | .rotReady _ _ => true
  | .rotReturn _ => true
  | .rotAbort _ => true
  | .laneCalibrationDone _ _ => true
  | .laneFail _ _ _ => true
  | .dataFlit _ f => NetFlit.wf f
  | .ctlFlit _ f => NetFlit.wf f
  | .credit _ _ => true
  | .nak _ _ => true
  | .nakTimeout _ => true
  | .replayTimeout _ => true
  | .pauseSlot _ _ => true
  | .hs _ _ _ _ => true
  | .hello _ _ => true
  | .cert _ c => CertFacts.wf c
  | .kemEk _ _ => true
  | .kemCt _ _ => true
  | .sig _ _ => true
  | .firstEncryptedFlit _ _ => true
  | .lnkEnable _ _ => true
  | .retrain _ => true
  | .laneTrainLocked _ _ _ => true
  | .laneTrainTimeout _ => true
  | .negotiateTimeout _ => true
  | .retrainTimeout _ => true
  | .trainingBlock _ _ => true
  | .downRetry _ => true
  | .refusedRetry _ => true
  | .silenceTimeout _ => true
  | .rekey _ => true
  | .rd _ t => NetTxn.wf t
  | .wr _ t => NetTxn.wf t
  | .wrm _ t => NetTxn.wf t
  | .atom _ t => NetTxn.wf t
  | .atoml _ t => NetTxn.wf t
  | .msg _ t => NetTxn.wf t
  | .mgmt _ t _ => NetTxn.wf t
  | .rspd _ t => NetTxn.wf t
  | .cmpTransaction _ t => NetTxn.wf t
  | .transactionTimeout _ => true
  | .pairKeyExchange _ _ => true
  | .pairKeyTimeout _ => true
  | .lnkVcbufWrite _ _ => true
  | .tail _ _ _ => true
  | .start _ _ => true
  | .stop _ _ => true
  | .reload _ _ => true
  | .dcons _ _ _ => true
  | .dbTask _ _ _ => true
  | .tqCfgWrite _ _ => true
  | .copyDescriptor _ => true
  | .ingestDescriptor _ => true
  | .ingestDestTake _ => true
  | .egressDescriptor _ => true
  | .descriptorCompletion _ => true
  | .bar0Write _ _ l _ => burstWf l.length
  | .bar2Read _ n => burstWf n.toNat
  | .bar2Write _ l => burstWf l.length
  | .msixUnmask _ _ => true
  | .linkDown _ => true
  | .linkUp _ _ => true
  | .pfFlr => true
  | .vfFlr _ => true
  | .getVersion _ => true
  | .getCapabilities _ => true
  | .negotiateAlgorithms _ _ => true
  | .getDigests _ => true
  | .getCertificate _ _ => true
  | .challenge _ _ => true
  | .getMeasurements _ _ => true
  | .keyExchange _ _ => true
  | .finish _ _ => true
  | .endSession _ => true
  | .keyUpdate _ => true
  | .heartbeat _ => true
  | .setImportKey _ _ _ => true
  | .ideKm _ _ => true
  | .tdisp _ _ => true
  | .ideErr _ => true
  | .debugUnlock _ => true
  | .arbGrant _ rs => arbReqsWf rs
  | .pertSelWrite _ _ _ => true
  | .arbBurstWrite _ _ => true
  | .egrLostMaxClear _ => true
  | .refclkLoss => true
  | .refclkReturn => true
  | .refclkHoldoverExpire => true
  | .inputLockout => true
  | .inputQualified => true
  | .railSample _ _ dies _ _ => railsWf dies
  | .cappingPeriod _ => true
  | .modelWindow shares => sharesWf shares
  | .telemetryMissing => true
  | .pwrOpReqWrite _ _ => true
  | .opStepPllLocked _ => true
  | .opStepCommit _ _ => true
  | .vengSlewDone _ => true
  | .droopDetect _ _ => true
  | .stretchEnd _ _ => true
  | .droopEscalate _ => true
  | .droopDecay _ => true
  | .tempSample junctions hbmStacks _ _ => decide (junctions.length = 64) && decide (hbmStacks.length = 24)
  | .throttle _ => true
  | .throttleRelease _ => true
  | .coolantLoss => true
  | .coolantHeldStopped => true
  | .holdLimit => true
  | .coolantRestored => true
  | .serviceMinute => true
  | .spareForecast => true
  | .supervisorHeartbeat _ => true
  | .supervisorTakeover _ => true
  | .dieLost _ => true
  | .retirement r => RetRes.wf r
  | .migrationRequest _ _ => true
  | .migrationSwitch _ _ => true
  | .selftestStart => true
  | .selftestDone _ _ => true
  | .engineReset _ => true
  | .fwActivate _ _ => true
  | .supervisorRestarted _ _ => true
  | .tailArm _ => true
  | .tailWaitExpire _ => true
  | .earlyCopy _ => true
  | .granuleCopy _ => true
  | .snapshotCommit _ => true
  | .base _ => true
  | .tailAbort _ => true
  | .restore _ => true
  | .tailRegWrite _ _ _ => true
  | .mbRead _ => true
  | .mbWrite _ _ => true
  | .mbDescribe _ => true
  | .segmentGapTimeout _ => true
  | .gatemiRead f => CanFrame.wf f
  | .gatemiWrite f _ => CanFrame.wf f
  | .seg f _ => CanFrame.wf f
  | .segAck f => CanFrame.wf f
  | .gatemiDescribe f => CanFrame.wf f
  | .gatemiAbort f => CanFrame.wf f
  | .gatemiHeartbeat _ => true
  | .eventFrame _ => true
  | .busOff => true
  | .storeResolve _ _ => true
  | .restoreDefaults _ _ => true
  | .genSelWrite _ _ => true
  | .powerOn u => PowerUp.wf u
  | .refclkPresent _ => true
  | .enginesStart => true
  | .modReset => true
  | .modResetRelease _ => true
  | .perstNDeassert => true
  | .failedRecovery f _ => CanFrame.wf f
  | .rowSpareDone _ _ _ row _ => rowWf row
  | .migrationAbandon _ => true
  | .internalStateError _ => true
  | .preemptionRequest _ => true
  | .flrComplete _ => true
  | .configurationRequest _ _ => true
  | .bar0Read _ _ n _ => burstWf n.toNat
  | .retrainLocked _ => true
  | .epochKeyRetire _ => true
  | .controlMessageRepeat _ => true

end Sys2Proof
end

