-- ==== Sys2Proof/Tests/Slice0.lean ====
section
/-!
SUPPORT. Tests of single steps, ill-formed operands that the checks refuse, and states and operands that meet the hypotheses of
the statements.
-/

namespace Sys2Proof.Machine.Tests

set_option Elab.async false

/-- Die 0 runs with its supervisor, logical engine 0 is bound to physical engine 0. -/
def anat0 : Anat := { Anat.reset with
  ready := 4, dies := [⟨true, false, true⟩, ⟨false, true, false⟩, ⟨false, true, false⟩, ⟨false, true, false⟩]
  remap := Anat.reset.remap.set 0 ⟨true, false, 0x7F, 0⟩, phys := Anat.reset.phys.set 0 ⟨0, .active⟩ }

/-- Registers at level 0, with integers in `ACC`, `IX0` and `IX1`. -/
def core0 : Core := { Core.reset with pc := 0x1000#64, acc := ⟨7#64, 1#4⟩, ix0 := ⟨5#64, 1#4⟩, ix1 := ⟨64#64, 1#4⟩ }

def eng0 (c : Core) : Engine := { Engine.reset with core := c }

def places0 : Places :=
  { tagrBase := 0x200000, tagrSize := 0x200000, tagtBase := 0x400000, ctxtBase := 0x600000, kdtBase := 0x800000
    ctBase := 0xA00000, grtBase := 0xC00000, protOff := 0xE00000, entry := 0 }

/-- Power, clocks and Keystone are on; the first GiB is zeroed and 2 MiB of it are tagged. -/
def world00 : World := { World.reset with
  mem := { Memory.reset with zeroed := [(0, 0x40000000)] }, places := places0
  eclk := true, timeRun := true, ks := { Keystone.reset with ready := true }
  pwr := { PowerSt.reset with supply := 2, refclk := true } }

/-- Physical engine 0 is x. -/
def worldE (x : Engine) : World := { world00 with engines := [(0, x)] }

/-- Physical engine 0 has the registers c. -/
def world0 (c : Core) : World := worldE (eng0 c)

/-- A state with this world. -/
def stW (w : World) : State := { pending := [], anat := anat0, w := w }

def st0 (c : Core) : State := stW (world0 c)

abbrev s0 : State := st0 core0
abbrev w0 : World := world0 core0

theorem issues0 : Issues s0 0 w0 := ⟨by rfl, by rfl⟩

/-- Immediate n. -/
def imm (n : BitVec 20) : SOp := ⟨0#3, n, 0#32⟩
/-- Memory n bytes after `IX1`. -/
def mem1 (n : BitVec 20) : SOp := ⟨2#3, n, 0#32⟩
/-- Named register n. -/
def rop (n : BitVec 20) : SOp := ⟨6#3, n, 0#32⟩

/-- A part of an instruction runs without raising anything, and p holds of its result. -/
def ran {α : Type} (s : State) (e : Fin 104) (x : EM α) (w : World) (p : α → World → Bool) : Bool :=
  match x ⟨s.anat, e.val⟩ w with
  | .ok r v => p r v
  | .error _ _ => false

theorem ran_does {α : Type} {s : State} {e : Fin 104} {x : EM α} {w : World} {p : α → World → Bool}
    (h : ran s e x w p = true) : ∃ r v, Does s e x w r v ∧ p r v = true := by
  unfold ran at h
  unfold Does
  split at h
  · exact ⟨_, _, by assumption, h⟩
  · cases h

/-! Operands that meet the hypotheses of the statements about scalar instructions. -/

theorem wit_ScalarLoads : Issues s0 0 w0 ∧ (∃ x w, Reads s0 0 (mem1 8#20) .move w0 x w) ∧
    (∃ x w, Reads s0 0 (rop 1#20) .addr w0 x w) ∧ (∃ x w, Does s0 0 (operandAt (mem1 7#20) .sub 1) w0 x w) ∧
    (∃ x w, Does s0 0 (operandAt (mem1 6#20) .sub 2) w0 x w) ∧ (∃ x w, Does s0 0 (operandAt (imm 0x80000#20) .sub 4) w0 x w) :=
  ⟨issues0, ⟨_, _, rfl⟩, ⟨_, _, rfl⟩, ⟨_, _, rfl⟩, ⟨_, _, rfl⟩, ⟨_, _, rfl⟩⟩

theorem wit_Pops : formOf (imm 0#20) ≠ none ∧
    (∃ l w, Does s0 0 (loadMem (w0.core 0).sp 8 scalarLoad) w0 l w ∧ Usable (w.core 0) .move l.tag) :=
  ⟨by decide, _, _, rfl, by decide, by rfl⟩

theorem wit_ScalarStores : (∃ a w v, Does s0 0 (memAddr (mem1 8#20)) w0 a w ∧ Does s0 0 (storeMemE a 8 7#64 1#4 false) w () v) ∧
    (∃ a w v, Does s0 0 (memAddr (mem1 7#20)) w0 a w ∧ Does s0 0 (storeMemE a 1 7#64 1#4 false) w () v) ∧
    (∃ a w v, Does s0 0 (memAddr (mem1 6#20)) w0 a w ∧ Does s0 0 (storeMemE a 2 7#64 1#4 false) w () v) ∧
    (∃ a w v, Does s0 0 (memAddr (mem1 4#20)) w0 a w ∧ Does s0 0 (storeMemE a 4 7#64 1#4 false) w () v) ∧
    Usable core0 .move core0.acc.t ∧ Usable core0 .move core0.ix0.t :=
  ⟨⟨_, _, _, rfl, rfl⟩, ⟨_, _, _, rfl, rfl⟩, ⟨_, _, _, rfl, rfl⟩, ⟨_, _, _, rfl, rfl⟩, ⟨by decide, by rfl⟩, ⟨by decide, by rfl⟩⟩

/-- A stack in the tagged region. -/
def core1 : Core := { core0 with spMon := 0x200100#64 }

theorem wit_pushes : Issues (st0 core1) 0 (world0 core1) ∧
    (∃ w, Does (st0 core1) 0 (storeMemE (((world0 core1).core 0).sp - 8#64) 8 5#64 1#4 false) (world0 core1) () w) :=
  ⟨⟨by rfl, by rfl⟩, _, rfl⟩

theorem wit_Addresses : (∃ a w, Does s0 0 (memAddr (mem1 0xFFFFF#20)) w0 a w) ∧ formOf (imm 0xFFFF8#20) = some (.imm (-8#64)) :=
  ⟨⟨_, _, rfl⟩, by decide⟩

theorem wit_Arithmetic : Usable core0 .int core0.acc.t ∧ Usable core0 .int core0.ix0.t ∧ Usable core0 .int core0.ix1.t ∧
    (∃ y w, Reads s0 0 (mem1 8#20) .int w0 y w) ∧ (∃ y w, Reads s0 0 (imm 0x80000#20) .int w0 y w) :=
  ⟨⟨by decide, by rfl⟩, ⟨by decide, by rfl⟩, ⟨by decide, by rfl⟩, ⟨_, _, rfl⟩, ⟨_, _, rfl⟩⟩

/-- Comparisons: two pointers, and a pointer with an integer. -/
def core2 : Core := { core0 with acc := ⟨9#64, 3#4⟩, ix0 := ⟨5#64, 3#4⟩ }

theorem wit_Comparisons : Issues (st0 core2) 0 (world0 core2) ∧
    (∃ b a w, Does (st0 core2) 0 (operandAt (rop 1#20) .cmp 8) (world0 core2) (b, a) w ∧ b.t = 3#4) ∧
    Usable core2 .cmp core2.acc.t ∧ Usable core2 .cmp core2.ix1.t :=
  ⟨⟨by rfl, by rfl⟩, ⟨_, _, _, rfl, by rfl⟩, ⟨by decide, by rfl⟩, ⟨by decide, by rfl⟩⟩

theorem wit_Shifts : (∃ y w, Reads s0 0 (imm 63#20) .int w0 y w) ∧ (∃ y w, Reads s0 0 (imm 64#20) .int w0 y w) :=
  ⟨⟨_, _, rfl⟩, ⟨_, _, rfl⟩⟩

/-- Results on their way: a divide's and a later multiply's. -/
def core3 : Core := { core0 with pend := [⟨1, 3#64, 1#64, true⟩, ⟨2, 9#64, 0#64, false⟩] }

theorem wit_Deliveries : ∃ p q, ((st0 core3).w.core 0).pend = p :: q ∧ p ∉ q ∧ p.div = true := ⟨_, _, rfl, by decide, by rfl⟩

theorem wit_BothPending : ∃ d p, ((st0 core3).w.core 0).pend = [d, p] ∧ d.div = true ∧ p.div = false ∧ d.seq < p.seq :=
  ⟨_, _, rfl, by rfl, by rfl, by decide⟩

def core4 : Core := { core0 with acc := ⟨0x3FF0000000000000#64, 2#4⟩, ix0 := ⟨0x7FF0000000000001#64, 2#4⟩, pend := [⟨2, 9#64, 0#64, false⟩] }

theorem wit_MultiplyDelivery : ∃ p q, ((st0 core4).w.core 0).pend = p :: q ∧ p ∉ q ∧ p.div = false := ⟨_, _, rfl, by decide, by rfl⟩

theorem wit_ScalarFloat : Issues (st0 core4) 0 (world0 core4) ∧ Usable core4 .flt core4.acc.t ∧
    (∃ y w, Reads (st0 core4) 0 (rop 1#20) .flt (world0 core4) y w ∧ isNanV (dec64 y.v) = true) :=
  ⟨⟨by rfl, by rfl⟩, ⟨by decide, by rfl⟩, _, _, rfl, by rfl⟩

theorem wit_TagsAndCounters : formOf (rop 7#20) = some (.reg 7) ∧ formOf (imm 4#20) = some (.imm 4#64) ∧
    formOf ⟨7#3, 0xC0000#20, 1#32⟩ = some (.immHi 0x100000000#64) ∧
    (∃ a w t v, Does s0 0 (memAddr (mem1 8#20)) w0 a w ∧ Does s0 0 (tagOfWord a) w t v) ∧
    formOf (imm 1#20) = some (.imm 1#64) ∧ core0.acc.t.toNat = (1#64).toNat :=
  ⟨by decide, by decide, by decide, ⟨_, _, _, _, rfl, rfl⟩, by decide, by decide⟩

/-- The state with engine 0 x. -/
def stE (x : Engine) : State := stW (worldE x)

theorem wit_PauseEnds : ((stE { eng0 core0 with wait := .pause }).w.eng 0).wait = .pause := rfl

/-- A branch by one word back, or by the longest way. -/
def branch (n : BitVec 4) (d : BitVec 22) : BOp := ⟨n, d⟩

theorem wit_Branches : condition core0 1#4 = some true ∧ condition core0 0#4 = some false ∧
    (core0.pc + (branch 0#4 0x3FFFFF#22).disp.signExtend 64 * 4#64).toNat % 4 = 0 ∧
    (core0.pc + (branch 0#4 0x200000#22).disp.signExtend 64 * 4#64).toNat % 4 = 0 ∧
    Usable core0 .sub core0.ix0.t ∧ Usable core0 .sub core0.ix1.t :=
  ⟨by decide, by decide, by decide, by decide, ⟨by decide, by rfl⟩, ⟨by decide, by rfl⟩⟩

theorem wit_Calls : (∃ t w, Does s0 0 (jumpTarget (mem1 0x100#20)) w0 t w ∧ t.toNat % 4 = 0) ∧
    (∃ t w v, Does (st0 core1) 0 (jumpTarget (mem1 0x100#20)) (world0 core1) t w ∧ t.toNat % 4 = 0 ∧
      Does (st0 core1) 0 (storeMemE ((w.core 0).sp - 8#64) 8 ((w.core 0).pc + 4#64) 7#4 false) w () v) :=
  ⟨⟨_, _, rfl, by decide⟩, _, _, _, rfl, by decide, rfl⟩

/-- A word of 8 bytes of tag t that waits in the store buffer for local offset a. -/
def word8 (a : Nat) (v : W64) (t : Tag) : SbEntry :=
  { va := w64 a, ga := w64 a, kdom := 0#8, data := offsets (leBytes 8 v.toNat), tag := .set t, pl := 0#2, size := 3
    rel := false, se := false, cls := 0, tcls := 7, fn := 0, atom := none, sent := none }

/-- An event frame in the tagged region, whose program counter and status the engine has just stored. -/
def worldF : World := worldE { eng0 { core0 with spMon := 0x200000#64 } with
    sb := [word8 0x200000 0x4000#64 7#4, word8 0x200008 0x80#64 6#4] }

theorem wit_Returns : Issues (stW worldF) 0 worldF ∧
    (∃ l w, Does (stW worldF) 0 (loadMem (worldF.core 0).sp 8 scalarLoad) worldF l w ∧ l.tag = 7#4 ∧
      (w64 (leNat l.bytes)).toNat % 4 = 0) :=
  ⟨⟨by rfl, by rfl⟩, _, _, rfl, by rfl, by rfl⟩

theorem wit_EventReturns : let w := worldF.modEng 0 Engine.commitAll
    ∃ l v, Does (stW worldF) 0 (frameWords (w.core 0).sp) w l v ∧
      (decide ((l.getD 1 TWord.zero).t = 6#4) && decide ((l.getD 0 TWord.zero).t = 7#4) &&
      decide ((w.core 0).pl.toNat ≤ fld (l.getD 1 TWord.zero).v 8 2) && decide (fld (l.getD 1 TWord.zero).v 8 2 ≠ 3) &&
      decide ((l.getD 1 TWord.zero).v &&& ~~~ 0x38F#64 = 0#64)) = true := ran_does (by decide +kernel)

theorem wit_SystemRegisters : (∃ r, sysReg 0x102 = some r ∧ core0.pl.toNat ≤ r.rd ∧ r.wr = some 2) ∧
    Usable core0 .addr core0.acc.t ∧ sysAccepts 0x102 .write core0.acc.v 7#64 = true :=
  ⟨⟨_, rfl, by decide, by rfl⟩, ⟨by decide, by rfl⟩, by rfl⟩

/-- The state whose accumulator holds the integer v. -/
def accS (v : W64) : Core := { core0 with acc := ⟨v, 1#4⟩ }

theorem wit_RegisterWrites : Usable core0 .addr core0.acc.t ∧ (1#64).toNat % 4 ≤ 1 ∧ vtypeOk 0x2006#64 = true ∧
    sysAccepts 0x140 .write 0x1000008#64 0#64 = true ∧ sysAccepts 0x142 .write 0x4000010000#64 0#64 = true ∧
    tsOk 0xC8080#64 = true ∧ asOk 0x8080#64 = true ∧ sysAccepts 0x1BC .write 0xF02#64 0#64 = true ∧
    sysAccepts 0x360 .write 0xFF004007#64 0#64 = true :=
  ⟨⟨by decide, by rfl⟩, by decide, by rfl, by rfl, by rfl, by rfl, by rfl, by rfl, by rfl⟩

theorem wit_CallsAndReturns : core0.pl ≠ 2#2 ∧ (s0.w.eng 0).speculating = false ∧ (w0.eng 0).tq = [] ∧ w0.core 0 = s0.w.core 0 :=
  ⟨by decide, by rfl, by rfl, by rfl⟩

/-- A service call from level 0. -/
def event0 : Event :=
  { code := 0x0D#8, intr := false, asyn := false, sub := 0#8, unit := 0, info := 3#16, faddr := 0#64, tileInfo := 0#64
    src := 0#2, tgt := 0#2 }

theorem wit_EventEntry : let c := ((world0 core1).eng 0).core.deliverAll false
    (pushWords anat0 0 event0.tgt ((world0 core1).setEng 0 { (world0 core1).eng 0 with core := c }) (c.spOf event0.tgt - 96#64)
      [⟨c.pc, 7#4⟩, ⟨c.st, 6#4⟩, c.acc, c.ix0, c.ix1, c.prl, c.prh, ⟨event0.cause, 1#4⟩, ⟨event0.faddr, 1#4⟩,
        ⟨c.sysGet 0x102, 1#4⟩, ⟨event0.tileInfo, 1#4⟩, ⟨0#64, 0#4⟩]).1 = .ok () := by rfl

/-- Registers with a pre-emption request enabled and timers that come. -/
def coreI : Core :=
  (((({ core0 with st := 0x80#64 } : Core).sysSet 0x211 0x400#64).sysSet 0x21A 9#64).sysSet 0x219 9#64)

def engI (w : Wait) : Engine := { eng0 coreI with irq := 0x400#11, wait := w }

theorem wit_Interrupts : (∃ src, irqChoose anat0 (worldE (engI .none)) 0 = some src) ∧
    irqOpen anat0 (worldE (engI .pause)) 0 = true ∧ anat0.logicalOf 0 ≠ none ∧ dieRuns anat0 0 = true ∧
    (worldE (engI .none)).time.toNat < (((worldE (engI .none)).core 0).sysGet 0x21A).toNat ∧
    (worldE (engI .none)).time.toNat < (((worldE (engI .none)).core 0).sysGet 0x219).toNat :=
  ⟨⟨_, rfl⟩, by rfl, by decide, by rfl, by decide, by decide⟩

theorem wit_Fences : fld (0x1FF#23) 9 14 = 0 ∧ fld (0x100#23) 4 4 < 4 ∧ bit (0x101#23) 8 = true ∧ fld (0x33#23) 4 4 ≠ 0 ∧
    ((stW worldF).w.eng 0).sb ≠ [] ∧ (w0.eng 0).sb = [] ∧ (w0.eng 0).lateErr = [] := by
  refine ⟨?_, ?_, ?_, ?_, ?_, ?_, ?_⟩ <;> decide

theorem wit_AcquireRelease : (∃ a w t v l u, Does s0 0 (acqAddr 0x208000#23) w0 a w ∧ a.toNat % 8 = 0 ∧ Does s0 0 (translate a .load) w t v ∧
      Does s0 0 (loadVia t a 8 { scalarLoad with acq := true }) v l u ∧ Usable (u.core 0) .move l.tag) ∧
    (∃ a w v, Does s0 0 (acqAddr 0x208000#23) w0 a w ∧ Does s0 0 (storeMemE a 8 7#64 1#4 true) w () v) :=
  ⟨⟨_, _, _, _, _, _, rfl, by decide, rfl, rfl, by decide, by rfl⟩, _, _, _, rfl, rfl⟩

theorem wit_FenceDrained : ((stE { eng0 core0 with wait := .fenceS }).w.eng 0).wait = .fenceS ∧
    ((stE { eng0 core0 with wait := .fenceS }).w.eng 0).sb = [] := ⟨rfl, rfl⟩

/-! Memory, stores, caches and translations. -/

theorem wit_MemoryReadsBack : (wrBytes Keystone.reset 1#8 3 Memory.reset [(0x1000, 5#8)]).wf = true ∧
    (∀ p ∈ [(0x1001, 5#8)], p.1 / 128 ≠ 0x0FFF / 128) ∧
    (∃ r, sget (wrBytes Keystone.reset 1#8 3 Memory.reset [(0x1000, 5#8)]).lines (0x1000 / 128) = some r ∧ r.dom = 1#8 ∧
      r.gen = keyGen Keystone.reset 1#8) ∧ (∀ p ∈ [(0x1001, 5#8)], p.1 ≠ 0x1000) := by
  refine ⟨?_, ?_, ⟨_, rfl, ?_, ?_⟩, ?_⟩ <;> decide

/-- A store of engine 0 to a global address. -/
def storeTo (ga : W64) : SbEntry := { word8 0 5#64 1#4 with ga := ga }

theorem wit_StoresPerformed : (∃ t, ((stE { eng0 core0 with sb := [storeTo 0x1000#64] }).w.eng 0).sb[0]? = some t ∧ t.atom = none) ∧
    (stE { eng0 core0 with sb := [storeTo 0x1000#64] } |>.w.eng 0).mayPerform 0 = true ∧ dieRuns anat0 0 = true ∧
    placeOf w0 0x1000#64 = .hbm 0x1000 ∧ hbmStatus anat0 w0 0x1000 = none ∧
    placeOf { w0 with pcieUp := true } 0x800000000000#64 = .host 0 ∧ placeOf w0 0x1001000000001000#64 = .remote ∧
    placeOf w0 0xF00000000008#64 = .regs 8 ∧ statusReport 7#8 ≠ 0#8 ∧
    (∃ tid, ({ storeTo 0x1001000000001000#64 with sent := some 4 } : SbEntry).sent = some tid) :=
  ⟨⟨_, rfl, by rfl⟩, by rfl, by rfl, by decide, by decide +kernel, by decide, by decide, by decide, by decide, _, rfl⟩

theorem wit_granules : (blocks (atOff 0x1000 (storeTo 0x1000#64).data) 4096).foldl granuleWritten w0 = w0 := by rfl

/-- Registers with the integer v in `ACC` and the address a in `CMO_ADDR`. -/
def coreC (v a : W64) : Core := ({ core0 with acc := ⟨v, 1#4⟩ } : Core).sysSet 0x344 a

/-- Local line 32 in the engine cache. -/
def line32 (st : LineSt) : CLine :=
  { line := 32, way := 3, st := st, cls := 0, part := 0, tcls := 7, reuse := 1, dead := false, busy := false, kdom := 0#8, pf := 0 }

/-- Engine 0 with line 32 modified. -/
def engC (op : W64) : Engine := { eng0 (coreC op 0x1000#64) with ec := [(ecSet 32, [line32 .m])] }

theorem wit_CacheMaintenance : (∃ t w, Does (st0 (coreC 1#64 0x1000#64)) 0 (translate 0x1000#64 .clean) (world0 (coreC 1#64 0x1000#64)) t w ∧
      placeOf w (t.ga 0x1000) = .hbm 0x1000 ∧ hbmStatus anat0 w 0x1000 = none ∧
      findLine (w.eng 0).ec (ecSet (lineOf w (t.ga 0x1000))) (lineOf w (t.ga 0x1000)) = none) ∧
    (∃ t w c, Does (stE (engC 1#64)) 0 (translate 0x1000#64 .clean) (worldE (engC 1#64)) t w ∧
      findLine (w.eng 0).ec (ecSet (lineOf w (t.ga 0x1000))) (lineOf w (t.ga 0x1000)) = some c ∧ c.kdom = t.kdom) ∧
    (∃ t w, Does (st0 (coreC 4#64 0x1000#64)) 0 (translate 0x1000#64 .atom) (world0 (coreC 4#64 0x1000#64)) t w ∧ t.se = false ∧
      placeOf (drainLocal anat0 0 ((w.eng 0).sb.length) w) ((t.ga 0x1000 >>> 7) <<< 7) = .hbm 0x1000) ∧
    (2#64).toNat % 8 = 2 ∧ (3#64).toNat % 8 = 3 :=
  ⟨⟨_, _, rfl, by rfl, by decide +kernel, by rfl⟩, ⟨_, _, _, rfl, rfl, by rfl⟩, ⟨_, _, rfl, by rfl, by rfl⟩, by decide, by decide⟩

theorem wit_TranslationsInvalidated : fld (0x23#64) 0 3 = 3 ∧ fld (0x23#64) 4 3 ≤ 2 ∧
    (∀ k ∈ tlbReach anat0 0 2, (w0.eng k).sb = []) ∧ (∀ k ∈ tlbReach anat0 0 0, (w0.eng k).sb = []) := by
  refine ⟨by decide, by decide, ?_, ?_⟩ <;> decide

theorem wit_Speculation : (9#64).toNat % 8 = 1 ∧ (w0.eng 0).spec.state = 0 ∧
    ((worldE { eng0 core0 with spec := { Spec.idle with state := 1 } }).eng 0).spec.state ≠ 0 :=
  ⟨by decide, by rfl, by decide⟩

/-- A trained stream and a descriptor of two rows. -/
def engP : Engine := { eng0 (core0.sysSet 0x360 0xFF004007#64) with
  streams := [{ ctx := 0, pl := 0#2, line := 32, stride := 1, misses := 3, trained := true, issued := 0 }]
  pfd := [{ ctx := 0, pl := 0#2, base := 0x1000#64, stride := 256#64, rows := 2, rowb := 128, next := 0, pier := false }]
  tq := [{ before := core0, after := core0, pass := true, len := 128, info := 0#64, busy := 128, skip := 0, held := [], younger := 1 }] }

theorem wit_WalksAndPrefetches : (anat0.logicalOf 0).isSome = true ∧ dieRuns anat0 0 = true ∧ (worldE engP).eclk = true ∧
    ((worldE engP).eng 0).locked = none ∧ bit (engP.core.sysGet 0x360) 0 = true ∧ bit (engP.core.sysGet 0x360) 1 = true ∧
    0 < fld (engP.core.sysGet 0x360) 8 7 ∧ fld (engP.core.sysGet 0x360) 24 8 ≠ 0 ∧ (∃ t ∈ engP.tq, t.pass = true) ∧
    (∃ t, engP.streams[0]? = some t ∧ t.trained = true ∧ t.issued < 64 ∧ 0 ≤ (t.line + t.stride * (t.issued + 1) : Int)) ∧
    (∃ t w, canIssue anat0 w0 0 = true ∧ engTranslate anat0 w0 0 core0.pl 0x1000#64 .store = (.ok t, w)) ∧
    (∃ d, engP.pfd[0]? = some d) :=
  ⟨by rfl, by rfl, by rfl, by rfl, by rfl, by rfl, by decide, by decide, ⟨_, List.mem_cons_self, rfl⟩,
    ⟨_, rfl, by rfl, by decide, by decide⟩, ⟨_, _, by rfl, rfl⟩, _, rfl⟩

/-- A miss of local line n, whose dirty victim is in `way`. -/
def miss (n : Nat) (way : Option Nat) : EMiss :=
  { line := n, cls := 0, tcls := 7, kdom := 0#8, store := false, fetch := false, way := way, pf := 0 }

def pmiss (n : Nat) (way : Option Nat) : PMiss :=
  { line := n, cls := 0, part := 0, tcls := 7, kdom := 0#8, write := false, way := way }

/-- Pier 0 has an allocation of line 0 to make. -/
def worldP (way : Option Nat) : World := { w0 with piers := [(0, { Pier.reset with misses := [pmiss 0 way] })] }

theorem wit_CacheFills : hbmLine 0 = true ∧ hbmLine 0x400000000 = false ∧
    (∃ m, (worldE { eng0 core0 with misses := [miss 0 none] } |>.eng 0).misses[0]? = some m ∧ m.way = none) ∧
    (∃ m i, (worldE { eng0 core0 with misses := [miss 0 (some 3)] } |>.eng 0).misses[0]? = some m ∧ m.way = some i) ∧
    (eng0 core0).ecMask 0 ≠ 0 ∧
    (∃ i l, pickWay (waysOf ((eng0 core0).ecMask 0)) (sgetD (eng0 core0).ec (ecSet 0) []) (classPri (core0.sysGet 0x343)) = some (i, l) ∧
      l.find? (fun c => decide (c.way = i)) = none) ∧
    pierUp anat0 0 = true ∧ pierOf 0 = 0 ∧ (∃ m, ((worldP none).pier 0).misses[0]? = some m) ∧
    (∃ i l, pickWay ((waysOf (pierMask w0 0 0 0)).filter (fun i => !bit (pierRet w0 0) i)) (sgetD ((worldP none).pier 0).sets (pierSet 0) [])
        (classPri (w0.reg (dcBase 0 + 0x10) 0x88888888#64)) = some (i, l) ∧ l.find? (fun c => decide (c.way = i)) = none) ∧
    (∃ m i, ((worldP (some 2)).pier 0).misses[0]? = some m ∧ m.way = some i) :=
  ⟨by decide, by decide, ⟨_, rfl, rfl⟩, ⟨_, _, rfl, rfl⟩, by decide, ⟨_, _, rfl, by rfl⟩, by rfl, by decide, ⟨_, rfl⟩,
    ⟨_, _, rfl, by rfl⟩, _, _, rfl, rfl⟩

theorem wit_CacheLines : bit (w0.reg (dcBase 0) 1#64) 0 = true ∧ w0.av.journal.any (fun j => decide (j.cls = 3)) = false ∧
    bit (pierRet w0 0) 15 = false ∧ ({ Pier.reset with retiring := [3] } : Pier).retiring ≠ [] := by
  refine ⟨by rfl, by rfl, by rfl, by decide⟩

/-! Vector instructions. -/

/-- Registers with `VTYPE` ty and VL n. -/
def coreV (ty n : W64) : Core := (core0.sysSet 0x101 ty).sysSet 0x100 n

/-- Groups vd, va and vb, unmasked. -/
def vr (vd va vb : BitVec 5) : VR := ⟨vd, va, vb, false, 0#3, false⟩

/-- A scalar in place of VB, masked by M7. -/
def vrs (vd va : BitVec 5) : VR := ⟨vd, va, 0#5, true, 7#3, true⟩

theorem elt_bound (c : Core) (n w i : Nat) : c.elt n w i < 2 ^ w := BitVec.isLt _

theorem wit_VectorInteger : Issues (st0 (coreV 2#64 8#64)) 0 (world0 (coreV 2#64 8#64)) ∧ (coreV 2#64 8#64).vt.isInt = true ∧
    EltReady (st0 (coreV 2#64 8#64)) 0 (vr 31#5 1#5 2#5) (world0 (coreV 2#64 8#64)) true (0, FFlags.none) ∧
    (∀ i, ((world0 (coreV 2#64 8#64)).core 0).elt 1 32 i < 2 ^ 32 ∧ ((world0 (coreV 2#64 8#64)).core 0).elt 2 32 i < 2 ^ 32) :=
  ⟨⟨by rfl, by rfl⟩, by decide, ⟨by decide, by decide, by decide, .inl ⟨rfl, rfl, by decide, rfl⟩⟩,
    fun _ => ⟨elt_bound .., elt_bound ..⟩⟩

theorem wit_VectorIntegerScalar : ∃ sc, EltReady (st0 (coreV 2#64 8#64)) 0 (vrs 31#5 1#5) (world0 (coreV 2#64 8#64)) true sc :=
  ⟨_, by decide, by decide, by decide, .inr (.inl ⟨rfl, rfl, rfl, rfl⟩)⟩

theorem wit_VectorFloat : (∃ k, (coreV 6#64 8#64).vt.fmt = some k) ∧
    EltReady (st0 (coreV 6#64 8#64)) 0 (vr 31#5 1#5 2#5) (world0 (coreV 6#64 8#64)) true (0, FFlags.none) ∧
    EltReady (st0 (coreV 6#64 8#64)) 0 (vr 31#5 1#5 0#5) (world0 (coreV 6#64 8#64)) false (0, FFlags.none) :=
  ⟨⟨_, rfl⟩, ⟨by decide, by decide, by decide, .inl ⟨rfl, rfl, by decide, rfl⟩⟩,
    ⟨by decide, by decide, by decide, .inr (.inr ⟨rfl, rfl, rfl, rfl⟩)⟩⟩

theorem wit_VectorCompares : maskOk false 0#3 = true ∧ maskReg 7#5 = true ∧ groupOk 31 (coreV 2#64 8#64).vt.g = true ∧
    groupOk 31 (coreV 6#64 8#64).vt.g = true ∧ (∃ k, (coreV 6#64 8#64).vt.fmt = some k) ∧
    (∃ sc, Does (st0 (coreV 2#64 8#64)) 0 (scalarElt (coreV 2#64 8#64).vt) (world0 (coreV 2#64 8#64)) sc (world0 (coreV 2#64 8#64))) :=
  ⟨by decide, by decide, by decide, by decide, ⟨_, rfl⟩, _, rfl⟩

theorem wit_MasksAndLengths : maskFields (vr 7#5 0#5 0#5) = true ∧ core0.vt.vstart = 0 ∧ vtypeOk 6#64 = true ∧
    (∃ v w, Reads s0 0 (imm 6#20) .sub w0 v w ∧ vtypeOk v.v = true) :=
  ⟨by decide, by decide, by decide, _, _, rfl, by decide⟩

theorem wit_VectorMoves : let c := coreV 2#64 8#64
    maskOk true 7#3 = true ∧ groupOk 30 c.vt.g = true ∧ groupsMeet 30 c.vt.g 2 c.vt.g = false ∧ c.vt.vstart = 0 ∧
    Usable c .sub c.acc.t ∧ Usable c .sub c.ix0.t ∧ maskReg 7#5 = true ∧ c.vt.fmt = none ∧ (∃ k, (coreV 6#64 8#64).vt.fmt = some k) ∧
    (∃ x, Does (st0 c) 0 (scalarElt c.vt) (world0 c) x (world0 c)) :=
  ⟨by decide, by decide, by decide, by decide, ⟨by decide, by rfl⟩, ⟨by decide, by rfl⟩, by decide, by rfl, ⟨_, rfl⟩, _, rfl⟩

theorem wit_VectorConversions : (∃ a b, (pairSides 6 (codeSide 0) sameKind).map (fun p => (p.2, p.1)) = some (a, b)) ∧
    (∃ a b, pairSides 0 (codeSide 9) sameKind = some (a, b)) ∧
    (∃ a b, (pairSides 6 (etSide 2) (fun a b => !sameKind a b)).map (fun p => (p.2, p.1)) = some (a, b)) ∧
    (∃ a b, pairSides 6 (etSide 3) (fun a b => !sameKind a b) = some (a, b)) ∧
    (∃ a b, (pairSides 6 (etSide 4) sameKind).map (fun p => (p.2, p.1)) = some (a, b)) :=
  ⟨⟨_, _, rfl⟩, ⟨_, _, rfl⟩, ⟨_, _, rfl⟩, ⟨_, _, rfl⟩, _, _, rfl⟩

/-- A unit-stride access of one field from `IX1`, unmasked. -/
def vm (vd : BitVec 5) (nf : BitVec 2) : VM := ⟨vd, true, nf, 0#5, false, 0#3, 0#6⟩

theorem wit_VectorForms : let t := (coreV 2#64 2#64).vt
    vmOk .unit (vm 31#5 0#2) t true = true ∧ vmOk .strided (vm 31#5 0#2) t true = true ∧ vmOk .seg (vm 30#5 0#2) t true = true ∧
    vmOk .segStrided (vm 28#5 2#2) t false = true ∧ vmOk .reg (vm 31#5 0#2) t true = true ∧ vmOk .mask (vm 7#5 0#2) t false = true ∧
    vmOk .indexed { vm 8#5 0#2 with fn := 2#6, vi := 30#5 } t true = true := by
  refine ⟨?_, ?_, ?_, ?_, ?_, ?_, ?_⟩ <;> decide

theorem wit_VectorLoads : let c := coreV 2#64 2#64
    (∃ b, Does (st0 c) 0 (vmBase .unit (vm 31#5 0#2)) (world0 c) b (world0 c)) ∧
    (∃ r w, Does (st0 c) 0 (loadElements .unit (vm 31#5 0#2) c (64#64, 0#64) (List.range 2)) (world0 c) r w ∧ true = true) ∧
    fieldsOf .unit (vm 31#5 0#2) = 1 ∧ vmActive .unit (vm 31#5 0#2) c 1 = true ∧ vmActive .unit (vm 31#5 0#2) c 2 = false ∧
    (∃ t w l v, Does (st0 c) 0 (translate 64#64 .load) (world0 c) t w ∧ Does (st0 c) 0 (loadVia t 64#64 4 vectorLoad) w l v ∧
      l.tag ≠ 5#4) :=
  ⟨⟨_, rfl⟩, ran_does (p := fun _ _ => true) (by decide +kernel), by decide, by decide, by decide, _, _, _, _, rfl, rfl, by decide⟩

theorem wit_VectorStores : let c := coreV 2#64 2#64
    ((world0 c).eng 0).sbRoom ≠ 0 ∧
    (∃ ps w v, Does (st0 c) 0 (vecPieces .unit (vm 31#5 0#2) c (64#64, 0#64) 4 (List.range 2) []) (world0 c) ps w ∧
      Does (st0 c) 0 (retirePieces 1 ps) w () v) :=
  ⟨by decide, _, _, _, rfl, rfl⟩

theorem wit_Reductions : redOk (vr 31#5 1#5 2#5) (coreV 2#64 8#64).vt = true ∧ (coreV 2#64 8#64).vt.isInt = true ∧
    (coreV 2#64 8#64).vt.vstart = 0 ∧ (coreV 6#64 8#64).vt.isInt = false ∧ ((List.replicate 8192 (some 1)).length ≤ 8192) ∧
    (∃ x, some x ∈ [none, some 3]) ∧ (∀ x : Nat, some x ∉ [none, none]) :=
  ⟨by decide, by decide, by decide, by decide, Nat.le_of_eq List.length_replicate, ⟨3, by decide⟩, by simp⟩

/-- Registers for routing: segments of 8 elements, K = 2. -/
def coreR : Core := ((coreV 6#64 8#64).sysSet 0x140 0x80002#64).sysSet 0x142 0x4000000040#64

theorem wit_TopK : let t := coreR.vt
    topkType t.et = true ∧ t.groupFor 64 ≤ 8 ∧ 30 % t.groupFor 64 = 0 ∧ groupsMeet 30 (t.groupFor 64) 1 t.g = false ∧
    fld (coreR.sysGet 0x140) 16 9 ≠ 0 ∧ fld (coreR.sysGet 0x140) 0 4 ≠ 0 ∧ t.vstart = 0 ∧
    (t.vl + 8 - 1) / 8 * 2 ≤ t.groupFor 64 * 128 := by
  refine ⟨?_, ?_, ?_, ?_, ?_, ?_, ?_, ?_⟩ <;> decide

/-- Registers for routing of 64-bit records, none of which is valid, with the table at the start of the tagged region. -/
def coreD (tab : W64) : Core := ((coreV 3#64 0#64).sysSet 0x141 tab).sysSet 0x142 0x4000000040#64

theorem wit_RowMoves : let c := coreD 0#64
    c.vt.et = 3 ∧ Usable c .addr c.ix0.t ∧ ((world0 c).eng 0).sbRoom ≠ 0 ∧
    (∃ w, Does (st0 c) 0 (rollbackOnWait (moveRecords c (vr 0#5 2#5 0#5) true 0 (List.range c.vt.vl)))
      { world0 c with freeCtr := 1 } () w) :=
  ⟨by decide, ⟨by decide, by rfl⟩, by decide, _, rfl⟩

theorem wit_Dispatch : let c := coreD 0x1000#64
    groupOk 30 c.vt.g = true ∧ groupsMeet 30 c.vt.g 2 c.vt.g = false ∧ c.vt.vstart = 0 ∧ ((world0 c).eng 0).speculating = false ∧
    (∃ d w, Does (st0 c) 0 (dispatchRecords c (vr 30#5 2#5 0#5)) (world0 c) d w) ∧
    (∃ w, Does (st0 c) 0 drainE ((world0 c).modEng 0 Engine.commitAll) () w) :=
  ⟨by decide, by decide, by decide, by rfl, ⟨_, _, rfl⟩, _, rfl⟩

/-! Tile instructions. -/

/-- One-row operands of 4-bit elements: `T0`, `T1` of 32, `T2` of 64 and `T4` of 128; `A0` is 1 by 1. -/
def coreT : Core := { ((((core0.sysSet 0x180 0x71001#64).sysSet 0x181 0x71001#64).sysSet 0x182 0x72001#64).sysSet 0x184
  0x74001#64).sysSet 0x190 0x101#64 with acc := ⟨16#64, 1#4⟩ }

/-- Tile registers d, a and b with accumulator 0 and base `IX1`. -/
def tp (d a b : BitVec 4) (base : Bool) : TOp := ⟨d, a, b, 0#2, false, false, false, base, 0#4⟩

abbrev sT : State := st0 coreT
abbrev wT : World := world0 coreT

theorem wit_TileLoadsAndMoves : TileIssues sT 0 wT ∧
    Does sT 0 (tFields (tp 0#4 0#4 0#4 true) ⟨true, false, false, false, false, false, true⟩) wT () wT ∧
    (∃ b, Does sT 0 (tBase (tp 0#4 0#4 0#4 true)) wT b wT) ∧ (∃ v, Does sT 0 (indexReg coreT.acc) wT v wT) ∧
    (coreT.ts 0).unshaped = false ∧ (coreT.ts 0).badFmt = false ∧ splitNames (eng0 coreT) [0] [] = false ∧
    (∃ l w, Does sT 0 ((List.range (coreT.ts 0).rows).mapM (fun r =>
      readRow (tileLoad true) (tileInfo 0 0 false false) (64#64 + w64 r * 16#64) ((coreT.ts 0).rowb + (coreT.ts 0).scales))) wT l w) ∧
    Does sT 0 (tFields (tp 0#4 0#4 0#4 true) ⟨false, false, false, true, false, false, true⟩) wT () wT ∧
    Does sT 0 (tFields (tp 15#4 0#4 0#4 false) ⟨true, false, false, false, false, false, false⟩) wT () wT ∧
    Does sT 0 (tFields (tp 15#4 2#4 0#4 false) ⟨true, true, false, false, false, false, false⟩) wT () wT ∧
    Does sT 0 (tFields (tp 0#4 0#4 0#4 false) ⟨false, false, false, true, false, false, false⟩) wT () wT ∧
    Does sT 0 (tFields (tp 0#4 0#4 0#4 false) ⟨true, false, false, true, false, false, false⟩) wT () wT :=
  ⟨⟨⟨by rfl, by rfl⟩, by decide⟩, rfl, ⟨_, rfl⟩, ⟨_, rfl⟩, by decide, by decide, by decide, ⟨_, _, rfl⟩, rfl, rfl, rfl, rfl, rfl⟩

theorem wit_TileConverts : coreT.ash 0 = (1, 1) ∧ (coreT.ts 0).rows = (coreT.ash 0).1 ∧ (coreT.ash 0).2 ≤ (coreT.ts 0).e ∧
    (coreT.ts 0).fmt ≠ 10 ∧ (∃ n w, Does sT 0 reserveRead wT n w) :=
  ⟨by decide, by decide, by decide, by decide, _, _, rfl⟩

theorem wit_TileStores : let w := wT.modEng 0 Engine.commitAll
    (∃ l v, Does sT 0 (do
        let l ← (List.range 1).mapM (fun r => rowPieces (tileInfo 0 0 false false) (64#64 + w64 r * 16#64) (rowImage (coreT.ts 0) (coreT.tile 0) r))
        tileStore l.flatten) w l v ∧ true = true) ∧
    (∃ n u, Does sT 0 reserveRead w n u) ∧
    (∃ l v, Does sT 0 ((List.range 1).mapM (fun m => rowPieces (tileInfo 0 0 false false)
        (64#64 + w64 m * 16#64) ((List.range 1).map (fun j =>
          leBytes 4 (encodeF fmt32 (coreT.readMode 0 (128 * m + j)) (coreT.readOut 0 m j)).1)).flatten)) w l v ∧ true = true) :=
  ⟨ran_does (p := fun _ _ => true) (by decide +kernel), ⟨_, _, rfl⟩, ran_does (p := fun _ _ => true) (by decide +kernel)⟩

theorem wit_TileStoresHere : let w := wT.modEng 0 Engine.commitAll
    (w.eng 0).speculating = false ∧ (∃ v, Does sT 0 drainE w () v ∧ (v.eng 0).sbRoom ≠ 0 ∧ (v.eng 0).sb = []) :=
  ⟨by rfl, _, rfl, by decide, by rfl⟩

/-- A pass of 128 cycles in the tile queue, with which an interrupt may wait. -/
def engQ (c : Core) (w : Wait) (irq : BitVec 11) : Engine := { eng0 c with
  irq := irq, wait := w
  tq := [{ before := c, after := c, pass := true, len := 128, info := 0#64, busy := 128, skip := 3, held := [], younger := 1 }] }

theorem wit_TileQueue : (∃ t r, ((stE (engQ core0 .none 0#11)).w.eng 0).tq = t :: r) ∧ dieRuns anat0 0 = true ∧ world00.eclk = true ∧
    irqChoose anat0 (worldE (engQ core0 .tile 0#11)) 0 = none ∧
    (∃ src, irqChoose anat0 (worldE (engQ coreI .tile 0x400#11)) 0 = some src) ∧
    ((stE (engQ coreI .tile 0x400#11)).w.eng 0).wait = .tile :=
  ⟨⟨_, _, rfl⟩, by rfl, by rfl, by rfl, ⟨_, rfl⟩, by rfl⟩

theorem wit_ArrayPasses :
    Does sT 0 (tFields (tp 0#4 0#4 4#4 false) ⟨false, true, true, true, true, true, false⟩) wT () wT ∧
    (∀ q ∈ ((eng0 coreT).regForm (tp 0#4 0#4 1#4 false) .dense false false).faults, q.2 = false) ∧
    (∀ q ∈ ((eng0 coreT).regForm (tp 0#4 0#4 1#4 false) .dense true true).faults, q.2 = false) ∧
    (∀ q ∈ ((eng0 coreT).regForm (tp 0#4 0#4 2#4 false) .two false true).faults, q.2 = false) ∧
    (∀ q ∈ ((eng0 coreT).regForm (tp 0#4 0#4 4#4 false) .one true true).faults, q.2 = false) :=
  ⟨rfl, by decide +kernel, by decide +kernel, by decide +kernel, by decide +kernel⟩

/-- Words written at a local address under key domain 0. -/
def poke (w : World) (a : Nat) (l : List W64) : World :=
  { w with mem := wrBytes w.ks 0#8 0 w.mem (atOff a (offsets ((l.map (fun v => leBytes 8 v.toNat)).flatten))) }

/-- A K-loop of one chunk, a 1 by 1 convolution and a sparse K-loop of one chunk, with 8-bit integers. -/
def descK : List W64 := [0x881001010011#64, 0x2000#64, 16#64, 16#64, 0x3000#64, 16#64, 16#64, 1#64]
def descC : List W64 := [0x882001010021#64, 0x2000#64, 0x1002000010001#64, 0x1000011110101#64, 0x1000000000000#64, 0x3000#64, 32#64, 0#64]
def descS : List W64 := [0x881001010031#64, 0x2000#64, 16#64, 16#64, 0x3000#64, 16#64, 16#64, 1#64, 0#64, 0#64, 0#64, 0#64, 0#64, 0#64, 0#64, 0#64]

theorem wit_ReadDesc : (∃ b, Does sT 0 (tBase (tp 0#4 0#4 0#4 true)) wT b wT) ∧
    (∃ l w, Does sT 0 (readDesc 64#64 8) (poke wT 64 descK) l w ∧ decide (l = descK) = true) ∧
    (∃ l w, Does sT 0 (readDesc 64#64 8) (poke wT 64 descC) l w ∧ decide (l = descC) = true) ∧
    (∃ l w, Does sT 0 (readDesc 64#64 16) (poke wT 64 descS) l w ∧ decide (l = descS) = true) :=
  ⟨⟨_, rfl⟩, ran_does (by decide +kernel), ran_does (by decide +kernel), ran_does (by decide +kernel)⟩

theorem wit_StreamKloop : let w (i : Nat) : W64 := descK.getD i 0#64
    let h := passHead (w 0)
    ∃ k v, Does sT 0 (streamPass (tp 0#4 0#4 0#4 true) h .dense false (decide (h.kind ≠ 1)) (fld (w 7) 0 16) h.m h.n (kloopChunk coreT w)) wT k v ∧
      decide (k.pass = true) = true := ran_does (by decide +kernel)

theorem wit_StreamConv : let w (i : Nat) : W64 := descC.getD i 0#64
    let h := passHead (w 0)
    let v := convOf w
    ∃ k u, Does sT 0 (streamPass (tp 0#4 0#4 0#4 true) h .dense false (v.bad h) (v.fh * v.fw * v.cch) h.m h.n (convChunk w)) wT k u ∧
      decide (k.pass = true) = true := ran_does (by decide +kernel)

theorem wit_StreamSparse : let w (i : Nat) : W64 := descS.getD i 0#64
    let h := passHead (w 0)
    ∃ k u, Does sT 0 (streamPass (tp 0#4 0#4 0#4 true) h (sparseStruct w) false (decide (h.kind ≠ 3) || decide (fld (w 7) 16 2 = 3))
        (fld (w 7) 0 16) ((List.range h.m).filter (coreT.sparseX w)).length ((List.range h.n).filter (coreT.sparseY w)).length
        (sparseChunk coreT w)) wT k u ∧ decide (k.pass = true) = true := ran_does (by decide +kernel)

theorem wit_IntegerDotProduct : [-128, 127].length = [127, -128].length ∧ [-128, (127 : Int)].length ≤ 2 ^ 1 := by decide

/-! The batch gatherer. -/

/-- A cached translation of context 5: the first GiB onto itself. -/
def leaf5 : TlbEntry :=
  { ctx := 5, va := 0, size := 30, lvl := 2, w0 := 0x1000000000000327#64, w1 := 0#64, ent := 0, tkdom := 0#8 }

/-- A queue entry: integer rows of 64 into one output element, context c. -/
def bgq (c : W64) : List W64 := [0x1000101008811#64, 0x3000#64, 64#64, 0x100000040#64, 0#64, 0#64, c, 0#64]

def bgReq0 : BgReq :=
  { queue := 0, seq := 0, logical := 0, oper := true, tenant := 0, notify := false, x := 0x2000#64, y := 0x4000#64
    done := 0x5000#64, time := 0#64 }

def bgBatch0 : BgBatch := { id := 1, queue := 0, entry := bgq 5#64, rows := [(bgReq0, 0)], launch := 0#64, left := 1, started := true }

/-- Gatherer 0 is on with queues at 0x10000, of context c, and holds g; engine 0 has lent its second half. -/
def worldG (c : W64) (on : W64) (g : Gath) : World := { poke (worldE { eng0 core0 with leased := true }) 0x10000 (bgq c) with
  bar0 := sset (sset [] (bgBase 0) on) (bgBase 0 + 8) 0x10000#64, gaths := [(0, g)], tlbs := [(0, ⟨[leaf5], []⟩)] }

/-- A request word that is well formed, for queue 0. -/
def bgWord : List W64 := [1#64, 0x2000#64, 0x4000#64, 0x5000#64]

theorem wit_Submission : Issues (stW (worldG 0#64 1#64 Gath.reset)) 0 (worldG 0#64 1#64 Gath.reset) ∧
    (∃ r w, Does (stW (worldG 0#64 1#64 Gath.reset)) 0 (readWords (tileLoad false) 64#64 32)
        ((poke (worldG 0#64 1#64 Gath.reset) 64 bgWord).modEng 0 Engine.commitAll) r w ∧
      (!r.2 && bgOn w 0 && bgReqOk (wordAt r.1 0) && (bgQueue anat0 w 0 0).good && decide ((bgQueue anat0 w 0 0).ctx = core0.ctx core0.pl)) = true) ∧
    bgOn (worldG 0#64 0#64 Gath.reset) 0 = false ∧ (64#64).toNat % 32 = 0 ∧ Gath.reset.pend.length < 512 ∧
    512 ≤ ({ Gath.reset with pend := List.replicate 512 bgReq0 } : Gath).pend.length :=
  ⟨⟨by rfl, by rfl⟩, ran_does (by decide +kernel), by rfl, by decide, by decide, Nat.le_of_eq List.length_replicate.symm⟩

/-- A batch of one block that runs on engine 0's half; a completion word to write. -/
def gathB (fails : Nat) : Gath :=
  { Gath.reset with batches := [bgBatch0], blocks := [⟨1, 0, some 0, fails⟩], fin := [⟨bgReq0, 5, 0, 1, 0⟩] }

/-- A unit's program runs to an answer that p accepts. -/
def answered {α : Type} (u : UnitEnv) (x : UM α) (w : World) (p : Except UFault α → Bool) : Bool :=
  match runUnit u x w with
  | (some r, _) => p r
  | (none, _) => false

theorem answered_run {α : Type} {u : UnitEnv} {x : UM α} {w : World} {p : Except UFault α → Bool} (h : answered u x w p = true) :
    ∃ r w1, runUnit u x w = (some r, w1) ∧ p r = true := by
  unfold answered at h
  split at h
  · exact ⟨_, _, by assumption, h⟩
  · cases h

def isStatuses : Except UFault (Except Nat (List Nat)) → Bool
  | .ok (.ok _) => true
  | _ => false

def isBatchStatus : Except UFault (Except Nat (List Nat)) → Bool
  | .ok (.error _) => true
  | _ => false

def isDone : Except UFault Unit → Bool
  | .ok _ => true
  | _ => false

theorem wit_Blocks : let w := worldG 5#64 1#64 (gathB 0)
    unitRuns anat0 w 0 = true ∧ (bgPool w 0).contains 0 = true ∧
    (∃ k, (w.gath 0).blocks.find? (fun b => decide (b.half = some 0)) = some k ∧ k.fails = 0) ∧
    (∃ r v, runUnit (bgEnv anat0 0 5 bgReq0.who 0) (bgBlock (bgQOf (bgq 5#64)) [(bgReq0, 0)] 0 (fun r => bgEnv anat0 0 5 r.who 0)) w =
      (some r, v) ∧ isStatuses r = true) ∧
    (∃ r v, runUnit (bgEnv anat0 0 5 bgReq0.who 0) (bgBlock { bgQOf (bgq 5#64) with wBase := 0x3008#64 } [(bgReq0, 0)] 0
      (fun r => bgEnv anat0 0 5 r.who 0)) w = (some r, v) ∧ isBatchStatus r = true) ∧
    (∃ k, ((worldG 5#64 1#64 (gathB 1)).gath 0).blocks.find? (fun b => decide (b.half = some 0)) = some k ∧ 1 ≤ k.fails) :=
  ⟨by rfl, by rfl, ⟨_, rfl, by rfl⟩, answered_run (by decide +kernel), answered_run (by decide +kernel), _, rfl, by decide⟩

theorem wit_CompletionWord : let w := worldG 5#64 1#64 (gathB 0)
    (∃ f, (w.gath 0).fin[0]? = some f ∧ f.req.done.toNat % 8 = 0 ∧ f.req.notify = false) ∧ unitWrites w (bgRef 0) = false ∧
    (∃ r v, runUnit (bgEnv anat0 0 5 bgReq0.who 0) (uWrite false 0x5000#64 (leBytes 8 5) 0) w = (some r, v) ∧
      isDone r = true) ∧
    (∀ r ∈ ((worldG 0#64 1#64 { Gath.reset with pend := [bgReq0] }).gath 0).pend,
      (bgQueue anat0 (worldG 0#64 1#64 { Gath.reset with pend := [bgReq0] }) 0 r.queue).good = true) ∧
    engShut anat0 0 = false :=
  ⟨⟨_, rfl, by decide, by rfl⟩, by rfl, answered_run (by decide +kernel),
    by decide +kernel, by rfl⟩

/-! Atomic instructions. -/

/-- Base 0 is `IX0`, base 1 `IX1`, base 2 the stack pointer. -/
def ao (base : BitVec 2) (line ret : Bool) : AOp := ⟨base, 0#9, line, ret, 0#6⟩

/-- Operands for the element forms: an aligned `IX0`, `IX1` an aligned header. -/
def coreA (t : Tag) : Core := { core0 with acc := ⟨128#64, t⟩, ix0 := ⟨0x1000#64, 1#4⟩, ix1 := ⟨0x4000#64, 1#4⟩ }

theorem wit_AtomicInstructions : Issues (st0 (coreA 1#4)) 0 (world0 (coreA 1#4)) ∧
    (∃ p w, Does (st0 (coreA 1#4)) 0 (atomPrep 1 (ao 0#2 false false)) (world0 (coreA 1#4)) p w ∧ (w.eng 0).sbRoom ≠ 0) ∧
    (∃ p w, Does (st0 (coreA 1#4)) 0 (atomPrep 2 (ao 0#2 false true)) (world0 (coreA 1#4)) p w ∧ (w.eng 0).atomResp = none ∧
      (localOff w 0x1000#64).isSome = true) ∧
    (∃ p w, Does (st0 (coreA 2#4)) 0 (atomPrep 8 (ao 0#2 false true)) (world0 (coreA 2#4)) p w) ∧
    (∃ p w, Does (st0 (coreA 1#4)) 0 (atomPrep 12 (ao 0#2 false false)) (world0 (coreA 1#4)) p w) ∧
    (∃ p w, Does (st0 (coreA 1#4)) 0 (atomPrep 13 (ao 0#2 true false)) (world0 (coreA 1#4)) p w) ∧
    (∃ p w, Does (st0 (coreA 1#4)) 0 (atomPrep 14 (ao 0#2 true false)) (world0 (coreA 1#4)) p w) :=
  ⟨⟨by rfl, by rfl⟩, ⟨_, _, rfl, by decide⟩, ⟨_, _, rfl, by rfl, by rfl⟩, ⟨_, _, rfl⟩, ⟨_, _, rfl⟩, ⟨_, _, rfl⟩, _, _, rfl⟩

def areq (ret : Bool) : AtomReq :=
  { aop := 1, line := false, ret := ret, operand := leBytes 8 5, cmp := 0#64, hdr := 0#64, isInt := false }

def engA (ret : Bool) (off : Nat) : Engine := { eng0 core0 with sb := [{ word8 off 0#64 0#4 with atom := some (areq ret) }] }

theorem wit_PierAtomic : (∃ t r, ((worldE (engA true 0x1000)).eng 0).sb[0]? = some t ∧ t.atom = some r ∧ r.ret = true) ∧
    localOff (worldE (engA true 0x1000)) 0x1000#64 = some 0x1000 ∧ (engA false 0x1000).mayPerform 0 = true ∧
    dieRuns anat0 (homeDie 0x1000 * 26) = true ∧
    (∃ old, (performAtom anat0 (worldE (engA false 0x1000)) (areq false) 0x1000 0 0 0 0#8).1 = .done old) ∧
    (∃ st, (performAtom anat0 (worldE (engA false 0x200000)) (areq false) 0x200000 0 0 0 0#8).1 = .refused st) ∧
    (∀ i < 16, inTagged places0 (0x1000 / 128 * 128 + 8 * i) = false) ∧ poisonIn w0.mem w0.ks w0.places 0x1000 8 = none ∧
    (areq false).operand.length = elemSize 1 :=
  ⟨⟨_, _, rfl, rfl, rfl⟩, by decide, by rfl, by rfl, ⟨_, rfl⟩, ⟨_, rfl⟩, by decide, by rfl, by decide⟩

theorem wit_AtomicResponse : let x : Engine := { eng0 core0 with wait := .atomic 3 0x1000#64, atomResp := some ⟨0#8, 0#8, 5⟩ }
    (∃ aop va, ((worldE x).eng 0).wait = .atomic aop va ∧ aop < 8) ∧ (∃ r, ((worldE x).eng 0).atomResp = some r ∧ r.code = 0#8) ∧
    ((worldE x).eng 0).mcPend = [] := ⟨⟨_, _, rfl, by decide⟩, ⟨_, rfl, rfl⟩, rfl⟩

/-! Keys. -/

/-- Domain 1 is ACTIVE, granted to the operator over the first 2 MiB, with an import key and one slot for each use; context 5
uses it for its tables. -/
def worldK (x : Engine) : World := poke (poke { worldE x with
    ks := { Keystone.reset with ready := true, dom := [(1, { KDom.reset 1 with state := 1, imp := some 7, slots :=
      [(1, { KSlot.empty with present := true, use := 1#2, key := 7 }), (2, { KSlot.empty with present := true, use := 2#2, key := 7 })] })] } }
    (0x800000 + 64) [0x101#64, 0x1000000000000#64, 0#64, 0#64, 0#64]) (0x600000 + 160) [0x18011#64, 0#64, 0#64, 0#64]

/-- The handle of slot 1 of domain 1. -/
def handle1 : W64 := 0x1011400000000000#64

def coreK (i : W64) : Core := { core0 with acc := ⟨1#64, 1#4⟩, ix0 := ⟨i, 1#4⟩, ix1 := ⟨0x200040#64, 1#4⟩ }

def worldH (h : W64) : World := worldK { eng0 (coreK 0x200000#64) with sb := [word8 0x200000 h 5#4] }

/-- A blob with COUNTER 1 for slot 1 of domain 1, sealed under the import key 7. -/
def blob : List W64 := [0x100010111#64, 0#64, 0x46965a9a8742d0eb#64, 0x9780aad9dbd6b1d7#64, 0x0d0f34c9212ffd41#64, 0xff99f3d4b213e0aa#64,
  0xce31cb9b14f2870c#64, 0xdfbb0f8bc39cbcc3#64]

theorem ok_of {ε α : Type} {x : Except ε α} (h : (match x with | .ok _ => true | .error _ => false) = true) : ∃ y, x = .ok y := by
  split at h
  · exact ⟨_, rfl⟩
  · cases h

def isError {α : Type} : Except Nat α → Bool
  | .error _ => true
  | .ok _ => false

theorem wit_Erases : Issues (stW (worldK (eng0 (coreK 0x1000#64)))) 0 (worldK (eng0 (coreK 0x1000#64))) ∧
    (worldK (eng0 (coreK 0x1000#64))).ks.ready = true ∧ (worldK (eng0 (coreK 0x1000#64))).ks.erasing = none ∧
    (1#64).extractLsb' 0 8 ≠ 0#8 ∧ (0x100#64).extractLsb' 0 8 = 0#8 ∧ Usable (coreK 0#64) .sub (coreK 0#64).acc.t ∧
    (∃ x, (eraseStart (worldK (eng0 (coreK 0x1000#64))) 0 1#8 true).ks.erasing = some x ∧ x.e = 0) :=
  ⟨⟨by rfl, by rfl⟩, by rfl, by rfl, by decide, by decide, ⟨by decide, by rfl⟩, _, rfl, by rfl⟩

theorem wit_Imports : (∃ b w, Does (stW (worldK (eng0 (coreK 0x1000#64)))) 0 (readBlob 0x1000#64)
      (poke (worldK (eng0 (coreK 0x1000#64))) 0x1000 blob) b w ∧ (!isError (blobCheck w b) && w.ks.ready && decide (w.ks.erasing = none)) = true) ∧
    (∃ b w, Does (stW (worldK (eng0 (coreK 0x1000#64)))) 0 (readBlob 0x1000#64)
      (worldK (eng0 (coreK 0x1000#64))) b w ∧ (isError (blobCheck w b) && w.ks.ready && decide (w.ks.erasing = none)) = true) ∧
    (∃ w, Does (stW (worldK (eng0 (coreK 0x1000#64)))) 0 (storeMemE 0x200040#64 8 (handleOf 1#8 1 1#2 0#32) 5#4 false)
      (worldK (eng0 (coreK 0x1000#64))) () w) :=
  ⟨ran_does (by decide +kernel), ran_does (by decide +kernel), _, rfl⟩

theorem wit_Handles : (∃ h w, Does (stW (worldH handle1)) 0 handleWord (worldH handle1) h w ∧
      (decide (handleStatus w h = none) && handleCurrent w h) = true) ∧
    (∃ h w, Does (stW (worldH (handle1 + 1#64))) 0 handleWord (worldH (handle1 + 1#64)) h w ∧
      (decide (handleStatus w h = none) && !handleCurrent w h) = true) ∧
    (∃ h w, Does (stW (worldH 0#64)) 0 handleWord (worldH 0#64) h w ∧ (handleStatus w h).isSome = true) :=
  ⟨ran_does (by decide +kernel), ran_does (by decide +kernel), ran_does (by decide +kernel)⟩

/-! Tasks and messages. -/

/-- The task queue of logical engine 0: context 5, descriptors at 0x10000. -/
def queue0 (tail : BitVec 16) (t : Option TaskRec) (m : List Msg) : LogEng :=
  { LogEng.reset with cfg := 0x5000000800004#64, base := 0x10000#64, tail := tail, task := t, msgs := m }

def task0 : TaskRec := ⟨0x10000#64, 0x20000#64, 0#64, 5⟩

/-- Engine 0 with cached translations of context 5. -/
def engK : Engine := { eng0 (coreK 0x1000#64) with tlbD := [leaf5], tlbI := [leaf5] }

def worldQ (q : LogEng) (d : W64) : World := { poke (worldK engK) 0x10000 [d] with logs := [(0, q)] }

theorem wit_TaskStarts : anat0.logicalOf 0 = some 0 ∧ Issues (stW (worldQ (queue0 1#16 none []) 1#64)) 0 (worldQ (queue0 1#16 none []) 1#64) ∧
    (queue0 0#16 none []).head = (queue0 0#16 none []).tail ∧ (queue0 1#16 none []).head ≠ (queue0 1#16 none []).tail ∧
    (∃ x, ctxMatch anat0 (worldQ (queue0 1#16 none []) 1#64) 5 (tenantOf (tenantReg (worldQ (queue0 1#16 none []) 1#64) 0)) = .ok x) ∧
    (∃ r w, Does (stW (worldQ (queue0 1#16 none []) 1#64)) 0 (viaCtx 5 0x100#64 (readWords ⟨0, false, false, false⟩ 0x10000#64 64))
      (worldQ (queue0 1#16 none []) 1#64) r w ∧ decide (fld (wordAt r.1 0) 0 4 = 1) = true) ∧
    (∃ r w, Does (stW (worldQ (queue0 1#16 none []) 2#64)) 0 (viaCtx 5 0x100#64 (readWords ⟨0, false, false, false⟩ 0x10000#64 64))
      (worldQ (queue0 1#16 none []) 2#64) r w ∧ decide (fld (wordAt r.1 0) 0 4 ≠ 1) = true) :=
  ⟨by decide, ⟨by rfl, by rfl⟩, by decide, by decide, ok_of (by decide +kernel), ran_does (by decide +kernel), ran_does (by decide +kernel)⟩

theorem wit_TaskEnds : (queue0 1#16 none []).task = none ∧ (∃ t, (queue0 1#16 (some task0) []).task = some t) ∧
    (∃ r w, Does (stW (worldQ (queue0 1#16 (some task0) []) 1#64)) 0 (viaCtx 5 0x100#64 (doneWrite 0x20000#64 5#64))
      (worldQ (queue0 1#16 (some task0) []) 1#64) r w ∧ decide (r = some true) = true) ∧
    (∃ r w, Does (stW (worldQ (queue0 1#16 (some task0) []) 1#64)) 0 (viaCtx 5 0x100#64 (doneWrite 0x20004#64 5#64))
      (worldQ (queue0 1#16 (some task0) []) 1#64) r w ∧ decide (r = some false) = true) :=
  ⟨rfl, ⟨_, rfl⟩, ran_does (by decide +kernel), ran_does (by decide +kernel)⟩

theorem wit_Doorbells : Usable core0 .sub core0.acc.t ∧ Usable core0 .sub core0.ix0.t ∧ bit (0x1000#64) 12 = true ∧ fld (5#64) 16 3 = 0 ∧
    bit (0#64) 12 = false ∧ (∃ r, chanBell anat0 w0 (w0.eng 0).who false 0 0 0#16 = some r) ∧
    fnLive { w0 with pcieUp := true } 0 = true ∧ fnLive { w0 with pcieUp := true, host := { HostSt.reset with vfEn := true } } 64 = true ∧
    tdiShut w0 64 = false ∧ reaches (pageTenant 1) ⟨true, 0⟩ = false ∧ reaches (pageTenant 0) ⟨true, 0⟩ = true ∧
    anat0.physOf 0 = some 0 ∧ (16#16 - 0#16).toNat ≤ ringLimit 4 ∧ fld (0x800010#64) 0 5 = 16 :=
  ⟨⟨by decide, by rfl⟩, ⟨by decide, by rfl⟩, by decide, by decide, by decide, ⟨_, rfl⟩, by rfl, by rfl, by rfl, by decide, by decide,
    by decide, by decide, by decide⟩

def msg0 : Msg := ⟨0#12, 1#8, 0#7, List.replicate 64 0#8⟩

/-- A cached translation for fetches. -/
def leafX : TlbEntry := { leaf5 with w0 := 0x100000000000032F#64 }

/-- Engine 0 at level 1 in context 5, whose pages lie in key domain 1. -/
def engM : Engine := { eng0 (({ coreK 0x1000#64 with acc := ⟨0#64, 1#4⟩, st := 0x100#64 } : Core).sysSet 0x300 5#64) with
  tlbD := [{ leaf5 with w0 := 0x1000100000000327#64 }], tlbI := [leafX], tlb2 := [leafX] }

def worldM (m : List Msg) : World := { worldK engM with logs := [(0, queue0 0#16 none m)] }

theorem wit_Messages : Issues (stW (worldM [])) 0 (worldM []) ∧ Usable (worldM [] |>.core 0) .addr ((worldM []).core 0).ix0.t ∧
    (∃ t w, Does (stW (worldM [])) 0 (translate 0x1000#64 .load) (worldM []) t w ∧ (kdGranted w t.kdom (w.eng 0).who) = true) ∧
    (∃ b w, Does (stW (worldM [])) 0 (readWords ⟨0, false, false, false⟩ 0x1000#64 64) (worldM []) b w ∧ decide (((w.log 0).msgs).length < 16) = true) ∧
    16 ≤ (((worldM (List.replicate 16 msg0)).log 0).msgs).length ∧ kdGranted (worldM []) 0#8 ⟨true, 0⟩ = false ∧ anat0.physOf 95 = none ∧
    (∃ m r, ((worldM [msg0]).log 0).msgs = m :: r) ∧
    (∃ p w v, Does (stW (worldM [msg0])) 0 (placePiece false 0x1000#64 msg0.body) (worldM [msg0]) p w ∧ Does (stW (worldM [msg0])) 0 (retirePieces 0 [p]) w () v) :=
  ⟨⟨by decide +kernel, by rfl⟩, ⟨by decide, by rfl⟩, ran_does (by decide +kernel), ran_does (by decide +kernel), by decide, by decide +kernel,
    by decide, ⟨_, _, rfl⟩, _, _, _, rfl, rfl⟩

/-! Channels. -/

/-- Words of an entry of channel 0: type t, context 5, the operator's, rings of 16 at 0x10000, domain 1, slot k, a
destination ring at 0x14000 with buffers of 4096 bytes. -/
def ctEntry (t k : Nat) : List W64 :=
  [packW [(48, 5), (40, 1), (36, k), (23, 1), (4, t), (0, 1)], 0x10000#64, 0x12000#64, 0x400#64, 0#64, 0x14000#64, 0x100000000004#64, 0#64]

def chan0 (t k st : Nat) : Chan := { Chan.off with words := ctEntry t k, st := st, tail := 1#16 }

/-- The module with the link up, a channel table and the channel c loaded as channel 0. -/
def worldN (c : Chan) : World := { poke (worldK (eng0 core0)) 0xA00000 c.words with
  pcieUp := true, chans := [(0, c)], ccache := [(0, [0])], tlbs := [(0, ⟨[leaf5], []⟩)] }

theorem wit_ChannelDoorbells : let w := worldN (chan0 1 0 2)
    fnLive w 0 = true ∧ tdiShut w 0 = false ∧ entryOk anat0 (bellEntry w 1 0).words = true ∧
    tableBad anat0 w (w.places.ctBase + 128 * 0) 128 = false ∧ (w.chan 0).st = 2 ∧ dieRuns anat0 (26 * anat0.super) = true ∧
    dieRuns anat0 (26 * (bellEntry w 1 0).die) = true ∧ (∃ v, ccTouch w (bellEntry w 0 0).die 0 = some v) ∧
    (∃ v, ccPut { w with ccache := [(0, [])] } 0 0 = some v) ∧ reaches (pageTenant 0) (bellEntry w 0 0).who = true ∧
    reaches (pageTenant 1) (bellEntry w 0 0).who = false ∧ (bellEntry w 0 0).type ≠ 4 ∧
    ((16#16 : BitVec 16) - (w.chan 0).head).toNat ≤ ringLimit (bellEntry w 0 0).ringLog ∧
    ((w.chan 0).tail - (w.chan 0).head).toNat ≤ (16#16 - (w.chan 0).head).toNat ∧ (w.chan 0).res = none ∧
    entryOk anat0 (ctEntry 5 0) = false ∧ (bellEntry (worldN (chan0 4 0 2)) 0 0).type = 4 ∧
    (∃ st v, chanBell anat0 w (pageTenant 0) false 0 0 16#16 = some (st, v)) :=
  ⟨by rfl, by rfl, by decide +kernel, by decide +kernel, by rfl, by rfl, by decide +kernel, ⟨_, rfl⟩, ⟨_, rfl⟩, by decide +kernel,
    by decide +kernel, by decide +kernel, by decide +kernel, by decide +kernel, by rfl, by decide, by decide +kernel, _, _, rfl⟩

theorem wit_LockedTenant : tdiLocked { w0 with host := { HostSt.reset with fns := [(1, { HostFn.reset with tdi := 1 })] } } ⟨false, 0⟩ = true := by
  decide

def isOk {ε α : Type} : Except ε α → Bool
  | .ok _ => true
  | .error _ => false

theorem wit_Copies : (∃ c, chanReady anat0 (worldN (chan0 1 0 2)) 0 1 = some c) ∧
    (∃ r w, runUnit (chanEnv anat0 0 (chan0 1 0 2)) (copyBody (chan0 1 0 2))
      (poke (worldN (chan0 1 0 2)) 0x10000 [1#64, 0x18000#64, 0x1C000#64, 0x100000010#64]) = (some r, w) ∧ isOk r = true) ∧
    (∃ r w, runUnit (chanEnv anat0 0 { chan0 1 0 2 with words := [] }) (copyBody { chan0 1 0 2 with words := [] }) (worldN (chan0 1 0 2)) =
      (some r, w) ∧ (!isOk r) = true) :=
  ⟨⟨_, rfl⟩, answered_run (by decide +kernel), answered_run (by decide +kernel)⟩

theorem wit_Egress : (∃ c, chanReady anat0 (worldN (chan0 3 2 2)) 0 3 = some c) ∧
    (∃ r w, runUnit (chanEnv anat0 0 (chan0 3 2 2)) (egressBody (chan0 3 2 2))
      (poke (worldN (chan0 3 2 2)) 0x10000 [1#64, 0x18000#64, 16#64, 0x1C000#64]) = (some r, w) ∧ isOk r = true) :=
  ⟨⟨_, rfl⟩, answered_run (by decide +kernel)⟩

/-- A chunk of 16 bytes, sealed under key 7 for slot 1 of domain 1. -/
def chunk : List W64 := [0x1000010101#64, 0x900000010#64, 0#64, 0#64, 0x90320ad6bc2d62b5#64, 0xff03a86d7b6b2722#64, 0xa717747a8742667e#64,
  0x548e19c0c17e20eb#64]

def isStaged : Except UFault (Except ChanRes Staged) → Bool
  | .ok (.ok _) => true
  | _ => false

def isRefused : Except UFault (Except ChanRes Staged) → Bool
  | .ok (.error _) => true
  | _ => false

def staged0 : Staged := ⟨0, 16, false, 0#64, List.replicate 16 3#8⟩

theorem wit_Ingest : (∃ c, chanReady anat0 (worldN (chan0 2 1 2)) 0 2 = some c) ∧
    (∃ r w, runUnit (chanEnv anat0 0 (chan0 2 1 2)) (ingestBody (chan0 2 1 2))
      (poke (poke (worldN (chan0 2 1 2)) 0x10000 [1#64, 0x18000#64, 64#64]) 0x18000 chunk) = (some r, w) ∧ isStaged r = true) ∧
    (∃ r w, runUnit (chanEnv anat0 0 (chan0 2 1 2)) (ingestBody (chan0 2 1 2)) (worldN (chan0 2 1 2)) = (some r, w) ∧ isRefused r = true) ∧
    (chan0 2 1 2).res = none ∧ unitRuns anat0 (worldN (chan0 2 1 2)) (chan0 2 1 2).die = true ∧
    ((chan0 2 1 2).dprod - (chan0 2 1 2).dcons).toNat < ringLimit (chan0 2 1 2).dringLog ∧ staged0.fp = false ∧
    (∃ r w, runUnit (chanEnv anat0 0 (chan0 2 1 2)) (destBody (chan0 2 1 2) staged0) (worldN (chan0 2 1 2)) = (some r, w) ∧ isOk r = true) :=
  ⟨⟨_, rfl⟩, answered_run (by decide +kernel), answered_run (by decide +kernel), rfl, by decide +kernel, by decide +kernel, rfl,
    answered_run (by decide +kernel)⟩

theorem wit_SealsOpen : (List.replicate 12 (0 : Byte)).length = 12 := by decide

/-- A descriptor whose record has been written. -/
def doneRes : ChanRes := { status := 0, detail := 0, off := 0, bytes := 16, w1 := 0#64, entry := none, phase := 2 }

theorem wit_Completions : let w := worldN { chan0 1 0 2 with res := some doneRes }
    (w.chan 0).res = some doneRes ∧ unitRuns anat0 w (w.chan 0).die = true ∧ unitWrites w 0 = false ∧ doneRes.phase = 2 ∧
    (w.ubuf 0).werr = none ∧ bit ((w.chan 0).word 0) 8 = false ∧ bit ((w.chan 0).word 0) 9 = false ∧ doneRes.entry = none :=
  ⟨by rfl, by decide +kernel, by rfl, rfl, by rfl, by decide +kernel, by decide +kernel, rfl⟩

/-! Memory controllers. -/

def hreq (line seq : Nat) (w started : Bool) : HReq := ⟨3, line, w, 0#64, seq, started, false⟩

/-- Front end 0 holds f. -/
def worldFe (f : FrontEnd) : World := { w0 with fes := [(0, f)] }

theorem wit_HbmRequests : populated anat0.part 0 = true ∧ stackUp anat0 w0 0 = true ∧ (3#8).toNat < 184 ∧ homeStack 0 = 0 ∧
    hbmPc (stackOffset 0 / 128) = 0 ∧ FrontEnd.reset.wait.any (fun y => decide (y.line = 0)) = false ∧
    [hreq 0 0 true false].any (fun y => decide (y.line = 0) && y.write && (!false || !y.started)) = true ∧
    feQuota FrontEnd.reset 3 0 = true ∧ (pertEvent w0 0 2 2 [0]).1 = false ∧
    64 ≤ ((List.range 64).map (fun i => { hreq (2 ^ 20 * i) i false false with req := i })).length ∧
    feQuota { FrontEnd.reset with slots := (List.range 8).map (fun i => hreq 0 i false true) } 3 0 = false :=
  ⟨by decide, by rfl, by decide, by decide, by decide, by decide, by decide, by decide, by decide +kernel, by decide +kernel, by decide⟩

theorem wit_HbmAccesses : let w := worldFe { FrontEnd.reset with slots := [hreq 0 0 false false] }
    let v := worldFe { FrontEnd.reset with slots := [hreq 0 0 false true] }
    feOpen anat0 w 0 = true ∧ (feNext (w.setFe 0 (feFill (w.fe 0))) 0).isSome = true ∧ (pertEvent w 0 1 2 [0]).1 = false ∧ (pertEvent w 0 4 2 [0]).1 = false ∧
    (∃ x, feOldest (v.fe 0).slots (fun x => x.started && decide (hbmBank x.line = 0)) = some x) ∧
    (∃ x, feOldest ((w.fe 0).slots ++ (w.fe 0).wait) (fun x => !x.promoted && !x.started) = some x) ∧
    (w.fe 0).slots.any (fun x => x.started && decide (hbmBank x.line = 0)) = false ∧ w.timeRun = true ∧
    (∀ i < 32, (w.fe (64 * 0 + 2 * i)).cal = false) ∧ ((worldFe { FrontEnd.reset with cal := true }).fe 0).cal = true :=
  ⟨by rfl, by decide +kernel, by decide +kernel, by decide +kernel, ⟨_, rfl⟩, ⟨_, rfl⟩, by decide, by rfl, by decide +kernel, by rfl⟩

theorem wit_Spares : stackUp anat0 w0 0 = true ∧ Reserve.reset.copying.contains (0, 0, 5) = false ∧ Reserve.reset.used < 4096 ∧
    [(0, 0, 5)].contains (0, 0, 5) = true ∧ Reserve.reset.pcCopy = none ∧ Reserve.reset.pcGone = none ∧
    (∃ q, ({ Reserve.reset with pcGone := some 3 } : Reserve).pcGone = some q ∧ q ≠ 4) ∧
    (∃ q, ({ Reserve.reset with pcCopy := some 3 } : Reserve).pcCopy = some q) :=
  ⟨by rfl, by decide, by decide, by decide, rfl, rfl, ⟨_, rfl, by decide⟩, _, rfl⟩

/-! Links. -/

/-- A port in a state. -/
def pt (st : Nat) : Port := { Port.reset with state := st }

/-- Port 0 is x; the module is node 1. -/
def worldPt (x : Port) : World := { w0 with ports := [(0, x)], nodeId := some 1 }

/-- A port whose lanes 0 to 7 carry themselves, lane 8 spare. -/
def laned (st : Nat) : Port :=
  { pt st with rx := (List.range 9).map (fun i => if i = 8 then ⟨15, 1⟩ else ⟨i, 0⟩)
               tx := (List.range 9).map (fun i => if i = 8 then ⟨15, 1⟩ else ⟨i, 0⟩) }

theorem wit_PortStates : portRuns anat0 0 = true ∧ ((worldPt (pt 0)).port 0).state = 0 ∧ ((worldPt (pt 3)).port 0).state = 3 ∧
    ((worldPt (pt 1)).port 0).state = 1 ∧ 4 ≤ ((lanesLocked 0x00F#9).filter id).length ∧ 4 ≤ ((lanesLocked 0x1FF#9).filter id).length ∧
    ((worldPt (pt 2)).port 0).state = 2 ∧ ((worldPt (pt 4)).port 0).state = 4 ∧
    (9#64 ≠ (pt 3).hs.own ∧ 9#64 ≠ (pt 3).hs.peer) ∧ (0#64 = (pt 3).hs.own ∨ 0#64 = (pt 3).hs.peer) ∧
    bit (lnkCtl ((worldPt (pt 5)).setReg (portBase 0) 1#64) 0) 0 = true ∧ (worldPt (pt 5)).nodeId.isSome = true ∧
    (worldPt (pt 5)).pwr.refStop = false ∧ ((worldPt (pt 5)).port 0).state = 5 ∧ ((worldPt (pt 6)).port 0).state = 6 :=
  ⟨by rfl, by rfl, by rfl, by rfl, by decide, by decide, by rfl, by rfl, by decide, by decide, by decide, by rfl, by rfl, by rfl, by rfl⟩

theorem wit_LanesAndRotation : let x := (worldPt (laned 3)).port 0
    let y := (worldPt { laned 3 with rotTx := ⟨1, 2, 64, false⟩, rotRx := ⟨2, 2, 64, false⟩ }).port 0
    let z := (worldPt { laned 3 with rotTx := ⟨2, 2, 64, false⟩, rotRx := ⟨3, 2, 64, false⟩ }).port 0
    portRuns anat0 0 = true ∧ x.state = 3 ∧ x.halfRx = false ∧ x.halfTx = false ∧ x.rotTx.stopped = false ∧ x.rotTx.phase = 0 ∧
    bit (lnkCtl (worldPt (laned 3)) 0) 1 = true ∧ x.rotRx.stopped = false ∧ x.rotRx.phase = 0 ∧ y.state = 3 ∧ y.rotTx.phase = 1 ∧
    y.rotRx.phase = 2 ∧ z.state = 3 ∧ z.rotTx.phase = 2 ∧ z.rotRx.phase = 3 ∧
    (x.rx.length = 9 ∧ (∀ l ∈ x.rx, l.works = true) ∧ x.halfRx = false ∧ (x.rx.getD 8 Lane.dark).st = 1 ∧
      (x.rx.getD (7 : Fin 8).val Lane.dark).carries ≠ 15) := by decide

/-- A flit: DATA or CTL, of an index, with a valid CRC or not. -/
def flit (data : Bool) (i : Nat) (crc : Bool) : NetFlit :=
  ⟨crc, true, BitVec.ofNat 32 (1 + 16 * data.toNat + 256 * i), 0#56, List.replicate 224 0#8⟩

theorem wit_FlitsAndReplay : let w := worldPt (pt 3)
    let x := (worldPt { pt 3 with txIdx := 3, ackIdx := 1 }).port 0
    portRuns anat0 0 = true ∧ (w.port 0).state = 3 ∧
    (pertEvent (portCount w 0 1 1) 0 4 3 [15]).1 = false ∧ ((pertEvent (portCount w 0 1 1) 0 4 3 [15]).2.port 0).state = 3 ∧
    (flit true 0 true).crcOk = true ∧ fld (flit true 0 true).hdr 0 4 = 1 ∧ fld (flit true 0 true).hdr 4 3 = 1 ∧ (flit true 0 true).tagOk = true ∧
    fld (flit true 0 true).hdr 8 12 = 0 ∧ fld (flit true 5 true).hdr 8 12 ≠ 0 % 4096 ∧ (flit true 0 false).crcOk = false ∧
    fld (flit false 0 true).hdr 4 3 = 0 ∧ ((portCount w 0 1 1).port 0).state = 3 ∧
    x.ackIdx ≤ (2#64).toNat ∧ (2#64).toNat < x.txIdx ∧
    (∀ i < 6, 3 ≤ fld (0xC0300C0300C03#64) (10 * i) 10) ∧
    ((List.range 6).map (fun i => fld (0xC0300C0300C03#64) (10 * i) 10)).foldl (· + ·) 0 ≤ 1024 ∧
    (w.port 0).rotTx.phase = 0 ∧ (w.port 0).rotRx.phase = 0 := by decide +kernel

/-- The body of HELLO from node n. -/
def hello (n : Nat) : List Byte := [1#8, 1#8] ++ leBytes 2 n ++ [3#8, 0#8] ++ List.replicate 42 0#8

theorem wit_Handshake : let h := Hs.none
    (worldPt (pt 2)).port 0 = pt 2 ∧ h.hello = false ∧ (hello 7).length = 48 ∧ leNat (((hello 7).drop 4).take 1) < 32 ∧
    leNat (((hello 7).drop 0).take 1) ≤ 1 ∧ 1 ≤ leNat (((hello 7).drop 1).take 1) ∧ leNat (((hello 7).drop 5).take 1) / 2 % 2 ≠ 1 ∧
    leNat (((hello 7).drop 2).take 2) % 4096 ≠ (worldPt (pt 2)).nodeId.getD 0 ∧
    leNat (((hello 1).drop 2).take 2) % 4096 = (worldPt (pt 2)).nodeId.getD 0 ∧ ([] : List Byte).length ≠ 48 ∧
    certOk (worldPt (pt 2)) 0 ⟨none, []⟩ = false ∧ certOk (worldPt (pt 2)) 0 ⟨some 0#4, []⟩ = true ∧
    initiator (worldPt (pt 2)) 0 = false ∧ initiator (worldPt { pt 2 with nid := 7 }) 0 = true := by decide +kernel

/-- A request of node 2 through port 0. -/
def txn (opc : Nat) (len : BitVec 4) (aux : BitVec 7) (body : Nat) : NetTxn :=
  { opc := BitVec.ofNat 8 opc, kdom := 1#8, dst := 1#12, src := 2#12, tid := 9#16, len := len, nidx := 0#4, sealed := false
    rsv := 0#6, hops := 0#2, aux := aux, addr := 0x1000#48, slots := List.replicate body 0#8, ctr := 0#64
    tagOk := true, isInt := true, srcEng := 0#7 }

/-- Domain 1, granted to node 2, with node 2 behind port 0. -/
def worldR : World := { poke (worldK (eng0 core0)) (0xC00000 + 1024) [4#64] with ports := [(0, pt 3)], nodeId := some 1 }

theorem wit_Arrived : let s := stW worldR
    (∃ w1, Arrived s 0 (txn 1 6#4 0#7 0) w1) ∧ (∃ w1, Arrived s 0 (txn 2 6#4 0#7 64) w1) ∧ (∃ w1, Arrived s 0 (txn 3 6#4 0#7 80) w1) ∧
    (∃ w1, Arrived s 0 (txn 4 3#4 1#7 16) w1) ∧ (∃ w1, Arrived s 0 (txn 5 7#4 0#7 144) w1) ∧ (∃ w1, Arrived s 0 (txn 6 6#4 0#7 64) w1) ∧
    (∃ w1, Arrived s 0 (txn 7 6#4 0#7 64) w1) ∧ (∃ w1, Arrived s 0 (txn 0x10 6#4 0#7 64) w1) ∧ (∃ w1, Arrived s 0 (txn 0x11 0#4 0#7 0) w1) := by
  refine ⟨?_, ?_, ?_, ?_, ?_, ?_, ?_, ?_, ?_⟩ <;>
    exact ⟨_, by rfl, by rfl, by rfl, by decide +kernel, by rfl, by decide +kernel, .inl ⟨by rfl, rfl⟩⟩

theorem wit_ArrivedSealed : ∃ w1, Arrived (stW { worldR with pairKeys := [2] }) 0 { txn 1 6#4 0#7 0 with sealed := true } w1 :=
  ⟨_, by rfl, by rfl, by rfl, by decide, by rfl, by decide +kernel, .inr ⟨by rfl, by decide +kernel, rfl⟩⟩

theorem wit_RemoteRequests : region 0x1000 = .hbm ∧ populated anat0.part 0x1000 = true ∧
    grantOk worldR (txn 2 6#4 0#7 64) true [(0x1000, 64)] = false ∧
    grantOk (poke worldR (0xC00000 + 1024 + 512) [4#64]) (txn 2 6#4 0#7 64) true [(0x1000, 64)] = true ∧
    hbmStatus anat0 worldR 0x1000 = none ∧ coversSealed worldR (atOff 0x1000 (wrBody (txn 2 6#4 0#7 64))) = false ∧
    region 0x800000000000 = .host ∧ region 0xF00000000000 = .regs := by decide +kernel

/-- An outstanding read of node 2. -/
def out1 (sent sealed : Bool) : OutTxn :=
  ⟨⟨1, 1#8, 2, 1, 9, 64, 0x1000, 0#64, [], false, 0, 0#64, false, 0#8, 0, sealed⟩, 0, .mgmt, sent⟩

theorem wit_Responses : txnOfTid worldR 9 = none ∧ (∃ x, txnOfTid { worldR with txns := [(0, out1 true false)] } 9 = some x) ∧
    worldR.ks.ready = true ∧ worldR.pairKeys.contains 2 = false ∧
    (∃ k r, keyWaiters { worldR with txns := [(0, out1 false true)] } 2 = k :: r) :=
  ⟨by rfl, ⟨_, rfl⟩, by rfl, by rfl, _, _, rfl⟩

/-- The route of node 2: port 0. -/
def worldRt (st : Nat) : World := { worldR with ports := [(0, pt st), (1, pt 3)] }.setReg (routeOff 0 2) 0x8000000000000080#64

theorem wit_Forwarding : let w := worldRt 3
    portRuns anat0 0 = true ∧ (w.port 0).state = 3 ∧ w.pwr.gated = false ∧ netOk { txn 1 6#4 0#7 0 with rsv := 1#6 } = false ∧
    netOk { txn 1 6#4 0#7 0 with dst := 2#12 } = true ∧ netOk { txn 1 6#4 0#7 0 with hops := 2#2 } = true ∧
    (slotsFreed w 0 0 1).nodeId = w.nodeId ∧ 2 ≠ w.nodeId.getD 0 := by decide +kernel

/-- A port has been chosen, or an error. -/
def chosen (x : Except Byte Nat × World) (good : Bool) : Bool :=
  match x.1 with
  | .ok _ => good
  | .error _ => !good

theorem chosen_ok {x : Except Byte Nat × World} (h : chosen x true = true) : ∃ k w1, x = (.ok k, w1) := by
  obtain ⟨r, w⟩ := x
  cases r with
  | ok k => exact ⟨k, w, rfl⟩
  | error k => cases h

theorem chosen_error {x : Except Byte Nat × World} (h : chosen x false = true) : ∃ k w1, x = (.error k, w1) := by
  obtain ⟨r, w⟩ := x
  cases r with
  | ok k => cases h
  | error k => exact ⟨k, w, rfl⟩

theorem wit_Routes : (∃ k w1, choosePort (slotsFreed (worldRt 3) 0 0 1) 0 (netTxn { txn 1 6#4 0#7 0 with dst := 2#12 }) = (.ok k, w1)) ∧
    (∃ k w1, choosePort (slotsFreed (worldRt 4) 0 0 1) 0 (netTxn { txn 1 6#4 0#7 0 with dst := 2#12 }) = (.error k, w1)) :=
  ⟨chosen_ok (by decide +kernel), chosen_error (by decide +kernel)⟩

/-! Tail. -/

/-- Slot 0 is t, and its registers give it logical engines 0 to 23. -/
def worldT (t : TailSlot) : World :=
  { ({ w0 with av := { AvSt.reset with tails := [(0, t)] } }.setReg (tailBase 0) 0x6400010003#64).setReg (tailBase 0 + 8) 1#64 with
    nodeId := some 1 }

def tl (st : Nat) : TailSlot := { TailSlot.reset with state := st }

/-- The flag, step 4 in the accumulator. -/
def coreM : Core := { core0 with acc := ⟨4#64, 1#4⟩ }

def worldMk (t : TailSlot) : World := { worldT t with engines := [(0, eng0 coreM)] }

theorem wit_StepMarks : (⟨0#11, 12#12⟩ : YOp).opf = 0#11 ∧ Issues (stW (worldMk (tl 0))) 0 (worldMk (tl 0)) ∧
    Usable ((worldMk (tl 0)).core 0) .sub ((worldMk (tl 0)).core 0).acc.t ∧ Usable ((worldMk (tl 0)).core 0) .sub ((worldMk (tl 0)).core 0).ix0.t ∧
    anat0.logicalOf 0 = some 0 ∧ anat0.logicalOf 1 = none ∧ tailSlotFor w0 0 = none ∧ tailSlotFor (worldMk (tl 0)) 0 = some 0 ∧
    bit (tailCtl (worldMk (tl 0)) 0) 0 = true ∧ bit (tailCtl ((worldMk (tl 0)).setReg (tailBase 0) 0#64) 0) 0 = false ∧
    sget ((worldMk { tl 0 with marks := [(0, 4#64)] }).tail 0).marks 0 = some 4#64 ∧ sget ((worldMk (tl 0)).tail 0).marks 0 ≠ some 4#64 ∧
    (tailStep (worldMk { tl 0 with due := [(4#64, false)] }) 0 4#64).2 = false ∧ (tailStep (worldMk (tl 0)) 0 4#64).2 = true :=
  ⟨rfl, ⟨by rfl, by rfl⟩, ⟨by decide, by rfl⟩, ⟨by decide, by rfl⟩, by rfl, by rfl, by decide +kernel, by decide +kernel, by decide +kernel,
    by decide +kernel, by rfl, by decide +kernel, by decide +kernel, by decide +kernel⟩

def gran (d : Option (List Byte)) : TailGran := ⟨1, 1#8, 0, d⟩

theorem wit_Snapshots : ((worldT { tl 1 with now := some 4#64 }).tail 0).state = 1 ∧
    allMarked anat0 (worldT { tl 1 with now := some 4#64, recs := [(0, markOf core0 4#64 0#64)] }) 0 = true ∧
    allMarked anat0 (worldT { tl 1 with now := some 4#64 }) 0 = false ∧
    (∃ g r, ((worldT { tl 3 with grans := [gran none] }).tail 0).grans = g :: r ∧ g.data = none ∧ hbmStatus anat0 w0 (4096 * g.g) = none) ∧
    (∃ g r, ((worldT { tl 3 with grans := [gran (some [])] }).tail 0).grans = g :: r ∧ g.data = some []) ∧
    hbmStatus anat0 { w0 with stacksLost := [0, 1] } 4096 ≠ none ∧
    ((worldT (tl 3)).tail 0).state = 3 ∧ ((worldT (tl 3)).tail 0).grans = [] ∧ ((worldT (tl 3)).tail 0).reps.length ≤ ((worldT (tl 3)).tail 0).done ∧
    unitWrites (worldT (tl 3)) (tailRef 0 0) = false ∧ unitWrites (worldT (tl 3)) (tailRef 0 1) = false ∧
    ((worldT (tl 3)).ubuf (tailRef 0 0)).werr = none ∧ ((worldT (tl 3)).ubuf (tailRef 0 1)).werr = none ∧
    ((commitEnd (worldT (tl 3)) 0).tail 0).state ≠ 3 ∧ ((abandonTail (worldT (tl 3)) 0 3).tail 0).state ≠ 3 ∧
    ({ worldT (tl 3) with ubufs := [(tailRef 0 0, { UnitBuf.none with werr := some 3#8 })] }.ubuf (tailRef 0 0)).werr ≠ none :=
  ⟨by rfl, by decide +kernel, by decide +kernel, ⟨_, _, rfl, rfl, by decide +kernel⟩, ⟨_, _, rfl, rfl⟩, by decide +kernel, by rfl, by rfl,
    by decide +kernel, by decide +kernel, by decide +kernel, by decide +kernel, by decide +kernel, by decide +kernel, by decide +kernel, by decide +kernel⟩

theorem wit_TailCommands : ((worldT (tl 2)).tail 0).state = 2 ∧ ((worldT (tl 5)).tail 0).state = 5 ∧
    repChains anat0 ((worldT (tl 0)).modTail 0 (fun u => { u with state := 4 })) 0 = [] := by decide +kernel

/-- Slot 0 in IDLE with channel 0, a SNAPSHOT channel, as its replica; the page at 0x10000 lies at g. -/
def worldRs (g : W64) (txns : List (Nat × OutTxn)) : World :=
  { poke ((worldN (chan0 4 0 2)).setReg (tailBase 0 + 0x20) 0x1000#64) 0xA00000 (ctEntry 4 0 ++ [0x10000#64, 0x1000#64, 0#64, 0#64]) with
    tlbs := [(0, ⟨[{ leaf5 with w1 := g }], []⟩)], nodeId := some 1, txns := txns }

/-- Slot 0 as RESTORE begins. -/
def begun (w : World) : World :=
  w.modTail 0 (fun u => { u with state := 4, half := false, used := 0, list := 0, marks := [], recs := [], due := [], owed := false })

/-- A unit's program waits. -/
def waits {α : Type} (x : Option (Except UFault α) × World) : Bool := x.1.isNone

theorem waits_none {α : Type} {x : Option (Except UFault α) × World} (h : waits x = true) : ∃ w, x = (none, w) := by
  obtain ⟨r, w⟩ := x
  cases r with
  | none => exact ⟨w, rfl⟩
  | some k => cases h

def isNothing : Except UFault (Option Restored) → Bool
  | .ok none => true
  | _ => false

def reqT : OutTxn := ⟨txnOf 1 1#8 2 0x10000 128, 0, .unit 0 (tailRef 0 0), true⟩

theorem wit_Restores : ((worldRs 0#64 []).tail 0).state = 0 ∧ repChains anat0 (begun (worldRs 0#64 [])) 0 = [(0, 0)] ∧
    (∃ r w2, runUnit (tailEnv anat0 (begun (worldRs 0#64 [])) 0 0 0) (restoreProg anat0 0) (begun (worldRs 0#64 [])) = (some r, w2) ∧
      isNothing r = true) ∧
    (∃ w2, runUnit (tailEnv anat0 (begun (worldRs 0x1002000000000000#64 [(7, reqT)])) 0 0 0) (restoreProg anat0 0)
      (begun (worldRs 0x1002000000000000#64 [(7, reqT)])) = (none, w2)) :=
  ⟨by rfl, by decide +kernel, answered_run (by decide +kernel), waits_none (by decide +kernel)⟩

/-! The host. -/

/-- Function f is x; the link is up, the dictionary is served and virtual functions are enabled. -/
def worldHf (f : Nat) (x : HostFn) : World := { worldK (eng0 core0) with
  pcieUp := true, dict := { DictSt.reset with up := true }, host := { HostSt.reset with fns := [(f, x)], vfEn := true } }

/-- The link runs degraded. -/
def worldDeg : World := (worldHf 0 HostFn.reset).setReg 0x2E000 0x10#64

theorem wit_HostRegisterAccesses : let w := worldHf 0 HostFn.reset
    barReaches w 0 0x40 8 = true ∧ barUnsupported worldDeg 0 true = true ∧ barReaches worldDeg 0 0x40 8 = true ∧ barUnsupported w 0 true = false ∧
    barAligned 0x41 8 = false ∧ barAligned 0x44 4 = true ∧ barAbsent anat0 0x2000008 = some 1 ∧ barAbsent anat0 0x1000008 = none ∧
    barReaches w 0 0x2000008 8 = true ∧ barSpec 0x7FFFFF8 = none ∧ (∃ r, barSpec 0x40 = some r ∧ r.rw ||| r.w1c ||| r.w1s ≠ 0#64) ∧
    (∃ r, barSpec 0 = some r ∧ r.ctr = false ∧ r.rw ||| r.w1c ||| r.w1s = 0#64) ∧
    barReaches w 3 0x1000 8 = true ∧ barUnsupported w 3 false = false ∧ vfPlace 3 0x3000 = none ∧
    barUnsupported (worldHf 3 { HostFn.reset with tdi := 2 }) 3 false = true :=
  ⟨by rfl, by rfl, by rfl, by rfl, by decide, by decide, by rfl, by rfl, by rfl, by rfl, ⟨_, rfl, by decide⟩, ⟨_, rfl, by decide, by decide⟩,
    by rfl, by rfl, by rfl, by rfl⟩

theorem wit_HostMemoryAccesses : let w := { worldHf 0 HostFn.reset with ks := { Keystone.reset with ready := true } }
    w.pcieUp = true ∧ bar2Fits w 0x1000000 64 = true ∧ hifDegraded worldDeg = true ∧ hifDegraded w = false ∧
    bar2Refused anat0 w 0x1000000 64 = false ∧ bar2Refused Anat.reset w 0x1000000 64 = true ∧
    poisonIn w.mem w.ks w.places 0x1000000 64 = none ∧ inTables w 0x600000 64 = true ∧ inTables w 0x1000000 64 = false ∧
    coversSealed w (atOff 0x1000000 (offsets (List.replicate 64 0#8))) = false := by decide +kernel

theorem wit_PoisonedRead : let w := { worldHf 0 HostFn.reset with mem := { (worldHf 0 HostFn.reset).mem with poison := [0x1000000 / 32] } }
    poisonIn w.mem w.ks w.places 0x1000000 64 ≠ none := by decide +kernel

theorem wit_HostFunctions : let w := worldHf 0 HostFn.reset
    let d : World := { w with pcieUp := false, host := { w.host with perstHigh := true } }
    pcieRuns anat0 d = true ∧ d.host.perstHigh = true ∧ d.pcieUp = false ∧ (5#3 ≤ 5#3) ∧ fnPresent w 5 = true ∧ (w.fn 5).flr = false ∧
    (w.fn 0).flr = false ∧ w.dict.up = true ∧ ((worldHf 5 { HostFn.reset with flr := true }).fn 5).flr = true ∧
    fnPresent { w with host := { w.host with vfEn := false } } 5 = false ∧
    ({ w with host := { w.host with ide := [1] } }.host.ide.contains 1 = true) ∧ hifDegraded w = false ∧ (255#8).toNat < msixCount 0 ∧
    (27#8).toNat < msixCount 5 ∧ bit (w.reg (msixPba 0 0) 0#64) 0 = false := by decide +kernel

theorem wit_MsixPending : let w := (worldHf 0 { HostFn.reset with msixEn := true, busMaster := true }).setReg (msixPba 0 3) 8#64
    bit ((w.setReg (msixEntry 0 3 + 8) 0#64).reg (msixPba 0 3) 0#64) 3 = true ∧ (w.fn 0).msixEn = true ∧ (w.fn 0).busMaster = true := by
  decide +kernel

theorem wit_SecureSessions : spdmUp (worldHf 0 HostFn.reset) 0 = true ∧ spdmUp (worldHf 1 HostFn.reset) 1 = true ∧
    ((worldHf 0 { HostFn.reset with spdm := 1 }).fn 0).spdm = 1 ∧ ((worldHf 0 { HostFn.reset with spdm := 2 }).fn 0).spdm = 2 ∧
    ((worldHf 0 { HostFn.reset with spdm := 3 }).fn 0).spdm = 3 ∧ ((worldHf 0 HostFn.reset).fn 0).sess = 0 ∧
    ((worldHf 0 { HostFn.reset with sess := 1 }).fn 0).sess = 1 ∧ ((worldHf 0 { HostFn.reset with sess := 2 }).fn 0).sess = 2 ∧
    anat0.part ≠ .d48 ∧ ({ anat0 with part := .d48 }).part = .d48 := by decide +kernel

theorem wit_ImportKeys : let w := poke (worldHf 1 { HostFn.reset with sess := 2 }) (0x800000 + 64) [0x1#64]
    w.host.unlocked = false ∧ bit (kdtWord w 1#8 0) 8 = false ∧ fld (kdtWord w 1#8 0) 16 6 = 0 ∧ fld (kdtWord w 1#8 0) 0 4 = 1 ∧
    (w.ks.get 1).state = 1 := by decide +kernel

/-! Arbiters. -/

/-- The output north of router 0 of die 0. -/
def router0 : ArbInst := .router 0 0 0

def rq (k : Nat) (c : BitVec 2) (b : BitVec 12) : ArbReq := ⟨BitVec.ofNat 7 k, c, b⟩

def worldArb (i : ArbInst) (x : Arb) : World := { w0 with arbs := [(arbKey i, x)] }

/-- Input 1 owns a transfer of four beats, k of them moved. -/
def owns (k : Nat) : Arb := { Arb.reset with owner := some 1, cls := 0, len := 4, moved := k, burst := 8 }

theorem wit_Arbitration : dieRuns anat0 (26 * arbDie router0) = true ∧ w0.pwr.gated = false ∧ (∀ p : Fin 32, router0 ≠ .queues p) ∧
    (arbPertHit w0 router0 2).1 = false ∧ ((worldArb router0 (owns 2)).arb router0).owner = some 1 ∧ (w0.arb router0).owner = none ∧
    arbHigher (owns 2) (arbSane router0 [rq 2 0#2 4#12]) = false ∧ (3 : Nat) + 1 ≤ (owns 3).moved + 1 ∧ arbPreempts router0 = true ∧
    1 ∉ (owns 2).prot ∧ (owns 2).moved + 1 < (owns 2).len ∧ arbHigher (owns 2) (arbSane router0 [rq 2 1#2 4#12]) = true ∧
    reqOf (arbSane router0 [rq 2 0#2 4#12]) 1 = none ∧
    (∃ r, reqOf (arbSane router0 [rq 1 0#2 4#12]) 1 = some r ∧ (∀ q ∈ arbSane router0 [rq 1 0#2 4#12], q.cls.toNat ≤ r.cls.toNat) ∧
      (owns 0).used + r.beats.toNat ≤ (owns 0).burst) ∧
    (∃ r, reqOf (arbSane router0 [rq 1 0#2 9#12]) 1 = some r ∧ (owns 0).burst < (owns 0).used + r.beats.toNat) ∧
    (∃ k, arbPick (.queues 0) Arb.reset (topInputs (arbSane (.queues 0) [rq 2 0#2 1#12])) = some k) ∧
    { HostSt.reset with unlocked := true }.unlocked = true :=
  ⟨by rfl, by rfl, by decide, by rfl, by rfl, by rfl, by decide, by decide, by rfl, by decide, by decide, by decide, by decide,
    ⟨_, rfl, by decide, by decide⟩, ⟨_, rfl, by decide⟩, ⟨_, rfl⟩, rfl⟩

theorem wit_Undisturbed : (arbPertHit w0 router0 1).2 = w0 ∧ (arbPertHit w0 router0 2).2 = w0 ∧ (arbPertHit w0 router0 4).2 = w0 :=
  ⟨rfl, rfl, rfl⟩

/-! Power. -/

/-- Die 0 is x, its `PWR_OP` holds v. -/
def worldD (x : DiePwr) (v : W64) : World := { w0 with pwr := { w0.pwr with dies := [x] } }.setReg (pwrBase 0) v

def stp (locked done : Bool) : DiePwr := { DiePwr.reset with step := some ⟨5, false, locked, done⟩ }

theorem wit_OperatingPoints : dieRuns anat0 (26 * 0) = true ∧ (∃ t, ((worldD (stp true false) 0#64).die 0).step = some t ∧ t.locked = true ∧ t.done = false) ∧
    ((worldD (stp true false) 0#64).die 0).stretch = 0 ∧ ((worldD (stp true false) 0#64).die 0).slew = false ∧
    (worldD (stp true false) 0#64).eclk = true ∧ (∃ t, ((worldD (stp true true) 0#64).die 0).step = some t ∧ t.done = true) ∧
    ((worldD DiePwr.reset 0#64).die 0).step = none ∧ (∃ t, ((worldD (stp false false) 0#64).die 0).step = some t ∧ t.locked = false) :=
  ⟨by rfl, ⟨_, rfl, rfl, rfl⟩, by rfl, by rfl, by rfl, ⟨_, rfl, rfl⟩, by rfl, _, rfl, rfl⟩

theorem wit_DroopAndHeat : w0.eclk = true ∧ ((worldD { DiePwr.reset with stretch := 2 } 0#64).die 0).stretch ≠ 0 ∧
    opCur (worldD DiePwr.reset 0x7#64) 0 = 7 ∧ 7 ≤ fld (pwrOp (worldD DiePwr.reset 0x70000#64) 0) 16 4 ∧
    opCur (worldD DiePwr.reset 0x10000#64) 0 ≠ 7 ∧ fld (pwrOp (worldD DiePwr.reset 0x10000#64) 0) 16 4 < 7 ∧
    fld (pwrOp (worldD DiePwr.reset 0x10000#64) 0) 16 4 ≠ 0 ∧
    (950 : Int) ≤ (((w0.setReg (pwrBase 0 + 0x18) 950#64).reg (pwrBase 0 + 0x18) 0#64).extractLsb' 0 16).toInt ∧
    (((w0.setReg (pwrBase 0 + 0x18) 919#64).reg (pwrBase 0 + 0x18) 0#64).extractLsb' 0 16).toInt < 920 := by decide +kernel

theorem wit_PowerCapping : w0.pwr.supply = 2 ∧ { AvSt.reset with fw := some ⟨false, []⟩ }.fw.isSome = true ∧ w0.av.fw = none ∧
    capMode w0 = 0 ∧ capOf w0 < 65535 * 1000000 ∧ 0 ≤ capOf w0 ∧ 95 * capOf w0 < 100 * capOf w0 ∧ 100 * 0 ≤ 95 * capOf w0 ∧ w0.pwr.calm < 4 ∧
    capMode (windowMode w0 0 0) ≠ 1 ∧
    (w0.reg (0x400100 + 16 * 67) 0#64).toNat + 1 < 2 ^ 64 := by decide +kernel

theorem wit_Shares : ∀ x ∈ [((65#7 : BitVec 7), (0#48 : BitVec 48))], x.1.toNat ≤ 65 := by
  intro x hx
  rw [List.mem_singleton.mp hx]
  decide

/-- The module is stopped for want of coolant. -/
def worldC : World := { (w0.setReg 0x400000 0x145000000002#64) with eclk := false }

theorem wit_Coolant : (w0.setReg 0x400028 (setBit (w0.reg 0x400028 0#64) 32 false)).held = false ∧ w0.timeRun = true ∧
    { w0 with timeRun := false }.timeRun = false ∧ worldC.held = true ∧ worldC.timeRun = true ∧ worldC.eclk = false ∧
    (worldC.setReg 0x400028 (setBit (worldC.reg 0x400028 0#64) 32 false)).held = true ∧ { worldC.pwr with refStop := true }.refStop = true ∧
    worldC.pwr.refStop = false ∧ bit (capStat worldC) 0 = false ∧ worldC.pwr.supply = 2 ∧
    0 ∈ liveDies anat0 ∧ (1049#16).toInt < 1050 ∧ (1050 : Int) ≤ (1050#16).toInt := by decide +kernel

theorem wit_ReferenceClock : State.reset.w.pwr.supply ≠ 2 ∧ w0.pwr.supply = 2 ∧ w0.pwr.holdover = false ∧ w0.pwr.refStop = false ∧
    w0.timeRun = true ∧ { w0.pwr with holdover := true }.holdover = true := by decide +kernel

/-! Availability. -/

theorem wit_ServiceCount : (∀ d ∈ State.reset.anat.dies, d.sup = false) ∧ (∃ d ∈ anat0.dies, d.sup = true) ∧ supRuns anat0 anat0.super = true ∧
    (∀ x ∈ [1, 2, 3, 4, 5].map (fun k => if spareUsed w0 k = 0 then 0xFFFFFFFF else spareFree anat0 w0 k * 8760 / spareUsed w0 k), 8760 ≤ x) ∧
    (let w := { w0 with av := { AvSt.reset with lanes := [0], journal := (List.range 3).map (fun i => ⟨1, [i], 0, true⟩) } }
      ∃ x ∈ [1, 2, 3, 4, 5].map (fun k => if spareUsed w k = 0 then 0xFFFFFFFF else spareFree anat0 w k * 8760 / spareUsed w k), x < 8760) := by
  decide +kernel

/-- Logical engine 0 migrates from engine 0 to engine 1. -/
def mig0 (d : Option Nat) : Mig := ⟨0, 0, d, 3⟩

def worldMg (d : Option Nat) : World := { w0 with av := { AvSt.reset with migs := [mig0 d] } }

theorem wit_Migrations : anat0.physOf 5 = none ∧ anat0.physOf 0 = some 0 ∧ ((worldE { eng0 core0 with locked := some 0#64 }).eng 0).locked ≠ none ∧
    (∀ m ∈ w0.av.migs, m.l ≠ 0) ∧ dieRuns anat0 0 = true ∧
    (∃ m, (worldMg (some 1)).av.migs.find? (fun x => decide (x.l = 0)) = some m ∧ m.dst = some 1 ∧ m.src ≠ 1) ∧
    ((worldMg (some 1)).eng 0).sb = [] ∧ (worldMg (some 1)).eclk = true ∧ migReady ((worldMg (some 1)).eng 0) 0 = true ∧
    (30 : Nat) / 26 ≠ 0 / 24 ∧ anat0.logicalOf 0 = some 0 ∧ anat0.logicalOf 1 = none :=
  ⟨by rfl, by rfl, by decide, by decide, by rfl, ⟨_, rfl, rfl, by decide⟩, by rfl, by rfl, by rfl, by decide, by rfl, by rfl⟩

/-- Engine 0 is in a state. -/
def anatP (p : PState) : Anat := { anat0 with phys := anat0.phys.set 0 ⟨0, p⟩ }

theorem wit_TestsAndRetirement : ((List.range 104).map (fun i => (w0.av.turn + i) % 104)).find? (fun k =>
      decide ((anatP .spare).stOf k ≠ .retired) && decide ((anatP .spare).stOf k ≠ .absent)) = some 0 ∧
    (anatP .spare).stOf 0 = .spare ∧ anat0.stOf 0 = .active ∧ anat0.spare (0 / 26) = none ∧
    ({ anat0 with phys := anat0.phys.set 1 ⟨0x7F, .spare⟩ } : Anat).spare (0 / 26) ≠ none ∧ anat0.logicalOf 0 = some 0 ∧
    (anatP .selfTest).stOf 0 = .selfTest ∧ (anatP .target).stOf 0 = .target ∧ (anatP .retired).stOf 0 = .retired ∧
    (∃ t ∈ [((0 : Nat), true)], t.1 = 0) ∧ pierUp anat0 31 = true ∧ stackUp anat0 w0 5 = true := by decide +kernel

theorem wit_Supervisors : (let x := anat0.dies.getD 0 ⟨false, false, false⟩; x.up = true ∧ x.lost = false) ∧
    (let x := anat0.dies.getD 1 ⟨false, false, false⟩; x.up = false) ∧
    (let a : Anat := { anat0 with dies := [⟨true, false, true⟩, ⟨true, false, true⟩, ⟨true, false, true⟩, ⟨false, true, false⟩] };
      [0, 1, 2, 3].find? (supRuns { a with dies := lmod a.dies a.super (fun y => { y with sup := false }) }) = some 1 ∧ 1 ≠ a.super ∧
      fwNext a ⟨true, []⟩ = some 2 ∧ fwWaiting a ⟨true, [2]⟩ ≠ [] ∧ fwWaiting a ⟨true, [2]⟩ ≠ [a.super] ∧
      fwNext a ⟨true, [2, 1]⟩ = some 0 ∧ fwWaiting a ⟨true, [0, 2, 1]⟩ = [] ∧ fwNext a ⟨true, [2, 1]⟩ = some a.super) := by decide +kernel

theorem wit_CoolReadings : ∀ d ∈ liveDies anat0, ∀ x ∈ ([20#16] : List (BitVec 16)) ++ [30#16], x.toInt < 1050 := by
  intro d _ x hx
  rcases List.mem_cons.mp hx with rfl | hx
  · decide
  · rw [List.mem_singleton.mp hx]
    decide

/-! The dictionary. -/

/-- Dies 0 to 2 run with their supervisors. -/
def anat3 : Anat := { anat0 with dies := [⟨true, false, true⟩, ⟨true, false, true⟩, ⟨true, false, true⟩, ⟨false, true, false⟩] }

/-- The dictionary is served, the module is node 5 of Gatemi. -/
def worldDi : World := { w0 with dict := { DictSt.reset with up := true, node := 5 } }

/-- The host's window holds a request: its kind, object, LAST and LEN, its offset, and data. -/
def worldMb (kind obj last len off data : Nat) : World :=
  ((((worldDi.setReg 0x10000 (packW [(40, obj), (28, kind), (27, last), (0, len)])).setReg 0x10008 (w64 off)).setReg 0x10018
    0x8000000000000000#64).setReg 0x14000 (w64 data))

def okOut : StoreOut := ⟨0#3, none, 7#3⟩
def cutOut : StoreOut := ⟨0#3, some 0, 7#3⟩

/-- A READ of an object is under way, and its value can be read or cannot. -/
def readsAs (w : World) (good : Bool) : Bool :=
  match mbNext anat3 w 0 1 with
  | some (r, false) => (match dictRead anat3 w 0 r.obj with
    | .ok v => good && decide (r.offset ≤ v.length) && !objHeld w r.obj
    | .error _ => !good)
  | _ => false

theorem wit_MailboxReads : readsAs (worldMb 1 0x200001 1 8 0 0) true = true ∧ readsAs (worldMb 1 0x555501 1 8 0 0) false = true ∧
    (∃ r, mbNext anat3 (worldMb 6 0x200001 1 8 0 0) 0 6 = some (r, false)) ∧ objAbort worldDi 0x200001 = none ∧
    (objAbort worldDi 0x555501).isSome = true ∧
    (∃ r, mbNext anat3 { worldDi with dict := { worldDi.dict with orphans := [⟨packW [(40, 0x200001), (28, 1)], 0#64, []⟩] } } 0 1 = some (r, true)) :=
  ⟨by decide +kernel, by decide +kernel, ⟨_, rfl⟩, by rfl, by rfl, _, rfl⟩

theorem wit_MailboxWrites : ∃ r, mbNext anat3 (worldMb 2 0x200001 1 4 0 3000) 0 2 = some (r, false) ∧
    (mbWriteOf anat3 (worldMb 2 0x200001 1 4 0 3000) 0 r okOut).cut = false ∧ (mbWriteOf anat3 (worldMb 2 0x200001 1 4 0 3000) 0 r okOut).code = 0 ∧
    (mbWriteOf anat3 (worldMb 2 0x200001 1 4 0 3000) 0 r cutOut).cut = true :=
  ⟨_, rfl, by decide +kernel, by decide +kernel, by decide +kernel⟩

/-- A request frame for node 5. -/
def frame (b0 : Byte) (idx sub len : Nat) (data : List Byte) : CanFrame :=
  ⟨0x285#11, [b0, 1#8] ++ leBytes 2 idx ++ [BitVec.ofNat 8 sub, 0#8] ++ leBytes 2 len ++ data ++ List.replicate (56 - data.length) 0#8⟩

theorem wit_GatemiRequests : let f := frame 0x11#8 0x2000 1 0 []
    gTaken worldDi f = true ∧ gTaken w0 f = false ∧ canUp anat3 worldDi = true ∧ canUp anat3 w0 = false ∧ w0.dict.up = false ∧
    worldDi.dict.up = true ∧ anat3.ready ≠ 6 ∧ fld (f.bytes.getD 0 0#8) 4 4 = 1 ∧ fld (f.bytes.getD 0 0#8) 0 4 = 1 ∧
    serving anat3 worldDi = true ∧ serving Anat.reset worldDi = false ∧ worldDi.dict.frames.length < 32 ∧
    32 ≤ ({ worldDi.dict with frames := List.replicate 32 f.bytes }).frames.length ∧
    fld ((frame 0x21#8 0x2000 1 0 []).bytes.getD 0 0#8) 4 4 ≠ 1 ∧ gTaken worldDi (frame 0x21#8 0x2000 1 0 []) = true ∧
    canUp { Anat.reset with dies := [⟨true, false, false⟩] } worldDi = true ∧
    serving { Anat.reset with dies := [⟨true, false, false⟩] } worldDi = false := by decide +kernel

theorem wit_GatemiReports : (∃ x, sget { worldDi.dict with segs := [(2, ⟨0x200001, false, 1#8, [], 0, 0⟩)] }.segs 2 = some x) ∧
    sget worldDi.dict.segs 0 = none ∧ supRuns anat3 anat3.super = true ∧ canUp anat3 worldDi = true ∧
    sgetD worldDi.dict.evPend (evtKey .link) 0#64 = 0#64 ∧ sgetD { worldDi.dict with evPend := [(1, 1#64), (16, 2#64)] }.evPend (evtKey .link) 0#64 ≠ 0#64 ∧
    bit (evtMask anat3 worldDi) (evtVector (evtKey .link)) = true ∧ bit (evtMask anat3 worldDi) (evtVector 0) = false :=
  ⟨⟨_, rfl⟩, by rfl, by rfl, by rfl, by rfl, by decide, by decide +kernel, by decide +kernel⟩

theorem wit_DictionaryWrites : serving anat3 worldDi = true ∧ objHeld worldDi 0x100103 = false ∧ rangeNamed 0x1000 = true ∧ rangeNamed 0x1001 = false ∧
    persistRefused anat0 worldDi = true ∧ persistRefused anat3 worldDi = false ∧ worldDi.av.fw = none ∧
    validCopies anat3 worldDi 1 okOut = 3 ∧ validCopies anat3 worldDi 1 { okOut with valid := 1#3 } < 2 ∧
    2 ∈ slotsPresent anat3 worldDi ∧ 3 ∉ slotsPresent anat3 worldDi := by decide +kernel

theorem wit_CopyChoice : let l : List (Nat × DRec) := [(0, ⟨2, [1#8]⟩), (1, ⟨2, [1#8]⟩), (2, ⟨1, [0#8]⟩)]
    l ≠ [] ∧ (∀ x ∈ l, ∀ y ∈ l, x.2.seq = y.2.seq → x.2.val = y.2.val) ∧ l.length = 3 ∧ (0, ⟨2, [1#8]⟩) ∈ l ∧ (1, ⟨2, [1#8]⟩) ∈ l := by decide

/-! Start. -/

theorem wit_StartSignals : State.reset.w.pwr.supply = 0 ∧ w0.pwr.supply ≠ 0 ∧ w0.pwr.refStop = false ∧ w0.pwr.holdover = false ∧
    { w0.pwr with modReset := true }.modReset = true := by decide +kernel

/-- Power is on and step 2 has ended. -/
def worldOn : World := { World.reset with pwr := { PowerSt.reset with supply := 2, refclk := true } }

/-- Steps 3 to 9 turn out so: these supervisors, units and copies of bank A are good. -/
def up (sup unit a : Nat) : PowerUp := ⟨BitVec.ofNat 4 sup, BitVec.ofNat 4 unit, 0#3, BitVec.ofNat 3 a, 0#3, [], [], 0#32, []⟩

def upBank (u : PowerUp) : Option Nat × World := bootBank (stepThree (Anat.reset, worldOn) u).1 (stepThree (Anat.reset, worldOn) u).2 u

theorem wit_PowerOn : worldOn.pwr.supply = 2 ∧ Anat.reset.ready = 0 ∧ worldOn.dict.up = false ∧
    (∀ d ∈ (stepThree (Anat.reset, worldOn) (up 0 0 0)).1.dies, d.sup = false) ∧ (∃ d ∈ (stepThree (Anat.reset, worldOn) (up 15 15 7)).1.dies, d.sup = true) ∧
    (upBank (up 15 15 0)).1 = none ∧ (up 15 15 7).code.length ≤ 0x200000 := by decide +kernel

theorem wit_EnginesStart : (w0.pwr.supply = 2) ∧ { anat0 with ready := 3 }.ready = 3 ∧ bit (capStat w0) 0 = false ∧ anat0.ready ≠ 3 ∧
    { anat3 with ready := 6 }.ready = 6 ∧ canUp { anat3 with ready := 6 } worldDi = true ∧ gTaken worldDi (frame 0x11#8 0x3030 1 0 []) = true ∧
    fwPointer { anat3 with ready := 6 } (gServe { anat3 with ready := 6 } worldDi 2 (frame 0x11#8 0x3030 1 0 []).bytes okOut) =
      fwPointer { anat3 with ready := 6 } worldDi := by decide +kernel

/-- Three slots hold copies of bank 0. -/
def worldBk : World := { worldOn with dict := { DictSt.reset with slots := List.replicate 3 [(bankObj 0, some ⟨1, [1#8]⟩)] } }

theorem wit_PowerOnBank : let y := stepThree (Anat.reset, worldBk) (up 15 15 7)
    let b := bootBank y.1 y.2 (up 15 15 7)
    b.1 = some 0 ∧ liveDies (stepSix (y.1, stepFour y.1 b.2) (up 15 15 7)).1 ≠ [] ∧
    liveDies (stepSix (y.1, stepFour y.1 b.2) (up 15 0 7)).1 = [] := by decide +kernel

theorem wit_PointerWritten : let a := { anat3 with ready := 6 }
    fwPointer a (gServe a worldDi 2 (frame 0x12#8 0x3033 1 1 [1#8]).bytes okOut) ≠ fwPointer a worldDi := by
  decide +kernel

/-! Every command. -/

theorem all_at {α : Type} {l : List α} {n : Nat} {p : Nat → α → Bool} (hn : l.length ≤ n)
    (h : (List.range n).all (fun i => (l[i]?).all (p i)) = true) (i : Nat) (x : α) (hx : l[i]? = some x) : p i x = true := by
  have hi : i < n := Nat.lt_of_lt_of_le (List.getElem?_eq_some_iff.mp hx).1 hn
  have h1 := List.all_eq_true.mp h i (List.mem_range.mpr hi)
  rw [hx] at h1
  exact h1

theorem wit_StepKeepsInv : s0.Inv ∧ step s0 = .next { s0 with w := { s0.w with time := s0.w.time + 1#64 } } :=
  ⟨⟨⟨by decide +kernel, by decide +kernel, by decide +kernel⟩,
    all_at (n := 96) (by decide +kernel) (by decide +kernel), all_at (n := 104) (by decide +kernel) (by decide +kernel)⟩, rfl⟩

theorem wit_OperandFaults : canIssue s0.anat s0.w 1 = false ∧ (s0.w.eng 0).speculating = false ∧ formOf ⟨7#3, 1#20, 0#32⟩ = none ∧
    formOf (imm 1#20) ≠ none ∧ (w0.core 0).acc.t.toNat < 8 ∧ Col.int.accepts 2#4 (w0.core 0).pl = false := by decide +kernel

theorem wit_CountersSaturate : bit (5#64) 63 = false ∧ fld (5#64) 0 48 + 1 < 2 ^ 48 ∧ 2 ^ 48 ≤ fld (5#64) 0 48 + (2 ^ 48 - 5) ∧
    bit (0x8000000000000000#64) 63 = true ∧ (w0.reg 0x400100 0#64).toNat + 1 < 2 ^ 64 ∧ 2 ^ 64 ≤ (w0.reg 0x400100 0#64).toNat + 2 ^ 64 := by
  decide +kernel

def coreDv : Core := { core0 with acc := ⟨0x8000000000000000#64, 1#4⟩ }

theorem wit_DivideCorners : Issues (st0 coreDv) 0 (world0 coreDv) ∧ Usable coreDv .int coreDv.acc.t ∧
    (∃ y w2, Reads (st0 coreDv) 0 (imm 0#20) .int (world0 coreDv) y w2 ∧ y.v = 0#64) ∧
    (∃ y w2, Reads (st0 coreDv) 0 (imm 0xFFFFF#20) .int (world0 coreDv) y w2 ∧ y.v = 0xFFFFFFFFFFFFFFFF#64) ∧
    coreDv.acc.v = 0x8000000000000000#64 ∧ ((st0 coreDv).w.eng 0).speculating = false :=
  ⟨⟨by rfl, by rfl⟩, ⟨by decide, by rfl⟩, ⟨_, _, rfl, rfl⟩, ⟨_, _, rfl, rfl⟩, rfl, by rfl⟩

/-! Single steps. Expected values come from the examples and tables of the spec's files and, for the standards that it cites (SHA-256,
AES-256-GCM, DEFLATE, Zstandard), from those standards' own test vectors. -/

/-- p holds of the state after a command. -/
def after (i : Instr) (s : State) (p : State → Bool) : Bool :=
  match exec i s with
  | .next t => p t
  | _ => false

/-- Engine 0's registers after a command, from registers c. -/
def gives (i : Instr) (c : Core) (p : Core → Bool) : Bool := after i (st0 c) (fun t => p (t.w.core 0))

/-- `ACC` and the flags Z, N, C, V. -/
def accFlags (c : Core) : W64 × Tag × Nat := (c.acc.v, c.acc.t, fld c.st 0 4)

def accI (v : W64) : Core := { core0 with acc := ⟨v, 1#4⟩ }
def accF (v : W64) : Core := { core0 with acc := ⟨v, 2#4⟩ }

theorem test_step_runs_front : step { s0 with pending := [.nop 0 (imm 0#20)] } = exec (.nop 0 (imm 0#20)) s0 := rfl
theorem test_word_spells_nothing : decodeTableWord 32 0 = none := rfl

/-! Scalar (R81 to R88). -/

theorem test_add_wraps : gives (.add 0 (imm 1#20)) (accI 0xFFFFFFFFFFFFFFFF#64) (fun c => decide (accFlags c = (0#64, 1#4, 5))) = true := by
  decide +kernel
theorem test_sub_overflows : gives (.sub 0 (imm 1#20)) (accI 0x8000000000000000#64)
    (fun c => decide (accFlags c = (0x7FFFFFFFFFFFFFFF#64, 1#4, 8))) = true := by decide +kernel
theorem test_cmp_borrows : gives (.cmp 0 (imm 5#20)) (accI 3#64) (fun c => decide (accFlags c = (3#64, 1#4, 6))) = true := by decide +kernel
theorem test_shl_last_bit : gives (.shl 0 (imm 1#20)) (accI 0x8000000000000000#64) (fun c => decide (accFlags c = (0#64, 1#4, 5))) = true := by
  decide +kernel
theorem test_clz_zero : gives (.clz 0 (imm 0#20)) (accI 0#64) (fun c => decide (c.acc.v = 64#64)) = true := by decide +kernel
theorem test_mul_reads_old_product : gives (.mul 0 (rop 2#20)) { accI 6#64 with prl := ⟨7#64, 1#4⟩, ix1 := ⟨9#64, 1#4⟩ }
    (fun c => decide (c.prl.v = 7#64) && decide (((c.deliverAll false).prl.v, (c.deliverAll false).prh.v) = (54#64, 0#64))) = true := by decide +kernel
theorem test_div_truncates : gives (.div 0 (imm 2#20)) (accI 0xFFFFFFFFFFFFFFF9#64)
    (fun c => decide (((c.deliverAll false).prl.v, (c.deliverAll false).prh.v) = (0xFFFFFFFFFFFFFFFD#64, 0xFFFFFFFFFFFFFFFF#64))) = true := by
  decide +kernel
theorem test_push_moves_sp : gives (.push 0 (imm 0#20)) { core0 with spMon := 0x200100#64 } (fun c => decide (c.spMon = 0x2000F8#64)) = true := by
  decide +kernel
theorem test_fadd : gives (.fadd 0 (rop 1#20)) { accF 0x3FF0000000000000#64 with ix0 := ⟨0x3FF0000000000000#64, 2#4⟩ }
    (fun c => decide (c.acc = ⟨0x4000000000000000#64, 2#4⟩)) = true := by decide +kernel
theorem test_fcvt_fi_nan : gives (.fcvtFi 0 (imm 0#20)) (accF 0x7FF8000000000000#64) (fun c => decide (c.acc = ⟨0#64, 1#4⟩)) = true := by
  decide +kernel
theorem test_bcc_back : gives (.bcc 0 (branch 1#4 0x3FFFFF#22)) core0 (fun c => decide (c.pc = 0xFFC#64)) = true := by decide +kernel
theorem test_loop_ends : gives (.loop 0 ⟨0#4, 0x10#22⟩) { core0 with ix0 := ⟨1#64, 1#4⟩ }
    (fun c => decide (c.pc = 0x1004#64) && decide (c.ix0.v = 0#64)) = true := by decide +kernel

/-! Vectors (R157 to R199). -/

theorem test_vadd_scalar : gives (.vadd 0 (vrs 31#5 1#5)) ((coreV 2#64 8#64).setMreg 7 0xFF#8192) (fun c =>
    decide (c.elt 31 32 7 = 7) && decide (c.elt 31 32 8 = 0)) = true := by decide +kernel

/-- The registers of the example after R199. -/
def coreStat : Core := ((((((coreV 6#64 5#64).setElt 2 32 0 0x40000000).setElt 2 32 1 0x40800000).setElt 2 32 2 0x40800000).setElt 2 32 3
  0x40A00000).setElt 2 32 4 0x42C80000).setMreg 3 0xF#8192

theorem test_vstat_example : gives (.vstat 0 ⟨1#5, 2#5, 6#5, true, 3#3, false⟩) coreStat (fun c =>
    decide ([c.elt 1 32 0, c.elt 1 32 1, c.elt 1 32 2] = [0x40800000, 0x40700000, 0x40980000])) = true := by decide +kernel

/-- Rounding into FP8 E4M3: an overflow saturates, and the stochastic draws of the example after R280. -/
theorem test_e4m3 : (encodeF fmtE4M3 (.stoch 0#32) (.fin false 500 0)).1 = 0x7E ∧
    (encodeF fmtE4M3 (.stoch 0x90000000#32) (.fin true 55 (-5))).1 = 0xBE ∧
    (encodeF fmtE4M3 (.stoch 0xF0000000#32) (.fin false 5 (-10))).1 = 0x02 := by decide +kernel

/-! Memory (R14, R50, R335, R352, R373). -/

theorem test_tag_place : tagByte { places0 with tagrBase := 0x40000000, tagrSize := 0x40000000, tagtBase := 0x80000000 } 0x40012348 = 0x80001234 := by
  decide

theorem test_home_of_line : let off := 0x012345678000
    homeDie off = 2 ∧ homeStack off = 14 ∧ stackOffset off = 0x5E0E69000 ∧ pierOf (off / 128) = 84 ∧ pierSet (off / 128) = 0x53D ∧
    hbmPc (stackOffset off / 128) = 60 ∧ hbmBank (stackOffset off / 128) = 8 ∧ hbmRow (stackOffset off / 128) = 0x5E0E := by decide +kernel

theorem test_block_bases : portBase 21 = 0x03850000 ∧ engBase 77 = 0x03320000 := by decide

def wayLine (way tcls reuse : Nat) : CLine := { line := way, way := way, st := .e, cls := 0, part := 0, tcls := tcls, reuse := reuse, dead := false
                                                busy := false, kdom := 0#8, pf := 0 }

theorem test_pier_victim : (pickWay [0, 1, 2, 3] [wayLine 1 1 2, wayLine 0 0 0, wayLine 2 4 1, wayLine 3 1 1] (classPri 0x4004C#64)).map
    (fun r => (r.1, r.2.map (fun x => (x.way, x.reuse)))) = some (3, [(1, 1), (0, 0), (2, 0), (3, 1)]) := by decide +kernel

theorem test_counter_stops : ctrAdd 0x4000FFFFFFFFFFF0#64 0x40 = (0xC000FFFFFFFFFFFF#64, true) ∧
    regWrite ⟨0#64, 0#64, 0#64, 0#64, true⟩ 0xC000FFFFFFFFFFFF#64 0xC000000000000000#64 = 0x4000000000000000#64 := by decide

/-! Sealed and compressed data (R526 to R535). -/

def hexBytes (l : List Nat) : List Byte := l.map (BitVec.ofNat 8)

theorem test_sha256_abc : sha256 [0x61#8, 0x62#8, 0x63#8] =
    beBytes 32 0xBA7816BF8F01CFEA414140DE5DAE2223B00361A396177A9CB410FF61F20015AD := by decide +kernel

theorem test_gcm_zero : gcmSeal 0 (List.replicate 12 0#8) [] (List.replicate 16 0#8) =
    (beBytes 16 0xCEA7403D4D606B6E074EC5D3BAF39D18, beBytes 16 0xD0D1C8A799996BF0265B98B5D48AB919) := by decide +kernel

theorem test_inflate_stored : inflate (hexBytes [1, 2, 0, 0xFD, 0xFF, 0x68, 0x69]) = some (hexBytes [0x68, 0x69]) := by decide +kernel

theorem test_unzstd_raw : unzstd (hexBytes [0x28, 0xB5, 0x2F, 0xFD, 0x20, 2, 0x11, 0, 0, 0x68, 0x69]) = some (hexBytes [0x68, 0x69]) := by
  decide +kernel

/-! Links, the host and the dictionary. -/

theorem test_hello_same_node : after (.hello 0 (hello 1)) (stW (worldPt (pt 2))) (fun t => decide ((t.w.port 0).state = 6) &&
    decide ((t.w.port 0).reason = 7)) = true := by decide +kernel

theorem test_read_without_grant : (doRead anat0 { worldR with places := { worldR.places with grtBase := 0x1000000 } } (txn 1 6#4 0#7 0)).st = 7#8 ∧
    (doRead anat0 worldR (txn 1 6#4 0#7 0)).st = 0#8 := by decide +kernel

theorem test_vf_window_reserved : after (.bar0Read 1 0x2000#27 8#13 true) (stW (worldHf 1 { HostFn.reset with tdi := 2 }))
    (fun t => decide (t.w.out.head? = some (.cpl 0 (leBytes 8 2)))) = true := by decide +kernel

theorem test_tray_cap : after (.gatemiWrite ⟨0x295#11, hexBytes [0x12, 7, 0, 0x20, 2, 0, 4, 0, 0xA0, 0x0F, 0, 0] ++ List.replicate 52 0#8⟩ okOut)
    { stW { worldDi with dict := { worldDi.dict with node := 0x15 } } with anat := anat3 }
    (fun t => decide (sget t.w.dict.cur 0x200002 = some (leBytes 4 4000))) = true := by decide +kernel

theorem test_mailbox_read : after (.mbRead .host) { stW (worldMb 1 0x200001 1 4 0 0) with anat := anat3 }
    (fun t => decide (t.w.reg 0x14000 0#64 = 5200#64)) = true := by decide +kernel

/-! Arbitration, power, start-up. -/

/-- The pier ingress of the example after R584, its pointer at input 0. -/
def ingress (x : Arb) : World := worldArb (.pier 0) x

theorem test_ingress_preempted : after (.arbGrant (.pier 0) [rq 3 0#2 3#12, rq 4 0#2 1#12]) (stW (ingress Arb.reset)) (fun t =>
    decide ((t.w.arb (.pier 0)).owner = some 3) && after (.arbGrant (.pier 0) [rq 0 1#2 2#12, rq 3 0#2 3#12, rq 4 0#2 1#12]) t (fun u =>
      decide ((u.w.arb (.pier 0)).owner = some 0) && decide ((u.w.arb (.pier 0)).prot = [3]))) = true := by decide +kernel

theorem test_droop_stretch : after (.droopDetect 0 12#8) s0 (fun t => decide ((t.w.die 0).stretch = 2)) = true := by decide +kernel

theorem test_band_hysteresis : bandOf 0 500 = 1 ∧ bandOf 1 485 = 1 ∧ bandOf 1 480 = 0 := by decide +kernel

/-- The fifth window of the example after R614: the module is DIVERGED, and the shares are scaled. -/
theorem test_fifth_window : after (.modelWindow [(3#7, 20000000#48), (7#7, 16000000#48), (64#7, 4000000#48), (65#7, 8000000#48)])
    (stW { w0 with pwr := { w0.pwr with diverged := 4, energy := 40000000000 } }) (fun t =>
      decide (([3, 7, 64, 65, 66].map (fun k => (t.w.reg (0x400100 + 16 * k) 0#64).toNat)) = [16666666, 13333333, 3333333, 6666668, 40000000]) &&
      decide (capMode t.w = 1)) = true := by decide +kernel

theorem test_start_signals : after .inputQualified State.reset (fun t => after (.refclkPresent 5#7) t (fun u =>
    decide (u.w.pwr.supply = 2) && decide (u.w.dict.node = 5))) = true := by decide +kernel

/-! Ill-formed commands. -/

theorem test_wf_extension_word : (Instr.add 0 ⟨0#3, 1#20, 5#32⟩).wf = false ∧ (Instr.add 0 ⟨7#3, 0#20, 5#32⟩).wf = true := by decide +kernel
theorem test_wf_transaction : (Instr.wr 0 (txn 2 6#4 0#7 60)).wf = false ∧ (Instr.wr 0 (txn 2 6#4 0#7 272)).wf = false ∧
    (Instr.wr 0 (txn 2 6#4 0#7 64)).wf = true := by decide +kernel
theorem test_wf_flit : (Instr.dataFlit 0 { flit true 0 true with slots := [] }).wf = false ∧ (Instr.dataFlit 0 (flit true 0 true)).wf = true := by
  decide +kernel
theorem test_wf_frame : (Instr.segAck ⟨0x285#11, List.replicate 65 0#8⟩).wf = false := by decide +kernel
theorem test_wf_certificate : (Instr.cert 0 ⟨none, []⟩).wf = false := by decide +kernel
theorem test_wf_cache_error : (Instr.pierScrub 0 (some ⟨0, 3#2, 1#3, 0#4⟩)).wf = false ∧ (Instr.pierScrub 0 (some ⟨0, 0#2, 7#3, 0#4⟩)).wf = false ∧
    (Instr.pierScrub 0 none).wf = true := by decide +kernel
theorem test_wf_row : (Instr.rowSpare 0 0 0 45777).wf = false ∧ (Instr.rowSpare 0 0 0 45776).wf = true ∧
    (Instr.retirement (.row 0 0 0 45777)).wf = false := by decide +kernel
theorem test_wf_arbiter_requests : (Instr.arbGrant (.pier 0) [rq 3 0#2 1#12, rq 3 1#2 1#12]).wf = false := by decide +kernel
theorem test_wf_shares : (Instr.modelWindow [(66#7, 1#48)]).wf = false ∧ (Instr.modelWindow [(65#7, 1#48)]).wf = true := by decide +kernel
theorem test_wf_rails : (Instr.railSample ⟨0#32, 0#16⟩ 0#32 [] ⟨0#32, 0#16⟩ ⟨0#32, 0#16⟩).wf = false := by decide +kernel
theorem test_wf_temperatures : (Instr.tempSample (List.replicate 63 0#16) (List.replicate 24 0#16) 0#16 0#16).wf = false := by decide +kernel
theorem test_wf_burst : (Instr.bar2Read 0#40 0#13).wf = false ∧ (Instr.bar2Read 0#40 4097#13).wf = false ∧ (Instr.bar2Read 0#40 4096#13).wf = true := by
  decide +kernel
theorem test_wf_image : PowerUp.wf ⟨0#4, 0#4, 0#3, 0#3, 0#3, [], [], 0#32, []⟩ = true := by decide +kernel

/-- Code one byte over 2 MiB is refused. -/
theorem test_wf_image_long (u : PowerUp) (h : u.code.length = 0x200001) : (Instr.powerOn u).wf = false := by
  have h1 : u.wf = false := by simp [PowerUp.wf, h]
  exact h1

end Sys2Proof.Machine.Tests
end

section
/-!
PROOFS. Counters and accumulators that stop at their maximum (R14).
-/

namespace Sys2Proof.Machine

/-! Fields and bits of a word. -/

theorem fld_eq_div_mod {w : Nat} (x : BitVec w) (lo n : Nat) : fld x lo n = x.toNat / 2 ^ lo % 2 ^ n := by
  simp [fld, BitVec.extractLsb'_toNat, Nat.shiftRight_eq_div_pow]

theorem bit_setBit_same {w : Nat} (x : BitVec w) (i : Nat) (b : Bool) (h : i < w) : bit (setBit x i b) i = b := by
  have hput : (BitVec.ofNat w (b.toNat % 2 ^ 1 * 2 ^ i)).getLsbD i = b := by
    rw [BitVec.getLsbD_ofNat]
    cases b <;> simp [h]
  have hmask : (ones w i 1).getLsbD i = true := by simp [ones_getLsbD i 1 i h]
  simp only [bit, setBit, setFld, BitVec.getLsbD_or, BitVec.getLsbD_and, BitVec.getLsbD_not, hput, hmask]
  simp

/-! Event counters (R14, R15). -/

/-- Below the maximum the sum does not leave bits [47:0]: the flags above them stay. -/
theorem add_w64_of_low_lt (c : W64) (n : Nat) (h : fld c 0 48 + n < 2 ^ 48) :
    fld (c + w64 n) 0 48 = fld c 0 48 + n ∧ fld (c + w64 n) 48 16 = fld c 48 16 := by
  have hc : c.toNat < 2 ^ 64 := c.isLt
  simp only [fld_eq_div_mod, w64, BitVec.toNat_add, BitVec.toNat_ofNat] at h ⊢
  omega

theorem ctrAdd_of_fits (c : W64) (n : Nat) (hovf : bit c 63 = false) (h : fld c 0 48 + n < 2 ^ 48) :
    ctrAdd c n = (c + w64 n, false) := by
  have hle : fld c 0 48 + n ≤ 0xFFFFFFFFFFFF := by omega
  simp [ctrAdd, hovf, hle]

theorem ctrAdd_of_passes (c : W64) (n : Nat) (hovf : bit c 63 = false) (h : 2 ^ 48 ≤ fld c 0 48 + n) :
    ctrAdd c n = ((c &&& 0x4000000000000000#64) ||| 0x8000FFFFFFFFFFFF#64, bit c 62) := by
  have hgt : ¬ fld c 0 48 + n ≤ 0xFFFFFFFFFFFF := by omega
  simp [ctrAdd, hovf, hgt]

theorem ctrAdd_of_overflowed (c : W64) (n : Nat) (hovf : bit c 63 = true) : ctrAdd c n = (c, false) := by
  simp [ctrAdd, hovf]

/-- The stopped counter: COUNT at its maximum, OVF set, EVT_EN kept. -/
theorem stopped_counter_fields (c : W64) :
    let m := (c &&& 0x4000000000000000#64) ||| 0x8000FFFFFFFFFFFF#64
    fld m 0 48 = 2 ^ 48 - 1 ∧ bit m 63 = true ∧ bit m 62 = bit c 62 := by
  refine ⟨?_, by simp [bit], by simp [bit]⟩
  have hlow : ((c &&& 0x4000000000000000#64) ||| 0x8000FFFFFFFFFFFF#64).extractLsb' 0 48 = 0xFFFFFFFFFFFF#48 := by
    rw [BitVec.extractLsb'_or, BitVec.extractLsb'_and]
    simp
  simp [fld, hlow]

/-! Notifications change registers of the MSI-X and host-interface block only. -/

theorem msixPba_below (f v : Nat) (hv : v < msixCount f) (hf : f ≤ 64) : msixPba f v < 0x30000 := by
  by_cases hpf : f = 0
  · simp only [msixCount, hpf, if_true] at hv
    simp only [msixPba, hpf, if_true]
    omega
  · simp only [msixPba, hpf, if_false]
    omega

theorem msixTry_reg_above (w : World) (f v off : Nat) (r : W64) (h : 0x30000 ≤ off) :
    (msixTry w f v).1.reg off r = w.reg off r := by
  unfold msixTry
  dsimp only
  split
  case isTrue => rfl
  case isFalse hsends =>
    split
    · have hpba : msixPba f v < 0x30000 := msixPba_below f v (by omega) (by omega)
      exact reg_setReg_other w _ _ (by omega)
    · rfl

theorem msixDropped_reg_above (w : World) (off : Nat) (r : W64) (h : 0x30000 ≤ off) :
    (msixDropped w).reg off r = w.reg off r := by
  have hput (u : World) (v : W64) : (u.setReg 0x2E100 v).reg off r = u.reg off r := reg_setReg_other u v r (by omega)
  unfold msixDropped
  dsimp only
  split
  · split
    · rw [hput, msixTry_reg_above _ _ _ off r h, hput]
    · rw [msixTry_reg_above _ _ _ off r h, hput]
  · exact hput w _

theorem msixSend_reg_above (w : World) (f v off : Nat) (r : W64) (h : 0x30000 ≤ off) :
    (msixSend w f v).reg off r = w.reg off r := by
  unfold msixSend
  dsimp only
  split
  · rw [msixDropped_reg_above _ off r h, msixTry_reg_above w f v off r h]
  · exact msixTry_reg_above w f v off r h

/-! Energy accumulators (R14, R16). -/

theorem accumulate_of_fits (w : World) (k n : Nat) (h : (w.reg (0x400100 + 16 * k) 0#64).toNat + n < 2 ^ 64) :
    accumulate w k n = w.setReg (0x400100 + 16 * k) (w64 ((w.reg (0x400100 + 16 * k) 0#64).toNat + n)) := by
  simp only [accumulate, h, if_true]

/-- An accumulator that would pass its maximum: value and OVF are written, and a message of vector 4 may follow. -/
theorem accumulate_of_passes (w : World) (k n : Nat) (h : 2 ^ 64 ≤ (w.reg (0x400100 + 16 * k) 0#64).toNat + n) :
    let off := 0x400100 + 16 * k
    let w1 := (w.setReg off 0xFFFFFFFFFFFFFFFF#64).setReg (off + 8) (setBit (w.reg (off + 8) 0#64) 0 true)
    accumulate w k n = w1 ∨ accumulate w k n = msixSend w1 0 4 := by
  have hnot : ¬ (w.reg (0x400100 + 16 * k) 0#64).toNat + n < 2 ^ 64 := by omega
  simp only [accumulate, hnot, if_false]
  split
  · exact .inr rfl
  · exact .inl rfl

theorem accumulate_stops (w : World) (k n : Nat) (h : 2 ^ 64 ≤ (w.reg (0x400100 + 16 * k) 0#64).toNat + n) :
    (accumulate w k n).reg (0x400100 + 16 * k) 0#64 = 0xFFFFFFFFFFFFFFFF#64 ∧
      bit ((accumulate w k n).reg (0x400100 + 16 * k + 8) 0#64) 0 = true := by
  have hne : 0x400100 + 16 * k ≠ 0x400100 + 16 * k + 8 := by omega
  obtain hquiet | hsent := accumulate_of_passes w k n h
  · rw [hquiet, reg_setReg_other _ _ _ hne, reg_setReg, reg_setReg]
    exact ⟨rfl, bit_setBit_same _ 0 true (by decide)⟩
  · rw [hsent, msixSend_reg_above _ _ _ _ _ (by omega), msixSend_reg_above _ _ _ _ _ (by omega), reg_setReg_other _ _ _ hne,
      reg_setReg, reg_setReg]
    exact ⟨rfl, bit_setBit_same _ 0 true (by decide)⟩

/-- Settles O7: a counter and an accumulator each add, or stop at their maximum with the sticky bit set. -/
theorem countersSaturate : Obligations.CountersSaturate := by
  unfold Obligations.CountersSaturate
  refine ⟨fun c n hovf => ⟨fun hfits => ?_, fun hpasses => ?_⟩, ctrAdd_of_overflowed,
    fun w k n _ => ⟨accumulate_of_fits w k n, accumulate_stops w k n⟩⟩
  · obtain ⟨hlow, hhigh⟩ := add_w64_of_low_lt c n hfits
    rw [ctrAdd_of_fits c n hovf hfits]
    exact ⟨hlow, hhigh, rfl⟩
  · obtain ⟨hmax, hset, hen⟩ := stopped_counter_fields c
    rw [ctrAdd_of_passes c n hovf hpasses]
    exact ⟨hmax, hset, hen, rfl⟩

end Sys2Proof.Machine
end

section
/-!
PROOFS. The host's accesses to registers through BAR0 and to device memory through BAR2 (R9, R41 to R45, R553 to R559, R568).
-/

namespace Sys2Proof.Machine

/-! BAR0 as the physical function reaches it (R9, R41 to R45). -/

section Bar0

variable (a : Anat) (w : World) {src : RegSrc} {off n : Nat} (v : W64)

theorem bar0Read_misaligned (h : barAligned off n = false) : bar0Read a w src off n = (0#64, barErr w 4) := by
  simp [bar0Read, h]

theorem bar0Read_absent {d : Nat} (h : barAligned off n = true) (hd : barAbsent a off = some d) :
    bar0Read a w src off n = (ones 64 0 (8 * n), barErr w d) := by
  simp [bar0Read, h, hd]

theorem bar0Read_host (h : barAligned off n = true) (hd : barAbsent a off = none) :
    bar0Read a w .host off n =
      (if 0x18000 ≤ off ∧ off < 0x20000 then 0#64 else barPart (barView a w (off / 8 * 8)) off n, w) := by
  simp [bar0Read, h, hd, barOther, within]

theorem bar0Write_misaligned (h : barAligned off n = false) : bar0Write a w src off n v = barErr w 4 := by
  simp [bar0Write, h]

theorem bar0Write_absent {d : Nat} (h : barAligned off n = true) (hd : barAbsent a off = some d) :
    bar0Write a w src off n v = barErr w d := by
  simp [bar0Write, h, hd]

theorem bar0Write_reserved (h : barAligned off n = true) (hd : barAbsent a off = none) (hr : barSpec (off / 8 * 8) = none) :
    bar0Write a w src off n v = w := by
  simp [bar0Write, h, hd, hr]

/-- The dies' blocks begin above the module-global block. -/
theorem barAbsent_global (h : off < 0x1000000) : barAbsent a off = none := by
  have hbelow : ¬ 0x1000000 ≤ off := by omega
  simp [barAbsent, barDie, hbelow]

/-- The identity and error registers at the front of the module-global block have no effect of their own. -/
theorem globPut_front {lo : Bool} (h : off < 0x10000) : globPut a w src off v lo = plainPut a w off v := by
  have hbelow (b k : Nat) (hb : 0x10000 ≤ b) : within b k off = false := by
    simp only [within, Bool.and_eq_false_imp, decide_eq_true_eq, decide_eq_false_iff_not]
    omega
  simp [globPut, hbelow]

theorem bar0Write_front {r : RegSpec} (h : barAligned off n = true) (hb : off / 8 * 8 < 0x10000)
    (hr : barSpec (off / 8 * 8) = some r) :
    bar0Write a w .host off n v =
      plainPut a w (off / 8 * 8) (barMerge r (barView a w (off / 8 * 8)) v off n) := by
  have hown : barOther .host off = false := by
    simp only [barOther, within, Bool.and_eq_false_imp, decide_eq_true_eq, decide_eq_false_iff_not]
    omega
  have hglob : off / 8 * 8 < 0x1000000 := by omega
  simp [bar0Write, h, barAbsent_global a (show off < 0x1000000 by omega), hr, hown, hglob, globPut_front a w _ hb]

theorem plainPut_writable {r : RegSpec} (hr : barSpec off = some r) (hw : r.ctr = true ∨ r.rw ||| r.w1c ||| r.w1s ≠ 0#64) :
    plainPut a w off v = w.setReg off (regWrite r (barView a w off) v) := by
  simp only [plainPut, hr, Bool.or_eq_true, decide_eq_true_eq, hw, if_true]

theorem plainPut_readOnly {r : RegSpec} (hr : barSpec off = some r) (hc : r.ctr = false) (hw : r.rw ||| r.w1c ||| r.w1s = 0#64) :
    plainPut a w off v = w := by
  simp [plainPut, hr, hc, hw]

/-! BAR0 of a virtual function (R556). -/

theorem vfRead_misaligned {f : Nat} (h : barAligned off n = false) : vfRead a w f off n = (0#64, barErr w 4) := by
  simp [vfRead, h]

theorem vfRead_aligned {f : Nat} (h : barAligned off n = true) :
    vfRead a w f off n = (barPart (vfView a w f (off / 8 * 8)) off n, w) := by
  simp [vfRead, h]

theorem vfWrite_misaligned {f : Nat} (h : barAligned off n = false) : vfWrite a w f off n v = barErr w 4 := by
  simp [vfWrite, h]

theorem vfWrite_reserved {f : Nat} (h : barAligned off n = true) (hp : vfPlace f (off / 8 * 8) = none) :
    vfWrite a w f off n v = w := by
  simp [vfWrite, h, hp]

end Bar0

/-! The host's commands on BAR0. -/

section HostBar0

variable {s : State} {f : Fin 65} {off : BitVec 27} {n : BitVec 13} {l : List Byte} {tee : Bool}

theorem exec_bar0Read : exec (.bar0Read f off n tee) s = execBar0Read f off n tee s := rfl
theorem exec_bar0Write : exec (.bar0Write f off l tee) s = execBar0Write f off l tee s := rfl

/-- The completion of a read of n bytes of a function's BAR0. -/
def barCompleted (s : State) (n : BitVec 13) (r : W64 × World) : Res :=
  toWorld s (r.2.emit (.cpl 0 (leBytes n.toNat r.1.toNat)))

theorem exec_bar0Read_unsupported (hb : barReaches s.w f.val off.toNat n.toNat = true)
    (hu : barUnsupported s.w f.val tee = true) : exec (.bar0Read f off n tee) s = toWorld s (s.w.emit (.cpl 3 [])) := by
  simp [exec_bar0Read, execBar0Read, hb, hu]

theorem exec_bar0Read_pf (hf : f.val = 0) (hu : barUnsupported s.w f.val tee = false)
    (hb : barReaches s.w 0 off.toNat n.toNat = true) :
    exec (.bar0Read f off n tee) s = barCompleted s n (bar0Read s.anat s.w .host off.toNat n.toNat) := by
  rw [hf] at hu
  simp [exec_bar0Read, execBar0Read, barCompleted, hf, hb, hu]

theorem exec_bar0Read_vf (hf : f.val ≠ 0) (hu : barUnsupported s.w f.val tee = false)
    (hb : barReaches s.w f.val off.toNat n.toNat = true) :
    exec (.bar0Read f off n tee) s = barCompleted s n (vfRead s.anat s.w f.val off.toNat n.toNat) := by
  simp only [exec_bar0Read, execBar0Read, barCompleted, hf, hb, hu, if_false, Bool.not_true, Bool.false_eq_true]

theorem exec_bar0Read_misaligned (hu : barUnsupported s.w f.val tee = false)
    (hb : barReaches s.w f.val off.toNat n.toNat = true) (ha : barAligned off.toNat n.toNat = false) :
    exec (.bar0Read f off n tee) s = barCompleted s n (0#64, barErr s.w 4) := by
  by_cases hf : f.val = 0
  · rw [exec_bar0Read_pf hf hu (hf ▸ hb), bar0Read_misaligned s.anat s.w ha]
  · rw [exec_bar0Read_vf hf hu hb, vfRead_misaligned s.anat s.w ha]

theorem exec_bar0Write_unsupported (hu : barUnsupported s.w f.val tee = true) :
    exec (.bar0Write f off l tee) s = toWorld s s.w := by
  simp [exec_bar0Write, execBar0Write, hu]

theorem exec_bar0Write_pf (hf : f.val = 0) (hu : barUnsupported s.w f.val tee = false)
    (hb : barReaches s.w 0 off.toNat l.length = true) :
    exec (.bar0Write f off l tee) s = toWorld s (bar0Write s.anat s.w .host off.toNat l.length (w64 (leNat l))) := by
  rw [hf] at hu
  simp [exec_bar0Write, execBar0Write, hf, hb, hu]

theorem exec_bar0Write_vf (hf : f.val ≠ 0) (hu : barUnsupported s.w f.val tee = false)
    (hb : barReaches s.w f.val off.toNat l.length = true) :
    exec (.bar0Write f off l tee) s = toWorld s (vfWrite s.anat s.w f.val off.toNat l.length (w64 (leNat l))) := by
  simp only [exec_bar0Write, execBar0Write, hf, hb, hu, if_false, Bool.not_true, Bool.or_self, Bool.false_eq_true]

theorem exec_bar0Write_misaligned (hu : barUnsupported s.w f.val tee = false)
    (hb : barReaches s.w f.val off.toNat l.length = true) (ha : barAligned off.toNat l.length = false) :
    exec (.bar0Write f off l tee) s = toWorld s (barErr s.w 4) := by
  by_cases hf : f.val = 0
  · rw [exec_bar0Write_pf hf hu (hf ▸ hb), bar0Write_misaligned s.anat s.w _ ha]
  · rw [exec_bar0Write_vf hf hu hb, vfWrite_misaligned s.anat s.w _ ha]

end HostBar0

/-! The host's window into device memory (R553, R558, R559, R568). -/

section Bar2

variable {s : State} {o : BitVec 40} {n : BitVec 13} {l : List Byte}

theorem exec_bar2Read : exec (.bar2Read o n) s = execBar2Read o n s := rfl
theorem exec_bar2Write : exec (.bar2Write o l) s = execBar2Write o l s := rfl

theorem exec_bar2Read_degraded (hup : s.w.pcieUp = true) (hfit : bar2Fits s.w o.toNat n.toNat = true)
    (hd : hifDegraded s.w = true) : exec (.bar2Read o n) s = toWorld s (s.w.emit (.cpl 3 [])) := by
  simp [exec_bar2Read, execBar2Read, hup, hfit, hd]

theorem exec_bar2Read_refused (hup : s.w.pcieUp = true) (hfit : bar2Fits s.w o.toNat n.toNat = true)
    (hd : hifDegraded s.w = false) (hr : bar2Refused s.anat s.w (bar2Off s.w o.toNat) n.toNat = true) :
    exec (.bar2Read o n) s = toWorld s ((bar2Count s.w).emit (.cpl 2 [])) := by
  simp [exec_bar2Read, execBar2Read, hup, hfit, hd, hr]

/-- The bytes that a read of n bytes at a local offset finds under the domain of its frame. -/
def bar2Bytes (w : World) (off n : Nat) : List Byte :=
  (dataOnly w w.mem (bar2Dom w off) off n (inTagged w.places off)).1

/-- The piers as such a read leaves them. -/
def bar2Touched (w : World) (off n : Nat) : World :=
  (blocks (atOff off (offsets (bar2Bytes w off n))) 128).foldl (fun v x =>
    pierAccess v (x / 128) 3 (hostPart w off) 7 (bar2Dom w off) false true false) w

theorem exec_bar2Read_served (hup : s.w.pcieUp = true) (hfit : bar2Fits s.w o.toNat n.toNat = true)
    (hd : hifDegraded s.w = false) (hr : bar2Refused s.anat s.w (bar2Off s.w o.toNat) n.toNat = false) :
    let off := bar2Off s.w o.toNat
    exec (.bar2Read o n) s = toWorld s (if (poisonIn s.w.mem s.w.ks s.w.places off n.toNat).isSome
      then ((bar2Touched s.w off n.toNat).countReg 0x2E110 1).emit (.cpl 1 (bar2Bytes s.w off n.toNat))
      else (bar2Touched s.w off n.toNat).emit (.cpl 0 (bar2Bytes s.w off n.toNat))) := by
  simp only [exec_bar2Read, execBar2Read, hup, hfit, hd, hr, Bool.not_true, Bool.or_self, Bool.false_eq_true, if_false,
    bar2Touched, bar2Bytes]

theorem exec_bar2Write_degraded (hd : hifDegraded s.w = true) : exec (.bar2Write o l) s = toWorld s s.w := by
  simp [exec_bar2Write, execBar2Write, hd]

theorem exec_bar2Write_arrives (hup : s.w.pcieUp = true) (hfit : bar2Fits s.w o.toNat l.length = true)
    (hd : hifDegraded s.w = false) :
    let off := bar2Off s.w o.toNat
    let b := atOff off (offsets l)
    exec (.bar2Write o l) s = toWorld s (
      if bar2Refused s.anat s.w off l.length || inTables s.w off l.length || coversSealed s.w b then bar2Count s.w
      else if inLockedChan s.w off l.length then s.w.countReg 0x2E120 1
      else unitCommit s.w 3 (hostPart s.w off) 7 (bar2Dom s.w off) .raw b) := by
  simp only [exec_bar2Write, execBar2Write, hup, hfit, hd, Bool.not_true, Bool.or_self, Bool.false_eq_true, if_false]

end Bar2

/-- Settles O48: each access is the case of its command that the hypotheses select. -/
theorem hostAccesses : Obligations.HostAccesses := by
  unfold Obligations.HostAccesses
  refine ⟨fun s f off n l tee => ⟨exec_bar0Read_unsupported, exec_bar0Write_unsupported, fun hu =>
    ⟨exec_bar0Read_misaligned hu, exec_bar0Write_misaligned hu, ?pfRead, ?pfWrite, ?vfRead, ?vfWrite⟩⟩,
    fun s o n l hup => ⟨?windowRead, ?windowWrite⟩⟩
  case pfRead =>
    intro hf hb ha
    rw [exec_bar0Read_pf hf hu hb]
    refine ⟨fun d hd => ?_, fun hd => ?_⟩
    · rw [bar0Read_absent s.anat s.w ha hd]
      rfl
    · rw [bar0Read_host s.anat s.w ha hd]
      rfl
  case pfWrite =>
    intro hf hb ha
    rw [exec_bar0Write_pf hf hu hb]
    refine ⟨fun d hd => ?absent, fun hr hd => ?reserved, fun r hlow hr hw => ?writable, fun r hlow hr hc hw => ?readOnly⟩
    case absent => rw [bar0Write_absent s.anat s.w _ ha hd]
    case reserved => rw [bar0Write_reserved s.anat s.w _ ha hd hr]
    case writable => rw [bar0Write_front s.anat s.w _ ha hlow hr, plainPut_writable s.anat s.w _ hr hw]
    case readOnly => rw [bar0Write_front s.anat s.w _ ha hlow hr, plainPut_readOnly s.anat s.w _ hr hc hw]
  case vfRead =>
    intro hf hb ha
    rw [exec_bar0Read_vf hf hu hb, vfRead_aligned s.anat s.w ha]
    rfl
  case vfWrite =>
    intro hf hb ha hp
    rw [exec_bar0Write_vf hf hu hb, vfWrite_reserved s.anat s.w _ ha hp]
  case windowRead =>
    refine fun hfit => ⟨exec_bar2Read_degraded hup hfit, exec_bar2Read_refused hup hfit, fun hd hr => ?_⟩
    rw [exec_bar2Read_served hup hfit hd hr]
    refine ⟨fun hclean => ?_, fun hpoison => ?_⟩
    · rw [hclean]
      rfl
    · rw [if_pos (Option.isSome_iff_ne_none.mpr hpoison)]
      rfl
  case windowWrite =>
    refine fun hfit => ⟨exec_bar2Write_degraded, fun hd hrefused => ?_, fun hd hr ht hs => ?_⟩
    · rw [exec_bar2Write_arrives hup hfit hd, if_pos (by simpa [or_assoc] using hrefused)]
    · rw [exec_bar2Write_arrives hup hfit hd, if_neg (by simp [hr, ht, hs])]

end Sys2Proof.Machine
end

section
/-!
PROOFS. Memory under key domains: what a write leaves of the bytes it does not name (R47, R512, R513).
-/

namespace Sys2Proof.Machine

section Memory

variable (k : Keystone) (d : Byte) (v : Nat)

/-! One byte. -/

theorem wrByte_other_line (m : Memory) {o n : Nat} (b : Byte) (h : n ≠ o / 128) :
    sget (wrByte k d v m o b).lines n = sget m.lines n :=
  sget_sset_other m.lines _ h

theorem wrByte_cells_other {m : Memory} {o x : Nat} (b : Byte) (hm : m.wf = true) (h : x ≠ o) :
    cget (wrByte k d v m o b).cells x = cget m.cells x :=
  cget_cset_other b hm h

/-- A line that the domain wrote under its present key keeps its record but for the mask and the moment. -/
theorem wrByte_same_line {m : Memory} {o : Nat} (b : Byte) {r : LineRec} (hr : sget m.lines (o / 128) = some r)
    (hd : r.dom = d) (hg : r.gen = keyGen k d) :
    sget (wrByte k d v m o b).lines (o / 128) = some { r with mask := r.mask ||| ones 128 (o % 128) 1, ver := v } := by
  simp [wrByte, hr, hd, hg]

/-- Marking one byte of a line as written leaves the other bytes' marks. -/
theorem bit_mark_other (mask : BitVec 128) {o x : Nat} (h : x % 128 ≠ o % 128) :
    bit (mask ||| ones 128 (o % 128) 1) (x % 128) = bit mask (x % 128) := by
  have hx : x % 128 < 128 := Nat.mod_lt _ (by decide)
  have hnot : (decide (o % 128 ≤ x % 128) && decide (x % 128 < o % 128 + 1)) = false := by
    simp only [Bool.and_eq_false_imp, decide_eq_true_eq, decide_eq_false_iff_not]
    omega
  simp only [bit, BitVec.getLsbD_or, ones_getLsbD _ _ _ hx, hnot, Bool.or_false]

theorem rdByte_wrByte_other_line {m : Memory} {o x : Nat} (b : Byte) (d2 : Byte) (hm : m.wf = true) (h : o / 128 ≠ x / 128) :
    rdByte (wrByte k d v m o b) k d2 x = rdByte m k d2 x := by
  have hx : x ≠ o := fun e => h (by rw [e])
  unfold rdByte
  rw [wrByte_other_line k d v m b h.symm, wrByte_cells_other k d v b hm hx]
  rfl

theorem rdByte_of_own_key {m : Memory} {x : Nat} {r : LineRec} (hr : sget m.lines (x / 128) = some r) (hd : r.dom = d)
    (hg : r.gen = keyGen k d) :
    rdByte m k d x = if bit r.mask (x % 128) then cget m.cells x else Config.meaningless 0 d.toNat (keyGen k d) x r.base := by
  simp [rdByte, hr, hd, hg]

/-- The line of x was written by domain d under its present key. -/
def OwnLine (m : Memory) (x : Nat) : Prop := ∃ r, sget m.lines (x / 128) = some r ∧ r.dom = d ∧ r.gen = keyGen k d

theorem ownLine_wrByte {m : Memory} {x : Nat} (o : Nat) (b : Byte) (h : OwnLine k d m x) :
    OwnLine k d (wrByte k d v m o b) x := by
  obtain ⟨r, hr, hd, hg⟩ := h
  by_cases hline : x / 128 = o / 128
  · rw [hline] at hr
    have hnew := wrByte_same_line k d v b hr hd hg
    rw [← hline] at hnew
    exact ⟨_, hnew, hd, hg⟩
  · exact ⟨r, (wrByte_other_line k d v m b hline).trans hr, hd, hg⟩

theorem rdByte_wrByte_other_byte {m : Memory} {o x : Nat} (b : Byte) (hm : m.wf = true) (hown : OwnLine k d m x) (h : o ≠ x) :
    rdByte (wrByte k d v m o b) k d x = rdByte m k d x := by
  by_cases hline : x / 128 = o / 128
  · obtain ⟨r, hr, hd, hg⟩ := hown
    have hr' := hr
    rw [hline] at hr'
    have hnew := wrByte_same_line k d v b hr' hd hg
    rw [← hline] at hnew
    have hmod : x % 128 ≠ o % 128 := by omega
    rw [rdByte_of_own_key k d hnew hd hg, rdByte_of_own_key k d hr hd hg, bit_mark_other r.mask hmod,
      wrByte_cells_other k d v b hm h.symm]
  · exact rdByte_wrByte_other_line k d v b d hm (Ne.symm hline)

/-! Lists of bytes. -/

theorem wrBytes_append (m : Memory) (l1 l2 : List (Nat × Byte)) :
    wrBytes k d v m (l1 ++ l2) = wrBytes k d v (wrBytes k d v m l1) l2 := by
  induction l1 generalizing m with
  | nil => rfl
  | cons p r ih => exact ih _

theorem rdByte_wrBytes_last {m : Memory} (l : List (Nat × Byte)) (o : Nat) (b : Byte) (hm : m.wf = true) :
    rdByte (wrBytes k d v m (l ++ [(o, b)])) k d o = b := by
  rw [wrBytes_append]
  exact rdByte_wrByte_same k d v o b (wrBytes_wf k d v l hm)

theorem rdByte_wrBytes_other_lines {m : Memory} (l : List (Nat × Byte)) {x : Nat} (d2 : Byte) (hm : m.wf = true)
    (h : ∀ p ∈ l, p.1 / 128 ≠ x / 128) : rdByte (wrBytes k d v m l) k d2 x = rdByte m k d2 x := by
  induction l generalizing m with
  | nil => rfl
  | cons p r ih =>
    obtain ⟨hp, hr⟩ := List.forall_mem_cons.mp h
    exact (ih (wrByte_wf k d v _ _ hm) hr).trans (rdByte_wrByte_other_line k d v _ d2 hm hp)

theorem rdByte_wrBytes_other_bytes {m : Memory} (l : List (Nat × Byte)) {x : Nat} (hm : m.wf = true) (hown : OwnLine k d m x)
    (h : ∀ p ∈ l, p.1 ≠ x) : rdByte (wrBytes k d v m l) k d x = rdByte m k d x := by
  induction l generalizing m with
  | nil => rfl
  | cons p r ih =>
    obtain ⟨hp, hr⟩ := List.forall_mem_cons.mp h
    exact (ih (wrByte_wf k d v _ _ hm) (ownLine_wrByte k d v _ _ hown) hr).trans (rdByte_wrByte_other_byte k d v _ hm hown hp)

end Memory

/-- Settles O20: each write keeps the canonical form, and by induction on the list the last write to a byte is read, other
lines and other bytes of the domain's own lines as before. -/
theorem memoryReadsBack : Obligations.MemoryReadsBack := by
  unfold Obligations.MemoryReadsBack
  intro k d v m l hm
  exact ⟨wrBytes_wf k d v l hm, fun o b => rdByte_wrBytes_last k d v l o b hm,
    fun x d2 h => rdByte_wrBytes_other_lines k d v l d2 hm h,
    fun x r h hr hd hg => rdByte_wrBytes_other_bytes k d v l hm ⟨r, hr, hd, hg⟩ h⟩

end Sys2Proof.Machine
end

section
/-!
PROOFS. The engine tables: every change of a binding stays on one die (R25 to R30).
-/

namespace Sys2Proof.Machine

/-- The tables are whole and no binding in them crosses dies: `State.Inv` of the tables alone. -/
def Anat.Sound (a : Anat) : Prop := a.shaped ∧ a.bindingsLocal

theorem inv_iff_sound (s : State) : s.Inv ↔ s.anat.Sound := Iff.rfl

/-! Rules of the updates. -/

theorem sound_reset : Anat.reset.Sound := by
  refine ⟨⟨rfl, rfl, rfl⟩, fun l r hr => ?_, fun p x hx => ?_⟩
  · rw [List.eq_of_mem_replicate (List.mem_of_getElem? hr)]
    rfl
  · rw [List.eq_of_mem_replicate (List.mem_of_getElem? hx)]
    rfl

/-- Soundness speaks of the two tables and the number of dies only. -/
theorem Anat.Sound.of_tables {a b : Anat} (h : a.Sound) (hr : b.remap = a.remap) (hp : b.phys = a.phys)
    (hd : b.dies.length = a.dies.length) : b.Sound := by
  obtain ⟨⟨hl1, hl2, hl3⟩, hb1, hb2⟩ := h
  exact ⟨⟨hr ▸ hl1, hp ▸ hl2, hd.trans hl3⟩, hr ▸ hb1, hp ▸ hb2⟩

theorem Anat.Sound.setPhys {a : Anat} (h : a.Sound) {p l : Nat} {st : PState} (hx : (PhysEng.mk l st).sameDie p = true) :
    (a.setPhys p l st).Sound := by
  obtain ⟨⟨hl1, hl2, hl3⟩, hremap, hphys⟩ := h
  refine ⟨⟨hl1, by simpa [Anat.setPhys] using hl2, hl3⟩, hremap, fun q y hy => ?_⟩
  simp only [Anat.setPhys, List.getElem?_set] at hy
  split at hy
  case isTrue hpq =>
    split at hy
    · rw [← Option.some.inj hy, ← hpq]
      exact hx
    · cases hy
  case isFalse => exact hphys q y hy

/-- An engine that is not ACTIVE serves nobody. -/
theorem Anat.Sound.setPhys_idle {a : Anat} (h : a.Sound) (p : Nat) {l : Nat} {st : PState} (hst : st ≠ .active) :
    (a.setPhys p l st).Sound :=
  h.setPhys (by simp [PhysEng.sameDie, hst])

theorem Anat.Sound.setPhys_active {a : Anat} (h : a.Sound) {p l : Nat} (hl : l < 96) (hd : l / 24 = p / 26) :
    (a.setPhys p l .active).Sound :=
  h.setPhys (by simp [PhysEng.sameDie, hl, hd])

theorem Anat.Sound.modRemap {a : Anat} (h : a.Sound) {l : Nat} {f : Remap → Remap}
    (hf : ∀ r : Remap, r.sameDie l = true → (f r).sameDie l = true) : (a.modRemap l f).Sound := by
  obtain ⟨⟨hl1, hl2, hl3⟩, hremap, hphys⟩ := h
  refine ⟨⟨by simpa [Anat.modRemap] using hl1, hl2, hl3⟩, fun k r hr => ?_, hphys⟩
  simp only [Anat.modRemap, lmod_getElem?] at hr
  split at hr
  case isTrue hkl =>
    obtain ⟨r0, hr0, rfl⟩ := Option.map_eq_some_iff.mp hr
    exact hkl ▸ hf r0 (hkl ▸ hremap k r0 hr0)
  case isFalse => exact hremap k r hr

/-- An entry that is not PRESENT binds nothing. -/
theorem Anat.Sound.modRemap_absent {a : Anat} (h : a.Sound) (l : Nat) {f : Remap → Remap}
    (hf : ∀ r : Remap, (f r).present = false) : (a.modRemap l f).Sound :=
  h.modRemap (fun r _ => by simp [Remap.sameDie, hf r])

theorem Anat.Sound.modRemap_migrating {a : Anat} (h : a.Sound) (l : Nat) (b : Bool) :
    (a.modRemap l (fun r => { r with migrating := b })).Sound :=
  h.modRemap (fun _ hr => hr)

theorem Anat.Sound.modRemap_bound {a : Anat} (h : a.Sound) {l p : Nat} (b : Bool) (q : Nat) (hp : p < 104)
    (hd : l / 24 = p / 26) : (a.modRemap l (fun _ => ⟨true, b, q, p⟩)).Sound :=
  h.modRemap (fun _ _ => by simp [Remap.sameDie, hp, hd])

theorem Anat.Sound.unbind {a : Anat} (h : a.Sound) (l : Nat) : (a.unbind l).Sound := h.modRemap_absent l (fun _ => rfl)

theorem Anat.Sound.dies_length {a : Anat} (h : a.Sound) : a.dies.length = 4 := h.1.2.2

/-- A new state of the dies, as many as before. -/
theorem Anat.Sound.withDies {a : Anat} (h : a.Sound) {ds : List Die} (hd : ds.length = a.dies.length) :
    ({ a with dies := ds } : Anat).Sound :=
  h.of_tables rfl rfl hd

theorem Anat.Sound.withReady {a : Anat} (h : a.Sound) (n : Nat) : ({ a with ready := n } : Anat).Sound := h.of_tables rfl rfl rfl

theorem sound_foldl {α : Type} {f : Anat → α → Anat} {l : List α} {a : Anat} (h : a.Sound)
    (hf : ∀ b : Anat, b.Sound → ∀ x ∈ l, (f b x).Sound) : (l.foldl f a).Sound :=
  List.foldlRecOn l f h hf

theorem mem_dieEngines {d p : Nat} (h : p ∈ dieEngines d) : p / 26 = d := by
  obtain ⟨i, hi, rfl⟩ := List.mem_map.mp h
  have hlt := List.mem_range.mp hi
  omega

theorem lt_four_of_mem_liveDies {a : Anat} {d : Nat} (h : d ∈ liveDies a) : d < 4 := by
  have hmem : d ∈ [0, 1, 2, 3] := (List.mem_filter.mp h).1
  simp only [List.mem_cons, List.not_mem_nil, or_false] at hmem
  omega

/-! Migration (R633 to R637) and self-test. -/

section Bindings

variable {a : Anat} (h : a.Sound) (w : World)
include h

theorem toTest_sound (p : Nat) (lock : Bool) : (toTest (a, w) p lock).1.Sound := h.setPhys_idle p (by decide)

theorem toRetired_sound (p : Nat) : (toRetired (a, w) p).1.Sound := h.setPhys_idle p (by decide)

theorem leaveMig_sound (p why : Nat) : (leaveMig (a, w) p why).1.Sound := by
  unfold leaveMig
  split
  · exact toRetired_sound h w p
  · exact toTest_sound h w p _

theorem migStart_sound (m : Mig) : (migStart (a, w) m).1.Sound := by
  unfold migStart
  dsimp only
  split
  case h_1 p _ => exact (h.setPhys_idle p (by decide)).modRemap_migrating m.l true
  case h_2 =>
    split
    · exact h
    · exact leaveMig_sound (h.unbind m.l) _ _ _

theorem migNext_sound (d : Nat) : (migNext (a, w) d).1.Sound := by
  unfold migNext
  dsimp only
  split
  · exact h
  · split
    · exact migStart_sound h w _
    · exact h

theorem migAll_sound : (migAll (a, w)).1.Sound :=
  List.foldlRecOn (motive := fun y : Anat × World => y.1.Sound) _ migNext h (fun y hy d _ => migNext_sound hy y.2 d)

theorem migRequest_sound (l why : Nat) : (migRequest (a, w) l why).1.Sound := by
  unfold migRequest
  split
  · exact h
  · split
    · exact h
    · exact migNext_sound h _ _

/-- A switch binds the engine to its target: sound when the target is on the engine's die. -/
theorem migSwitch_sound (m : Mig) {dst : Nat} (elapsed : Nat) (hl : m.l < 96) (hdst : dst < 104) (hdie : m.l / 24 = dst / 26) :
    (migSwitch (a, w) m dst elapsed).1.Sound := by
  have hbound := (h.setPhys_active hl hdie).modRemap_bound false m.src hdst hdie
  exact migNext_sound (leaveMig_sound (hbound.setPhys_idle m.src (by decide)) _ _ _) _ _

theorem engRetire_sound (p : Nat) : (engRetire (a, w) p).1.Sound := by
  unfold engRetire
  dsimp only
  split
  · split
    · exact migRequest_sound h _ _ 2
    · exact h
  · exact toRetired_sound h _ p
  · exact toRetired_sound h _ p
  · exact h

/-! Supervisors and dies (R33, R34, R644). -/

theorem takeover_sound : (takeover (a, w)).1.Sound := by
  unfold takeover
  dsimp only
  split
  · exact h
  · exact h.of_tables rfl rfl (lmod_length _ _ _)

theorem dieAbsent_sound (d : Nat) : (dieAbsent a d).Sound := by
  have hengines : ((dieEngines d).foldl (fun b p => if b.stOf p = .retired then b else b.setPhys p 0x7F .absent) a).Sound := by
    refine sound_foldl h (fun b hb p _ => ?_)
    split
    · exact hb
    · exact hb.setPhys_idle p (by decide)
  exact sound_foldl hengines (fun b hb l _ => hb.modRemap_absent l (fun _ => rfl))

theorem dieHold_sound (d : Nat) : (dieHold (a, w) d).1.Sound := by
  have habsent := dieAbsent_sound (h.withDies (lmod_length a.dies d (fun y => { y with lost := true, sup := false }))) d
  exact habsent.withReady _

theorem foldl_dieHold_sound (l : List Nat) : (l.foldl dieHold (a, w)).1.Sound :=
  List.foldlRecOn (motive := fun y : Anat × World => y.1.Sound) _ dieHold h (fun y hy d _ => dieHold_sound hy y.2 d)

/-! Start-up (R25 to R27, R695). -/

theorem toFailed_sound : (toFailed (a, w)).1.Sound := h.of_tables rfl rfl (List.length_map _)

theorem stepThree_sound (u : PowerUp) : (stepThree (a, w) u).1.Sound := h.of_tables rfl rfl h.dies_length.symm

theorem stepSix_sound (u : PowerUp) : (stepSix (a, w) u).1.Sound := by
  have hheld := foldl_dieHold_sound h w
  unfold stepSix
  dsimp only
  split
  · exact (hheld _).withDies (List.length_map _)
  · exact (takeover_sound (hheld _) _).withDies (List.length_map _)

theorem powerUp_sound (u : PowerUp) : (powerUp (a, w) u).1.Sound := by
  have hthree := stepThree_sound h w u
  unfold powerUp
  dsimp only
  split
  · exact toFailed_sound hthree _
  · split
    · exact toFailed_sound hthree _
    · split
      · exact toFailed_sound (stepSix_sound hthree _ u) _
      · exact (stepSix_sound hthree _ u).withReady 3

/-- Steps 10 and 11 bind the logical engines of a die to its own engines (R25). -/
theorem bindDie_sound {d : Nat} (hd : d < 4) : (bindDie w a d).Sound := by
  have hclear : ((dieEngines d).foldl (fun b p =>
      b.setPhys p 0x7F (if (bindable w d).contains p then .spare else .retired)) a).Sound :=
    sound_foldl h (fun b hb p _ => hb.setPhys_idle p (by split <;> decide))
  refine sound_foldl hclear (fun b hb x hx => ?_)
  obtain ⟨l, p⟩ := x
  obtain ⟨hl, hp⟩ := List.of_mem_zip hx
  have hlt : l < 24 := List.mem_range.mp hl
  have hdie : p / 26 = d := mem_dieEngines (List.mem_filter.mp hp).1
  have hsame : (24 * d + l) / 24 = p / 26 := by omega
  exact (hb.setPhys_active (by omega) hsame).modRemap_bound false 0x7F (by omega) hsame

theorem startEngines_sound : (startEngines (a, w)).1.Sound := by
  have hbound (v : World) : ((liveDies a).foldl (bindDie v) a).Sound :=
    sound_foldl h (fun b hb d hd => bindDie_sound hb v (lt_four_of_mem_liveDies hd))
  unfold startEngines
  dsimp only
  split
  · exact toFailed_sound h _
  · exact (hbound _).withReady _

/-! Firmware activation (R643). -/

theorem fwStep_sound (r : FwRun) (d : Nat) (o : StoreOut) : (fwStep (a, w) r d o).1.Sound := by
  unfold fwStep
  dsimp only
  split
  · exact migAll_sound h _
  · split
    · exact h.of_tables rfl rfl rfl
    · exact h

end Bindings

/-! Resets (R702, R704). -/

theorem moduleReset_sound (x : Anat × World) : (moduleReset x).1.Sound := sound_reset.of_tables rfl rfl rfl

theorem powerOff_sound (x : Anat × World) : (powerOff x).1.Sound := moduleReset_sound x

/-! The commands that may change a binding. -/

/-- A command's answer leaves the tables sound. -/
def SoundAnswer (r : Res) : Prop := ∀ t : State, r = .next t → t.anat.Sound

theorem toBoth_sound {s : State} {x : Anat × World} (h : x.1.Sound) : SoundAnswer (toBoth s x) := by
  rintro t ht
  cases ht
  exact h

theorem toWorld_sound {s : State} (h : s.anat.Sound) (w : World) : SoundAnswer (toWorld s w) := toBoth_sound (x := (s.anat, w)) h

section Commands

variable {s : State}

theorem execMigrationRequest_sound (h : s.anat.Sound) (l : Fin 96) (why : Fin 3) :
    SoundAnswer (execMigrationRequest l why s) := by
  refine toBoth_sound ?_
  dsimp only
  split
  · exact h
  · split
    · exact h
    · exact migRequest_sound h _ _ _

theorem execMigrationSwitch_sound (h : s.anat.Sound) (l : Fin 96) (elapsed : BitVec 13) :
    SoundAnswer (execMigrationSwitch l elapsed s) := by
  refine toBoth_sound ?_
  split
  case h_1 => exact h
  case h_2 m hm =>
    have hl : m.l = l.val := by simpa using List.find?_some hm
    split
    case h_1 => exact migNext_sound h _ _
    case h_2 dst _ =>
      dsimp only
      split
      case isTrue => exact h
      case isFalse hgo =>
        simp only [not_or, ne_eq, Decidable.not_not, Nat.not_le] at hgo
        obtain ⟨hdie, -, hdst, -⟩ := hgo
        exact migSwitch_sound h _ m _ (hl ▸ l.isLt) hdst (hl ▸ hdie.symm)

theorem execMigrationAbandon_sound (h : s.anat.Sound) (l : Fin 96) : SoundAnswer (execMigrationAbandon l s) := by
  refine toBoth_sound ?_
  split
  · exact h
  · split
    · exact h
    · exact migNext_sound (toTest_sound (h.modRemap_migrating _ _) _ _ false) _ _

theorem execSelftestStart_sound (h : s.anat.Sound) : SoundAnswer (execSelftestStart s) := by
  refine toBoth_sound ?_
  dsimp only
  split
  case h_1 => exact h
  case h_2 p _ =>
    split
    case h_1 => exact toTest_sound h _ p false
    case h_2 =>
      split
      · exact h
      · split
        · exact migRequest_sound h _ _ 3
        · exact h
    case h_3 => exact h

theorem execSelftestDone_sound (h : s.anat.Sound) (p : Fin 104) (pass : Bool) : SoundAnswer (execSelftestDone p pass s) := by
  refine toBoth_sound ?_
  dsimp only
  split
  · exact h
  · split
    · exact migNext_sound (h.setPhys_idle p.val (by decide)) _ _
    · exact toRetired_sound h _ _

theorem execRetirement_sound (h : s.anat.Sound) (r : RetRes) : SoundAnswer (execRetirement r s) := by
  refine toBoth_sound ?_
  cases r with
  | engine p =>
    dsimp only
    split
    · exact engRetire_sound h _ _
    · exact h
  | way | row | pc | stack => exact h

theorem execSupervisorHeartbeat_sound (h : s.anat.Sound) (d : Fin 4) : SoundAnswer (execSupervisorHeartbeat d s) := by
  refine toBoth_sound ?_
  split
  · exact h.withDies (lmod_length _ _ _)
  · exact h

theorem execCoolantRestored_sound (h : s.anat.Sound) : SoundAnswer (execCoolantRestored s) := by
  refine toBoth_sound ?_
  dsimp only
  split
  · exact h
  · exact migAll_sound h _

theorem execSupervisorTakeover_sound (h : s.anat.Sound) (o : StoreOut) : SoundAnswer (execSupervisorTakeover o s) := by
  refine toBoth_sound ?_
  dsimp only
  split
  · exact h
  · exact takeover_sound h _

theorem execDieLost_sound (h : s.anat.Sound) (d : Fin 4) : SoundAnswer (execDieLost d s) := by
  refine toBoth_sound ?_
  dsimp only
  split
  · exact dieHold_sound h s.w d.val
  · exact h

theorem execSupervisorRestarted_sound (h : s.anat.Sound) (ok : Bool) (o : StoreOut) :
    SoundAnswer (execSupervisorRestarted ok o s) := by
  refine toBoth_sound ?_
  split
  · exact h
  · split
    · exact migAll_sound h _
    · split
      · exact fwStep_sound h _ _ _ o
      · exact h

theorem execInputLockout_sound (h : s.anat.Sound) : SoundAnswer (execInputLockout s) := by
  refine toBoth_sound ?_
  split
  · exact h
  · exact powerOff_sound _

theorem execRefclkPresent_sound (h : s.anat.Sound) (slot : BitVec 7) : SoundAnswer (execRefclkPresent slot s) := by
  obtain ⟨x, hx, hsound⟩ : ∃ x : Anat × World,
      (if s.w.pwr.refStop then moduleReset (s.anat, s.w) else (s.anat, s.w)) = x ∧ x.1.Sound := by
    split
    · exact ⟨_, rfl, moduleReset_sound _⟩
    · exact ⟨_, rfl, h⟩
  refine toBoth_sound ?_
  dsimp only
  rw [hx]
  split
  · exact hsound
  · exact hsound

theorem execRefclkLoss_sound (h : s.anat.Sound) : SoundAnswer (execRefclkLoss s) := by
  refine toBoth_sound ?_
  dsimp only
  split
  · exact h
  · split
    · exact h
    · split
      · exact moduleReset_sound _
      · exact h

theorem execModReset_sound (h : s.anat.Sound) : SoundAnswer (execModReset s) := by
  refine toBoth_sound ?_
  dsimp only
  split
  · exact h
  · exact moduleReset_sound _

theorem execPowerOn_sound (h : s.anat.Sound) (u : PowerUp) : SoundAnswer (execPowerOn u s) := by
  refine toBoth_sound ?_
  split
  · exact powerUp_sound h _ u
  · exact h

theorem execEnginesStart_sound (h : s.anat.Sound) : SoundAnswer (execEnginesStart s) := by
  refine toBoth_sound ?_
  dsimp only
  split
  · exact startEngines_sound h _
  · exact h

theorem execFailedRecovery_sound (h : s.anat.Sound) (f : CanFrame) (o : StoreOut) : SoundAnswer (execFailedRecovery f o s) := by
  refine toBoth_sound ?_
  dsimp only
  split
  · exact h
  · split
    · exact h
    · exact moduleReset_sound _

end Commands

/-! Every command and every step. -/

/-- The answer changes nothing but the world: the tables and the queue stay. -/
def WorldAnswer (s : State) (r : Res) : Prop := ∃ w : World, r = toWorld s w

theorem WorldAnswer.sound {s : State} {r : Res} (hr : WorldAnswer s r) (h : s.anat.Sound) : SoundAnswer r := by
  obtain ⟨w, rfl⟩ := hr
  exact toWorld_sound h w

theorem WorldAnswer.ite {s : State} {p : Prop} [Decidable p] {r1 r2 : Res} (h1 : WorldAnswer s r1) (h2 : WorldAnswer s r2) :
    WorldAnswer s (if p then r1 else r2) := by
  split
  · exact h1
  · exact h2

/-- Every command keeps the tables sound. The commands named first are those of start-up, availability and reset, which may
change a binding. The reductions and `FENCE_S_DRAINED` choose between two meanings; these, and every command not named, answer
with another world alone. -/
theorem exec_sound {s : State} (h : s.anat.Sound) (c : Instr) : SoundAnswer (exec c s) := by
  cases c with
  | migrationRequest l why => exact execMigrationRequest_sound h l why
  | migrationSwitch l elapsed => exact execMigrationSwitch_sound h l elapsed
  | migrationAbandon l => exact execMigrationAbandon_sound h l
  | selftestStart => exact execSelftestStart_sound h
  | selftestDone p pass => exact execSelftestDone_sound h p pass
  | retirement r => exact execRetirement_sound h r
  | supervisorHeartbeat d => exact execSupervisorHeartbeat_sound h d
  | supervisorTakeover o => exact execSupervisorTakeover_sound h o
  | supervisorRestarted ok o => exact execSupervisorRestarted_sound h ok o
  | dieLost d => exact execDieLost_sound h d
  | coolantRestored => exact execCoolantRestored_sound h
  | inputLockout => exact execInputLockout_sound h
  | refclkPresent slot => exact execRefclkPresent_sound h slot
  | refclkLoss => exact execRefclkLoss_sound h
  | modReset => exact execModReset_sound h
  | powerOn u => exact execPowerOn_sound h u
  | enginesStart => exact execEnginesStart_sound h
  | failedRecovery f o => exact execFailedRecovery_sound h f o
  | vredsum | vredmin | vredmax | fenceSDrained => exact (WorldAnswer.ite ⟨_, rfl⟩ ⟨_, rfl⟩).sound h
  | _ => exact WorldAnswer.sound ⟨_, rfl⟩ h

/-- Settles O4: the idle step leaves the tables, and each command keeps them sound. -/
theorem stepKeepsInv : Obligations.StepKeepsInv := by
  unfold Obligations.StepKeepsInv
  intro s t h hstep
  rw [inv_iff_sound] at h ⊢
  unfold step at hstep
  split at hstep
  case h_1 =>
    cases hstep
    exact h
  case h_2 c r _ => exact exec_sound (s := { s with pending := r }) h c t hstep

end Sys2Proof.Machine
end

section
/-!
PROOFS. Start-up from step 3 on (R25 to R28, R640, R642, R695 to R701), its failures, and the recovery service.
-/

namespace Sys2Proof.Machine

/-! Step 9 ends with Keystone ready (R33, R565). -/

theorem stepNine_ready (w : World) (u : PowerUp) : (stepNine w u).ks.ready = true := rfl

theorem stepNine_aliasKey (w : World) (u : PowerUp) : (stepNine w u).host.aliasKey = w.host.aliasKey + 1 := rfl

/-! `POWER_ON`: steps 3 to 9, in the order in which they can fail. -/

section PowerUp

variable {x : Anat × World} {u : PowerUp}

theorem powerUp_no_supervisor (h : ∀ d ∈ (stepThree x u).1.dies, d.sup = false) : powerUp x u = toFailed (stepThree x u) := by
  have hnone : (stepThree x u).1.dies.any (fun d => d.sup) = false := by simpa using h
  simp [powerUp, hnone]

/-- With a supervisor that runs, step 3 is passed. -/
theorem powerUp_supervised {d : Die} (hd : d ∈ (stepThree x u).1.dies) (hs : d.sup = true) :
    powerUp x u =
      let y := stepThree x u
      let b := bootBank y.1 y.2 u
      let v := stepSix (y.1, stepFour y.1 b.2) u
      let z := stepNine (stepEight v.1 (stepSeven v.1 v.2 u) u) u
      if b.1.isNone ∨ 0x200000 < u.code.length then toFailed (y.1, b.2)
      else if (liveDies v.1).isEmpty then toFailed v
      else ({ v.1 with ready := 3 }, if bit (z.reg 0x400028 0#64) 32 then z else capSet z 1 1 1) := by
  have hany : (stepThree x u).1.dies.any (fun d => d.sup) = true := List.any_eq_true.mpr ⟨d, hd, hs⟩
  simp only [powerUp, hany, Bool.not_true, Bool.false_eq_true, if_false]

end PowerUp

/-! The commands. -/

variable {s : State}

theorem exec_powerOn_runs {u : PowerUp} (hsup : s.w.pwr.supply = 2) (hready : s.anat.ready = 0) (hup : s.w.dict.up = false) :
    exec (.powerOn u) s = toBoth s (powerUp (s.anat, s.w) u) := by
  show execPowerOn u s = _
  simp [execPowerOn, hsup, hready, hup]

theorem exec_powerOn_refused (u : PowerUp) (h : s.w.pwr.supply ≠ 2 ∨ s.anat.ready ≠ 0 ∨ s.w.dict.up = true) :
    exec (.powerOn u) s = toBoth s (s.anat, s.w) := by
  have hnot : ¬ (s.w.pwr.supply = 2 ∧ s.anat.ready = 0 ∧ !s.w.dict.up) := by
    rintro ⟨hsup, hready, hup⟩
    simp only [hsup, hready, ne_eq, not_true_eq_false, false_or] at h
    simp [h] at hup
  show execPowerOn u s = _
  simp only [execPowerOn, hnot, if_false]

theorem exec_enginesStart_runs (hsup : s.w.pwr.supply = 2) (hready : s.anat.ready = 3)
    (hcool : bit (capStat s.w) 0 = false ∨ coolEnough s.anat s.w = true) :
    exec .enginesStart s = toBoth s (startEngines (s.anat, capSet s.w 0 1 0)) := by
  have htrip : (bit (capStat s.w) 0 && !coolEnough s.anat s.w) = false := by
    obtain h | h := hcool <;> simp [h]
  show execEnginesStart s = _
  simp [execEnginesStart, hsup, hready, htrip]

theorem exec_enginesStart_refused
    (h : s.w.pwr.supply ≠ 2 ∨ s.anat.ready ≠ 3 ∨ bit (capStat s.w) 0 = true ∧ coolEnough s.anat s.w = false) :
    exec .enginesStart s = toBoth s (s.anat, s.w) := by
  show execEnginesStart s = _
  obtain h | h | ⟨htrip, hcool⟩ := h
  · simp [execEnginesStart, h]
  · simp [execEnginesStart, h]
  · simp [execEnginesStart, htrip, hcool]

theorem exec_failedRecovery_not_failed (f : CanFrame) (o : StoreOut) (h : s.anat.ready ≠ 6) :
    exec (.failedRecovery f o) s = toBoth s (s.anat, s.w) := by
  show execFailedRecovery f o s = _
  simp [execFailedRecovery, h]

/-- In FAILED a request that reaches the recovery service is served; an activation moves the pointer and resets the module. -/
theorem exec_failedRecovery_served {f : CanFrame} (o : StoreOut) (hready : s.anat.ready = 6) (hcan : canUp s.anat s.w = true)
    (htaken : gTaken s.w f = true) :
    exec (.failedRecovery f o) s =
      let v := gServe s.anat s.w 2 f.bytes o
      let r := moduleReset (s.anat, v)
      toBoth s (if fwPointer s.anat v = fwPointer s.anat s.w then (s.anat, v)
        else (r.1, { r.2 with pwr := { r.2.pwr with refclk := false } })) := by
  show execFailedRecovery f o s = _
  simp [execFailedRecovery, hready, hcan, htaken]

/-- Settles O60: each command is the case that the hypotheses select. -/
theorem startSteps : Obligations.StartSteps := by
  unfold Obligations.StartSteps
  refine fun s => ⟨fun u hsup hready hup => ?powerOn, fun u h => exec_powerOn_refused u h, exec_enginesStart_runs,
    exec_enginesStart_refused, fun f o => ⟨exec_failedRecovery_not_failed f o, fun hready hcan htaken => ?recovery⟩⟩
  case powerOn =>
    rw [exec_powerOn_runs hsup hready hup]
    refine ⟨fun h => by rw [powerUp_no_supervisor h], fun d hd hs => ?_⟩
    rw [powerUp_supervised hd hs]
    refine ⟨fun h => ?noBank, fun k hk hfits =>
      ⟨fun h => ?noDie, fun h => ⟨stepNine_ready _ u, stepNine_aliasKey _ u, ?up⟩⟩⟩
    case noBank => rw [if_pos (by simpa using h)]
    case noDie => rw [if_neg (by simp [hk, hfits]), if_pos (by simp [h])]
    case up => rw [if_neg (by simp [hk, hfits]), if_neg (by simp [h])]
  case recovery =>
    rw [exec_failedRecovery_served o hready hcan htaken]
    refine ⟨fun h => ?_, fun h => ?_⟩
    · simp only [h, if_true]
    · simp only [h, if_false]

end Sys2Proof.Machine
end

section
/-!
PROOFS. Fences, acquire loads and release stores (R145, R146, R395 to R400).
-/

namespace Sys2Proof.Machine

variable {s : State} {e : Fin 104} {w1 w2 w3 w4 : World}

theorem modE_does (s : State) (e : Fin 104) (w : World) (f : Engine → Engine) : Does s e (modE f) w () (w.modEng e.val f) := rfl

/-! `fence` and `fence.n` (R146, R399). -/

/-- The world that a fence leaves: the engine waits for its store buffer where earlier stores are ordered and one is still to
be performed; otherwise the N lines go where later loads are ordered after a `fence.n`. -/
def fenceLeaves (w : World) (e : Fin 104) (f : BitVec 23) : World :=
  let inval := bit f 8 && bit f 0
  if 2 ≤ fld f 4 4 ∧ (w.eng e.val).sb ≠ [] then w.modEng e.val (fun y => { y with wait := .fence inval })
  else if inval then invalN w e.val
  else w

theorem fld_odd_iff_bit {n : Nat} (x : BitVec n) (k : Nat) : fld x 0 (k + 1) % 2 = 1 ↔ bit x 0 = true := by
  rw [fld_eq_div_mod, bit, BitVec.getLsbD, Nat.testBit_zero, decide_eq_true_eq, Nat.pow_succ, Nat.mul_comm,
    Nat.mod_mul_right_mod, Nat.pow_zero, Nat.div_one]

/-- A fence with a legal form retires. -/
theorem exec_fence_ok {f : BitVec 23} (hi : Issues s e w1) (hhigh : fld f 9 14 = 0) (hpred : fld f 4 4 < 4)
    (hsucc : fld f 0 4 < 4) (hform : bit f 8 = true ∨ (fld f 4 4 ≠ 0 ∧ fld f 0 4 ≠ 0)) :
    exec (.fence e f) s =
      let w2 := fenceLeaves (w1.modEng e.val Engine.commitAll) e f
      .next (retired s w2 e 4 1 (w2.core e)) := by
  refine seqInstr_ok hi ?_
  unfold Does
  rw [(need_does s e w1 (by simp [hhigh, hpred, hsucc])).bind, (need_does s e w1 (by simpa using hform)).bind,
    EM.bind_ok _ (EM.read_run _ _), (modE_does s e w1 _).bind, (getE_does s e _).bind]
  simp only [fenceLeaves, fld_odd_iff_bit f 3, Bool.decide_eq_true]
  by_cases hwait : 2 ≤ fld f 4 4 ∧ ((w1.modEng e.val Engine.commitAll).eng e.val).sb ≠ []
  · rw [if_pos (by simpa using hwait), if_pos hwait]
    rfl
  · rw [if_neg (by simpa using hwait), if_neg hwait]
    split
    · rfl
    · rfl

/-! `fence.s` (R145). -/

theorem fenceSEnd_does {w : World} (h : (w.eng e.val).lateErr = []) : Does s e fenceSEnd w () w := by
  unfold Does fenceSEnd
  rw [(getE_does s e w).bind, h]
  rfl

/-- The state in which the engine's `fence.s` waits no more. -/
def fenceSResumed (s : State) (e : Fin 104) : State :=
  { s with w := s.w.setEng e.val { s.w.eng e.val with wait := .none } }

theorem exec_fenceS_drained (hi : Issues s e w1) (hsb : ((w1.modEng e.val Engine.commitAll).eng e.val).sb = [])
    (hlate : ((w1.modEng e.val Engine.commitAll).eng e.val).lateErr = []) :
    exec (.fenceS e 0#23) s =
      let w2 := w1.modEng e.val Engine.commitAll
      .next (retired s w2 e 4 1 (w2.core e)) := by
  refine seqInstr_ok hi ?_
  unfold Does
  rw [(need_does s e w1 (by simp)).bind, (modE_does s e w1 _).bind, (getE_does s e _).bind, hsb]
  exact fenceSEnd_does hlate

/-- An instruction whose body waits leaves the registers as they were before it. -/
theorem seqInstr_wait {u l cy : Nat} {body : EM Unit} (hi : Issues s e w1)
    (hb : body ⟨s.anat, e.val⟩ w1 = .error .wait w2) :
    seqInstr u l cy e body s = toWorld s (w2.modEng e.val (fun x => { x with core := s.w.core e })) := by
  obtain ⟨hcan, hfetch⟩ := hi
  have hprog : (do fetchCheck; body; return none : EM (Option W64)) ⟨s.anat, e.val⟩ s.w = .error .wait w2 := by
    rw [EM.bind_ok _ hfetch, EM.bind_error _ hb]
  unfold seqInstr instr runInstr runWith
  rw [if_pos hcan]
  simp only [hprog]
  rfl

theorem exec_fenceS_waits (hi : Issues s e w1) (hsb : ((w1.modEng e.val Engine.commitAll).eng e.val).sb ≠ []) :
    exec (.fenceS e 0#23) s =
      toWorld s ((w1.modEng e.val Engine.commitAll).modEng e.val (fun y => { y with wait := .fenceS, core := s.w.core e })) := by
  rw [← modEng_modEng (w1.modEng e.val Engine.commitAll) e.val (fun y => { y with wait := .fenceS })
    (fun y => { y with core := s.w.core e })]
  refine seqInstr_wait hi ?_
  rw [(need_does s e w1 (by simp)).bind, (modE_does s e w1 _).bind, (getE_does s e _).bind, if_neg (by simpa using hsb)]
  rfl

theorem exec_fenceSDrained_ends (hwait : (s.w.eng e.val).wait = .fenceS) (hsb : (s.w.eng e.val).sb = [])
    (hi : Issues (fenceSResumed s e) e w1) (hlate : (w1.eng e.val).lateErr = []) :
    exec (.fenceSDrained e) s = .next (retired (fenceSResumed s e) w1 e 4 1 (w1.core e)) := by
  show execFenceSDrained e s = _
  unfold execFenceSDrained
  rw [if_pos (by simp [hwait, hsb])]
  exact seqInstr_ok hi (fenceSEnd_does hlate)

/-! `ld.aq` and `st.rl` (R400). -/

theorem acqAddr_form {f : BitVec 23} {a : W64} (h : Does s e (acqAddr f) w1 a w2) :
    (decide (fld f 0 12 = 0) && decide (fld f 21 2 ≠ 3)) = true := by
  cases hform : decide (fld f 0 12 = 0) && decide (fld f 21 2 ≠ 3) with
  | true => rfl
  | false =>
    unfold Does acqAddr at h
    rw [EM.bind_run, need_run, hform, if_neg Bool.false_ne_true] at h
    cases h

/-- The world after an acquire load of a global address: a target in another node or in host memory takes every N line away. -/
def acquired (w : World) (e : Fin 104) (ga : W64) : World :=
  match placeOf w ga with
  | .remote => invalN w e.val
  | .host _ => invalN w e.val
  | _ => w

theorem exec_ldAq_ok {f : BitVec 23} {a : W64} {t : TlbEntry} {l : Loaded} (hi : Issues s e w1)
    (ha : Does s e (acqAddr f) w1 a w2) (halign : a.toNat % 8 = 0) (ht : Does s e (translate a .load) w2 t w3)
    (hl : Does s e (loadVia t a 8 { scalarLoad with acq := true }) w3 l w4) (hu : Usable (w4.core e) .move l.tag) :
    exec (.ldAq e f) s =
      let v := w64 (leNat l.bytes)
      let u := acquired w4 e (t.ga a.toNat)
      .next (retired s u e 4 1 (({ u.core e with acc := ⟨v, l.tag⟩ } : Core).setZN v)) := by
  have hlow : fld a 0 3 = 0 := by simpa [fld_eq_div_mod] using halign
  refine seqInstr_modC (fun c => ({ c with acc := ⟨w64 (leNat l.bytes), l.tag⟩ } : Core).setZN (w64 (leNat l.bytes))) hi ?_
  rw [ha.bind, if_neg (not_not_intro hlow)]
  refine (ht.bind _).trans ?_
  rw [hl.bind, (checkTag_does hu).bind]
  rw [EM.bind_ok _ (EM.read_run _ _), EM.bind_ok _ (EM.get_run _ _)]
  unfold acquired
  cases placeOf w4 (t.ga a.toNat) with
  | remote | host _ | hbm _ | regs _ | reserved => rfl

theorem exec_stRl_ok {f : BitVec 23} {a : W64} (hi : Issues s e w1) (hu : Usable (w1.core e) .move (w1.core e).acc.t)
    (ha : Does s e (acqAddr f) w1 a w2)
    (hst : Does s e (storeMemE a 8 (w1.core e).acc.v (w1.core e).acc.t true) w2 () w3) :
    exec (.stRl e f) s = .next (retired s w3 e 4 1 (w3.core e)) := by
  refine seqInstr_ok hi ?_
  unfold Does
  rw [(getC_does s e w1).bind, (need_does s e w1 (acqAddr_form ha)).bind, (checkTag_does hu).bind, ha.bind]
  exact hst

/-- Settles O19: each fence is the case of its form and of the store buffer that the hypotheses select. -/
theorem fences : Obligations.Fences := by
  unfold Obligations.Fences
  refine ⟨fun s e w1 w2 w3 w4 hi => ⟨fun f hhigh hpred hsucc hform => ?fence, exec_fenceS_drained hi, exec_fenceS_waits hi,
    fun f a t l ha halign ht hl hu => exec_ldAq_ok hi ha halign ht hl hu, fun f a hu ha hst => exec_stRl_ok hi hu ha hst⟩,
    fun s e w1 hwait hsb hi hlate => exec_fenceSDrained_ends hwait hsb hi hlate⟩
  case fence =>
    rw [exec_fence_ok hi hhigh hpred hsucc hform]
    unfold fenceLeaves
    dsimp only
    split
    · rw [World.core, eng_modEng]
    · split
      · rfl
      · rfl

end Sys2Proof.Machine
end

section
/-!
PROOFS. Retired stores at their targets, and the memory that they leave (R141, R142, R395, R396, R438, R499).
-/

namespace Sys2Proof.Machine

/-! Memory changes only where a store is performed: the caches, the counters and the store buffer hold no bytes of it. -/

section MemoryKept

variable (w : World)

theorem foldl_mem {α : Type} {f : World → α → World} (hf : ∀ v x, (f v x).mem = v.mem) (l : List α) :
    (l.foldl f w).mem = w.mem :=
  List.foldlRecOn (motive := fun v => v.mem = w.mem) l f rfl (fun v hv x _ => (hf v x).trans hv)

@[simp] theorem msixTry_mem (f v : Nat) : (msixTry w f v).1.mem = w.mem := by
  unfold msixTry
  dsimp only
  split
  · rfl
  · split <;> rfl

@[simp] theorem msixDropped_mem : (msixDropped w).mem = w.mem := by
  unfold msixDropped
  dsimp only
  split
  · split <;> simp
  · rfl

@[simp] theorem msixSend_mem (f v : Nat) : (msixSend w f v).mem = w.mem := by
  unfold msixSend
  dsimp only
  split <;> simp

@[simp] theorem countReg_mem (off n : Nat) : (w.countReg off n).mem = w.mem := by
  have hnote (k : Nat) (b v : W64) : ((w.setReg off v).note k b).mem = w.mem := rfl
  unfold World.countReg
  dsimp only
  cases mirrorOf off with
  | none => dsimp only; split <;> simp
  | some i => dsimp only; split <;> split <;> simp [hnote]

@[simp] theorem pierCount_mem (p i n : Nat) : (pierCount w p i n).mem = w.mem := countReg_mem w _ _

@[simp] theorem pierNeed_mem (m : PMiss) : (pierNeed w m).mem = w.mem := rfl

@[simp] theorem pierDrop_mem (line : Nat) : (pierDrop w line).mem = w.mem := by
  unfold pierDrop
  dsimp only
  split
  · rfl
  · split <;> simp

@[simp] theorem pierAccess_mem (line cls part tcls : Nat) (kdom : Byte) (write demand last : Bool) :
    (pierAccess w line cls part tcls kdom write demand last).mem = w.mem := by
  unfold pierAccess
  dsimp only
  split
  case isFalse => rfl
  case isTrue =>
    split
    case h_1 => split <;> simp
    case h_2 => simp

@[simp] theorem sfPut_mem (line : Nat) (x : SfEntry) : (sfPut w line x).mem = w.mem := rfl

@[simp] theorem sfDrop_mem (line e : Nat) : (sfDrop w line e).mem = w.mem := by
  unfold sfDrop
  split <;> rfl

@[simp] theorem ecDrop_mem (e : Nat) (c : CLine) : (ecDrop w e c).mem = w.mem := by
  unfold ecDrop
  dsimp only
  split <;> simp

@[simp] theorem recallOthers_mem (keep : Option Nat) (line : Nat) : (recallOthers w keep line).mem = w.mem := by
  refine foldl_mem w (fun v p => ?_) _
  split
  · rfl
  · split <;> simp

@[simp] theorem sfAdd_mem (line e : Nat) (own : Bool) : (sfAdd w line e own).mem = w.mem := by
  unfold sfAdd
  dsimp only
  split
  case h_1 => rfl
  case h_2 =>
    rw [sfPut_mem]
    split
    · rfl
    · dsimp only [fresh]
      split
      · rfl
      · rw [sfPut_mem, foldl_mem _ (fun u h => by split <;> simp), pierCount_mem]

@[simp] theorem touchWrite_mem (e line cls tcls : Nat) (kdom : Byte) : (touchWrite w e line cls tcls kdom).mem = w.mem := by
  unfold touchWrite
  dsimp only
  split
  · split <;> simp
  · simp

@[simp] theorem fenceDone_mem (e : Nat) : (fenceDone w e).mem = w.mem := by
  unfold fenceDone
  dsimp only
  split
  · split
    · split <;> rfl
    · rfl
  · rfl

@[simp] theorem sbDone_mem (e i : Nat) : (sbDone w e i).mem = w.mem := fenceDone_mem _ e

end MemoryKept

/-! A store takes its place in the coherence order (R395). -/

/-- Conflicts are reported to the engines and change nothing else (R405). -/
theorem conflicts_engines (w : World) (l : List Nat) : ∃ x : Store Engine, l.foldl conflictAt w = { w with engines := x } := by
  induction l generalizing w with
  | nil => exact ⟨w.engines, rfl⟩
  | cons o r ih => exact ih (conflictAt w o)

/-- Where no granule that the store reaches is protected, memory changes by the bytes and tags of the store (R395, R653). -/
theorem engCommit_mem {w : World} {l : List (Nat × Byte)} (hgran : (blocks l 4096).foldl granuleWritten w = w)
    (e cls tcls : Nat) (d : Byte) (act : TagAct) :
    (engCommit w e cls tcls d act l).mem = storeMem w.ks w.places d w.freeCtr act w.mem l := by
  obtain ⟨x, hx⟩ := conflicts_engines w (blocks l 128)
  have hcommit : commitLocal w d act l = storeLocal { w with engines := x } d act l := by
    unfold commitLocal
    dsimp only
    rw [hgran, hx]
  unfold engCommit
  rw [foldl_mem _ (fun v o => touchWrite_mem v e (o / 128) cls tcls d), hcommit]
  rfl

/-! Entries of the store buffer (R396, R438, R499). -/

section Performed

variable {s : State} {e : Fin 104} {idx : Nat} {t : SbEntry}

/-- A command for an entry that targets no module register performs it. -/
theorem exec_storePerformed_memory (ht : (s.w.eng e.val).sb[idx]? = some t) (hp : ∀ off, placeOf s.w t.ga ≠ .regs off) :
    exec (.storePerformed e idx) s = toWorld s (performStore s.anat s.w e.val idx) := by
  show execStorePerformed e idx s = _
  cases hplace : placeOf s.w t.ga with
  | regs off => exact absurd hplace (hp off)
  | hbm _ | host _ | reserved | remote => simp only [execStorePerformed, ht, hplace]

section Ready

variable (ht : (s.w.eng e.val).sb[idx]? = some t) (hatom : t.atom = none) (hmay : (s.w.eng e.val).mayPerform idx = true)
  (hrun : dieRuns s.anat e.val = true)

include ht hatom hmay hrun

theorem exec_storePerformed_hbm {off : Nat} (hp : placeOf s.w t.ga = .hbm off) (hok : hbmStatus s.anat s.w off = none) :
    exec (.storePerformed e idx) s =
      toWorld s (sbDone (engCommit s.w e.val t.cls t.tcls t.kdom t.tag (atOff off t.data)) e.val idx) := by
  rw [exec_storePerformed_memory ht (by simp [hp])]
  simp [performStore, ht, hatom, hmay, hrun, hp, hok]

theorem exec_storePerformed_host {iova : Nat} (hp : placeOf s.w t.ga = .host iova) (hup : s.w.pcieUp = true) :
    exec (.storePerformed e idx) s =
      toWorld s (sbDone ((hostStore s.w t).modEng e.val (fun y => y.updateN t.ga t.data)) e.val idx) := by
  rw [exec_storePerformed_memory ht (by simp [hp])]
  simp [performStore, ht, hatom, hmay, hrun, hp, hup]

theorem exec_storePerformed_remote (hp : placeOf s.w t.ga = .remote) :
    exec (.storePerformed e idx) s = toWorld s (sbSend s.w e.val idx t (storeTxn t)) := by
  rw [exec_storePerformed_memory ht (by simp [hp])]
  simp [performStore, ht, hatom, hmay, hrun, hp]

theorem exec_storePerformed_regs {off : Nat} (hp : placeOf s.w t.ga = .regs off) :
    exec (.storePerformed e idx) s = toWorld s (performRegs s.anat s.w e.val idx t off) := by
  show execStorePerformed e idx s = _
  simp [execStorePerformed, ht, hatom, hmay, hrun, hp]

end Ready

/-- An error response to an entry that was sent (R141, R142, R494). -/
theorem exec_lateErrAppend_sent {status : Byte} {tid : Nat} (ht : (s.w.eng e.val).sb[idx]? = some t)
    (hsent : t.sent = some tid) (hstatus : statusReport status ≠ 0#8) :
    exec (.lateErrAppend e idx status) s = toWorld s (sbError (txnDrop s.w tid) e.val idx t (statusReport status)) := by
  show execLateErrAppend e idx status s = _
  simp only [execLateErrAppend, ht, hsent, if_neg hstatus]
  rfl

end Performed

/-- Settles O21: each target is the case of its place, and memory changes where the store is performed in HBM only. -/
theorem storesPerformed : Obligations.StoresPerformed := by
  unfold Obligations.StoresPerformed
  refine fun s e idx t ht hatom => ⟨fun hmay hrun => ⟨fun off hp hok => ⟨?_, fun hgran => ?_⟩, fun iova hp hup => ?_,
    fun hp => ?_, fun off hp => ?_⟩, fun status tid hsent hstatus => ?_⟩
  · exact exec_storePerformed_hbm ht hatom hmay hrun hp hok
  · rw [sbDone_mem, engCommit_mem hgran]
  · exact exec_storePerformed_host ht hatom hmay hrun hp hup
  · exact exec_storePerformed_remote ht hatom hmay hrun hp
  · exact exec_storePerformed_regs ht hatom hmay hrun hp
  · exact exec_lateErrAppend_sent ht hsent hstatus

end Sys2Proof.Machine
end

section
/-!
PROOFS. The entry of an event, the interrupts that are taken, and their sources (R117 to R119, R135, R136, R138, R140, R246).
-/

namespace Sys2Proof.Machine

/-! A field that is written, and the bits around it. -/

theorem getLsbD_setFld {w : Nat} (x : BitVec w) (lo n k : Nat) {i : Nat} (hi : i < w) :
    (setFld x lo n k).getLsbD i = if lo ≤ i ∧ i < lo + n then k.testBit (i - lo) else x.getLsbD i := by
  simp only [setFld, BitVec.getLsbD_or, BitVec.getLsbD_and, BitVec.getLsbD_not, hi, ones_getLsbD lo n i hi,
    BitVec.getLsbD_ofNat, Nat.testBit_mul_two_pow, Nat.testBit_mod_two_pow, decide_true, Bool.true_and]
  by_cases hlo : lo ≤ i
  · have hoff : i - lo < n ↔ i < lo + n := by omega
    by_cases hhi : i < lo + n
    · simp [hlo, hhi, hoff]
    · simp [hhi, hoff]
  · simp [hlo]

theorem extractLsb'_setFld {w n : Nat} (x : BitVec w) {lo : Nat} (v : BitVec n) (h : lo + n ≤ w) :
    (setFld x lo n v.toNat).extractLsb' lo n = v := by
  refine BitVec.eq_of_getLsbD_eq (fun i hi => ?_)
  rw [BitVec.getLsbD_extractLsb', getLsbD_setFld x lo n _ (by omega), if_pos ⟨Nat.le_add_right lo i, by omega⟩,
    Nat.add_sub_cancel_left, BitVec.testBit_toNat]
  simp [hi]

/-! The registers in which a handler starts (R117, R119). -/

section Handler

variable (c : Core) (v : Event) (f : W64)

theorem setSpOf_eq (l : BitVec 2) : ∃ m u t : W64, c.setSpOf l f = { c with spMon := m, spSup := u, spTask := t } := by
  unfold Core.setSpOf
  split
  · exact ⟨f, c.spSup, c.spTask, rfl⟩
  · split
    · exact ⟨c.spMon, f, c.spTask, rfl⟩
    · exact ⟨c.spMon, c.spSup, f, rfl⟩

@[simp] theorem spOf_setSpOf (l : BitVec 2) : (c.setSpOf l f).spOf l = f := by
  unfold Core.setSpOf Core.spOf
  split
  · rfl
  · split <;> rfl

theorem enter_spOf : (c.enter v f).spOf v.tgt = f := spOf_setSpOf c f v.tgt

theorem enter_vstart : (c.enter v f).sysGet 0x102 = 0#64 := sgetD_sset_same _ _ _ _

theorem enter_st : (c.enter v f).st = setFld (setBit c.st 7 false) 8 2 v.tgt.toNat := rfl

theorem enter_pc : (c.enter v f).pc = handlerPc c v := rfl

theorem enter_ie : (c.enter v f).ie = false := by
  have hset : bit (setBit c.st 7 false) 7 = false := bit_setBit_same c.st 7 false (by decide)
  rw [Core.ie, enter_st, bit, getLsbD_setFld _ 8 2 _ (by decide), if_neg (by decide)]
  exact hset

theorem enter_pl : (c.enter v f).pl = v.tgt := by
  rw [Core.pl, enter_st, extractLsb'_setFld _ v.tgt (by decide)]

theorem enter_regs : ((c.enter v f).acc, (c.enter v f).ix0, (c.enter v f).ix1, (c.enter v f).prl, (c.enter v f).prh) =
    (c.acc, c.ix0, c.ix1, c.prl, c.prh) := by
  obtain ⟨m, u, t, hsp⟩ := setSpOf_eq c f v.tgt
  unfold Core.enter
  dsimp only
  rw [hsp]
  rfl

end Handler

/-! Taking an event whose frame can be pushed (R117, R118). -/

theorem enterEvent_pushed {a : Anat} {w w1 : World} {e : Nat} {v : Event} {late : Bool}
    (h : let c := (w.eng e).core.deliverAll late
      pushWords a e v.tgt (w.setEng e { w.eng e with core := c }) (c.spOf v.tgt - 96#64) (frameOf c v) = (.ok (), w1)) :
    let f := ((w.eng e).core.deliverAll late).spOf v.tgt - 96#64
    enterEvent a w e v late = w1.modEng e (fun x =>
      { x with core := x.core.enter v f, wait := .none, rbuf := [], rerr := none }) := by
  unfold enterEvent
  dsimp only at h ⊢
  rw [h]

/-! Interrupts and their sources (R135, R136, R138, R140, R246). -/

section Interrupts

variable {s : State} {e : Fin 104}

/-- An engine without tile instructions takes the interrupt at once. -/
theorem exec_interruptTake_open {k : BitVec 13} {src : Nat × BitVec 2} (hsrc : irqChoose s.anat s.w e.val = some src)
    (hopen : irqOpen s.anat s.w e.val = true) (htq : (s.w.eng e.val).tq = []) :
    exec (.interruptTake e k) s =
      toWorld s (enterIrq s.anat (s.w.modEng e.val (fun x => { x with wait := .none })) e.val src 0#64) := by
  show execInterruptTake e k s = _
  simp [execInterruptTake, toWorld, hsrc, hopen, htq]

theorem timeTo_reaches {w : World} {v : W64} (hrun : w.timeRun = true) (hbefore : w.time.toNat < v.toNat) :
    w.timeTo v = { w with time := v } := by
  simp [World.timeTo, hrun, hbefore]

theorem exec_timerMon : exec (.timerMon e) s = toWorld s (s.w.timeTo ((s.w.core e).sysGet 0x21A)) := rfl
theorem exec_timerSup : exec (.timerSup e) s = toWorld s (s.w.timeTo ((s.w.core e).sysGet 0x219)) := rfl

theorem exec_preemptionRequest_bound (h : s.anat.logicalOf e.val ≠ none) :
    exec (.preemptionRequest e) s = toWorld s (s.w.raiseIrq e.val 10) := by
  show execPreemptionRequest e s = _
  simp [execPreemptionRequest, toWorld, Option.isSome_iff_ne_none.mpr h]

theorem exec_internalStateError_bound (h : s.anat.logicalOf e.val ≠ none) (hrun : dieRuns s.anat e.val = true) :
    exec (.internalStateError e) s = toWorld s (machineCheck s.anat s.w e.val 2#8 0#64) := by
  show execInternalStateError e s = _
  simp [execInternalStateError, toWorld, Option.isSome_iff_ne_none.mpr h, hrun]

/-- An interrupt without `TILEINFO` as it is described to its handler. -/
theorem enterIrq_plain (src : Nat × BitVec 2) :
    enterIrq s.anat (s.w.modEng e.val (fun x => { x with wait := .none })) e.val src 0#64 =
      enterEvent s.anat (s.w.modEng e.val (fun x => { x with wait := .none })) e.val
        { code := BitVec.ofNat 8 src.1, intr := true, asyn := false, sub := 0#8, unit := 0, info := 0#16, faddr := 0#64
          tileInfo := 0#64, src := (s.w.core e).pl, tgt := src.2 } (lateChoice s.w) := by
  unfold enterIrq
  rw [eng_modEng]
  rfl

end Interrupts

/-- Settles O18: the handler starts in the registers that the entry makes, and each source is the case of its command. -/
theorem eventsAndInterrupts : Obligations.EventsAndInterrupts := by
  unfold Obligations.EventsAndInterrupts
  refine ⟨fun a w w1 e v late _ => ?entry, fun s e => ⟨fun k src hsrc hopen htq => ?take, fun hrun hbefore => ?mon,
    fun hrun hbefore => ?sup, fun h => ?preempt, fun h hrun => exec_internalStateError_bound h hrun⟩⟩
  case entry =>
    intro c f hpush t d
    have hentered : enterEvent a w e v late = w1.modEng e (fun x =>
        { x with core := x.core.enter v f, wait := .none, rbuf := [], rerr := none }) := enterEvent_pushed hpush
    have ht : t = d.enter v f := by
      show ((enterEvent a w e v late).eng e).core = _
      rw [hentered, eng_modEng]
    rw [ht, hentered]
    exact ⟨enter_spOf d v f, enter_ie d v f, enter_pl d v f, enter_vstart d v f, enter_pc d v f, enter_regs d v f,
      fun k hk => eng_modEng_other w1 _ hk, rfl⟩
  case take => rw [exec_interruptTake_open hsrc hopen htq, enterIrq_plain]
  case mon => rw [exec_timerMon, timeTo_reaches hrun hbefore]; rfl
  case sup => rw [exec_timerSup, timeTo_reaches hrun hbefore]; rfl
  case preempt => exact exec_preemptionRequest_bound h

end Sys2Proof.Machine
end

section
/-!
PROOFS. Integer reductions (R192 to R196): the tree over the active elements, and its sum in whatever order.
-/

namespace Sys2Proof.Machine

/-! The instructions. -/

/-- A non-resumable instruction starts at element 0 (R189). -/
theorem notResumable_does (s : State) (e : Fin 104) (w : World) {t : VT} (h : t.vstart = 0) :
    Does s e (notResumable t) w () w := need_does s e w (by simp [h])

/-- An integer reduction with legal fields. -/
theorem redInt_ok {s : State} {e : Fin 104} {o : VR} {w1 : World} (leaf : Nat → Nat → Nat) (wide : Bool)
    (f : Nat → Nat → Nat → Nat) (hi : Issues s e w1) (hok : redOk o (w1.core e).vt = true)
    (hint : (w1.core e).vt.isInt = true) (hstart : (w1.core e).vt.vstart = 0) :
    redInt e o leaf wide f s = .next (retired s w1 e 4 1
      (let c := w1.core e
       let t := c.vt
       let rw := if wide then 64 else t.ew
       let init := fld (c.vreg o.vb.toNat) 0 rw
       let r := redTree (fun a b => (f rw a b % 2 ^ rw, FFlags.none)) init (redLeaves c o t (leaf t.ew))
       (c.putLow o.vd.toNat rw (r.1.getD init)).vecEnd true FFlags.none)) := by
  let c := w1.core e
  let rw := if wide then 64 else c.vt.ew
  let init := fld (c.vreg o.vb.toNat) 0 rw
  let r := redTree (fun a b => (f rw a b % 2 ^ rw, FFlags.none)) init (redLeaves c o c.vt (leaf c.vt.ew))
  refine seqInstr_modC2 (w2 := w1) (fun k => k.putLow o.vd.toNat rw (r.1.getD init))
    (fun k => k.vecEnd true FFlags.none) hi ?_
  rw [(getC_does s e w1).bind, (need_does s e w1 (by simp [hok, hint])).bind]
  exact (notResumable_does s e w1 hstart).bind _

/-! The tree of a sum. -/

/-- The sum of the elements that are present. -/
def presentSum (l : List (Option Nat)) : Nat := (l.filterMap id).sum

@[simp] theorem presentSum_nil : presentSum [] = 0 := rfl

@[simp] theorem presentSum_some (a : Nat) (l : List (Option Nat)) : presentSum (some a :: l) = a + presentSum l := by
  simp [presentSum]

@[simp] theorem presentSum_none (l : List (Option Nat)) : presentSum (none :: l) = presentSum l := by
  simp [presentSum]

theorem redLevel_length {α : Type} (f : RedOp α) (l : List (Option α)) : (redLevel f l).1.length = (l.length + 1) / 2 := by
  induction l using redLevel.induct f with
  | case1 => simp [redLevel]
  | case2 x => simp [redLevel]
  | case3 r a b ih => simp only [redLevel, List.length_cons, ih]; omega
  | case4 r a ih => simp only [redLevel, List.length_cons, ih]; omega
  | case5 r b ih => simp only [redLevel, List.length_cons, ih]; omega

/-- A level has an element exactly where the level below has one. -/
theorem redLevel_present {α : Type} (f : RedOp α) (l : List (Option α)) :
    (∃ x, some x ∈ (redLevel f l).1) ↔ ∃ x, some x ∈ l := by
  induction l using redLevel.induct f with
  | case1 => rfl
  | case2 x => rfl
  | case3 r a b ih => simp [redLevel]
  | case4 r a ih => simp [redLevel]
  | case5 r b ih => cases b <;> simp [redLevel, ih]

/-- Addition modulo 2^w, as a combining step. -/
def addMod (w : Nat) : RedOp Nat := fun a b => ((a + b) % 2 ^ w, FFlags.none)

theorem add_mod_congr {m x y : Nat} (a : Nat) (h : x % m = y % m) : (a + x) % m = (a + y) % m := by
  rw [Nat.add_mod, h, ← Nat.add_mod]

theorem redLevel_addMod (w : Nat) (l : List (Option Nat)) :
    presentSum (redLevel (addMod w) l).1 % 2 ^ w = presentSum l % 2 ^ w := by
  induction l using redLevel.induct (addMod w) with
  | case1 => rfl
  | case2 x => rfl
  | case3 r a b ih =>
    have hpair : ((a + b) % 2 ^ w + presentSum (redLevel (addMod w) r).1) % 2 ^ w = (a + b + presentSum r) % 2 ^ w := by
      rw [Nat.mod_add_mod]
      exact add_mod_congr (a + b) ih
    simpa only [redLevel, addMod, presentSum_some, Nat.add_assoc] using hpair
  | case4 r a ih => simpa only [redLevel, presentSum_some, presentSum_none] using add_mod_congr a ih
  | case5 r b ih =>
    cases b with
    | none => simpa only [redLevel, presentSum_none] using ih
    | some b => simpa only [redLevel, presentSum_some, presentSum_none] using add_mod_congr b ih

theorem redLevels_length {α : Type} (f : RedOp α) (n : Nat) (l : List (Option α)) (fl : FFlags) (h : l.length ≤ 2 ^ n) :
    (redLevels f n l fl).1.length ≤ 1 := by
  induction n generalizing l fl with
  | zero => exact h
  | succ n ih =>
    refine ih _ _ ?_
    rw [redLevel_length]
    omega

theorem redLevels_present {α : Type} (f : RedOp α) (n : Nat) (l : List (Option α)) (fl : FFlags) :
    (∃ x, some x ∈ (redLevels f n l fl).1) ↔ ∃ x, some x ∈ l := by
  induction n generalizing l fl with
  | zero => rfl
  | succ n ih => exact (ih _ _).trans (redLevel_present f l)

theorem redLevels_addMod (w n : Nat) (l : List (Option Nat)) (fl : FFlags) :
    presentSum (redLevels (addMod w) n l fl).1 % 2 ^ w = presentSum l % 2 ^ w := by
  induction n generalizing l fl with
  | zero => rfl
  | succ n ih => exact (ih _ _).trans (redLevel_addMod w l)

/-- The root of the tree, where it has one, is combined with the initial value. -/
theorem redTree_root {α : Type} (f : RedOp α) (init : α) (l : List (Option α)) :
    (redTree f init l).1 = (redLevels f 13 l FFlags.none).1.head?.join.map (fun y => (f init y).1) := by
  unfold redTree
  split
  case h_1 y t fl heq => simp [heq]
  case h_2 r fl hroot heq =>
    cases r with
    | nil => simp [heq]
    | cons x t =>
      cases x with
      | none => simp [heq]
      | some y => exact absurd rfl (hroot y t)

theorem redTree_addMod {w init : Nat} {l : List (Option Nat)} (hlen : l.length ≤ 8192) (hsome : ∃ x, some x ∈ l) :
    (redTree (addMod w) init l).1 = some ((init + presentSum l) % 2 ^ w) := by
  have hroot := redLevels_length (addMod w) 13 l FFlags.none hlen
  have hsum := redLevels_addMod w 13 l FFlags.none
  obtain ⟨x, hx⟩ := (redLevels_present (addMod w) 13 l FFlags.none).mpr hsome
  obtain ⟨y, hy⟩ : ∃ y, (redLevels (addMod w) 13 l FFlags.none).1 = [y] :=
    List.length_eq_one_iff.mp (Nat.le_antisymm hroot (List.length_pos_of_mem hx))
  rw [hy] at hx hsum
  obtain rfl : some x = y := List.mem_singleton.mp hx
  have hx : x % 2 ^ w = presentSum l % 2 ^ w := by
    simpa only [presentSum_some, presentSum_nil, Nat.add_zero] using hsum
  rw [redTree_root, hy]
  exact congrArg some (add_mod_congr init hx)

theorem redTree_absent {α : Type} (f : RedOp α) (init : α) {l : List (Option α)} (h : ∀ x, some x ∉ l) :
    (redTree f init l).1 = none := by
  have hroot : ¬∃ x, some x ∈ (redLevels f 13 l FFlags.none).1 := by
    rw [redLevels_present]
    simpa using h
  rw [redTree_root]
  cases hr : (redLevels f 13 l FFlags.none).1 with
  | nil => rfl
  | cons y t =>
    cases y with
    | none => rfl
    | some y => exact absurd ⟨y, by simp [hr]⟩ hroot

/-- Settles O29: each instruction is the reduction of its table entry, and every level of the tree keeps the sum modulo the
width and whether an element is present. -/
theorem integerReductions : Obligations.IntegerReductions := by
  unfold Obligations.IntegerReductions
  refine ⟨fun s e o w1 hi hok hint hstart htype => ?instructions, fun w init l hlen hsome => ?sum,
    fun init f l _ hnone => redTree_absent f init hnone⟩
  case sum =>
    rw [← List.sum_eq_foldl]
    exact redTree_addMod hlen hsome
  case instructions =>
    have hinst : (s.w.eng e.val).core.vt.isInt = true := htype ▸ hint
    intro p hp
    have hmeans : exec (p.1 e o) s = redInt e o p.2.2.1 p.2.1 p.2.2.2 s := by
      simp only [List.mem_cons, List.not_mem_nil, or_false] at hp
      obtain rfl | rfl | rfl | rfl | rfl | rfl | rfl | rfl | rfl := hp
      case inl | inr.inr.inl | inr.inr.inr.inl => exact if_pos hinst
      all_goals rfl
    exact hmeans.trans (redInt_ok p.2.2.1 p.2.1 p.2.2.2 hi hok hint hstart)

end Sys2Proof.Machine
end

section
/-!
PROOFS. Vector loads and stores element by element (R176, R180, R181, R186 to R190).
-/

namespace Sys2Proof.Machine

theorem EM.tryCatch_run {α : Type} (x : EM α) (h : Exc → EM α) (n : Env) (w : World) :
    (tryCatch x h : EM α) n w = match x n w with
      | .ok a w1 => .ok a w1
      | .error er w1 => h er n w1 := by
  show EStateM.tryCatch (x n) (fun er => h er n) w = _
  unfold EStateM.tryCatch
  cases x n w <;> rfl

/-! What a program answers, where it raises nothing. -/

/-- Whatever x answers meets P. -/
def Answers {α : Type} (x : EM α) (P : α → Prop) : Prop :=
  ∀ (n : Env) (w w1 : World) (a : α), x n w = .ok a w1 → P a

section Answers

variable {α β : Type} {P : α → Prop} {Q : β → Prop}

theorem answers_pure {a : α} (h : P a) : Answers (pure a) P := by
  rintro n w w1 b hb
  cases hb
  exact h

theorem answers_throw (x : Exc) : Answers (throw x : EM α) P := by
  rintro n w w1 b hb
  cases hb

theorem Answers.bind {x : EM β} {f : β → EM α} (hx : Answers x Q) (hf : ∀ b, Q b → Answers (f b) P) :
    Answers (x >>= f) P := by
  intro n w w1 a ha
  rw [EM.bind_run] at ha
  cases hrun : x n w with
  | error er w2 => simp [hrun] at ha
  | ok b w2 => exact hf b (hx n w w2 b hrun) n w2 w1 a (by simpa [hrun] using ha)

/-- The rest of a program decides its answer. -/
theorem answers_after (x : EM β) {f : β → EM α} (hf : ∀ b, Answers (f b) P) : Answers (x >>= f) P :=
  Answers.bind (Q := fun _ => True) (fun _ _ _ _ _ => trivial) (fun b _ => hf b)

theorem answers_checked {c : Prop} [Decidable c] (x : EM β) {y : EM α} (hy : Answers y P) :
    Answers (if c then x >>= fun _ => y else y) P := by
  split
  · exact answers_after x (fun _ => hy)
  · exact hy

theorem answers_mapM {γ δ : Type} {f : γ → EM α} {g : α → δ} {h : γ → δ} (hf : ∀ x, Answers (f x) (fun a => g a = h x))
    (l : List γ) : Answers (l.mapM f) (fun r => r.map g = l.map h) := by
  induction l with
  | nil => exact answers_pure rfl
  | cons x r ih =>
    rw [List.mapM_cons]
    exact (hf x).bind (fun a ha => ih.bind (fun as has => answers_pure (by simp [ha, has])))

theorem Answers.tryCatch {x : EM α} {h : Exc → EM α} (hx : Answers x P) (hh : ∀ er, Answers (h er) P) :
    Answers (tryCatch x h) P := by
  intro n w w1 a ha
  rw [EM.tryCatch_run] at ha
  cases hrun : x n w with
  | ok b w2 => exact hx n w w1 a (by simpa [hrun] using ha)
  | error er w2 => exact hh er n w2 w1 a (by simpa [hrun] using ha)

/-- A trap at an element raises again once what lies below it is done. -/
theorem answers_atElement {i : Nat} {va : W64} {done : EM Unit} {act : EM α} (h : Answers act P) :
    Answers (atElement i va done act) P := by
  refine h.tryCatch (fun er => ?_)
  cases er with
  | trap t => exact answers_after _ (fun _ => answers_after _ (fun _ => answers_throw _))
  | park _ _ | wait => exact answers_throw _

end Answers

/-! Stores. -/

/-- Where a piece of a store goes, and its bytes. -/
def Piece.content (p : Piece) : W64 × List Byte := (p.va, p.bytes)

theorem placePiece_content (guard : Bool) (va : W64) (bytes : List Byte) :
    Answers (placePiece guard va bytes) (fun p => p.content = (va, bytes)) := by
  unfold placePiece
  refine answers_after _ (fun t => answers_after _ (fun env => answers_after _ (fun x => answers_after _ (fun w => ?_))))
  dsimp only
  refine answers_checked _ ?_
  split
  case h_1 | h_2 => exact answers_throw _
  case h_3 off _ =>
    split
    case h_1 => exact answers_throw _
    case h_2 =>
      split
      · exact answers_checked _ (answers_pure rfl)
      · exact answers_pure rfl
  case h_4 => exact answers_pure rfl

/-- The bytes of the fields of element i, and their addresses. -/
def elementStored (m : AMode) (o : VM) (c : Core) (b : W64 × W64) (n i : Nat) : List (W64 × List Byte) :=
  (List.range (fieldsOf m o)).map (fun f => (vmAddr m o c b.1 b.2 i f, leBytes n (storedValue m o c i f)))

theorem vecPieces_content (m : AMode) (o : VM) (c : Core) (b : W64 × W64) (n : Nat) (l : List Nat) (acc : List Piece) :
    Answers (vecPieces m o c b n l acc) (fun ps => ps.map Piece.content =
      acc.map Piece.content ++ ((l.filter (vmActive m o c)).map (elementStored m o c b n)).flatten) := by
  induction l generalizing acc with
  | nil => exact answers_pure (by simp)
  | cons i r ih =>
    unfold vecPieces
    by_cases hact : vmActive m o c i = true
    · rw [if_pos hact]
      refine Answers.bind (Q := fun ps => ps.map Piece.content = elementStored m o c b n i)
        (answers_mapM (fun f => answers_atElement ?_) _) (fun ps hps => ?_)
      · exact answers_checked _ (placePiece_content true _ _)
      · simpa [hact, hps] using ih (acc ++ ps)
    · rw [if_neg hact]
      simpa [hact] using ih acc

/-- A vector store with legal fields and room in the store buffer. -/
theorem vecStore_ok {s : State} {e : Fin 104} {o : VM} {m : AMode} {w1 w2 w3 : World} {b : W64 × W64} {ps : List Piece}
    (hi : Issues s e w1) (hroom : (w1.eng e.val).sbRoom ≠ 0) (hok : vmOk m o (w1.core e).vt false = true)
    (hbase : Does s e (vmBase m o) w1 b w1)
    (hps : Does s e (vecPieces m o (w1.core e) b (vmCount m (w1.core e).vt).2
      (List.range (vmCount m (w1.core e).vt).1) []) w1 ps w2)
    (hret : Does s e (retirePieces 1 ps) w2 () w3) :
    vecStore e o m s = .next (retired s w3 e 4 1 ((w3.core e).vecEnd false FFlags.none)) := by
  refine seqInstr_modC (fun c => c.vecEnd false FFlags.none) hi ?_
  rw [(getC_does s e w1).bind, (need_does s e w1 hok).bind, hbase.bind, (getE_does s e w1).bind, if_neg hroom]
  refine (hps.bind _).trans ?_
  rw [hret.bind]
  rfl

theorem retirePieces_blocks {s : State} {e : Fin 104} {cls : Nat} {ps : List Piece} {w1 w2 : World}
    (hspec : (w1.eng e.val).speculating = false) (h : Does s e (retirePieces cls ps) w1 () w2) :
    w2 = w1.modEng e.val (fun y => (blockEntries y cls ps).foldl Engine.pushStore y) := by
  unfold Does retirePieces at h
  rw [(getE_does s e w1).bind, if_neg (by simp [hspec]), modE_run] at h
  cases h
  rfl

/-! Loads. -/

/-- A vector load with legal fields. -/
theorem vecLoad_ok {s : State} {e : Fin 104} {o : VM} {m : AMode} {w1 w2 : World} {b : W64 × W64}
    (hi : Issues s e w1) (hok : vmOk m o (w1.core e).vt true = true) (hbase : Does s e (vmBase m o) w1 b w1)
    (hload : Does s e (loadElements m o (w1.core e) b (List.range (vmCount m (w1.core e).vt).1)) w1 () w2) :
    vecLoad e o m s = .next (retired s w2 e 4 1 ((w2.core e).vecEnd true FFlags.none)) := by
  refine seqInstr_modC (fun c => c.vecEnd true FFlags.none) hi ?_
  rw [(getC_does s e w1).bind, (need_does s e w1 hok).bind, hbase.bind, hload.bind]
  rfl

theorem loadElement_does {s : State} {e : Fin 104} {va : W64} {n : Nat} {u v w : World} {t : TlbEntry} {l : Loaded}
    (halign : va.toNat % n = 0) (ht : Does s e (translate va .load) u t v) (hl : Does s e (loadVia t va n vectorLoad) v l w)
    (htag : l.tag ≠ 5#4) : Does s e (loadElement va n) u (leNat l.bytes, false) w := by
  unfold Does loadElement
  rw [if_neg (not_not_intro halign)]
  refine (ht.bind _).trans ?_
  rw [hl.bind, if_neg htag]
  rfl

theorem atElement_does {α : Type} {s : State} {e : Fin 104} {i : Nat} {va : W64} {done : EM Unit} {act : EM α} {u v : World}
    {a : α} (h : Does s e act u a v) : Does s e (atElement i va done act) u a v := by
  unfold Does at h ⊢
  rw [atElement, EM.tryCatch_run, h]

/-- An active element of one field is read and written before the elements after it. -/
theorem loadElements_active {s : State} {e : Fin 104} {m : AMode} {o : VM} {c : Core} {b : W64 × W64} {i x : Nat} {r : List Nat}
    {u v : World} (hone : fieldsOf m o = 1) (hact : vmActive m o c i = true)
    (hload : Does s e (loadElement (vmAddr m o c b.1 b.2 i 0) (vmCount m c.vt).2) u (x, false) v) :
    loadElements m o c b (i :: r) ⟨s.anat, e.val⟩ u = loadElements m o c b r ⟨s.anat, e.val⟩
      (v.modEng e.val (fun y => { y with core := putLoaded m o y.core i [x] })) := by
  have hread := atElement_does (i := i) (va := vmAddr m o c b.1 b.2 i 0) (done := loadedBelow m o c i) hload
  rw [loadElements, if_pos hact, hone]
  refine (EM.bind_ok (a := [(x, false)]) (w1 := v) _ ?_).trans rfl
  rw [List.range_one, List.mapM_cons]
  exact (hread.bind _).trans rfl

theorem loadElements_inactive {m : AMode} {o : VM} {c : Core} {b : W64 × W64} {i : Nat} {r : List Nat}
    (hact : vmActive m o c i = false) (hkeep : ¬(c.vt.vstart ≤ i ∧ c.vt.mu = true)) :
    loadElements m o c b (i :: r) = loadElements m o c b r := by
  rw [loadElements, if_neg (by simp [hact]), if_neg (by simpa using hkeep)]

/-- Settles O28: the loop over the elements of a load is taken one element at a time, and the pieces of a store are followed
through the loop that makes them. -/
theorem vectorMemory : Obligations.VectorMemory := by
  unfold Obligations.VectorMemory
  refine ⟨fun s e o w1 w3 b hi p hp hok hbase => ⟨fun hload => ?load, fun i r u v v' t l hone => ⟨?active, ?inactive⟩,
    fun _ => rfl⟩, fun s e o w1 w2 w3 b ps hi hroom p hp hok hbase hps hret => ⟨?store, ?content, ?blocks⟩⟩
  case load =>
    have hmeans : exec (p.1 e o) s = vecLoad e o p.2 s := by
      simp only [List.mem_cons, List.not_mem_nil, or_false] at hp
      obtain rfl | rfl | rfl | rfl | rfl | rfl | rfl := hp
      all_goals rfl
    exact hmeans.trans (vecLoad_ok hi hok hbase hload)
  case active =>
    exact fun hact halign ht hl htag => loadElements_active hone hact (loadElement_does halign ht hl htag)
  case inactive =>
    exact fun hact hkeep => by rw [loadElements_inactive hact hkeep]
  case store =>
    have hmeans : exec (p.1 e o) s = vecStore e o p.2 s := by
      simp only [List.mem_cons, List.not_mem_nil, or_false] at hp
      obtain rfl | rfl | rfl | rfl | rfl | rfl | rfl := hp
      all_goals rfl
    exact hmeans.trans (vecStore_ok hi hroom hok hbase hps hret)
  case content =>
    exact vecPieces_content p.2 o (w1.core e) b _ _ [] _ w1 w2 ps hps
  case blocks => exact fun hspec => retirePieces_blocks hspec hret

end Sys2Proof.Machine
end

section
/-!
PROOFS. Element-wise vector instructions: integer arithmetic and compares (R159, R163, R164, R167, R171), floating point and
conversions (R164, R168 to R170, R175, R267).
-/

namespace Sys2Proof.Machine

/-! Integer arithmetic (R167). -/

theorem satU_add (w a b : Nat) : satU w ((a : Int) + b) = min (a + b) (2 ^ w - 1) := by
  have hnonneg : ¬((a : Int) + b < 0) := by omega
  have hcast : ((a : Int) + b ≥ 2 ^ w) ↔ 2 ^ w ≤ a + b := by exact_mod_cast Iff.rfl
  simp only [satU, if_neg hnonneg, hcast]
  split
  · omega
  · omega

theorem satU_sub {w a : Nat} (b : Nat) (ha : a < 2 ^ w) : satU w ((a : Int) - b) = a - b := by
  have hbelow : ¬((a : Int) - b ≥ 2 ^ w) := by
    have hcast : (a : Int) < 2 ^ w := by exact_mod_cast ha
    omega
  simp only [satU, if_neg hbelow]
  split
  · omega
  · omega

/-- An instruction computes, on elements that fit the width, what g says. -/
def VecIntMeans (s : State) (e : Fin 104) (o : VR) (i : Instr) (g : Nat → Nat → Nat → Nat) : Prop :=
  ∃ f : Nat → Nat → Nat → Nat, exec i s = vecInt e o f s ∧ ∀ w a b : Nat, a < 2 ^ w → b < 2 ^ w → f w a b = g w a b

section Integer

variable {s : State} {e : Fin 104} {o : VR} {w1 : World} {sc : Nat × FFlags}

theorem VecIntMeans.of_eq {i : Instr} {g : Nat → Nat → Nat → Nat} (h : exec i s = vecInt e o g s) : VecIntMeans s e o i g :=
  ⟨g, h, fun _ _ _ _ _ => rfl⟩

theorem vecIntMeans_vminu : VecIntMeans s e o (.vminu e o) (fun _ a b => min a b) :=
  ⟨fun _ a b => if a ≤ b then a else b, rfl, fun _ _ _ _ _ => Nat.min_def.symm⟩

theorem vecIntMeans_vmaxu : VecIntMeans s e o (.vmaxu e o) (fun _ a b => max a b) :=
  ⟨fun _ a b => if a ≤ b then b else a, rfl, fun _ _ _ _ _ => Nat.max_def.symm⟩

theorem vecIntMeans_vsaddu : VecIntMeans s e o (.vsaddu e o) (fun w a b => min (a + b) (2 ^ w - 1)) :=
  ⟨fun w a b => satU w ((a : Int) + b), rfl, fun w a b _ _ => satU_add w a b⟩

theorem vecIntMeans_vssubu : VecIntMeans s e o (.vssubu e o) (fun _ a b => a - b) :=
  ⟨fun w a b => satU w ((a : Int) - b), rfl, fun _ _ b ha _ => satU_sub b ha⟩

theorem VecIntMeans.exec_ok {i : Instr} {g : Nat → Nat → Nat → Nat} (h : VecIntMeans s e o i g) (hi : Issues s e w1)
    (ht : (w1.core e).vt.isInt = true) (hr : EltReady s e o w1 true sc)
    (hfit : ∀ j, (w1.core e).elt o.va.toNat (w1.core e).vt.ew j < 2 ^ (w1.core e).vt.ew ∧
      (w1.core e).eltB o sc.1 j < 2 ^ (w1.core e).vt.ew) :
    exec i s = .next (retired s w1 e 4 1
      (let c := w1.core e
       let t := c.vt
       c.eltDone c o sc.2 (fun j => (g t.ew (c.elt o.va.toNat t.ew j) (c.eltB o sc.1 j) % 2 ^ t.ew, FFlags.none)))) := by
  obtain ⟨f, hmeans, hsame⟩ := h
  rw [hmeans, vecInt_ok f hi ht hr]
  simp only [fun j => hsame _ _ _ (hfit j).1 (hfit j).2]

theorem execVmacc_ok (hi : Issues s e w1) (ht : (w1.core e).vt.isInt = true) (hr : EltReady s e o w1 true sc) :
    execVmacc e o s = .next (retired s w1 e 4 1
      (let c := w1.core e
       let t := c.vt
       c.eltDone c o sc.2 (fun i => ((c.elt o.va.toNat t.ew i * c.eltB o sc.1 i + c.elt o.vd.toNat t.ew i) % 2 ^ t.ew,
         FFlags.none)))) :=
  eltWise_ok hi ht hr

theorem execVnmsac_ok (hi : Issues s e w1) (ht : (w1.core e).vt.isInt = true) (hr : EltReady s e o w1 true sc) :
    execVnmsac e o s = .next (retired s w1 e 4 1
      (let c := w1.core e
       let t := c.vt
       c.eltDone c o sc.2 (fun i => (ofInt t.ew ((c.elt o.vd.toNat t.ew i : Int) - c.elt o.va.toNat t.ew i * c.eltB o sc.1 i),
         FFlags.none)))) :=
  eltWise_ok hi ht hr

end Integer

/-! Compares (R171). -/

section Compare

variable {s : State} {e : Fin 104} {o : VR} {w1 : World} {sc : Nat × FFlags} (hi : Issues s e w1)
  (hm : maskOk o.vm o.ms = true) (hd : maskReg o.vd = true) (ha : groupOk o.va.toNat (w1.core e).vt.g = true)
  (hb : (o.sc = false ∧ groupOk o.vb.toNat (w1.core e).vt.g = true ∧ sc = (0, FFlags.none)) ∨
    (o.sc = true ∧ o.vb = 0#5 ∧ Does s e (scalarElt (w1.core e).vt) w1 sc w1))

include hi hm hd ha hb

theorem cmpInt_ok (f : Nat → Nat → Nat → Bool) (ht : (w1.core e).vt.isInt = true) :
    cmpInt e o f s = .next (retired s w1 e 4 1
      (let c := w1.core e
       let t := c.vt
       c.cmpDone o sc.2 (fun i => (f t.ew (c.elt o.va.toNat t.ew i) (c.eltB o sc.1 i), FFlags.none)))) :=
  vecCmp_ok hi ht hm hd ha hb

theorem cmpFp_ok (strict : Bool) (f : Bool → Ordering → Bool) {k : Fmt} (hk : (w1.core e).vt.fmt = some k) :
    cmpFp e o strict f s = .next (retired s w1 e 4 1
      (let c := w1.core e
       let t := c.vt
       c.cmpDone o sc.2 (fun i =>
         let x := decodeF k (c.elt o.va.toNat t.ew i)
         let y := decodeF k (c.eltB o sc.1 i)
         let un := isNanV x || isNanV y
         (f un (cmpF x y), if isSNan x || isSNan y || (strict && un) then FFlags.inval else FFlags.none)))) := by
  unfold cmpFp
  rw [vecCmp_ok hi (by simp [hk]) hm hd ha hb]
  simp only [hk]

end Compare

/-- Settles O25: each row of the tables is the instruction's own function, and the rules of element-wise operations and
compares say the rest. -/
theorem vectorIntegerAndCompares : Obligations.VectorIntegerAndCompares := by
  unfold Obligations.VectorIntegerAndCompares
  refine ⟨fun s e o w1 sc hi hr ht => ⟨?table, execVmacc_ok hi ht hr, execVnmsac_ok hi ht hr⟩,
    fun s e o w1 sc hi hm hd ha hb => ⟨fun ht p hp => ?int, fun k hk p hp => ?fp⟩⟩
  case table =>
    intro p hp hfit
    have hmeans : VecIntMeans s e o (p.1 e o) p.2 := by
      revert p
      simp only [List.forall_mem_cons, List.not_mem_nil, false_implies, implies_true, and_true]
      exact ⟨.of_eq rfl, .of_eq rfl, .of_eq rfl, .of_eq rfl, .of_eq rfl, .of_eq rfl, .of_eq rfl, .of_eq rfl, .of_eq rfl,
        .of_eq rfl, vecIntMeans_vminu, .of_eq rfl, vecIntMeans_vmaxu, .of_eq rfl, .of_eq rfl, .of_eq rfl, .of_eq rfl,
        .of_eq rfl, .of_eq rfl, .of_eq rfl, vecIntMeans_vsaddu, .of_eq rfl, vecIntMeans_vssubu⟩
    exact hmeans.exec_ok hi ht hr hfit
  case int =>
    have hcmp (f : Nat → Nat → Nat → Bool) := cmpInt_ok hi hm hd ha hb f ht
    simp only [List.mem_cons, List.not_mem_nil, or_false] at hp
    obtain rfl | rfl | rfl | rfl | rfl | rfl | rfl | rfl := hp
    · exact hcmp (fun _ x y => decide (x = y))
    · exact hcmp (fun _ x y => decide (x ≠ y))
    · exact hcmp (fun v x y => decide (sInt v x < sInt v y))
    · exact hcmp (fun v x y => decide (sInt v x ≤ sInt v y))
    · exact hcmp (fun _ x y => decide (x < y))
    · exact hcmp (fun _ x y => decide (x ≤ y))
    · exact hcmp (fun v x y => decide (sInt v y < sInt v x))
    · exact hcmp (fun _ x y => decide (y < x))
  case fp =>
    have hmeans : exec (p.1 e o) s = cmpFp e o p.2.1 p.2.2 s := by
      simp only [List.mem_cons, List.not_mem_nil, or_false] at hp
      obtain rfl | rfl | rfl | rfl | rfl := hp
      all_goals rfl
    exact hmeans.trans (cmpFp_ok hi hm hd ha hb p.2.1 p.2.2 hk)

/-! Conversions (R175). -/

/-- Draws are reserved where the instruction rounds by draw; nothing but the registers changes. -/
theorem reserve_does (s : State) (e : Fin 104) (w : World) (rounds : Bool) :
    ∃ v : World, Does s e (if rounds && decide ((w.core e).vt.rm = 2) then reserveDraws (w.core e).vt.vl else pure 0) w
        ((w.core e).drawsFor rounds).1 v ∧ v.core e = ((w.core e).drawsFor rounds).2 ∧
      ∀ (l cy : Nat) (c : Core), retired s v e l cy c = retired s w e l cy c := by
  by_cases hdraw : (rounds && decide ((w.core e).vt.rm = 2)) = true
  · simp only [Core.drawsFor, if_pos hdraw]
    let x := (w.core e).sysGet 0x1BF
    let reserved (k : Core) : Core := k.sysSet 0x1BF (setFld x 0 52 (fld x 0 52 + (w.core e).vt.vl))
    exact ⟨w.modEng e.val (fun y => { y with core := reserved y.core }), rfl, core_modC w e reserved,
      fun l cy c => retired_modC s w e l cy reserved c⟩
  · simp only [Core.drawsFor, if_neg hdraw]
    exact ⟨w, rfl, rfl, fun _ _ _ => rfl⟩

theorem vecCvt_ok {s : State} {e : Fin 104} {o : VR} {draws : Bool} {sides : Nat → Option (Side × Side)} {w1 : World}
    {a b : Side} (hi : Issues s e w1) (hsides : sides (w1.core e).vt.et = some (a, b)) (hm : maskOk o.vm o.ms = true)
    (ha : groupOk o.va.toNat (if a.width = (w1.core e).vt.ew then (w1.core e).vt.g else (w1.core e).vt.groupFor a.width) = true)
    (hd : groupOk o.vd.toNat (if b.width = (w1.core e).vt.ew then (w1.core e).vt.g else (w1.core e).vt.groupFor b.width) = true) :
    vecCvt e o draws sides s = .next (retired s w1 e 4 1
      (let c := w1.core e
       let d := c.drawsFor draws
       let res (i : Nat) := convert a b (c.vecMode c.vt d.1 i) (c.elt o.va.toNat a.width i)
       ({ d.2 with v := (c.putElts o o.vd.toNat b.width (fun i => some (res i).1)).v } : Core).vecEnd true
         (c.eltFlags o FFlags.none (fun i => (res i).2)))) := by
  obtain ⟨w2, hdraws, hcore, hretired⟩ := reserve_does s e w1 draws
  let c := w1.core e
  let res : Nat → Nat × FFlags := fun i => convert a b (c.vecMode c.vt (c.drawsFor draws).1 i) (c.elt o.va.toNat a.width i)
  refine (seqInstr_modC2 (w2 := w2) (fun k => { k with v := (c.putElts o o.vd.toNat b.width (fun i => some (res i).1)).v })
    (fun k => k.vecEnd true (c.eltFlags o FFlags.none (fun i => (res i).2))) hi ?_).trans ?_
  · rw [(getC_does s e w1).bind]
    simp only [hsides]
    rw [(need_does s e w1 (by simp [hm, ha, hd])).bind]
    exact (hdraws.bind _).trans rfl
  · rw [hretired, hcore]

/-- Settles O26: each instruction is its exact function, rounded element by element. -/
theorem vectorFloat : Obligations.VectorFloat := by
  unfold Obligations.VectorFloat
  refine ⟨fun s e o w1 sc k hi hk => ⟨fun hr => ?binary, fun hr => ?unary⟩,
    fun s e o ty w1 hi p hp a b hsides hm ha hd => ?conversion⟩
  case binary =>
    exact ⟨vecFp_ok addF hi hk hr, vecFp_ok (fun a b => addF a (negF b)) hi hk hr, vecFp_ok mulF hi hk hr,
      vecFp_ok divF hi hk hr, vecFp_ok (minMaxF false) hi hk hr, vecFp_ok (minMaxF true) hi hk hr, vecFma_ok fmaF hi hk hr,
      vecFma_ok (fun a b d => fmaF (negF a) b (negF d)) hi hk hr, vecFma_ok (fun a b d => fmaF a b (negF d)) hi hk hr,
      vecFma_ok (fun a b d => fmaF (negF a) b d) hi hk hr⟩
  case unary =>
    exact ⟨vecFp1_ok sqrtF hi hk hr, vecFp1_ok (fun a => exact (hush (absF a))) hi hk hr,
      vecFp1_ok (fun a => exact (hush (negF a))) hi hk hr⟩
  case conversion =>
    have hcvt (draws : Bool) (sides : Nat → Option (Side × Side)) (h : sides (w1.core e).vt.et = some (a, b)) :=
      vecCvt_ok (draws := draws) hi h hm ha hd
    let other : Option Side := if ty.toNat ≤ 3 then etSide ty.toNat else none
    simp only [List.mem_cons, List.not_mem_nil, or_false] at hp
    obtain rfl | rfl | rfl | rfl | rfl := hp
    · exact hcvt true (fun et => (pairSides et (codeSide ty.toNat) sameKind).map Prod.swap) hsides
    · exact hcvt true (fun et => pairSides et (codeSide ty.toNat) sameKind) hsides
    · exact hcvt true (fun et => (pairSides et other (fun a b => !sameKind a b)).map Prod.swap) hsides
    · exact hcvt false (fun et => pairSides et other (fun a b => !sameKind a b)) hsides
    · exact hcvt true (fun et => (pairSides et (if 4 ≤ ty.toNat then etSide ty.toNat else none) sameKind).map Prod.swap)
        hsides

end Sys2Proof.Machine
end

section
/-!
PROOFS. Mask registers, vector lengths, and the moves and permutations of vectors (R152, R164, R165, R172 to R174).
-/

namespace Sys2Proof.Machine

theorem indexReg_does {s : State} {e : Fin 104} {w : World} {r : TWord} (h : Usable (w.core e) .sub r.t) :
    Does s e (indexReg r) w r.v w := by
  unfold Does indexReg
  rw [(checkTag_does h).bind]
  rfl

section

variable {s : State} {e : Fin 104} {o : VR} {w1 : World} (hi : Issues s e w1)

include hi

/-! Masks (R172). -/

theorem maskOp_ok {one : Bool} {f : Bool → Bool → Bool} (hf : maskFields o = true) (hone : one = true → o.vb = 0#5) :
    maskOp e o one f s = .next (retired s w1 e 4 1
      (let c := w1.core e
       ({ c with m := (c.putMask o o.vd.toNat (fun i =>
         f (bit (c.mreg o.va.toNat) i) (bit (c.mreg o.vb.toNat) i))).m } : Core).vecEnd true FFlags.none)) := by
  have hunmasked : { o with vm := false } = o := by
    have hvm : o.vm = false := by simp_all [maskFields]
    rw [← hvm]
  let c := w1.core e
  refine seqInstr_modC2 (w2 := w1) (fun k => { k with m := (c.putMask o o.vd.toNat (fun i =>
    f (bit (c.mreg o.va.toNat) i) (bit (c.mreg o.vb.toNat) i))).m }) (fun k => k.vecEnd true FFlags.none) hi ?_
  rw [(getC_does s e w1).bind, (need_does s e w1 (by cases one <;> simp_all)).bind, hunmasked]
  rfl

theorem maskToAcc_ok (f : BitVec 8192 → Nat → W64) (hf : maskFields o = true) (hstart : (w1.core e).vt.vstart = 0) :
    maskToAcc e o f s = .next (retired s w1 e 4 1
      (let c := w1.core e
       ({ c with acc := ⟨f (c.mreg o.va.toNat) c.vt.vl, 1#4⟩ } : Core).vecEnd false FFlags.none)) := by
  let c := w1.core e
  refine seqInstr_modC2 (w2 := w1) (fun k => { k with acc := ⟨f (c.mreg o.va.toNat) c.vt.vl, 1#4⟩ })
    (fun k => k.vecEnd false FFlags.none) hi ?_
  rw [(getC_does s e w1).bind, (need_does s e w1 hf).bind, (notResumable_does s e w1 hstart).bind]
  rfl

/-! Lengths (R152, R165). -/

/-- The registers once `VTYPE` is v and `VL` is n. -/
def Core.withLength (c : Core) (v : W64) (n : Nat) : Core :=
  ({ (c.setVtype v).sysSet 0x100 (w64 n) with acc := ⟨w64 n, 1#4⟩ } : Core).vecEnd true FFlags.none

theorem setLength_ok {q : SOp} {v : TWord} {w2 : World} {useCount : Bool} (hr : Reads s e q .sub w1 v w2)
    (hv : vtypeOk v.v = true) (hu : useCount = true → Usable (w1.core e) .sub (w1.core e).acc.t) :
    setLength e q useCount s = .next (retired s w2 e (lenOf q) 1
      (let m := ((w2.core e).setVtype v.v).vt.vlmax
       (w2.core e).withLength v.v (if useCount then min (w1.core e).acc.v.toNat m else m))) := by
  obtain ⟨f, hf⟩ := operand_form hr
  let count : Nat := if useCount then (w1.core e).acc.v.toNat else 0
  let len (m : Nat) : Nat := if useCount then (if count < m then count else m) else m
  have hcount : Does s e (if useCount then (do return (← useAcc .sub).toNat) else return 0 : EM Nat) w1 count w1 := by
    cases useCount with
    | false => rfl
    | true => exact ((useAcc_does (hu rfl)).bind _).trans rfl
  have hlen (m : Nat) : len m = if useCount then min (w1.core e).acc.v.toNat m else m := by
    cases useCount with
    | false => rfl
    | true =>
      show (if (w1.core e).acc.v.toNat < m then (w1.core e).acc.v.toNat else m) = min (w1.core e).acc.v.toNat m
      split
      · omega
      · omega
  refine (seqInstr_modC2 (w2 := w2) (fun c => let d := c.setVtype v.v
    { d.sysSet 0x100 (w64 (len d.vt.vlmax)) with acc := ⟨w64 (len d.vt.vlmax), 1#4⟩ })
    (fun k => k.vecEnd true FFlags.none) hi ?_).trans ?_
  · rw [(form_does hf).bind, hcount.bind]
    refine (Does.bind (s := s) (e := e) hr _).trans ?_
    rw [(need_does s e w2 hv).bind]
    rfl
  · simp only [hlen]
    rfl

/-! Moves and permutations into a group (R173, R174). -/

/-- The registers after an instruction that writes group VD from f. -/
def Core.groupPut (c : Core) (o : VR) (f : Nat → Option Nat) (fl : FFlags) : Core :=
  ({ c with v := (c.putElts o o.vd.toNat c.vt.ew f).v } : Core).vecEnd true fl

theorem seqInstr_putGroup {u l cy : Nat} {x : EM Unit} (f : Nat → Option Nat) (fl : FFlags)
    (h : x ⟨s.anat, e.val⟩ w1 = (do putGroup (w1.core e) o f; vecDone true fl : EM Unit) ⟨s.anat, e.val⟩ w1) :
    seqInstr u l cy e x s = .next (retired s w1 e l cy ((w1.core e).groupPut o f fl)) :=
  seqInstr_modC2 (w2 := w1) (fun k => { k with v := ((w1.core e).putElts o o.vd.toNat (w1.core e).vt.ew f).v })
    (fun k => k.vecEnd true fl) hi h

section

variable (hsc : o.sc = false) (hm : maskOk o.vm o.ms = true) (hd : groupOk o.vd.toNat (w1.core e).vt.g = true)

include hsc hm hd

theorem execVbcast_ok {x : Nat × FFlags} (hx : Does s e (scalarElt (w1.core e).vt) w1 x w1) :
    execVbcast e o s = .next (retired s w1 e 4 1 ((w1.core e).groupPut o (fun _ => some x.1) x.2)) := by
  refine seqInstr_putGroup hi (fun _ => some x.1) x.2 ?_
  rw [(getC_does s e w1).bind, (need_does s e w1 (by simp [hm, hd, hsc])).bind, hx.bind]

theorem execVid_ok : execVid e o s = .next (retired s w1 e 4 1 ((w1.core e).groupPut o (fun i => some i) FFlags.none)) := by
  refine seqInstr_putGroup hi (fun i => some i) FFlags.none ?_
  rw [(getC_does s e w1).bind, (need_does s e w1 (by simp [hm, hd, hsc])).bind]

theorem execViota_ok (ha : maskReg o.va = true) (hstart : (w1.core e).vt.vstart = 0) :
    execViota e o s = .next (retired s w1 e 4 1 ((w1.core e).groupPut o (fun i =>
      some (((List.range i).filter (fun j => bit ((w1.core e).mreg o.va.toNat) j)).length)) FFlags.none)) := by
  refine seqInstr_putGroup hi (fun i =>
    some (((List.range i).filter (fun j => bit ((w1.core e).mreg o.va.toNat) j)).length)) FFlags.none ?_
  rw [(getC_does s e w1).bind, (need_does s e w1 (by simp [hm, hd, hsc, ha])).bind, (notResumable_does s e w1 hstart).bind]

variable (ha : groupOk o.va.toNat (w1.core e).vt.g = true)

include ha

theorem execVmv_ok : execVmv e o s = .next (retired s w1 e 4 1
    ((w1.core e).groupPut o (fun i => some ((w1.core e).elt o.va.toNat (w1.core e).vt.ew i)) FFlags.none)) := by
  refine seqInstr_putGroup hi (fun i => some ((w1.core e).elt o.va.toNat (w1.core e).vt.ew i)) FFlags.none ?_
  rw [(getC_does s e w1).bind, (need_does s e w1 (by simp [hm, hd, hsc, ha])).bind]

variable (hstart : (w1.core e).vt.vstart = 0)
  (hapart : groupsMeet o.vd.toNat (w1.core e).vt.g o.va.toNat (w1.core e).vt.g = false)

include hstart hapart

/-- A slide: f says which element is taken, or that zero is, or that the old element stays. -/
theorem slide_ok (f : VT → Nat → Nat → Option (Option Nat)) (hu : Usable (w1.core e) .sub (w1.core e).acc.t) :
    slide e o f s = .next (retired s w1 e 4 1 ((w1.core e).groupPut o (fun i =>
      (f (w1.core e).vt (w1.core e).acc.v.toNat i).map (fun j =>
        (j.map ((w1.core e).elt o.va.toNat (w1.core e).vt.ew)).getD 0)) FFlags.none)) := by
  refine seqInstr_putGroup hi _ FFlags.none ?_
  rw [(getC_does s e w1).bind, (need_does s e w1 (by simp [hm, hd, hsc, ha, hapart])).bind,
    (notResumable_does s e w1 hstart).bind, (indexReg_does hu).bind]
  refine congrArg (fun g => (do putGroup (w1.core e) o g; vecDone true FFlags.none : EM Unit) ⟨s.anat, e.val⟩ w1)
    (funext fun i => ?_)
  rcases f (w1.core e).vt (w1.core e).acc.v.toNat i with _ | _ | j
  all_goals rfl

theorem execVslideup_ok (hu : Usable (w1.core e) .sub (w1.core e).acc.t) :
    execVslideup e o s = .next (retired s w1 e 4 1 ((w1.core e).groupPut o (fun i =>
      if (w1.core e).acc.v.toNat ≤ i
        then some ((w1.core e).elt o.va.toNat (w1.core e).vt.ew (i - (w1.core e).acc.v.toNat))
        else none) FFlags.none)) := by
  unfold execVslideup
  rw [slide_ok hi hsc hm hd ha hstart hapart _ hu]
  simp only [apply_ite, Option.map_some, Option.map_none, Option.getD_some]

theorem execVslidedown_ok (hu : Usable (w1.core e) .sub (w1.core e).acc.t) :
    execVslidedown e o s = .next (retired s w1 e 4 1 ((w1.core e).groupPut o (fun i =>
      some (if i + (w1.core e).acc.v.toNat < (w1.core e).vt.vlmax
        then (w1.core e).elt o.va.toNat (w1.core e).vt.ew (i + (w1.core e).acc.v.toNat)
        else 0)) FFlags.none)) := by
  unfold execVslidedown
  rw [slide_ok hi hsc hm hd ha hstart hapart _ hu]
  simp only [apply_ite, Option.map_some, Option.map_none, Option.getD_some, Option.getD_none]

theorem execVrgather_ok (hb : groupOk o.vb.toNat (w1.core e).vt.g = true)
    (hapartB : groupsMeet o.vd.toNat (w1.core e).vt.g o.vb.toNat (w1.core e).vt.g = false) :
    execVrgather e o s = .next (retired s w1 e 4 1
      (let c := w1.core e
       c.groupPut o (fun i =>
        let j := c.elt o.vb.toNat c.vt.ew i
        some (if j < c.vt.vlmax then c.elt o.va.toNat c.vt.ew j else 0)) FFlags.none)) := by
  let c := w1.core e
  refine seqInstr_putGroup hi (fun i =>
    let j := c.elt o.vb.toNat c.vt.ew i
    some (if j < c.vt.vlmax then c.elt o.va.toNat c.vt.ew j else 0)) FFlags.none ?_
  rw [(getC_does s e w1).bind, (need_does s e w1 (by simp [hm, hd, hsc, ha, hb, hapart, hapartB])).bind,
    (notResumable_does s e w1 hstart).bind]

end

/-- The registers k once the elements in a list have been packed into group VD, read from the registers c. -/
def Core.pack (c : Core) (o : VR) (l : List Nat) (k : Core) : Core :=
  ((List.range l.length).zip l).foldl (fun k2 p => k2.setElt o.vd.toNat c.vt.ew p.1 (c.elt o.va.toNat c.vt.ew p.2)) k

theorem execVcompress_ok (hsc : o.sc = false) (hvm : o.vm = true) (hd : groupOk o.vd.toNat (w1.core e).vt.g = true)
    (ha : groupOk o.va.toNat (w1.core e).vt.g = true) (hstart : (w1.core e).vt.vstart = 0)
    (hapart : groupsMeet o.vd.toNat (w1.core e).vt.g o.va.toNat (w1.core e).vt.g = false) :
    execVcompress e o s = .next (retired s w1 e 4 1
      (let c := w1.core e
       let l := (List.range c.vt.vl).filter (c.active o)
       ({ c.pack o l c with acc := ⟨w64 l.length, 1#4⟩ } : Core).vecEnd true FFlags.none)) := by
  let c := w1.core e
  let l := (List.range c.vt.vl).filter (c.active o)
  let pack := c.pack o l
  refine (seqInstr_modC2 (w2 := w1.modEng e.val (fun x => { x with core := pack x.core }))
    (fun k => { k with acc := ⟨w64 l.length, 1#4⟩ }) (fun k => k.vecEnd true FFlags.none) hi ?_).trans ?_
  · rw [(getC_does s e w1).bind, (need_does s e w1 (by simp [hvm, hd, hsc, ha, hapart])).bind,
      (notResumable_does s e w1 hstart).bind]
    exact ((modC_does s e w1 pack).bind _).trans rfl
  · rw [retired_modC, core_modC]

/-! One element (R173). -/

section

variable (hsc : o.sc = false) (hvm : o.vm = false) (hms : o.ms = 0#3) (hstart : (w1.core e).vt.vstart = 0)
  (hu : Usable (w1.core e) .sub (w1.core e).ix0.t)

include hsc hvm hms hstart hu

theorem execVins_ok {x : Nat × FFlags} (hd : groupOk o.vd.toNat (w1.core e).vt.g = true)
    (hx : Does s e (scalarElt (w1.core e).vt) w1 x w1) :
    execVins e o s = .next (retired s w1 e 4 1
      (let c := w1.core e
       (if c.ix0.v.toNat < c.vt.vl then c.setElt o.vd.toNat c.vt.ew c.ix0.v.toNat x.1 else c).vecEnd true x.2)) := by
  have hfields : (!o.vm && decide (o.ms = 0#3) && groupOk o.vd.toNat (w1.core e).vt.g && !o.sc) = true := by
    simp [hvm, hms, hd, hsc]
  have hready := notResumable_does s e w1 hstart
  have hindex := indexReg_does (s := s) hu
  by_cases hin : (w1.core e).ix0.v.toNat < (w1.core e).vt.vl
  · simp only [if_pos hin]
    refine seqInstr_modC2 (w2 := w1) (fun k => k.setElt o.vd.toNat (w1.core e).vt.ew (w1.core e).ix0.v.toNat x.1)
      (fun k => k.vecEnd true x.2) hi ?_
    rw [(getC_does s e w1).bind, (need_does s e w1 hfields).bind, hready.bind, hx.bind, hindex.bind, if_pos hin]
    rfl
  · simp only [if_neg hin]
    refine seqInstr_modC (fun k => k.vecEnd true x.2) hi ?_
    rw [(getC_does s e w1).bind, (need_does s e w1 hfields).bind, hready.bind, hx.bind, hindex.bind, if_neg hin]
    rfl

variable (ha : groupOk o.va.toNat (w1.core e).vt.g = true)

include ha

theorem extract_int (sign : Bool) (hf : (w1.core e).vt.fmt = none) :
    extract e o sign s = .next (retired s w1 e 4 1
      (let c := w1.core e
       let x := c.elt o.va.toNat c.vt.ew c.ix0.v.toNat
       let v := if sign then BitVec.ofInt 64 (sInt c.vt.ew x) else w64 x
       ({ c with acc := ⟨if c.ix0.v.toNat < c.vt.vl then v else 0#64, 1#4⟩ } : Core).vecEnd false FFlags.none)) := by
  let c := w1.core e
  let x := c.elt o.va.toNat c.vt.ew c.ix0.v.toNat
  let v := if sign then BitVec.ofInt 64 (sInt c.vt.ew x) else w64 x
  refine seqInstr_modC2 (w2 := w1) (fun k => { k with acc := ⟨if c.ix0.v.toNat < c.vt.vl then v else 0#64, 1#4⟩ })
    (fun k => k.vecEnd false FFlags.none) hi ?_
  rw [(getC_does s e w1).bind, (need_does s e w1 (by simp [hvm, hms, ha, hsc])).bind, (notResumable_does s e w1 hstart).bind,
    (indexReg_does hu).bind]
  simp only [hf]
  rfl

/-- What an extract of a floating-point element delivers, and its flags. -/
def Core.extracted (c : Core) (o : VR) (k : Fmt) : W64 × FFlags :=
  let x := decodeF k (c.elt o.va.toNat c.vt.ew c.ix0.v.toNat)
  if c.ix0.v.toNat < c.vt.vl then
    (if isNanV x then 0x7FF8000000000000#64 else w64 (encodeF fmt64 .near x).1, (encodeF fmt64 .near x).2)
  else (0#64, FFlags.none)

theorem extract_fp (sign : Bool) {k : Fmt} (hf : (w1.core e).vt.fmt = some k) :
    extract e o sign s = .next (retired s w1 e 4 1
      (let c := w1.core e
       ({ c with acc := ⟨(c.extracted o k).1, 2#4⟩ } : Core).vecEnd true (c.extracted o k).2)) := by
  let c := w1.core e
  refine seqInstr_modC2 (w2 := w1) (fun q => { q with acc := ⟨(c.extracted o k).1, 2#4⟩ })
    (fun q => q.vecEnd true (c.extracted o k).2) hi ?_
  rw [(getC_does s e w1).bind, (need_does s e w1 (by simp [hvm, hms, ha, hsc])).bind, (notResumable_does s e w1 hstart).bind,
    (indexReg_does hu).bind]
  simp only [hf, Core.extracted]
  by_cases hin : (w1.core e).ix0.v.toNat < (w1.core e).vt.vl
  · simp only [c, if_pos hin]
    rfl
  · simp only [c, if_neg hin]
    rfl

end

end

/-- Settles O27: each instruction is the rule of its group of instructions. -/
theorem vectorMoves : Obligations.VectorMoves := by
  unfold Obligations.VectorMoves
  refine ⟨fun s e o q w1 w2 hi => ⟨fun hf => ?masks, fun hf hstart => ?summaries, fun v hr hv => ?lengths⟩,
    fun s e o w1 hi hsc => ⟨fun hm hd => ?groups, fun hvm hd ha hstart hapart => ?compress,
      fun hvm hms hstart hu => ⟨fun hd x hx => ?insert, fun ha hf => ?extractInt, fun ha k hf => ?extractFp⟩⟩⟩
  case masks =>
    have hmask (one : Bool) (f : Bool → Bool → Bool) := maskOp_ok (one := one) (f := f) hi hf
    exact ⟨hmask false (· && ·) nofun, hmask false (· || ·) nofun, hmask false (· != ·) nofun,
      hmask false (fun a b => a && !b) nofun, hmask false (fun _ _ => true) nofun, hmask false (fun _ _ => false) nofun,
      fun hvb => hmask true (fun a _ => !a) (fun _ => hvb)⟩
  case summaries =>
    exact ⟨maskToAcc_ok hi (fun m n => w64 ((List.range n).filter (fun i => bit m i)).length) hf hstart,
      maskToAcc_ok hi (fun m n => match (List.range n).find? (fun i => bit m i) with
        | some i => w64 i
        | none => 0xFFFFFFFFFFFFFFFF#64) hf hstart⟩
  case lengths =>
    exact ⟨fun hu => setLength_ok (useCount := true) hi hr hv (fun _ => hu), setLength_ok (useCount := false) hi hr hv nofun⟩
  case groups =>
    exact ⟨fun x hx => execVbcast_ok hi hsc hm hd hx, execVid_ok hi hsc hm hd, fun ha => execVmv_ok hi hsc hm hd ha,
      fun ha hstart hapart => ⟨fun hu => ⟨execVslideup_ok hi hsc hm hd ha hstart hapart hu,
        execVslidedown_ok hi hsc hm hd ha hstart hapart hu⟩,
        fun hb hapartB => execVrgather_ok hi hsc hm hd ha hstart hapart hb hapartB⟩,
      fun ha hstart => execViota_ok hi hsc hm hd ha hstart⟩
  case compress => exact execVcompress_ok hi hsc hvm hd ha hstart hapart
  case insert => exact execVins_ok hi hsc hvm hms hstart hu hd hx
  case extractInt =>
    exact ⟨extract_int hi hsc hvm hms hstart hu ha true hf, extract_int hi hsc hvm hms hstart hu ha false hf⟩
  case extractFp =>
    exact ⟨extract_fp hi hsc hvm hms hstart hu ha true hf, extract_fp hi hsc hvm hms hstart hu ha false hf⟩

end Sys2Proof.Machine
end

section
/-!
PROOFS. Floating-point reductions and statistics (R192 to R199), and expert routing (R311 to R317).
-/

namespace Sys2Proof.Machine

/-! Reductions and statistics (R192 to R199). -/

/-- The flags of the leaves of a reduction. -/
def leafFlags (l : List (Option (FVal × FFlags))) : FFlags :=
  l.foldl (fun a x => match x with | some y => a.or y.2 | none => a) FFlags.none

/-- A reduction in ascending order, as `vredosum` does it. -/
def redInOrder (f : RedOp FVal) (init : FVal) (l : List (Option FVal)) : Option FVal × FFlags :=
  l.foldl (fun acc x => match x with
    | some y => (some (f (acc.1.getD init) y).1, acc.2.or (f (acc.1.getD init) y).2)
    | none => acc) (none, FFlags.none)

/-- The bits that a floating-point reduction delivers, and its flags. -/
def Core.redFpResult (c : Core) (o : VR) (k : Fmt) (wide : Bool) (leaf : FVal → FVal × FFlags) (f : FVal → FVal → Exact)
    (tree : Bool) : Nat × FFlags :=
  let rk := if wide then fmt32 else k
  let bits := fld (c.vreg o.vb.toNat) 0 (if wide then 32 else c.vt.ew)
  let raw := redLeaves c o c.vt (fun x => leaf (decodeF k x))
  let ls := raw.map (fun x => x.map (fun y => y.1))
  let op : RedOp FVal := fun a b => redRound rk (f a b)
  let r := if tree then redTree op (decodeF rk bits) ls else redInOrder op (decodeF rk bits) ls
  (match r.1 with
    | some y => (encodeF rk .near y).1
    | none => bits, (leafFlags raw).or r.2)

/-- The flags of the leaves of `vstat`. -/
def tripleFlags (l : List (Option (Triple × FFlags))) : FFlags :=
  l.foldl (fun a x => match x with | some y => a.or y.2 | none => a) FFlags.none

/-- The bits of a triple, where there is one. -/
def tripleBits (r : Option Triple) (old : Nat) : Nat :=
  match r with
  | some y => y.bits
  | none => old

section

variable {s : State} {e : Fin 104} {o : VR} {w1 : World} {k : Fmt} (hi : Issues s e w1)
  (hk : (w1.core e).vt.fmt = some k) (hstart : (w1.core e).vt.vstart = 0)

include hi hk hstart

theorem redFp_ok (wide : Bool) (leaf : FVal → FVal × FFlags) (f : FVal → FVal → Exact) (tree : Bool)
    (hok : redOk o (w1.core e).vt = true) :
    redFp e o wide leaf f tree s = .next (retired s w1 e 4 1
      (let c := w1.core e
       let r := c.redFpResult o k wide leaf f tree
       (c.putLow o.vd.toNat (if wide then 32 else c.vt.ew) r.1).vecEnd true r.2)) := by
  let r := (w1.core e).redFpResult o k wide leaf f tree
  refine seqInstr_modC2 (w2 := w1) (fun q => q.putLow o.vd.toNat (if wide then 32 else (w1.core e).vt.ew) r.1)
    (fun q => q.vecEnd true r.2) hi ?_
  rw [(getC_does s e w1).bind, (need_does s e w1 (by simp [hok, hk])).bind, (notResumable_does s e w1 hstart).bind]
  simp only [hk, Option.getD_some]
  rfl

theorem execVstat_ok (hok : redOk o (w1.core e).vt = true) :
    execVstat e o s = .next (retired s w1 e 4 1
      (let c := w1.core e
       let raw := redLeaves c o c.vt (leafT k)
       let bits := fld (c.vreg o.vb.toNat) 0 96
       let r := redTree mergeT (tripleOf bits) (raw.map (fun x => x.map (fun y => y.1)))
       (c.putLow o.vd.toNat 96 (tripleBits r.1 bits)).vecEnd true ((tripleFlags raw).or r.2))) := by
  unfold execVstat
  generalize @redTree = tree
  let c := w1.core e
  let raw := redLeaves c o c.vt (leafT k)
  let bits := fld (c.vreg o.vb.toNat) 0 96
  let r := tree mergeT (tripleOf bits) (raw.map (fun x => x.map (fun y => y.1)))
  refine seqInstr_modC2 (w2 := w1) (fun q => q.putLow o.vd.toNat 96 (tripleBits r.1 bits))
    (fun q => q.vecEnd true ((tripleFlags raw).or r.2)) hi ?_
  rw [(getC_does s e w1).bind, (need_does s e w1 (by simp [hok, hk])).bind, (notResumable_does s e w1 hstart).bind]
  simp only [hk, Option.getD_some]
  rfl

theorem execVstatm_ok (hvm : o.vm = false) (hms : o.ms = 0#3) (hsc : o.sc = false) :
    execVstatm e o s = .next (retired s w1 e 4 1
      (let c := w1.core e
       let r := mergeT (tripleOf (fld (c.vreg o.va.toNat) 0 96)) (tripleOf (fld (c.vreg o.vb.toNat) 0 96))
       (c.putLow o.vd.toNat 96 r.1.bits).vecEnd true r.2)) := by
  let c := w1.core e
  let r := mergeT (tripleOf (fld (c.vreg o.va.toNat) 0 96)) (tripleOf (fld (c.vreg o.vb.toNat) 0 96))
  refine seqInstr_modC2 (w2 := w1) (fun q => q.putLow o.vd.toNat 96 r.1.bits) (fun q => q.vecEnd true r.2) hi ?_
  rw [(getC_does s e w1).bind, (need_does s e w1 (by simp [hvm, hms, hsc, hk])).bind, (notResumable_does s e w1 hstart).bind]
  rfl

end

/-! Expert routing (R311 to R317). -/

section

variable {s : State} {e : Fin 104} {o : VR} {w1 : World} (hi : Issues s e w1) (hsc : o.sc = false) (hvb : o.vb = 0#5)
  (hm : maskOk o.vm o.ms = true) (ha : groupOk o.va.toNat (w1.core e).vt.g = true)

include hi hsc hvb hm ha

/-- The registers q once the K records of every segment of `vtopk` are written, read from the registers c. -/
def Core.putTopk (c : Core) (o : VR) (q : Core) : Core :=
  let seg := fld (c.sysGet 0x140) 16 9
  let k := fld (c.sysGet 0x140) 0 4
  (List.range ((c.vt.vl + seg - 1) / seg)).foldl (fun a i =>
    let rs := topkSegment c o c.vt (fld (c.sysGet 0x140) 32 12) k (i * seg) (min seg (c.vt.vl - i * seg))
    (List.range k).foldl (fun b j => b.setElt o.vd.toNat 64 (i * k + j) (rs.getD j 0)) a) q

theorem execVtopk_ok (htype : topkType (w1.core e).vt.et = true) (hgroup : (w1.core e).vt.groupFor 64 ≤ 8)
    (hd : o.vd.toNat % (w1.core e).vt.groupFor 64 = 0)
    (hapart : groupsMeet o.vd.toNat ((w1.core e).vt.groupFor 64) o.va.toNat (w1.core e).vt.g = false)
    (hseg : fld ((w1.core e).sysGet 0x140) 16 9 ≠ 0) (hrecs : fld ((w1.core e).sysGet 0x140) 0 4 ≠ 0)
    (hstart : (w1.core e).vt.vstart = 0)
    (hroom : ((w1.core e).vt.vl + fld ((w1.core e).sysGet 0x140) 16 9 - 1) / fld ((w1.core e).sysGet 0x140) 16 9 *
      fld ((w1.core e).sysGet 0x140) 0 4 ≤ (w1.core e).vt.groupFor 64 * 128) :
    execVtopk e o s = .next (retired s w1 e 4 1 (((w1.core e).putTopk o (w1.core e)).vecEnd true FFlags.none)) := by
  refine seqInstr_modC2 (w2 := w1) ((w1.core e).putTopk o) (fun q => q.vecEnd true FFlags.none) hi ?_
  rw [(getC_does s e w1).bind, (need_does s e w1 (by simp [hm, hsc, hvb, htype, ha, hgroup, hd, hapart, hseg, hrecs])).bind,
    (notResumable_does s e w1 hstart).bind]
  exact (need_does s e w1 (by simpa using hroom)).bind _

variable (het : (w1.core e).vt.et = 3)

include het

theorem execVdispatch_ok {w2 w3 : World} {d : Disp} (hd : groupOk o.vd.toNat (w1.core e).vt.g = true)
    (hapart : groupsMeet o.vd.toNat (w1.core e).vt.g o.va.toNat (w1.core e).vt.g = false)
    (hstart : (w1.core e).vt.vstart = 0) (hspec : (w1.eng e.val).speculating = false)
    (hdrain : Does s e drainE (w1.modEng e.val Engine.commitAll) () w2)
    (hrecs : Does s e (dispatchRecords (w1.core e) o) w2 d w3) :
    execVdispatch e o s =
      (let x : Engine := { w3.eng e.val with core := (w3.core e).putDispatch o.vd.toNat (w1.core e).vt.vl d }.countDispatch d
       .next (retired s (w3.setEng e.val x) e 4 1 ((x.core.markDispatch d).vecEnd true FFlags.none))) := by
  have hpark : Does s e (parkIf 2 ((w1.core e).sysGet 0x141)) w1 () w1 := by
    unfold Does parkIf isSpec
    simp [EM.bind_run, EM.map_run, hspec]
  let result (x : Engine) : Engine :=
    { x with core := x.core.putDispatch o.vd.toNat (w1.core e).vt.vl d }.countDispatch d
  refine (seqInstr_modC2 (w2 := w3.modEng e.val result) (fun c => c.markDispatch d) (fun c => c.vecEnd true FFlags.none) hi
    ?_).trans ?_
  · rw [(getC_does s e w1).bind, (need_does s e w1 (by simp [hm, hsc, hvb, het, ha, hd, hapart])).bind,
      (notResumable_does s e w1 hstart).bind, hpark.bind, (modE_does s e w1 _).bind, hdrain.bind, hrecs.bind,
      (modE_does s e w3 result).bind]
    rfl
  · rw [World.core, eng_modEng]
    rfl

theorem moveRows_ok {w2 : World} (scat : Bool) (hvd : o.vd = 0#5) (hu : Usable (w1.core e) .addr (w1.core e).ix0.t)
    (hroom : (w1.eng e.val).sbRoom ≠ 0)
    (hmoves : Does s e (rollbackOnWait (moveRecords (w1.core e) o scat w1.freeCtr (List.range (w1.core e).vt.vl)))
      { w1 with freeCtr := w1.freeCtr + 1 } () w2) :
    moveRows e o scat s = .next (retired s w2 e 4 1 ((w2.core e).vecEnd false FFlags.none)) := by
  refine seqInstr_modC (fun c => c.vecEnd false FFlags.none) hi ?_
  rw [(getC_does s e w1).bind, (need_does s e w1 (by simp [hm, hsc, hvb, hvd, het, ha])).bind, (checkTag_does hu).bind,
    (getE_does s e w1).bind, if_neg hroom]
  refine (EM.bind_ok (a := w1.freeCtr) (w1 := { w1 with freeCtr := w1.freeCtr + 1 }) _ rfl).trans ?_
  rw [hmoves.bind]
  rfl

end

/-- Settles O30: the reductions, the statistics and the three routing instructions, each by the rule of its own. -/
theorem floatReductionsAndRouting : Obligations.FloatReductionsAndRouting := by
  unfold Obligations.FloatReductionsAndRouting
  refine ⟨fun s e o w1 k hi hk hint hstart htype => ⟨fun hok => ?reductions, fun hvm hms hsc => ?merge⟩,
    fun s e o w1 hi hsc hvb hm ha => ⟨?topk, fun het hd hapart hstart hspec w2 w3 d hdrain hrecs => ?dispatch,
      fun het hvd hu hroom w2 p hp hmoves => ?rows⟩⟩
  case reductions =>
    have hfloat : ¬(s.w.eng e.val).core.vt.isInt = true := by simp [htype, hint]
    have hred (wide : Bool) (leaf : FVal → FVal × FFlags) (f : FVal → FVal → Exact) (tree : Bool) :=
      redFp_ok hi hk hstart wide leaf f tree hok
    have hstat := execVstat_ok hi hk hstart hok
    unfold Core.redFpResult at hred
    -- What the tree is does not matter here, and its 13 levels are not to be unfolded.
    generalize @redTree = tree at hred hstat ⊢
    exact ⟨(if_neg hfloat).trans (hred true leafId addF true), hred true leafId addF false,
      hred true (fun x => redRound fmt32 (mulF x x)) addF true, (if_neg hfloat).trans (hred false leafId (minMaxF false) true),
      (if_neg hfloat).trans (hred false leafId (minMaxF true) true), hstat⟩
  case merge => exact execVstatm_ok hi hk hstart hvm hms hsc
  case topk =>
    exact fun htype hgroup hd hapart hseg hrecs hstart hroom =>
      execVtopk_ok hi hsc hvb hm ha htype hgroup hd hapart hseg hrecs hstart hroom
  case dispatch => exact execVdispatch_ok hi hsc hvb hm ha het hd hapart hstart hspec hdrain hrecs
  case rows =>
    have hmeans : exec (p.1 e o) s = moveRows e o p.2 s := by
      simp only [List.mem_cons, List.not_mem_nil, or_false] at hp
      obtain rfl | rfl := hp
      all_goals rfl
    exact hmeans.trans (moveRows_ok hi hsc hvb hm ha het p.2 hvd hu hroom hmoves)

end Sys2Proof.Machine
end

section
/-!
PROOFS. Integer products in the array: exact dot products in saturating accumulators (R222, R223, R278).
-/

namespace Sys2Proof.Machine

/-! Whole numbers as values of the array. -/

/-- A value is a whole number with exponent 0, as the integer formats and their sums and products have it. -/
def FVal.Whole (v : FVal) : Prop := ∃ (neg : Bool) (m : Nat), v = .fin neg m 0

theorem toInt_fin_zero (neg : Bool) (m : Nat) : (FVal.fin neg m 0).toInt = if neg then -(m : Int) else m := by
  simp [FVal.toInt, truncF]

theorem intF_whole (i : Int) : (intF i).Whole := ⟨_, _, rfl⟩

theorem toInt_intF (i : Int) : (intF i).toInt = i := by
  unfold intF
  rw [toInt_fin_zero]
  simp only [decide_eq_true_eq]
  split
  · omega
  · omega

theorem addF_whole {a b : FVal} (ha : a.Whole) (hb : b.Whole) : (addF a b).v.Whole := by
  obtain ⟨x, m, rfl⟩ := ha
  obtain ⟨y, n, rfl⟩ := hb
  unfold addF
  dsimp only
  split
  · exact ⟨_, _, rfl⟩
  · exact ⟨_, _, rfl⟩

theorem toInt_addF {a b : FVal} (ha : a.Whole) (hb : b.Whole) : (addF a b).v.toInt = a.toInt + b.toInt := by
  obtain ⟨x, m, rfl⟩ := ha
  obtain ⟨y, n, rfl⟩ := hb
  have hscaled (neg : Bool) (k : Nat) : scaled neg k 0 (min 0 0) = (FVal.fin neg k 0).toInt := by
    simp [scaled, toInt_fin_zero]
  unfold addF
  simp only [hscaled]
  generalize (FVal.fin x m 0).toInt + (FVal.fin y n 0).toInt = t
  split
  case isTrue hzero => simp [exact, toInt_fin_zero, hzero]
  case isFalse => exact toInt_intF t

theorem mulF_whole {a b : FVal} (ha : a.Whole) (hb : b.Whole) : (mulF a b).v.Whole := by
  obtain ⟨x, m, rfl⟩ := ha
  obtain ⟨y, n, rfl⟩ := hb
  exact ⟨x != y, m * n, rfl⟩

theorem toInt_mulF {a b : FVal} (ha : a.Whole) (hb : b.Whole) : (mulF a b).v.toInt = a.toInt * b.toInt := by
  obtain ⟨x, m, rfl⟩ := ha
  obtain ⟨y, n, rfl⟩ := hb
  show (FVal.fin (x != y) (m * n) 0).toInt = _
  simp only [toInt_fin_zero]
  cases x with
  | false =>
    cases y with
    | false => exact Int.natCast_mul m n
    | true => exact (congrArg Neg.neg (Int.natCast_mul m n)).trans (Int.mul_neg m n).symm
  | true =>
    cases y with
    | false => exact (congrArg Neg.neg (Int.natCast_mul m n)).trans (Int.neg_mul m n).symm
    | true => exact (Int.natCast_mul m n).trans (Int.neg_mul_neg m n).symm

/-! The tree of a chunk sum (R277, R278). -/

/-- The sum of the leaves of a tree. -/
def intSum (l : List FVal) : Int := (l.map FVal.toInt).sum

/-- Integer addition in the array, which does not round. -/
def addWhole (a b : FVal) : FVal := (addF a b).v

theorem pairSum_length (f : FVal → FVal → FVal) (l : List FVal) : (pairSum f l).length = (l.length + 1) / 2 := by
  induction l using pairSum.induct with
  | case1 a b r ih => simp only [pairSum, List.length_cons, ih]; omega
  | case2 l hshort =>
    match l, hshort with
    | [], _ => rfl
    | [_], _ => simp [pairSum]
    | a :: b :: r, hshort => exact absurd rfl (hshort a b r)

/-- A level of the tree keeps whole numbers and their sum. -/
theorem pairSum_whole {l : List FVal} (h : ∀ v ∈ l, v.Whole) :
    (∀ v ∈ pairSum addWhole l, v.Whole) ∧ intSum (pairSum addWhole l) = intSum l := by
  induction l using pairSum.induct with
  | case1 a b r ih =>
    simp only [List.forall_mem_cons] at h
    obtain ⟨ha, hb, hr⟩ := h
    obtain ⟨hwhole, hsum⟩ := ih hr
    rw [pairSum]
    refine ⟨List.forall_mem_cons.mpr ⟨addF_whole ha hb, hwhole⟩, ?_⟩
    unfold intSum at hsum ⊢
    rw [List.map_cons, List.sum_cons, hsum, addWhole, toInt_addF ha hb, List.map_cons, List.map_cons, List.sum_cons,
      List.sum_cons, Int.add_assoc]
  | case2 l hshort => rw [pairSum.eq_2 _ _ hshort]; exact ⟨h, rfl⟩

theorem treeSum_whole {n : Nat} {l : List FVal} (h : ∀ v ∈ l, v.Whole) (hlen : l.length ≤ 2 ^ n) :
    (treeSum addWhole n l).toInt = intSum l := by
  induction n generalizing l with
  | zero =>
    match l, hlen with
    | [], _ => rfl
    | [v], _ => simp [treeSum, intSum]
  | succ n ih =>
    obtain ⟨hwhole, hsum⟩ := pairSum_whole h
    have hhalf : (pairSum addWhole l).length ≤ 2 ^ n := by rw [pairSum_length]; omega
    rw [treeSum, ih hwhole hhalf, hsum]

/-- Leaves that no product fills are zero. -/
theorem chunkSum_whole {lv : Nat} {l : List FVal} (h : ∀ v ∈ l, v.Whole) (hlen : l.length ≤ 2 ^ lv) :
    (chunkSum true lv l).toInt = intSum l := by
  have hzero : ∀ v ∈ List.replicate (2 ^ lv - l.length) (FVal.fin false 0 0), v.Whole :=
    fun v hv => ⟨false, 0, List.eq_of_mem_replicate hv⟩
  have hpadded : (l ++ List.replicate (2 ^ lv - l.length) (FVal.fin false 0 0)).length ≤ 2 ^ lv := by
    simp only [List.length_append, List.length_replicate]
    omega
  refine (treeSum_whole (List.forall_mem_append.mpr ⟨h, hzero⟩) hpadded).trans ?_
  simp [intSum, toInt_fin_zero]

/-! The products of two dense integer rows (R222). -/

theorem products_dense (xs ys : List Int) (zx zy : Bool) :
    products (⟨xs.map intF, zx⟩, []) ⟨ys.map intF, zy⟩ = List.zipWith (fun a b => (mulF (intF a) (intF b)).v) xs ys := by
  simp [products]

theorem products_whole (xs ys : List Int) (zx zy : Bool) :
    ∀ v ∈ products (⟨xs.map intF, zx⟩, []) ⟨ys.map intF, zy⟩, v.Whole := by
  rw [products_dense]
  intro v hv
  rw [← List.map_uncurry_zip_eq_zipWith] at hv
  obtain ⟨p, _, rfl⟩ := List.mem_map.mp hv
  exact mulF_whole (intF_whole p.1) (intF_whole p.2)

theorem intSum_products (xs ys : List Int) (zx zy : Bool) :
    intSum (products (⟨xs.map intF, zx⟩, []) ⟨ys.map intF, zy⟩) = (List.zipWith (· * ·) xs ys).sum := by
  rw [products_dense, intSum, List.map_zipWith]
  simp only [toInt_mulF (intF_whole _) (intF_whole _), toInt_intF]

theorem chunkSum_products {lv : Nat} {xs ys : List Int} (zx zy : Bool) (hlen : xs.length ≤ 2 ^ lv) :
    (chunkSum true lv (products (⟨xs.map intF, zx⟩, []) ⟨ys.map intF, zy⟩)).toInt = (List.zipWith (· * ·) xs ys).sum := by
  have hfit : (products (⟨xs.map intF, zx⟩, []) ⟨ys.map intF, zy⟩).length ≤ 2 ^ lv := by
    rw [products_dense, List.length_zipWith]
    omega
  rw [chunkSum_whole (products_whole xs ys zx zy) hfit, intSum_products]

/-- An integer accumulator element stops at the ends of its 48 bits (R278). -/
theorem toInt_accAdd (q : FVal) (old : BitVec 48) (sum : FVal) :
    (accAdd true q old sum).toInt = max (-(2 ^ 47 : Int)) (min (2 ^ 47 - 1) (old.toInt + sum.toInt)) := by
  unfold accAdd
  rw [if_pos rfl]
  exact BitVec.toInt_ofInt_eq_self (by decide) (by omega) (by omega)

/-- Settles O33: every level of the tree keeps the sum of whole numbers, and each product of two elements is exact. -/
theorem integerDotProduct : Obligations.IntegerDotProduct := by
  unfold Obligations.IntegerDotProduct
  intro lv xs ys zx zy q old _ hlen
  have hdot := chunkSum_products (ys := ys) zx zy hlen
  exact ⟨hdot, by rw [toInt_accAdd, hdot]⟩

end Sys2Proof.Machine
end

section
/-!
PROOFS. Tile loads, moves and stores, and the tile queue (R205, R210, R213, R214, R229 to R233, R246, R279, R280, R302).
-/

namespace Sys2Proof.Machine

/-! Tile instructions that write a tile or an accumulator (R205, R213, R229 to R233, R279, R280). -/

section Enter

variable {s : State} {e : Fin 104} {o : TOp} {w1 w2 : World} (hi : TileIssues s e w1)

include hi

theorem tileLoadInstr_ok {b st : W64} {last : Bool} {rows : List (List Byte)}
    (hf : Does s e (tFields o ⟨true, false, false, false, false, false, true⟩) w1 () w1) (hb : Does s e (tBase o) w1 b w1)
    (hst : Does s e (indexReg (w1.core e).acc) w1 st w1) (hshape : ((w1.core e).ts o.td.toNat).unshaped = false)
    (hfmt : ((w1.core e).ts o.td.toNat).badFmt = false) (hsplit : splitNames (w1.eng e.val) [o.td.toNat] [] = false)
    (hrows : Does s e ((List.range ((w1.core e).ts o.td.toNat).rows).mapM (fun r =>
      readRow (tileLoad last) (tileInfo o.td.toNat 0 false false) (b + w64 r * st)
        (((w1.core e).ts o.td.toNat).rowb + ((w1.core e).ts o.td.toNat).scales))) w1 rows w2) :
    tileLoadInstr e o last s = .next (tileEntered s w2 e
      ((w2.core e).writeTile o.td.toNat (tileOf ((w1.core e).ts o.td.toNat) rows))
      (plainWork (tileInfo o.td.toNat 0 false false))) := by
  refine tileInstr_modC (fun c => c.writeTile o.td.toNat (tileOf ((w1.core e).ts o.td.toNat) rows)) hi ?_
  unfold Does
  rw [hf.bind, (getC_does s e w1).bind, (getE_does s e w1).bind, hb.bind, hst.bind,
    (shapeCheck_does (by simp [hshape, hfmt, hsplit])).bind, hrows.bind]
  rfl

theorem execTlda_ok {b : W64} {l : List Byte}
    (hf : Does s e (tFields o ⟨false, false, false, true, false, false, true⟩) w1 () w1) (hb : Does s e (tBase o) w1 b w1)
    (hsplit : splitNames (w1.eng e.val) [] [o.ad.toNat] = false) (halign : b.toNat % 64 = 0)
    (hl : Does s e (imageWords b (tileInfo 0 o.ad.toNat false false)) w1 l w2) :
    execTlda e o s = .next (tileEntered s w2 e
      ((w2.core e).writeAcc o.ad.toNat (w1.eng e.val).shadowH1 (imageElts 0 l))
      (plainWork (tileInfo 0 o.ad.toNat false false))) := by
  refine tileInstr_modC (fun c => c.writeAcc o.ad.toNat (w1.eng e.val).shadowH1 (imageElts 0 l)) hi ?_
  unfold Does
  rw [hf.bind, (getE_does s e w1).bind, hb.bind, (shapeCheck_does (by simp [hsplit])).bind, if_neg (not_not_intro halign)]
  refine (hl.bind _).trans ?_
  rfl

theorem execTzero_ok (hf : Does s e (tFields o ⟨true, false, false, false, false, false, false⟩) w1 () w1)
    (hsplit : splitNames (w1.eng e.val) [o.td.toNat] [] = false) :
    execTzero e o s = .next (tileEntered s w1 e ((w1.core e).writeTile o.td.toNat emptySlot)
      (plainWork (tileInfo o.td.toNat 0 false false))) := by
  refine tileInstr_modC (fun c => c.writeTile o.td.toNat emptySlot) hi ?_
  unfold Does
  rw [hf.bind, (getE_does s e w1).bind, (shapeCheck_does (by simp [hsplit])).bind]
  rfl

theorem execTzacc_ok (hf : Does s e (tFields o ⟨false, false, false, true, false, false, false⟩) w1 () w1)
    (hsplit : splitNames (w1.eng e.val) [] [o.ad.toNat] = false) :
    execTzacc e o s = .next (tileEntered s w1 e ((w1.core e).writeAcc o.ad.toNat (w1.eng e.val).shadowH1 [])
      (plainWork (tileInfo 0 o.ad.toNat false false))) := by
  refine tileInstr_modC (fun c => c.writeAcc o.ad.toNat (w1.eng e.val).shadowH1 []) hi ?_
  unfold Does
  rw [hf.bind, (getE_does s e w1).bind, (shapeCheck_does (by simp [hsplit])).bind]
  rfl

/-- The part of a tile that its shape covers, with its scale bytes (R205). -/
def Core.shapedTile (c : Core) (a : Nat) : TileSlot :=
  slotOf 128 (fun r => if r < (c.ts a).rows then
    BitVec.ofNat 1024 (((c.tile a).row r).toNat % 2 ^ (8 * (c.ts a).rowb)) else 0#1024) (c.tile a).scaleRow

theorem execTmov_ok (hf : Does s e (tFields o ⟨true, true, false, false, false, false, false⟩) w1 () w1)
    (hsplit : splitNames (w1.eng e.val) [o.td.toNat, o.ta.toNat] [] = false) :
    execTmov e o s = .next (tileEntered s w1 e
      (((w1.core e).writeTile o.td.toNat ((w1.core e).shapedTile o.ta.toNat)).sysSet (0x180 + o.td.toNat)
        ((w1.core e).sysGet (0x180 + o.ta.toNat)))
      (plainWork (tileInfo o.td.toNat 0 false false))) := by
  refine tileInstr_modC (fun c => (c.writeTile o.td.toNat ((w1.core e).shapedTile o.ta.toNat)).sysSet (0x180 + o.td.toNat)
    (c.sysGet (0x180 + o.ta.toNat))) hi ?_
  unfold Does
  rw [hf.bind, (getC_does s e w1).bind, (getE_does s e w1).bind, (shapeCheck_does (by simp [hsplit])).bind]
  rfl

/-- A row of accumulator k converted for tile d, with the draws from n on (R279, R280). -/
def Core.convertedRow (c : Core) (d k n r : Nat) : BitVec 1024 × BitVec 128 :=
  cvtRow (c.ts d) (fld (c.sysGet (0x1A8 + d)) 32 4) r ((List.range (c.ts d).e).map (fun j =>
    (if j < (c.ash k).2 then c.readOut k r j else FVal.fin false 0 0, c.readMode n (128 * r + j))))

/-- Accumulator k can be converted for tile d: both have shapes that agree, and the tile's format is legal (R240). -/
structure Converts (c : Core) (d k : Nat) : Prop where
  shaped : (c.ts d).unshaped = false
  accRows : (c.ash k).1 ≠ 0
  accCols : (c.ash k).2 ≠ 0
  format : (c.ts d).badFmt = false
  rows : (c.ts d).rows = (c.ash k).1
  cols : (c.ash k).2 ≤ (c.ts d).e
  encoding : (c.ts d).fmt = 10 → fld (c.sysGet (0x1A8 + d)) 32 4 < 4

theorem execTcvt_ok {n : Nat} (hf : Does s e (tFields o ⟨true, false, false, true, false, false, false⟩) w1 () w1)
    (hsplit : splitNames (w1.eng e.val) [o.td.toNat] [o.ad.toNat] = false)
    (hconv : Converts (w1.core e) o.td.toNat o.ad.toNat) (hn : Does s e reserveRead w1 n w2) :
    execTcvt e o s = .next (tileEntered s w2 e
      ((w2.core e).writeTile o.td.toNat (slotOf ((w1.core e).ts o.td.toNat).rows
        (fun r => ((w1.core e).convertedRow o.td.toNat o.ad.toNat n r).1)
        (fun r => ((w1.core e).convertedRow o.td.toNat o.ad.toNat n r).2)))
      (plainWork (tileInfo o.td.toNat o.ad.toNat false false))) := by
  obtain ⟨hshaped, haccRows, haccCols, hformat, hrows, hcols, hencoding⟩ := hconv
  refine tileInstr_modC (fun c => c.writeTile o.td.toNat (slotOf ((w1.core e).ts o.td.toNat).rows
    (fun r => ((w1.core e).convertedRow o.td.toNat o.ad.toNat n r).1)
    (fun r => ((w1.core e).convertedRow o.td.toNat o.ad.toNat n r).2))) hi ?_
  unfold Does
  rw [hf.bind, (getC_does s e w1).bind, (getE_does s e w1).bind,
    (shapeCheck_does (by simpa [hshaped, haccRows, haccCols, hformat, hrows, hcols, hsplit] using hencoding)).bind, hn.bind]
  rfl

end Enter

/-! Tile stores (R214, R229 to R233, R279). -/

theorem core_tileWaited (w : World) (e : Fin 104) (p : Bool) : (w.tileWaited e.val p).core e = w.core e := by
  unfold World.core
  rw [eng_tileWaited]
  rfl

section Store

variable {s : State} {e : Fin 104} {o : TOp} {w1 w2 w3 w4 : World} (hi : Issues s e w1)
  (hw2 : w2 = w1.modEng e.val Engine.commitAll)

include hi hw2

/-- A tile store runs behind every tile instruction in flight (R214). -/
theorem tileStoreInstr_ok {body : EM Unit} (hb : Does s e body w2 () w4) :
    tileStoreInstr e body s = .next (retired s (w4.tileWaited e.val false) e 4 1 ((w4.core e).sticky 0x198 0)) := by
  subst hw2
  rw [← core_tileWaited w4 e false]
  refine seqInstr_modC (fun c => c.sticky 0x198 0) hi ?_
  rw [(modE_does s e w1 _).bind, hb.bind]
  rfl

variable {b : W64} (hb : Does s e (tBase o) w2 b w2)

include hb

theorem execTstTile_ok {st : W64} {l : List (List Piece)}
    (hf : Does s e (tFields o ⟨false, true, false, false, false, false, true⟩) w2 () w2)
    (hst : Does s e (indexReg (w2.core e).acc) w2 st w2) (hshape : ((w2.core e).ts o.ta.toNat).unshaped = false)
    (hfmt : ((w2.core e).ts o.ta.toNat).badFmt = false) (hsplit : splitNames (w2.eng e.val) [o.ta.toNat] [] = false)
    (hrows : Does s e ((List.range ((w2.core e).ts o.ta.toNat).rows).mapM (fun r =>
      rowPieces (tileInfo o.ta.toNat 0 false false) (b + w64 r * st)
        (rowImage ((w2.core e).ts o.ta.toNat) ((w2.core e).tile o.ta.toNat) r))) w2 l w3)
    (hstore : Does s e (tileStore l.flatten) w3 () w4) :
    execTstTile e o s = .next (retired s (w4.tileWaited e.val false) e 4 1 ((w4.core e).sticky 0x198 0)) := by
  refine tileStoreInstr_ok hi hw2 ?_
  unfold Does
  rw [hf.bind, (getC_does s e w2).bind, (getE_does s e w2).bind, hb.bind, hst.bind,
    (shapeCheck_does (by simp [hshape, hfmt, hsplit])).bind, hrows.bind]
  exact hstore

/-- The memory image of accumulator k (R233). -/
def Core.accImage (c : Core) (k : Nat) : List Byte :=
  ((List.range 16384).map (fun i => leBytes 6 (c.accElt k (i / 128) (i % 128)).toNat)).flatten

/-- Checks the words of an accumulator's image that is stored at b. -/
def imagePieces (b info : W64) (img : List Byte) : EM (List Piece) :=
  (List.range 12288).mapM (fun i =>
    atRow (b + w64 (8 * i)) info (checkPiece (b + w64 (8 * i)) ((img.drop (8 * i)).take 8)))

theorem execTsta_ok {ps : List Piece} (hf : Does s e (tFields o ⟨false, false, false, true, false, false, true⟩) w2 () w2)
    (hsplit : splitNames (w2.eng e.val) [] [o.ad.toNat] = false) (halign : b.toNat % 64 = 0)
    (hwords : Does s e (imagePieces b (tileInfo 0 o.ad.toNat false false) ((w2.core e).accImage o.ad.toNat)) w2 ps w3)
    (hstore : Does s e (tileStore ps) w3 () w4) :
    execTsta e o s = .next (retired s (w4.tileWaited e.val false) e 4 1 ((w4.core e).sticky 0x198 0)) := by
  refine tileStoreInstr_ok hi hw2 ?_
  unfold Does
  rw [hf.bind, (getC_does s e w2).bind, (getE_does s e w2).bind, hb.bind, (shapeCheck_does (by simp [hsplit])).bind,
    if_neg (not_not_intro halign)]
  exact (hwords.bind _).trans hstore

/-- Row m of the FP32 read-out of accumulator k, with the draws from n on (R279). -/
def Core.readOutRow (c : Core) (k n m : Nat) : List Byte :=
  ((List.range (c.ash k).2).map (fun j =>
    leBytes 4 (encodeF fmt32 (c.readMode n (128 * m + j)) (c.readOut k m j)).1)).flatten

theorem execTstf_ok {st : W64} {n : Nat} {u : World} {l : List (List Piece)}
    (hf : Does s e (tFields o ⟨false, false, false, true, false, false, true⟩) w2 () w2)
    (hst : Does s e (indexReg (w2.core e).acc) w2 st w2) (hsplit : splitNames (w2.eng e.val) [] [o.ad.toNat] = false)
    (hrows : ((w2.core e).ash o.ad.toNat).1 ≠ 0) (hcols : ((w2.core e).ash o.ad.toNat).2 ≠ 0)
    (hn : Does s e reserveRead w2 n u)
    (hpieces : Does s e ((List.range ((w2.core e).ash o.ad.toNat).1).mapM (fun m =>
      rowPieces (tileInfo 0 o.ad.toNat false false) (b + w64 m * st) ((w2.core e).readOutRow o.ad.toNat n m))) u l w3)
    (hstore : Does s e (tileStore l.flatten) w3 () w4) :
    execTstf e o s = .next (retired s (w4.tileWaited e.val false) e 4 1 ((w4.core e).sticky 0x198 0)) := by
  refine tileStoreInstr_ok hi hw2 ?_
  unfold Does
  rw [hf.bind, (getC_does s e w2).bind, (getE_does s e w2).bind, hb.bind, hst.bind,
    (shapeCheck_does (by simp [hrows, hcols, hsplit])).bind, hn.bind]
  exact (hpieces.bind _).trans hstore

end Store

/-- Pieces that all lie in this module's HBM are written at once, behind the store buffer's local entries (R232). -/
theorem tileStore_local_does {s : State} {e : Fin 104} {ps : List Piece} {w3 w5 : World}
    (hspec : (w3.eng e.val).speculating = false) (hdrain : Does s e drainE w3 () w5)
    (hroom : (w5.eng e.val).sbRoom ≠ 0) (hapart : ∀ t ∈ (w5.eng e.val).sb, ∀ p ∈ ps, t.touches p.ga p.bytes.length = false)
    (hlocal : ∀ p ∈ ps, p.local w5 = true)
    (hspecAfter : ((ps.foldl (pieceCommit e.val) w5).eng e.val).speculating = false) :
    Does s e (tileStore ps) w3 () ((ps.foldl (pieceCommit e.val) w5).modEng e.val (fun y => y)) := by
  have hfree : ¬((decide ((w5.eng e.val).sbRoom = 0) ||
      (w5.eng e.val).sb.any (fun t => ps.any (fun p => t.touches p.ga p.bytes.length))) = true) := by
    simpa [hroom] using hapart
  have hhere : ps.filter (fun p => p.local w5) = ps := List.filter_eq_self.mpr hlocal
  have haway : ps.filter (fun p => !p.local w5) = [] := by simpa using hlocal
  unfold Does tileStore
  rw [EM.bind_ok _ (EM.read_run _ _), (getE_does s e w3).bind, if_neg (by simp [hspec]), hdrain.bind,
    (getE_does s e w5).bind, if_neg hfree]
  refine (EM.bind_ok _ (EM.get_run _ _)).trans ?_
  dsimp only
  rw [hhere, haway]
  refine (EM.bind_ok _ (EM.modify_run _ _ _)).trans ?_
  unfold retirePieces
  rw [(getE_does s e _).bind, if_neg (by simp [hspecAfter])]
  rfl

theorem Does.world_unique {α : Type} {s : State} {e : Fin 104} {x : EM α} {u v w : World} {a b : α}
    (hv : Does s e x u a v) (hw : Does s e x u b w) : v = w :=
  (EStateM.Result.ok.inj (hv.symm.trans hw)).2

/-! The tile queue (R210, R214, R246, R302). -/

section Queue

variable {s : State} {e : Fin 104} {t : TileOp} {r : List TileOp} (htq : (s.w.eng e.val).tq = t :: r)

/-- The oldest of the tile instructions t :: r in flight has left the queue. -/
def commitFirst (w : World) (e : Nat) (t : TileOp) (r : List TileOp) : World :=
  w.modEng e (fun x => (({ x with tq := r, sb := x.sb ++ t.held }).count 0x19C t.busy).count 0x1A6 t.skip)

include htq

theorem setEng_commitOldest : s.w.setEng e.val (s.w.eng e.val).commitOldest = commitFirst s.w e.val t r := by
  simp only [commitFirst, World.modEng, Engine.commitOldest, htq]

theorem exec_tileWaitExpire_discards {n : BitVec 13} {src : Nat × BitVec 2} (hwait : (s.w.eng e.val).wait = .tile)
    (hsrc : irqChoose s.anat s.w e.val = some src) :
    exec (.tileWaitExpire e n) s = toWorld s (discardForIrq s.anat s.w e.val src t n.toNat) := by
  show execTileWaitExpire e n s = _
  simp only [execTileWaitExpire, hwait, htq, hsrc]
  rfl

variable (hrun : dieRuns s.anat e.val = true) (hclk : s.w.eclk = true)

include hrun hclk

theorem exec_tileCommit_plain (hwait : (s.w.eng e.val).wait ≠ .tile) :
    exec (.tileCommit e) s = toWorld s (commitFirst s.w e.val t r) := by
  show execTileCommit e s = _
  simp only [execTileCommit, setEng_commitOldest htq, htq, hrun, hclk]
  rfl

theorem exec_tileCommit_idle (hwait : (s.w.eng e.val).wait = .tile)
    (hsrc : irqChoose s.anat (commitFirst s.w e.val t r) e.val = none) :
    exec (.tileCommit e) s = toWorld s ((commitFirst s.w e.val t r).modEng e.val (fun x => { x with wait := .none })) := by
  show execTileCommit e s = _
  simp only [execTileCommit, setEng_commitOldest htq, htq, hrun, hclk, hwait, hsrc]
  rfl

theorem exec_tileCommit_interrupt {src : Nat × BitVec 2} (hwait : (s.w.eng e.val).wait = .tile)
    (hsrc : irqChoose s.anat (commitFirst s.w e.val t r) e.val = some src) :
    exec (.tileCommit e) s = toWorld s (enterIrq s.anat ((s.w.lose e.val r).modEng e.val (fun y =>
      (({ y with wait := .none, tq := [], core := t.after }).count 0x19C t.busy).count 0x1A6 t.skip)) e.val src 0#64) := by
  show execTileCommit e s = _
  simp only [execTileCommit, setEng_commitOldest htq, htq, hrun, hclk, hwait, hsrc]
  rfl

end Queue

/-- Settles O31: each instruction is the rule of its own, and each command on the queue the case that the hypotheses select. -/
theorem tileMemory : Obligations.TileMemory := by
  unfold Obligations.TileMemory
  refine ⟨fun s e o w1 w2 hi => ⟨?load, fun b l hf hb hsplit halign hl => execTlda_ok hi hf hb hsplit halign hl,
      fun hf hsplit => execTzero_ok hi hf hsplit, fun hf hsplit => execTmov_ok hi hf hsplit,
      fun hf hsplit => execTzacc_ok hi hf hsplit, ?convert⟩,
    fun s e o w1 w3 w4 b ps hi => ?store, fun s e t r htq => ⟨fun hrun hclk => ⟨?commit, ?idle, ?interrupt⟩, ?expire⟩⟩
  case load =>
    intro b st hf hb hst t hshape hfmt hsplit p hp rows hrows
    have hmeans : exec (p.1 e o) s = tileLoadInstr e o p.2 s := by
      simp only [List.mem_cons, List.not_mem_nil, or_false] at hp
      obtain rfl | rfl := hp
      all_goals rfl
    exact hmeans.trans (tileLoadInstr_ok hi hf hb hst hshape hfmt hsplit hrows)
  case convert =>
    intro hf hsplit t h hshaped haccRows haccCols hformat hrows hcols hencoding n hn
    exact execTcvt_ok hi hf hsplit ⟨hshaped, haccRows, haccCols, hformat, hrows, hcols, hencoding⟩ hn
  case store =>
    intro w2 x c a k done hb hstore
    refine ⟨?_, ?_, ?_, ?_⟩
    · rintro st l hf hst hshape hfmt hsplit hrows rfl
      exact execTstTile_ok hi rfl hb hf hst hshape hfmt hsplit hrows hstore
    · exact fun hf hsplit halign hwords => execTsta_ok hi rfl hb hf hsplit halign hwords hstore
    · rintro st n u l hf hst hsplit hrows hcols hn hpieces rfl
      exact execTstf_ok hi rfl hb hf hst hsplit hrows hcols hn hpieces hstore
    · exact fun w5 hspec hdrain hroom hapart hlocal hspecAfter =>
        hstore.world_unique (tileStore_local_does hspec hdrain hroom hapart hlocal hspecAfter)
  case commit => exact fun hwait => exec_tileCommit_plain htq hrun hclk hwait
  case idle => exact fun hwait hsrc => exec_tileCommit_idle htq hrun hclk hwait hsrc
  case interrupt => exact fun src hwait hsrc => exec_tileCommit_interrupt htq hrun hclk hwait hsrc
  case expire => exact fun n src hwait hsrc => exec_tileWaitExpire_discards htq hwait hsrc

end Sys2Proof.Machine
end

section
/-!
PROOFS. Passes of the matrix array (R218, R222 to R226, R235 to R242, R277, R290 to R304).
-/

namespace Sys2Proof.Machine

section Passes

variable {s : State} {e : Fin 104} {o : TOp} {w1 w2 w3 : World} {z : Bool} {b : W64} {d : List W64} {k : TileWork}
  (hi : TileIssues s e w1) (hf : Does s e (tFields o ⟨false, false, false, true, true, false, true⟩) w1 () w1)
  (hb : Does s e (tBase o) w1 b w1)

include hi hf hb

theorem kloop_ok (hd : Does s e (readDesc b 8) w1 d w2)
    (hpass : let w (i : Nat) : W64 := d.getD i 0#64
      let h := passHead (w 0)
      Does s e (streamPass o h .dense z (decide (h.kind ≠ 1)) (fld (w 7) 0 16) h.m h.n (kloopChunk (w1.core e) w)) w2 k w3) :
    kloop e o z s = .next (tileEntered s w3 e (w3.core e) k) := by
  refine tileInstr_ok hi ?_
  unfold Does
  rw [hf.bind, (getC_does s e w1).bind, hb.bind, hd.bind]
  exact hpass

theorem convPass_ok (hd : Does s e (readDesc b 8) w1 d w2)
    (hpass : let w (i : Nat) : W64 := d.getD i 0#64
      let h := passHead (w 0)
      let v := convOf w
      Does s e (streamPass o h .dense z (v.bad h) (v.fh * v.fw * v.cch) h.m h.n (convChunk w)) w2 k w3) :
    convPass e o z s = .next (tileEntered s w3 e (w3.core e) k) := by
  refine tileInstr_ok hi ?_
  unfold Does
  rw [hf.bind, hb.bind, hd.bind]
  exact hpass

theorem sparsePass_ok (hd : Does s e (readDesc b 16) w1 d w2)
    (hpass : let w (i : Nat) : W64 := d.getD i 0#64
      let h := passHead (w 0)
      let c := w1.core e
      Does s e (streamPass o h (sparseStruct w) z (decide (h.kind ≠ 3) || decide (fld (w 7) 16 2 = 3)) (fld (w 7) 0 16)
        ((List.range h.m).filter (c.sparseX w)).length ((List.range h.n).filter (c.sparseY w)).length
        (sparseChunk c w)) w2 k w3) :
    sparsePass e o z s = .next (tileEntered s w3 e (w3.core e) k) := by
  refine tileInstr_ok hi ?_
  unfold Does
  rw [hf.bind, (getC_does s e w1).bind, hb.bind, hd.bind]
  exact hpass

end Passes

/-- What holds of the form that a flag selects, said of the accumulating and of the zero-initialising form. -/
theorem both_forms {z : Bool} (P : Bool → Prop) (h : P z) : (z = false → P false) ∧ (z = true → P true) :=
  ⟨fun hz => hz ▸ h, fun hz => hz ▸ h⟩

/-- Settles O32: each instruction is the form of its table entry, or the streamed pass that its descriptor names. -/
theorem arrayPasses : Obligations.ArrayPasses := by
  unfold Obligations.ArrayPasses
  refine fun s e o w1 w2 w3 hi => ⟨fun hf p hp hq => ?register, fun hf b d k hb => ⟨fun hd z => ⟨fun hpass => ?kloop,
    fun hpass => ?conv⟩, fun hd z hpass => ?sparse⟩⟩
  case register =>
    have hmeans : exec (p.1 e o) s = regPass e o p.2.1 p.2.2.1 p.2.2.2 s := by
      simp only [List.mem_cons, List.not_mem_nil, or_false] at hp
      obtain rfl | rfl | rfl | rfl | rfl | rfl | rfl | rfl := hp
      all_goals rfl
    exact hmeans.trans (regPass_ok hi hf hq)
  case kloop => exact both_forms (kloop e o · s = _) (kloop_ok hi hf hb hd hpass)
  case conv => exact both_forms (convPass e o · s = _) (convPass_ok hi hf hb hd hpass)
  case sparse => exact both_forms (sparsePass e o · s = _) (sparsePass_ok hi hf hb hd hpass)

end Sys2Proof.Machine
end

section
/-!
PROOFS. The batch gatherer and the leases of second halves (R243, R319 to R330).
-/

namespace Sys2Proof.Machine

/-! Submission (R323, R324). -/

theorem parkIf_does {s : State} {e : Fin 104} {w : World} (why : Nat) (a : W64) (h : (w.eng e.val).speculating = false) :
    Does s e (parkIf why a) w () w := by
  unfold Does parkIf isSpec
  simp [EM.bind_run, EM.map_run, h]

theorem atRow_does {α : Type} {s : State} {e : Fin 104} {va info : W64} {act : EM α} {u v : World} {a : α}
    (h : Does s e act u a v) : Does s e (atRow va info act) u a v := by
  unfold Does at h ⊢
  rw [atRow, EM.tryCatch_run, h]

/-- The answer to a submission by engine e whose first word is w0: the first check that fails gives it (R324, log 31). -/
def submitStatus (a : Anat) (w : World) (e : Nat) (w0 : W64) : Nat :=
  if !bgOn w (e / 26) then 1
  else if !bgReqOk w0 then 3
  else if !(bgQueue a w (e / 26) (fld w0 16 6)).good then 2
  else if (bgQueue a w (e / 26) (fld w0 16 6)).ctx ≠ (w.eng e).core.ctx (w.eng e).core.pl then 4
  else if 512 ≤ (w.gath (e / 26)).pend.length then 5
  else 0

/-- The request that engine e submits with the bytes l, as its die's gatherer keeps it. -/
def submittedReq (a : Anat) (w : World) (e : Nat) (l : List Byte) : BgReq :=
  { queue := fld (wordAt l 0) 16 6, seq := (w.gath (e / 26)).next, logical := (a.logicalOf e).getD 0x7F
    oper := (w.eng e).who.oper, tenant := (w.eng e).who.id, notify := bit (wordAt l 0) 24
    x := wordAt l 1, y := wordAt l 2, done := wordAt l 3, time := w.time }

/-- The world after a submission: the request has joined the queue, or has been refused and counted. -/
def submitted (a : Anat) (w : World) (e : Nat) (l : List Byte) : World :=
  if submitStatus a w e (wordAt l 0) = 0 then
    bgCount (w.setGath (e / 26) { w.gath (e / 26) with
      pend := (w.gath (e / 26)).pend ++ [submittedReq a w e l], next := (w.gath (e / 26)).next + 1 }) (e / 26) 0 1
  else bgCount w (e / 26) 1 1

theorem execTgsub_ok {s : State} {e : Fin 104} {o : TOp} {w1 w3 : World} {b : W64} {r : List Byte × Bool} (hi : Issues s e w1)
    (hf : Does s e (tFields o ⟨false, false, false, false, false, false, true⟩) w1 () w1) (hb : Does s e (tBase o) w1 b w1)
    (hspec : (w1.eng e.val).speculating = false) (halign : b.toNat % 32 = 0) (hkey : r.2 = false)
    (hr : Does s e (readWords (tileLoad false) b 32) (w1.modEng e.val Engine.commitAll) r w3) :
    execTgsub e o s =
      (let u := submitted s.anat w3 e.val r.1
       .next (retired s u e 4 24 { u.core e with acc := ⟨w64 (submitStatus s.anat w3 e.val (wordAt r.1 0)), 1#4⟩ })) := by
  refine seqInstr_modC (fun c => { c with acc := ⟨w64 (submitStatus s.anat w3 e.val (wordAt r.1 0)), 1#4⟩ }) hi ?_
  have hrow : Does s e (atRow b 0#64 (readWords (tileLoad false) b 32)) (w1.modEng e.val Engine.commitAll) r w3 := atRow_does hr
  rw [hf.bind, hb.bind, (parkIf_does 5 b hspec).bind, (modE_does s e w1 _).bind, if_neg (not_not_intro halign), hrow.bind, hkey]
  by_cases h : submitStatus s.anat w3 e.val (wordAt r.1 0) = 0
  · rw [submitted, if_pos h]
    refine (EM.ite_run _ _ _ _ _).trans ((if_pos h).trans ?_)
    rfl
  · rw [submitted, if_neg h]
    refine (EM.ite_run _ _ _ _ _).trans ((if_neg h).trans ?_)
    rfl

theorem submitStatus_off {a : Anat} {w : World} {e : Nat} {w0 : W64} (h : bgOn w (e / 26) = false) : submitStatus a w e w0 = 1 := by
  simp [submitStatus, h]

/-- A well-formed request for a queue of the engine's own context is refused only where 512 requests wait. -/
theorem submitStatus_of_accepted {a : Anat} {w : World} {e : Nat} {w0 : W64} (hon : bgOn w (e / 26) = true) (hreq : bgReqOk w0 = true)
    (hgood : (bgQueue a w (e / 26) (fld w0 16 6)).good = true)
    (hctx : (bgQueue a w (e / 26) (fld w0 16 6)).ctx = (w.eng e).core.ctx (w.eng e).core.pl) :
    submitStatus a w e w0 = if 512 ≤ (w.gath (e / 26)).pend.length then 5 else 0 := by
  simp [submitStatus, hon, hreq, hgood, hctx]

theorem submitted_refused {a : Anat} {w : World} {e : Nat} {l : List Byte} (h : submitStatus a w e (wordAt l 0) ≠ 0) :
    submitted a w e l = bgCount w (e / 26) 1 1 := if_neg h

theorem submitted_joins {a : Anat} {w : World} {e : Nat} {l : List Byte} (h : submitStatus a w e (wordAt l 0) = 0) :
    submitted a w e l = bgCount (w.setGath (e / 26) { w.gath (e / 26) with
      pend := (w.gath (e / 26)).pend ++ [submittedReq a w e l], next := (w.gath (e / 26)).next + 1 }) (e / 26) 0 1 := if_pos h

variable {s : State}

/-! Evaluation (R325). -/

/-- Where every request's queue accepts requests, none is withdrawn. -/
theorem exec_bgEvaluate_good {d : Fin 4} (hrun : unitRuns s.anat s.w d.val = true)
    (hgood : ∀ r ∈ (s.w.gath d.val).pend, (bgQueue s.anat s.w d.val r.queue).good = true) :
    exec (.bgEvaluate d) s = toWorld s (bgPlace (bgReclaim (bgLaunches s.anat d.val 512 s.w) d.val) d.val) := by
  have hnone : (s.w.gath d.val).pend.any (fun r => !(bgQueue s.anat s.w d.val r.queue).good) = false := by simpa using hgood
  show execBgEvaluate d s = _
  simp only [execBgEvaluate, hrun, hnone]
  rfl

/-! The end of a block (R326 to R328). -/

/-- What block k's end with the result r makes of its batch b: a STATUS ends the batch, and the rows' own STATUS count
the block, the last of which ends the batch. -/
def Gath.blockEnds (k : BgBlock) (b : BgBatch) : Except Nat (List Nat) → Gath → Gath
  | .error st, y => bgFail y b.id st
  | .ok sts, y =>
    let y1 := { y with
      blocks := y.blocks.filter (fun x => decide (x ≠ k))
      batches := y.batches.map (fun x => if x.id = b.id then
        { x with left := x.left - 1, rows := (x.rows.zip sts).map (fun z => (z.1.1, z.2)) } else x) }
    if b.left ≤ 1 then bgEnd y1 b.id else y1

theorem exec_bgBlockDone_ends {e : Fin 104} {k : BgBlock} {b : BgBatch} {row : BgReq × Nat} {rows : List (BgReq × Nat)}
    {w1 : World} (hk : (s.w.gath (e.val / 26)).blocks.find? (fun b => decide (b.half = some e.val)) = some k)
    (hb : (s.w.gath (e.val / 26)).batches.find? (fun b => decide (b.id = k.batch)) = some b)
    (hrun : unitRuns s.anat s.w (e.val / 26) = true) (hpool : (bgPool s.w (e.val / 26)).contains e.val = true)
    (hrows : b.rows = row :: rows) (r : Except Nat (List Nat))
    (hends : let env (r : BgReq) : UnitEnv := bgEnv s.anat (e.val / 26) (bgQOf b.entry).ctx r.who (s.w.eng e.val).part
      runUnit (env row.1) (bgBlock (bgQOf b.entry) b.rows k.b env) s.w = (some (.ok r), w1)) :
    exec (.bgBlockDone e) s = toWorld s
      (bgPlace ((clearUbuf w1 (bgRef (e.val / 26))).modGath (e.val / 26) (Gath.blockEnds k b r)) (e.val / 26)) := by
  simp only [hrows] at hends
  show execBgBlockDone e s = _
  simp only [execBgBlockDone, hk, hb, hrun, hpool, hrows, hends]
  cases r
  all_goals rfl

/-! Completion words (R328). -/

theorem exec_bgCompletionWord_written {d : Fin 4} {i : Nat} {f : BgFin} {w1 : World} (hfin : (s.w.gath d.val).fin[i]? = some f)
    (hrun : unitRuns s.anat s.w d.val = true) (hidle : unitWrites s.w (bgRef d.val) = false) (halign : f.req.done.toNat % 8 = 0)
    (hquiet : f.req.notify = false)
    (hwrite : runUnit (bgEnv s.anat d.val f.ctx f.req.who 0) (uWrite false f.req.done
      (leBytes 8 (packW [(63, 1), (48, f.status), (40, f.rows), (0, f.launch)]).toNat) 0) s.w = (some (.ok ()), w1)) :
    exec (.bgCompletionWord d i) s = toWorld s (w1.modGath d.val (fun y => { y with fin := dropAt y.fin i })) := by
  show execBgCompletionWord d i s = _
  simp only [execBgCompletionWord, hfin, hrun, hidle, if_neg (not_not_intro halign), hwrite, hquiet]
  rfl

/-! A machine check in a half (R329). -/

section HalfErr

variable {e : Fin 104} (hpool : (bgPool s.w (e.val / 26)).contains e.val = true) (hrun : dieRuns s.anat e.val = true)

/-- The half of engine e has left the pool of its die, and its machine check is counted. -/
def halfLost (w : World) (e : Nat) : World :=
  bgCount (w.modGath (e / 26) (fun g => { g with out := e :: g.out })) (e / 26) 6 1

include hpool hrun

theorem exec_bgHalfErr_idle
    (hnone : ((halfLost s.w e.val).gath (e.val / 26)).blocks.find? (fun b => decide (b.half = some e.val)) = none) :
    exec (.bgHalfErr e) s = toWorld s (halfLost s.w e.val) := by
  unfold halfLost at hnone ⊢
  show execBgHalfErr e s = _
  simp only [execBgHalfErr, toWorld, hpool, hrun, hnone, Bool.not_true, Bool.or_self, Bool.false_eq_true, if_false]

variable {k : BgBlock}
  (hk : ((halfLost s.w e.val).gath (e.val / 26)).blocks.find? (fun b => decide (b.half = some e.val)) = some k)

include hk

theorem exec_bgHalfErr_first (hfirst : k.fails = 0) :
    exec (.bgHalfErr e) s = toWorld s ((halfLost s.w e.val).modGath (e.val / 26) (fun g => { g with
      blocks := g.blocks.map (fun x => if x = k then { x with half := none, fails := 1 } else x) })) := by
  unfold halfLost at hk
  show execBgHalfErr e s = _
  simp only [execBgHalfErr, hpool, hrun, hk, hfirst]
  rfl

theorem exec_bgHalfErr_again (hagain : 1 ≤ k.fails) :
    exec (.bgHalfErr e) s = toWorld s ((halfLost s.w e.val).modGath (e.val / 26) (fun g => bgFail g k.batch 4)) := by
  unfold halfLost at hk
  show execBgHalfErr e s = _
  simp only [execBgHalfErr, hpool, hrun, hk, if_pos hagain]
  rfl

end HalfErr

/-! Register writes (R243, R321). -/

theorem exec_bgCtlWrite_runs {d : Fin 4} (v : W64) (hrun : dieRuns s.anat (26 * d.val) = true) :
    exec (.bgCtlWrite d v) s = toWorld s (bgCtlWrite s.w d.val v) := by
  show execBgCtlWrite d v s = _
  simp only [execBgCtlWrite, hrun]
  rfl

theorem exec_tileLeaseWrite_open {e : Fin 104} (v : W64) (hrun : dieRuns s.anat e.val = true)
    (hopen : engShut s.anat e.val = false) :
    exec (.tileLeaseWrite e v) s = toWorld s (s.w.setReg (engBase e.val + 0x800) (v &&& 0xF#64)) := by
  show execTileLeaseWrite e v s = _
  simp only [execTileLeaseWrite, hrun, hopen]
  rfl

/-- Settles O34: a submission is answered by the checks in their order, and each other command is the case that the hypotheses
select. -/
theorem gatherer : Obligations.Gatherer := by
  unfold Obligations.Gatherer
  refine fun s => ⟨?submission, fun d hrun hgood => exec_bgEvaluate_good hrun hgood, ?block,
    fun d i f w1 hfin hrun hidle halign hquiet hwrite => exec_bgCompletionWord_written hfin hrun hidle halign hquiet hwrite,
    ?halfErr, fun d v hrun => exec_bgCtlWrite_runs v hrun, fun e v hrun hopen => exec_tileLeaseWrite_open v hrun hopen⟩
  case submission =>
    intro e o w1 w3 b r hi hf hb hspec halign hkey hr d w0 q g x answer ok
    have hmeans : exec (.tgsub e o) s = answer (submitted s.anat w3 e.val r.1) (submitStatus s.anat w3 e.val w0) :=
      execTgsub_ok hi hf hb hspec halign hkey hr
    refine ⟨fun hoff => ?off, fun ⟨hon, hreq, hgood, hctx⟩ hfull => ?full, fun ⟨hon, hreq, hgood, hctx⟩ hroom => ?joins⟩
    case off =>
      have hst : submitStatus s.anat w3 e.val w0 = 1 := submitStatus_off hoff
      rw [hmeans, hst, submitted_refused (by simp [w0, hst])]
    case full =>
      have hst : submitStatus s.anat w3 e.val w0 = 5 := (submitStatus_of_accepted hon hreq hgood hctx).trans (if_pos hfull)
      rw [hmeans, hst, submitted_refused (by simp [w0, hst])]
    case joins =>
      have hst : submitStatus s.anat w3 e.val w0 = 0 :=
        (submitStatus_of_accepted hon hreq hgood hctx).trans (if_neg (Nat.not_le.mpr hroom))
      rw [hmeans, hst, submitted_joins hst]
      rfl
  case block =>
    intro e k b d hk hb hrun hpool r rs hrows q env
    exact ⟨fun sts w1 hends => exec_bgBlockDone_ends hk hb hrun hpool hrows (.ok sts) hends,
      fun st w1 hends => exec_bgBlockDone_ends hk hb hrun hpool hrows (.error st) hends⟩
  case halfErr =>
    intro e d w1 hpool hrun
    exact ⟨fun hnone => exec_bgHalfErr_idle hpool hrun hnone, fun k hk =>
      ⟨fun hfirst => exec_bgHalfErr_first hpool hrun hk hfirst, fun hagain => exec_bgHalfErr_again hpool hrun hk hagain⟩⟩

end Sys2Proof.Machine
end

section
/-!
PROOFS. Maintenance of the caches and invalidation of translations (R353 to R355, R435, R436).
-/

namespace Sys2Proof.Machine

variable {s : State} {e : Fin 104} {w w1 w2 : World} {t : TlbEntry} {va : W64} {off : Nat}

/-! Cache maintenance (R353 to R355). -/

/-- A write of `CMO_OP` does the operation of the operand's bits [2:0] once the older tile instructions have committed. -/
theorem swriteOf_cmoOp {op : Nat} (hi : Issues s e w1) (hpl : (w1.core e).pl.toNat ≤ 1)
    (hacc : Usable (w1.core e) .addr (w1.core e).acc.t) (hop : (w1.core e).acc.v.toNat % 8 = op)
    (hdo : Does s e (cmoOp op) (w1.modEng e.val Engine.commitAll) () w2) :
    swriteOf e 0x345 0#11 s = .next (retired s w2 e 4 3 (w2.core e)) := by
  have hfield : fld (w1.core e).acc.v 0 3 = op := by rw [fld_eq_div_mod, Nat.pow_zero, Nat.div_one]; exact hop
  refine sysWrite_ok (n := 0x345) rfl hi rfl rfl hpl hacc rfl ?_
  rw [← hfield] at hdo
  exact hdo

/-- The world after the engine cache has lost a line, where it holds it. -/
def ecLost (w : World) (e line : Nat) : World :=
  match findLine (w.eng e).ec (ecSet line) line with
  | some d => ecDrop w e d
  | none => w

section Clean

variable {line : Nat} (hva : (w.core e).sysGet 0x344 = va) (ht : Does s e (translate va .clean) w t w2)
  (hp : placeOf w2 (t.ga va.toNat) = .hbm off) (hok : hbmStatus s.anat w2 off = none) (hl : lineOf w2 (t.ga va.toNat) = line)

include hva ht hp hok hl

/-- CLEAN and FLUSH of a line that the engine cache does not hold: FLUSH drops the L1 copies. -/
theorem cmoClean_absent (flush : Bool) (hline : findLine (w2.eng e.val).ec (ecSet line) line = none) :
    Does s e (cmoClean flush) w () (if flush then w2.modEng e.val (fun x => x.dropL1 line) else w2) := by
  subst hva
  unfold Does cmoClean
  rw [(getC_does s e w).bind, ht.bind, EM.bind_ok _ (EM.read_run _ _), EM.bind_ok _ (EM.get_run _ _)]
  simp only [hp, hok, hl, hline]
  cases flush with
  | true | false => rfl

/-- CLEAN and FLUSH of a line that the engine cache holds under the page's key domain: both write it back, and FLUSH takes it
from the engine's caches. -/
theorem cmoClean_held (flush : Bool) {c : CLine} (hline : findLine (w2.eng e.val).ec (ecSet line) line = some c)
    (hdom : c.kdom = t.kdom) :
    Does s e (cmoClean flush) w ()
      (if flush then (ecLost (cleanLine w2 e.val c) e.val line).modEng e.val (fun x => x.dropL1 line)
        else cleanLine w2 e.val c) := by
  subst hva
  unfold Does cmoClean
  rw [(getC_does s e w).bind, ht.bind, EM.bind_ok _ (EM.read_run _ _), EM.bind_ok _ (EM.get_run _ _)]
  simp only [hp, hok, hl, hline]
  rw [if_neg (not_not_intro hdom)]
  cases flush with
  | false => rfl
  | true =>
    unfold ecLost
    cases findLine ((cleanLine w2 e.val c).eng e.val).ec (ecSet line) line with
    | some d | none => rfl

end Clean

/-- ZERO: the store buffer's local entries are performed, then the line takes a store of zeros. -/
theorem cmoZero_does (hva : (w.core e).sysGet 0x344 = va) (ht : Does s e (translate va .atom) w t w2) (hse : t.se = false) :
    let u := drainLocal s.anat e.val ((w2.eng e.val).sb.length) w2
    placeOf u ((t.ga va.toNat >>> 7) <<< 7) = .hbm off → hbmStatus s.anat u off = none →
    Does s e cmoZero w ()
      (engCommit u e.val 0 t.tcls t.kdom .whole (atOff off (offsets (List.replicate 128 0#8)))) := by
  intro u hp hok
  subst hva
  have hdrain : Does s e drainE w2 () u := rfl
  unfold Does cmoZero
  rw [(getC_does s e w).bind, ht.bind, hse]
  refine (hdrain.bind _).trans ?_
  rw [EM.bind_ok _ (EM.read_run _ _), EM.bind_ok _ (EM.get_run _ _)]
  simp only [hp, hok]
  rfl

/-! Invalidation of translations (R435, R436). -/

/-- Empty store buffers have nothing to perform. -/
theorem drain_of_empty (a : Anat) {es : List Nat} (h : ∀ k ∈ es, (w.eng k).sb = []) :
    es.foldl (fun u k => if (u.eng k).sb.isEmpty then u else drainLocal a k ((u.eng k).sb.length) u) w = w := by
  induction es with
  | nil => rfl
  | cons k r ih =>
    have hk : (w.eng k).sb.isEmpty = true := by simp [h k List.mem_cons_self]
    rw [List.foldl_cons, if_pos hk]
    exact ih (fun j hj => h j (List.mem_cons_of_mem k hj))

/-- `TLB_INV` with no store to wait for removes the entries of its operation. -/
theorem tlbInv_does {v : W64} (hop : fld v 0 3 ≤ 3) (hscope : fld v 4 3 ≤ 2)
    (hsb : ∀ k ∈ tlbReach s.anat e.val (fld v 4 3), (w.eng k).sb = []) :
    Does s e (tlbInv v) w ()
      (tlbRemove s.anat w e.val (fld v 0 3) (fld v 4 3) (fld v 16 16) ((w.core e).sysGet 0x304).toNat) := by
  have hnone : (tlbReach s.anat e.val (fld v 4 3)).any (fun k => !(w.eng k).sb.isEmpty) = false := by
    rw [List.any_eq_false]
    intro k hk
    simp [hsb k hk]
  unfold Does tlbInv
  rw [(need_does s e w (by simp [hop, hscope])).bind, EM.bind_ok _ (EM.read_run _ _),
    EM.bind_ok _ (EM.modify_run _ _ _), drain_of_empty s.anat hsb, EM.bind_ok _ (EM.get_run _ _), hnone]
  rfl

/-- A write of `TLB_INV`, under each of its commands. -/
theorem swriteOf_tlbInv (hi : Issues s e w1) (hpl : (w1.core e).pl.toNat ≤ 1)
    (hacc : Usable (w1.core e) .addr (w1.core e).acc.t)
    (hdo : Does s e (tlbInv (w1.core e).acc.v) (w1.modEng e.val Engine.commitAll) () w2) :
    swriteOf e 0x303 0#11 s = .next (retired s w2 e 4 3 (w2.core e)) :=
  sysWrite_ok (n := 0x303) rfl hi rfl rfl hpl hacc rfl hdo

/-- Scope 0 reaches this engine's own translation caches only (R435). -/
theorem tlbRemove_own (a : Anat) (w : World) (e op ctx va : Nat) :
    tlbRemove a w e op 0 ctx va = w.modEng e (fun x => x.tlbInv op ctx va) := by
  have hreach : tlbReach a e 0 = [e] := by simp [tlbReach, tlbScope]
  simp [tlbRemove, hreach, dieScope]

/-- Settles O22: each write of `CMO_OP` is the operation that its operand selects, and each write of `TLB_INV` removes the
entries of its operation. -/
theorem cachesAndTranslations : Obligations.CachesAndTranslations := by
  unfold Obligations.CachesAndTranslations
  refine ⟨fun s e w1 w2 t hi hpl hacc => ?maintenance, fun s e w1 hi hpl hacc => ?translations⟩
  case maintenance =>
    intro w op va ga line done
    refine ⟨fun hop => swriteOf_cmoOp hi hpl hacc hop rfl, fun hop => swriteOf_cmoOp hi hpl hacc hop rfl,
      fun off ht hp hok => ⟨fun hline => ⟨fun hop => ?_, fun hop => ?_⟩, fun c hline hdom => ⟨fun hop => ?_, fun hop => ?_⟩⟩,
      fun off hop ht hse hp hok => ?_⟩
    · exact swriteOf_cmoOp hi hpl hacc hop (cmoClean_absent rfl ht hp hok rfl false hline)
    · exact swriteOf_cmoOp hi hpl hacc hop (cmoClean_absent rfl ht hp hok rfl true hline)
    · exact swriteOf_cmoOp hi hpl hacc hop (cmoClean_held rfl ht hp hok rfl false hline hdom)
    · exact swriteOf_cmoOp hi hpl hacc hop (cmoClean_held rfl ht hp hok rfl true hline hdom)
    · exact swriteOf_cmoOp hi hpl hacc hop (cmoZero_does rfl ht hse hp hok)
  case translations =>
    intro v w p hp hop hscope hsb ctx va u
    have hcommand : exec (p.1 e 0#11) s = swriteOf e 0x303 0#11 s ∧ p.2 ≤ 3 := by
      simp only [List.mem_cons, List.not_mem_nil, or_false] at hp
      rcases hp with rfl | rfl | rfl | rfl
      · exact ⟨rfl, by decide⟩
      · exact ⟨rfl, by decide⟩
      · exact ⟨rfl, by decide⟩
      · exact ⟨rfl, by decide⟩
    obtain ⟨hexec, hle⟩ := hcommand
    have hdo : Does s e (tlbInv v) w () u := by
      simpa only [hop] using tlbInv_does (Nat.le_trans (Nat.le_of_eq hop) hle) hscope hsb
    refine ⟨hexec.trans (swriteOf_tlbInv hi hpl hacc hdo), fun hzero => ?_⟩
    show tlbRemove s.anat w e.val p.2 (fld v 4 3) ctx va = _
    rw [hzero, tlbRemove_own]
    rfl

end Sys2Proof.Machine
end

section
/-!
PROOFS. Lines that enter and leave the engine caches and the piers, scrubbing and retired ways (R343, R351, R352, R356, R357,
R365, R369, R628, R661).
-/

namespace Sys2Proof.Machine

/-! Fills of an engine cache (R343, R351, R352, R356). -/

section EngineFill

variable {s : State} {e : Fin 104} {idx : Nat} {m : EMiss} (hm : (s.w.eng e.val).misses[idx]? = some m)
  (hrun : dieRuns s.anat e.val = true)

include hm hrun

theorem exec_engineCacheFill_away (hway : m.way = none) (hline : hbmLine m.line = false) :
    exec (.engineCacheFill e idx none) s = toWorld s ((fillAway s.w e.val m).modEng e.val (fun y => y.pfDone m.line)) := by
  show execEngineCacheFill e idx none s = _
  simp [execEngineCacheFill, hm, hrun, hway, hline]

theorem exec_engineCacheFill_hbm (hway : m.way = none) (hline : hbmLine m.line = true) :
    exec (.engineCacheFill e idx none) s = toWorld s (
      let w1 := ecFill s.w e.val m
      if (w1.eng e.val).misses.any (fun z => decide (z.line = m.line)) then w1
      else w1.modEng e.val (fun y => y.pfDone m.line)) := by
  show execEngineCacheFill e idx none s = _
  simp [execEngineCacheFill, hm, hrun, hway, hline]

theorem exec_ecVictimAck_waiting {i : Nat} (hway : m.way = some i) :
    exec (.ecVictimAck e idx) s = toWorld s ((ecVictimAck s.w e.val m).modEng e.val (fun y => y.pfDone m.line)) := by
  show execEcVictimAck e idx s = _
  simp [execEcVictimAck, hm, hrun, hway]

end EngineFill

/-- A way that is free takes the line of a miss at once, and the miss is over. -/
theorem ecFill_free {w : World} {e i : Nat} {m : EMiss} {aged : List CLine} (hmask : (w.eng e).ecMask m.cls ≠ 0)
    (hpick : pickWay (waysOf ((w.eng e).ecMask m.cls)) (sgetD (w.eng e).ec (ecSet m.line) [])
      (classPri ((w.eng e).core.sysGet 0x343)) = some (i, aged))
    (hfree : aged.find? (fun c => decide (c.way = i)) = none) :
    ecFill w e m =
      ecPlace (ecRequest (fillAway (w.modEng e (fun y => { y with ec := sset y.ec (ecSet m.line) aged })) e m) e m) e m i := by
  simp only [ecFill, if_neg hmask, hpick, hfree]
  rfl

/-- The world without the line that stands in way i of the set of a miss. -/
def ecVictimGone (w : World) (e : Nat) (m : EMiss) (i : Nat) : World :=
  match (sgetD (w.eng e).ec (ecSet m.line) []).find? (fun c => decide (c.way = i)) with
  | some c => ecDrop w e c
  | none => w

/-- An acknowledged victim leaves its way to the line of the miss. -/
theorem ecVictimAck_places {w : World} {e i : Nat} {m : EMiss} (hway : m.way = some i) :
    ecVictimAck w e m = ecPlace (ecRequest (fillAway (ecVictimGone w e m i) e m) e m) e m i := by
  simp only [ecVictimAck, hway]
  rfl

/-! Allocations of a pier (R351, R352, R357). -/

/-- The world without the line that stands in way i of the set of an allocation of pier p. -/
def pierVictimGone (w : World) (p : Nat) (m : PMiss) (i : Nat) : World :=
  match (sgetD (w.pier p).sets (pierSet m.line) []).find? (fun c => decide (c.way = i)) with
  | some c => pierDrop w c.line
  | none => w

section PierFill

variable {s : State} {p : Fin 128} {idx : Nat} {m : PMiss} (hm : (s.w.pier p.val).misses[idx]? = some m)
  (hup : pierUp s.anat p.val = true)

include hm hup

theorem exec_pierAllocate_new (hway : m.way = none) : exec (.pierAllocate p idx) s = toWorld s (pierAllocate s.w m) := by
  show execPierAllocate p idx s = _
  simp [execPierAllocate, hm, hup, hway]

theorem exec_pierVictimComplete_places {i : Nat} (hway : m.way = some i) :
    exec (.pierVictimComplete p idx) s =
      toWorld s (pierPlace (pierForget (pierVictimGone s.w p.val m i) m.line) m i) := by
  show execPierVictimComplete p idx s = _
  simp only [execPierVictimComplete, hm, hup, hway]
  rfl

end PierFill

/-- A way that is free takes the line of an allocation at once, and the allocation is over. -/
theorem pierAllocate_free {w : World} {m : PMiss} {p i : Nat} {aged : List CLine} (hp : pierOf m.line = p)
    (hways : (waysOf (pierMask w (p / 32) m.part m.cls)).filter (fun i => !bit (pierRet w p) i) ≠ [])
    (hpick : pickWay ((waysOf (pierMask w (p / 32) m.part m.cls)).filter (fun i => !bit (pierRet w p) i))
      (sgetD (w.pier p).sets (pierSet m.line) []) (classPri (w.reg (dcBase (p / 32) + 0x10) 0x88888888#64)) = some (i, aged))
    (hfree : aged.find? (fun c => decide (c.way = i)) = none) :
    pierAllocate w m =
      pierPlace (pierForget (w.modPier p (fun x => { x with sets := sset x.sets (pierSet m.line) aged })) m.line) m i := by
  subst hp
  simp only [pierAllocate, List.isEmpty_iff, if_neg hways, hpick, hfree]

/-! Scrubbing and retired ways (R365, R369, R628, R661). -/

section Pier

variable {s : State} {p : Fin 128} (hup : pierUp s.anat p.val = true)

include hup

theorem exec_pierScrub_clean (hon : bit (s.w.reg (dcBase (p.val / 32)) 1#64) 0 = true) :
    exec (.pierScrub p none) s = toWorld s (s.w.modPier p.val (fun x => { x with scrub := (x.scrub + 1) % 4096 })) := by
  show execPierScrub p none s = _
  simp [execPierScrub, hup, hon]

theorem exec_wayRetire_up (k : Fin 16) : exec (.wayRetire p k) s = toWorld s (wayRetire s.w p.val k.val) := by
  show execWayRetire p k s = _
  rw [execWayRetire, if_pos hup]

theorem exec_wayRetireDone_up : exec (.wayRetireDone p) s = toWorld s (wayRetireDone s.w p.val) := by
  show execWayRetireDone p s = _
  rw [execWayRetireDone, if_pos hup]

end Pier

/-- A retirement that the journal does not hold yet joins it, with its event. -/
theorem journalAdd_new {w : World} {cls b : Nat} {res : List Nat}
    (h : w.av.journal.any (fun j => decide (j.cls = cls) && decide (j.res = res)) = false) :
    journalAdd w cls res b =
      avEvent { w with av := { w.av with journal := w.av.journal ++ [⟨cls, res, w.av.minutes, false⟩] } } b := by
  rw [journalAdd, h]
  rfl

/-- A way not yet retired has its RET bit and BUSY set, and its sets are to be treated. -/
theorem wayRetire_new {w : World} {p k : Nat} (h : bit (pierRet (journalAdd w 3 [p, k] 3) p) k = false) :
    wayRetire w p k =
      ((journalAdd w 3 [p, k] 3).setReg (dcBase (p / 32) + 0x200 + 8 * (p % 32))
        (setBit (setBit (pierRet (journalAdd w 3 [p, k] 3) p) k true) 16 true)).modPier p
          (fun x => { x with retiring := k :: x.retiring }) := by
  simp only [wayRetire, h]
  rfl

/-- The lines of a pier that stand in a way that is being retired. -/
def Pier.retiringLines (x : Pier) : List CLine :=
  ((x.sets.map (fun q => q.2)).flatten).filter (fun c => x.retiring.contains c.way)

/-- A retirement whose sets have been treated takes its lines away, clears BUSY and is DONE in the journal. -/
theorem wayRetireDone_treated {w : World} {p : Nat} (h : (w.pier p).retiring ≠ []) :
    wayRetireDone w p =
      let w1 := (w.pier p).retiringLines.foldl (fun v c => pierDrop v c.line) w
      journalDone ((w1.setReg (dcBase (p / 32) + 0x200 + 8 * (p % 32)) (setBit (pierRet w1 p) 16 false)).modPier p
          (fun y => { y with retiring := [] })) (fun j => decide (j.cls = 3) && decide (j.res.head? = some p)) := by
  simp only [wayRetireDone, List.isEmpty_iff, if_neg h]
  rfl

/-- Settles O24: each command is the case that the hypotheses select. -/
theorem cacheLines : Obligations.CacheLines := by
  unfold Obligations.CacheLines
  refine ⟨fun s idx => ⟨fun e m hm hrun => ?engine, fun p m hm hup hp => ?pier⟩, fun s p hup => ?ways⟩
  case engine =>
    refine ⟨fun hway hline => ?away, fun hway hline => ⟨exec_engineCacheFill_hbm hm hrun hway hline, ?free⟩, fun i hway => ?ack⟩
    case away =>
      rw [exec_engineCacheFill_away hm hrun hway hline, fillAway, modEng_modEng]
      rfl
    case free =>
      intro i aged hmask hpick hfree
      refine (ecFill_free hmask hpick hfree).trans ?_
      rw [fillAway, modEng_modEng]
    case ack =>
      rw [exec_ecVictimAck_waiting hm hrun hway, ecVictimAck_places hway]
      rfl
  case pier =>
    refine ⟨fun i aged hway hways hpick hfree => ?free, fun i hway => exec_pierVictimComplete_places hm hup hway⟩
    case free => rw [exec_pierAllocate_new hm hup hway, pierAllocate_free hp hways hpick hfree]
  case ways =>
    refine ⟨exec_pierScrub_clean hup, fun k hnew hret => ?retire, fun hretiring => ?done⟩
    case retire =>
      rw [← journalAdd_new hnew] at hret ⊢
      rw [exec_wayRetire_up hup, wayRetire_new hret]
    case done =>
      rw [exec_wayRetireDone_up hup, wayRetireDone_treated hretiring]
      rfl

end Sys2Proof.Machine
end

section
/-!
PROOFS. Speculation, table walks and prefetches (R386 to R389, R392, R402, R407, R408, R434).
-/

namespace Sys2Proof.Machine

variable {s : State} {e : Fin 104}

/-! Speculation (R402, R407, R408). -/

/-- A write of `SPEC_CTL` acts once the older tile instructions have committed. -/
theorem swriteOf_specCtl {w1 w2 : World} (hi : Issues s e w1) (hpl : (w1.core e).pl.toNat ≤ 1)
    (hacc : Usable (w1.core e) .addr (w1.core e).acc.t)
    (hdo : Does s e (specCtl (w1.core e).acc.v) (w1.modEng e.val Engine.commitAll) () w2) :
    swriteOf e 0x380 0#11 s = .next (retired s w2 e 4 3 (w2.core e)) :=
  sysWrite_ok (n := 0x380) rfl hi rfl rfl hpl hacc rfl hdo

/-- Bits [2:0] of a word as a remainder. -/
theorem fld_low_three (v : W64) : fld v 0 3 = v.toNat % 8 := by
  calc
    fld v 0 3 = v.toNat / 2 ^ 0 % 2 ^ 3 := fld_eq_div_mod v 0 3
    _ = v.toNat % 8 := congrArg (· % 8) (Nat.div_one v.toNat)

section SpecCtl

variable {w : World} {v : W64}

theorem specCtl_begin (hop : v.toNat % 8 = 1) (hclosed : (w.eng e.val).spec.state = 0) :
    Does s e (specCtl v) w ()
      (w.modEng e.val (fun y => { y with spec := { Spec.idle with state := 1, failed := y.spec.failed } })) := by
  unfold Does specCtl
  rw [(getE_does s e w).bind, fld_low_three, hop, (need_does s e w (by decide)).bind, EM.bind_ok _ (EM.read_run _ _)]
  exact ((need_does s e w (by simp [hclosed])).bind _).trans rfl

theorem specCtl_commit (hop : v.toNat % 8 = 2) :
    Does s e (specCtl v) w () (if (w.eng e.val).spec.state = 0 then w else specCommit w e.val) := by
  unfold Does specCtl
  rw [(getE_does s e w).bind, fld_low_three, hop, (need_does s e w (by decide)).bind, EM.bind_ok _ (EM.read_run _ _)]
  dsimp only
  split
  · rfl
  · rfl

/-- The world after the open speculation of an engine has been discarded; the cycles parked are a free value. -/
def specDiscarded (w : World) (e : Nat) : World :=
  { w with freeCtr := w.freeCtr + 1 }.modEng e (fun y => (y.unpark w.freeCtr).discardSpec)

theorem specCtl_discard (hop : v.toNat % 8 = 4) :
    Does s e (specCtl v) w () (if (w.eng e.val).spec.state = 0 then w else specDiscarded w e.val) := by
  unfold Does specCtl
  rw [(getE_does s e w).bind, fld_low_three, hop, (need_does s e w (by decide)).bind, EM.bind_ok _ (EM.read_run _ _)]
  dsimp only
  split
  · rfl
  · rfl

end SpecCtl

/-! Table walks (R434). -/

/-- The access that a table walk is for: a load (0), a store (1) or a fetch (2). -/
def walkAcc (k : Fin 3) : Acc := if k.val = 0 then .load else if k.val = 1 then .store else .fetch

theorem exec_tableWalk_ok {va : W64} {k : Fin 3} {t : TlbEntry} {w2 : World} (hcan : canIssue s.anat s.w e.val = true)
    (ht : engTranslate s.anat s.w e.val (s.w.eng e.val).core.pl va (walkAcc k) = (.ok t, w2)) :
    exec (.tableWalk e va k) s = toWorld s w2 := by
  show execTableWalk e va k s = _
  unfold walkAcc at ht
  unfold execTableWalk
  rw [if_pos hcan]
  simp only [ht]

/-! Prefetches (R386 to R389, R392). -/

/-- The prefetchers of an engine run: it is bound, its die and its clock run, and it is not locked down. -/
def pfRuns (a : Anat) (w : World) (e : Nat) : Prop :=
  (a.logicalOf e).isSome = true ∧ dieRuns a e = true ∧ w.eclk = true ∧ (w.eng e).locked = none

/-- The world in which the next candidate of stream i has been taken. -/
def streamTaken (w : World) (e i : Nat) : World :=
  w.modEng e (fun y => { y with streams := lmod y.streams i (fun z => { z with issued := z.issued + 1 }) })

/-- The world in which the next line of descriptor i has been taken. -/
def descTaken (w : World) (e i : Nat) : World :=
  w.modEng e (fun y => { y with pfd := lmod y.pfd i (fun z => { z with next := z.next + 1 }) })

/-- The next line of descriptor i, d, becomes a candidate; a descriptor with no line left ends. -/
def descIssue (a : Anat) (w : World) (e i : Nat) (d : PfDesc) : World :=
  match pfLine d 65536 0 d.next with
  | none => w.modEng e (fun y => { y with pfd := dropAt y.pfd i })
  | some va => pfCandidate a (descTaken w e i) e 2 d.ctx d.pl va d.pier

section Prefetch

variable {i : Nat} (hon : pfRuns s.anat s.w e.val)

include hon

/-- The guard of `PREFETCH_ISSUE` lets the prefetchers of an engine that runs through. -/
theorem pfGuard_open :
    ((s.anat.logicalOf e.val).isNone || !dieRuns s.anat e.val || !s.w.eclk || (s.w.eng e.val).locked.isSome) = false := by
  obtain ⟨hbound, hdie, hclk, hlock⟩ := hon
  simp [Option.isNone_eq_false_iff, hbound, hdie, hclk, hlock]

theorem exec_prefetchIssue_stream {t : Stream} (ht : (s.w.eng e.val).streams[i]? = some t)
    (hen : bit ((s.w.eng e.val).core.sysGet 0x360) 0 = true) (htrained : t.trained = true)
    (hdepth : t.issued < fld ((s.w.eng e.val).core.sysGet 0x360) 8 7) {line : Int}
    (hline : line = t.line + t.stride * (t.issued + 1)) (hpos : 0 ≤ line) :
    exec (.prefetchIssue e (.stream i)) s =
      toWorld s (pfCandidate s.anat (streamTaken s.w e.val i) e.val 1 t.ctx t.pl (w64 (line.toNat * 128))
        (bit ((s.w.eng e.val).core.sysGet 0x360) 2)) := by
  subst hline
  show execPrefetchIssue e (.stream i) s = _
  unfold execPrefetchIssue
  simp only [pfGuard_open hon, ht, hen, htrained, Nat.not_le.mpr hdepth, Int.natCast_succ, Int.not_lt.mpr hpos]
  rfl

theorem exec_prefetchIssue_desc {d : PfDesc} (hd : (s.w.eng e.val).pfd[i]? = some d)
    (hen : bit ((s.w.eng e.val).core.sysGet 0x360) 1 = true) :
    exec (.prefetchIssue e (.desc i)) s = toWorld s (descIssue s.anat s.w e.val i d) := by
  show execPrefetchIssue e (.desc i) s = _
  unfold execPrefetchIssue
  simp only [pfGuard_open hon, hd, hen]
  rfl

theorem exec_prefetchIssue_pass {va : W64} (hen : bit ((s.w.eng e.val).core.sysGet 0x360) 1 = true)
    (hahead : fld ((s.w.eng e.val).core.sysGet 0x360) 24 8 ≠ 0) (hpass : ∃ t ∈ (s.w.eng e.val).tq, t.pass = true) :
    exec (.prefetchIssue e (.pass va)) s =
      toWorld s (pfCandidate s.anat s.w e.val 2 ((s.w.eng e.val).core.ctx (s.w.eng e.val).core.pl)
        (s.w.eng e.val).core.pl va false) := by
  have hany : (s.w.eng e.val).tq.any (fun t => t.pass) = true := List.any_eq_true.mpr hpass
  show execPrefetchIssue e (.pass va) s = _
  unfold execPrefetchIssue
  simp only [pfGuard_open hon, hen, hahead, hany]
  rfl

end Prefetch

/-- Settles O23: each write of `SPEC_CTL` is the operation that its operand selects, and each prefetcher that runs takes its
next candidate. -/
theorem speculationAndPrefetch : Obligations.SpeculationAndPrefetch := by
  unfold Obligations.SpeculationAndPrefetch
  refine ⟨fun s e w1 hi hpl hacc => ⟨fun hop hclosed => ?begins, fun hop => ?commits, fun hop => ?discards⟩,
    fun s e i => ⟨fun va k t w2 hcan ht => exec_tableWalk_ok hcan ht,
      fun t hon ht hen htrained hdepth => ?stream, fun d hon hd hen => ?desc,
      fun va hon hen hahead hpass => exec_prefetchIssue_pass hon hen hahead hpass, rfl⟩⟩
  case begins => exact swriteOf_specCtl hi hpl hacc (specCtl_begin hop hclosed)
  case commits => exact swriteOf_specCtl hi hpl hacc (specCtl_commit hop)
  case discards => exact swriteOf_specCtl hi hpl hacc (specCtl_discard hop)
  case stream =>
    intro w1 line hpos
    exact exec_prefetchIssue_stream hon ht hen htrained hdepth rfl hpos
  case desc => exact exec_prefetchIssue_desc hon hd hen

end Sys2Proof.Machine
end

section
/-!
PROOFS. HBM front ends: requests, bank accesses, promotion, refresh and calibration windows (R373 to R382, R593).
-/

namespace Sys2Proof.Machine

/-! Requests (R373 to R376). -/

/-- A request for a line of a stack as it reaches front end f. -/
def newReq (w : World) (f : FrontEnd) (req line : Nat) (write : Bool) : HReq :=
  { req := req, line := line, write := write, time := w.time, seq := f.next, started := false, promoted := false }

/-- A request that finds no place at front end g waits there, or is held back at its pier where too many wait. -/
def feWaits (w : World) (g : Nat) (f : FrontEnd) (x : HReq) : World :=
  if 256 ≤ f.wait.length ∨ 64 ≤ (f.wait.filter (fun y => decide (y.req = x.req))).length then feCount w g 6 1
  else w.setFe g { f with wait := f.wait ++ [x], next := f.next + 1 }

/-- A write in a slot with which a request for its line merges: for a write, one whose access has not started. -/
def feMerges (f : FrontEnd) (line : Nat) (write : Bool) : Bool :=
  f.slots.any (fun y => decide (y.line = line) && y.write && (!write || !y.started))

section Request

variable {w w1 : World} {g req line : Nat} {write : Bool}

theorem feRequest_merges (hnone : (w.fe g).wait.any (fun y => decide (y.line = line)) = false)
    (hmerge : feMerges (w.fe g) line write = true) : feRequest w g req line write = feCount w g 4 1 := by
  unfold feMerges at hmerge
  simp [feRequest, hnone, hmerge]

theorem feRequest_takes (hnone : (w.fe g).wait.any (fun y => decide (y.line = line)) = false)
    (hmerge : feMerges (w.fe g) line write = false) (hfree : (w.fe g).slots.length < 64)
    (hquota : feQuota (w.fe g) req (hbmBank line) = true) (hpert : pertEvent w (g / 384) 2 2 [g % 384] = (false, w1)) :
    feRequest w g req line write = w1.setFe g
      { w.fe g with slots := (w.fe g).slots ++ [newReq w (w.fe g) req line write], next := (w.fe g).next + 1 }.settle := by
  unfold feMerges at hmerge
  simp only [feRequest, hmerge, hnone, hfree, hquota, hpert]
  rfl

theorem feRequest_full (hmerge : feMerges (w.fe g) line write = false) (hfull : 64 ≤ (w.fe g).slots.length)
    (hquota : feQuota (w.fe g) req (hbmBank line) = true) :
    feRequest w g req line write = feWaits w g (w.fe g) (newReq w (w.fe g) req line write) := by
  unfold feMerges at hmerge
  simp only [feRequest, hmerge, Nat.not_lt.mpr hfull, hquota]
  rfl

theorem feRequest_overQuota (hmerge : feMerges (w.fe g) line write = false)
    (hquota : feQuota (w.fe g) req (hbmBank line) = false) :
    feRequest w g req line write = feWaits (hotLog (feCount w g 0 1) g req (hbmBank line)) g (w.fe g)
      (newReq w (w.fe g) req line write) := by
  unfold feMerges at hmerge
  simp only [feRequest, hmerge, hquota, Bool.and_false]
  rfl

end Request

/-- A request for an offset of a stack that is reached goes to the front end of its line. -/
theorem exec_hbmRequest_reached {s : State} {req : Byte} {off : BitVec 41} (write : Bool)
    (hpop : populated s.anat.part off.toNat = true) (hup : stackUp s.anat s.w (homeStack off.toNat) = true)
    (hreq : req.toNat < 184) :
    exec (.hbmRequest req off write) s =
      toWorld s (feRequest s.w (64 * homeStack off.toNat + hbmPc (stackOffset off.toNat / 128)) req.toNat
        (stackOffset off.toNat / 128) write) := by
  show execHbmRequest req off write s = _
  simp [execHbmRequest, hpop, hup, hreq]

/-! Bank accesses (R377 to R381, R593). -/

section Bank

variable {s : State} {g : Fin 1536} {x : HReq}

/-- Front end f once the access of request x has started: its bank has the row of x open. -/
def FrontEnd.start (f : FrontEnd) (x : HReq) : FrontEnd :=
  { f with rows := sset f.rows (hbmBank x.line) (hbmRow x.line)
           slots := f.slots.map (fun y => if y = x then { y with started := true } else y) }

theorem exec_bankAccessStart_starts {w1 w2 : World} (hopen : feOpen s.anat s.w g.val = true)
    (hnext : feNext (s.w.setFe g.val (feFill (s.w.fe g.val))) g.val = some x)
    (hdelay : pertEvent (s.w.setFe g.val (feFill (s.w.fe g.val))) (g.val / 384) 1 2 [g.val % 384] = (false, w1))
    (hretry : pertEvent (feCount w1 g.val
        (if sget (feFill (s.w.fe g.val)).rows (hbmBank x.line) = some (hbmRow x.line) then 2 else 3) 1)
      (g.val / 384) 4 2 [g.val % 384] = (false, w2)) :
    exec (.bankAccessStart g) s = toWorld s (w2.setFe g.val ((feFill (s.w.fe g.val)).start x)) := by
  show execBankAccessStart g s = _
  simp [execBankAccessStart, hopen, hnext, hdelay, hretry, FrontEnd.start]

/-- The access of request x has ended with no read to serve: its slot comes free, and a waiting request takes it. -/
def FrontEnd.finish (f : FrontEnd) (x : HReq) : FrontEnd :=
  let f1 := { f with slots := f.slots.filter (fun y => decide (y ≠ x)) }
  if f1.slots.length < 64 then feRefill f1 else f1

/-- A read y of the line of x that the access of x serves when it ends: no write for the line is older than y. -/
def feServed (f : FrontEnd) (x y : HReq) : Bool :=
  !x.write && decide (y ≠ x) && decide (y.line = x.line) && !y.write &&
    !(f.slots ++ f.wait).any (fun z => z.write && decide (z.line = x.line) && decide (z.seq < y.seq))

theorem exec_bankAccessDone_alone {b : Fin 16}
    (hx : feOldest (s.w.fe g.val).slots (fun x => x.started && decide (hbmBank x.line = b.val)) = some x)
    (hnone : ∀ y ∈ (s.w.fe g.val).slots ++ (s.w.fe g.val).wait, feServed (s.w.fe g.val) x y = false) :
    exec (.bankAccessDone g b) s = toWorld s (s.w.setFe g.val ((s.w.fe g.val).finish x)) := by
  have hserved : ((s.w.fe g.val).slots ++ (s.w.fe g.val).wait).filter (feServed (s.w.fe g.val) x) = [] := by
    exact List.filter_eq_nil_iff.mpr fun y hy => by rw [hnone y hy]; exact Bool.false_ne_true
  have hslots : (s.w.fe g.val).slots.filter (fun y => decide (y ≠ x) && !feServed (s.w.fe g.val) x y) =
      (s.w.fe g.val).slots.filter (fun y => decide (y ≠ x)) :=
    List.filter_congr fun y hy => by rw [hnone y (List.mem_append_left _ hy), Bool.not_false, Bool.and_true]
  have hwait : (s.w.fe g.val).wait.filter (fun y => !feServed (s.w.fe g.val) x y) = (s.w.fe g.val).wait :=
    List.filter_eq_self.mpr fun y hy => by rw [hnone y (List.mem_append_right _ hy), Bool.not_false]
  show execBankAccessDone g b s = _
  unfold feServed at hserved hslots hwait
  simp only [execBankAccessDone, hx, hserved, hslots, hwait]
  rfl

/-- Promotion of request x among the requests of a front end. -/
def promote (x y : HReq) : HReq := if y = x then { y with promoted := true } else y

theorem exec_agePromote_oldest
    (hx : feOldest ((s.w.fe g.val).slots ++ (s.w.fe g.val).wait) (fun x => !x.promoted && !x.started) = some x) :
    exec (.agePromote g) s = toWorld s (feCount ((s.w.timeTo (x.time + 400#64)).setFe g.val
      { s.w.fe g.val with slots := (s.w.fe g.val).slots.map (promote x), wait := (s.w.fe g.val).wait.map (promote x) })
      g.val 1 1) := by
  show execAgePromote g s = _
  simp only [execAgePromote, hx]
  rfl

theorem exec_refresh_idle {b : Fin 16} (hup : stackUp s.anat s.w (g.val / 64) = true)
    (hidle : (s.w.fe g.val).slots.any (fun x => x.started && decide (hbmBank x.line = b.val)) = false) :
    exec (.refresh g b) s =
      toWorld s (s.w.setFe g.val { s.w.fe g.val with rows := sdel (s.w.fe g.val).rows b.val }) := by
  show execRefresh g b s = _
  simp [execRefresh, hup, hidle]

end Bank

/-! Calibration windows (R382). -/

section Window

variable {s : State} {h : Fin 24} {c : Fin 32}

theorem exec_calWindowStart_opens (hup : stackUp s.anat s.w h.val = true) (htime : s.w.timeRun = true)
    (hclosed : ∀ i < 32, (s.w.fe (64 * h.val + 2 * i)).cal = false) :
    exec (.calWindowStart h c) s =
      toWorld s (calSet (s.w.timeTo (nextWindow s.w.time (100000 * c.val + 4000 * h.val))) h.val c.val true) := by
  have hnone : (List.range 32).any (fun i => (s.w.fe (64 * h.val + 2 * i)).cal) = false := by
    simpa [List.any_eq_false] using hclosed
  show execCalWindowStart h c s = _
  simp [execCalWindowStart, hup, htime, hnone]

theorem exec_calWindowEnd_closes (hcal : (s.w.fe (64 * h.val + 2 * c.val)).cal = true) :
    exec (.calWindowEnd h c) s =
      let n := Config.free s.w.freeCtr % 1501
      toWorld s (feCount (feCount { calSet s.w h.val c.val false with freeCtr := s.w.freeCtr + 1 }
        (64 * h.val + 2 * c.val) 5 n) (64 * h.val + 2 * c.val + 1) 5 n) := by
  show execCalWindowEnd h c s = _
  simp only [execCalWindowEnd, hcal, Bool.not_true, Bool.false_eq_true, if_false]

end Window

/-- Settles O42: each command is the case of the front end's state that the hypotheses select. -/
theorem hbmScheduling : Obligations.HbmScheduling := by
  unfold Obligations.HbmScheduling
  refine ⟨?requests, fun s g => ⟨fun x w1 w2 hopen hnext => ?start, fun b x hx => ?done,
    fun x hx => exec_agePromote_oldest hx, fun b hup hidle => exec_refresh_idle hup hidle,
    fun h c hup htime hclosed => exec_calWindowStart_opens hup htime hclosed,
    fun h c => exec_calWindowEnd_closes⟩⟩
  case requests =>
    intro s req off write h l g f x queued hpop hup hreq
    rw [exec_hbmRequest_reached write hpop hup hreq]
    refine ⟨fun hnone => ⟨fun hmerge => ?merges, fun hmerge => ⟨fun w1 hfree hquota hpert => ?takes, fun hfull hquota => ?full⟩⟩,
      fun hmerge hquota => ?overQuota⟩
    case merges => exact congrArg (toWorld s) (feRequest_merges hnone hmerge)
    case takes => exact congrArg (toWorld s) (feRequest_takes hnone hmerge hfree hquota hpert)
    case full => exact congrArg (toWorld s) (feRequest_full hmerge hfull hquota)
    case overQuota => exact congrArg (toWorld s) (feRequest_overQuota hmerge hquota)
  case start =>
    intro f b hdelay hretry
    exact exec_bankAccessStart_starts hopen hnext hdelay hretry
  case done =>
    intro f hnone
    refine exec_bankAccessDone_alone hx fun y hy => ?_
    have hother := eq_false_of_ne_true (List.filter_eq_nil_iff.mp hnone y hy)
    rw [feServed, hother, Bool.false_and]

end Sys2Proof.Machine
end

section
/-!
PROOFS. The atomic unit: lanes, EXA128 sums, targets (R442 to R459).
-/

namespace Sys2Proof.Machine

/-! EXA128 sums (R281, R282, R459). -/

/-- An integer in the signed range of k + 1 bits is the value of its own pattern. -/
theorem sInt_ofInt {k : Nat} {i : Int} (hlo : -2 ^ k ≤ i) (hhi : i < 2 ^ k) : sInt (k + 1) (ofInt (k + 1) i) = i := by
  have hpow : (2 : Int) ^ (k + 1) = 2 * 2 ^ k := Int.pow_succ' 2 k
  have hcast : ((2 ^ k : Nat) : Int) = 2 ^ k := Int.natCast_pow 2 k
  unfold sInt ofInt
  rw [Nat.add_sub_cancel]
  by_cases hpos : 0 ≤ i
  · have hmod : i % 2 ^ (k + 1) = i := Int.emod_eq_of_lt hpos (by omega)
    rw [hmod, if_pos (by omega)]
    omega
  · have hmod : i % 2 ^ (k + 1) = i + 2 ^ (k + 1) := by
      rw [← Int.add_emod_right, Int.emod_eq_of_lt (by omega) (by omega)]
    rw [hmod, if_neg (by omega)]
    omega

theorem exaSat_value (i : Int) : (exaSat i).1 = max (-(2 ^ 127 : Int)) (min (2 ^ 127 - 1) i) := by
  unfold exaSat
  split
  · dsimp only
    omega
  · split
    · dsimp only
      omega
    · dsimp only
      omega

theorem exaAdd_value (old : Nat) (x : Int × Bool) :
    sInt 128 (exaAdd old x).1 = max (-(2 ^ 127 : Int)) (min (2 ^ 127 - 1) (sInt 128 old + x.1)) := by
  unfold exaAdd
  dsimp only
  rw [exaSat_value]
  exact sInt_ofInt (k := 127) (by omega) (by omega)

/-! A target of one lane (R447, R456). -/

theorem piecesOf_whole {n : Nat} {l : List Byte} (hn : 0 < n) (hl : l.length = n) : piecesOf n l = [leNat l] := by
  unfold piecesOf
  rw [hl, Nat.div_self hn, List.range_one, List.map_singleton, Nat.mul_zero, List.drop_zero, ← hl, List.take_length]

theorem lanew_pos (aop : Nat) : 0 < lanew aop := by
  unfold lanew
  repeat' split
  all_goals decide

/-- An element-form atomic without header makes its operation's value of the old bytes, and no lane saturates. -/
theorem atomBytes_element {r : AtomReq} {old : List Byte} (ex : Int) (haop : r.aop ≠ 12 ∧ r.aop ≠ 13)
    (hold : old.length = lanew r.aop) (hopd : r.operand.length = lanew r.aop) :
    atomBytes r ex old = (leBytes (lanew r.aop) (laneOp r.aop (leNat old) (leNat r.operand) r.cmp.toNat), 0) := by
  obtain ⟨h12, h13⟩ := haop
  unfold atomBytes
  rw [if_neg (not_or.mpr ⟨h12, h13⟩), piecesOf_whole (lanew_pos _) hold, piecesOf_whole (lanew_pos _) hopd]
  simp

@[simp] theorem recordSat_none (w : World) (cls part : Nat) (d : Byte) (o : Nat) : recordSat w cls part d o 0 = w := if_pos rfl

@[simp] theorem rdBytes_length (m : Memory) (k : Keystone) (d : Byte) (off n : Nat) : (rdBytes m k d off n).length = n := by
  simp [rdBytes]

/-- An element-form atomic without header that the unit does not refuse is performed (R442, R454, R456). -/
theorem performAtom_element {a : Anat} {w : World} {r : AtomReq} {off : Nat} (cls part tcls : Nat) (d : Byte)
    (haop : r.aop ≠ 12 ∧ r.aop ≠ 13) (hline : r.line = false) (hok : hbmStatus a w off = none)
    (htag : ∀ i < 16, inTagged w.places (off / 128 * 128 + 8 * i) = false)
    (hpoison : poisonIn w.mem w.ks w.places off (elemSize r.aop) = none) (hopd : r.operand.length = elemSize r.aop) :
    let n := elemSize r.aop
    let old := leNat (rdBytes w.mem w.ks d off n)
    performAtom a w r off cls part tcls d =
      (.done old, unitCommit w cls part tcls d .whole
        (atOff off (offsets (leBytes n (laneOp r.aop old (leNat r.operand) r.cmp.toNat))))) := by
  have huntagged : (List.range 16).any (fun i => inTagged w.places (off / 128 * 128 + 8 * i)) = false := by
    simpa [List.any_eq_false] using htag
  have hbytes := atomBytes_element 0 haop (rdBytes_length w.mem w.ks d off (lanew r.aop)) hopd
  unfold elemSize at hpoison
  have hplain : ¬(r.aop = 12 ∨ r.aop = 13) := not_or.mpr haop
  simp only [performAtom, elemSize, hline, hok, huntagged, hpoison, hplain, hbytes, recordSat_none, Bool.false_eq_true,
    if_false, Option.isSome_none]

/-- Settles O36: an operation's value by its row of the table, a target of one lane through its bytes, and a sum by the clamp
that saturates it. -/
theorem atomicUnit : Obligations.AtomicUnit := by
  unfold Obligations.AtomicUnit
  refine ⟨fun old b cmp => ⟨rfl, rfl, rfl, rfl, rfl, rfl, ?umin, ?umax⟩,
    fun a w r off cls part tcls d haop hline hok _ htag hpoison hopd => ?target, fun old x ex _ => exaAdd_value old _⟩
  case umin => exact (Nat.min_def).symm
  case umax => exact (Nat.max_def).symm
  case target => exact performAtom_element cls part tcls d (by omega) hline hok htag hpoison hopd

end Sys2Proof.Machine
end

section
/-!
PROOFS. Atomic instructions: how they leave the core, are performed at their pier and answered (R446 to R454, R460).
-/

namespace Sys2Proof.Machine

/-! Issue (R446 to R452). -/

/-- The entry of a returning atomic that engine y puts into its store buffer. -/
def AtomPlan.entry (p : AtomPlan) (y : Engine) (o : AOp) (aop : Nat) : SbEntry :=
  let z := targetSize aop o.line
  atomEntry y p.t p.ea 0 z (log2Size z) (p.req o aop y.core.ix1.v p.src)

section Issue

variable {s : State} {e : Fin 104} {o : AOp} {aop : Nat} {w1 w2 : World} {p : AtomPlan}

@[simp] theorem pushStore_core (x : Engine) (t : SbEntry) : (x.pushStore t).core = x.core := by
  unfold Engine.pushStore
  split
  · rfl
  · rfl

theorem foldl_pushStore_core (l : List SbEntry) (x : Engine) : (l.foldl Engine.pushStore x).core = x.core := by
  induction l generalizing x with
  | nil => rfl
  | cons t l ih => rw [List.foldl_cons, ih, pushStore_core]

/-- A non-returning atomic whose checks pass retires with its entries in the store buffer. -/
theorem atomInstr_retires (hi : Issues s e w1) (hprep : Does s e (atomPrep aop o) w1 p w2) (hret : o.ret = false)
    (hroom : (w2.eng e.val).sbRoom ≠ 0) :
    atomInstr e o aop s =
      .next (retired s (w2.modEng e.val (fun k => (atomEntries k p o aop).foldl Engine.pushStore k)) e 4 1 (w2.core e)) := by
  have hcore : (w2.modEng e.val (fun k => (atomEntries k p o aop).foldl Engine.pushStore k)).core e = w2.core e := by
    rw [World.core, eng_modEng, foldl_pushStore_core]
  rw [← hcore]
  refine seqInstr_ok hi ?_
  unfold Does
  rw [hprep.bind, (getE_does s e w2).bind, hret, if_neg Bool.false_ne_true, if_neg hroom]
  rfl

/-- The engine once its returning atomic has gone to the home pier: the entry is in the store buffer behind those of the tile
instructions, and the engine waits for the answer. -/
def Engine.awaitAtomic (y : Engine) (p : AtomPlan) (o : AOp) (aop : Nat) : Engine :=
  { y with sb := y.sb ++ [p.entry y o aop], wait := .atomic aop p.ea }

theorem atomReturning_local (hroom : (w2.eng e.val).commitAll.sbRoom ≠ 0)
    (hlocal : (localOff w2 (p.entry (w2.eng e.val).commitAll o aop).ga).isSome = true) :
    atomReturning p o aop ⟨s.anat, e.val⟩ w2 =
      .error .wait (w2.modEng e.val (fun y => y.commitAll.awaitAtomic p o aop)) := by
  have hhere (f : Engine → Engine) :
      (localOff (w2.modEng e.val f) (p.entry (w2.eng e.val).commitAll o aop).ga).isSome = true := hlocal
  unfold atomReturning
  rw [EM.bind_ok _ (EM.read_run _ _), (modE_does s e w2 _).bind, (getE_does s e _).bind, eng_modEng, if_neg hroom]
  refine (EM.bind_ok _ (EM.get_run _ _)).trans ?_
  refine (congrFun (congrFun (if_pos (hhere _)) _) _).trans ?_
  rw [(modE_does s e _ _).bind, modEng_modEng]
  unfold World.modEng
  rfl

/-- A returning atomic for this module's memory, whose checks pass, leaves its entry and waits. -/
theorem atomInstr_waits (hi : Issues s e w1) (hprep : Does s e (atomPrep aop o) w1 p w2) (hret : o.ret = true)
    (hresp : (w2.eng e.val).atomResp = none) (hroom : (w2.eng e.val).commitAll.sbRoom ≠ 0)
    (hlocal : (localOff w2 (p.entry (w2.eng e.val).commitAll o aop).ga).isSome = true) :
    atomInstr e o aop s = toWorld s (w2.setEng e.val
      { (w2.eng e.val).commitAll.awaitAtomic p o aop with core := (s.w.eng e.val).core }) := by
  have hbody := atomReturning_local (s := s) hroom hlocal
  refine (seqInstr_wait (w2 := w2.modEng e.val (fun y => y.commitAll.awaitAtomic p o aop)) hi ?_).trans ?_
  · rw [hprep.bind, (getE_does s e w2).bind, hret, if_pos rfl, hresp]
    exact hbody
  · rw [modEng_modEng]
    rfl

end Issue

/-! Performance at the home pier (R442, R452, R454). -/

section Pier

variable {s : State} {e : Fin 104} {idx off : Nat} {t : SbEntry} {r : AtomReq}

/-- What becomes of the entry of an atomic once the unit has answered: a returning one's answer is for the engine, and an error
of another is reported late. -/
def atomEntryEnds (e idx : Nat) (t : SbEntry) (r : AtomReq) (z : AtomOutcome × World) : World :=
  if r.ret then sbDone (z.2.modEng e (fun y => { y with atomResp := some (atomAnswer false z.1) })) e idx
  else match z.1 with
    | .done _ => sbDone z.2 e idx
    | .refused st => sbError z.2 e idx t st

theorem exec_pierAtomic_performs (ht : (s.w.eng e.val).sb[idx]? = some t) (hatom : t.atom = some r)
    (hoff : localOff s.w t.ga = some off) (hmay : (s.w.eng e.val).mayPerform idx = true)
    (hrun : dieRuns s.anat (homeDie off * 26) = true) :
    exec (.pierAtomic e idx) s = toWorld s (atomEntryEnds e.val idx t r
      (performAtom s.anat s.w r off 0 (s.w.eng e.val).part t.tcls t.kdom)) := by
  show execPierAtomic e idx s = _
  simp only [execPierAtomic, performAtomEntry, ht, hatom, hoff, hmay, hrun, Bool.not_true, Bool.or_self, Bool.false_eq_true, if_false]
  rfl

end Pier

/-! The response (R451, R453). -/

theorem atomResult_integer {c : Core} {aop : Nat} (v nan : Nat) (haop : aop < 8) :
    c.atomResult aop v nan = { c with
      acc := ⟨w64 v, 1#4⟩
      st := if aop = 2 then setBit c.st 0 (decide (v = fld c.ix1.v 0 32))
            else if aop = 3 then setBit c.st 0 (decide (v = c.ix1.v.toNat)) else c.st } := by
  have hint : aopFp aop = false := by simp [aopFp]; omega
  unfold Core.atomResult
  rw [hint, if_neg Bool.false_ne_true]
  by_cases h2 : aop = 2
  · rw [if_pos h2, if_pos h2]
  · rw [if_neg h2, if_neg h2]
    by_cases h3 : aop = 3
    · rw [if_pos h3, if_pos h3]
    · rw [if_neg h3, if_neg h3]

/-- The engine once the old value of its returning atomic has arrived: the atomic retires with its result. -/
def Engine.atomDone (x : Engine) (aop : Nat) (r : AtomResp) (n : Nat) : Engine :=
  let c := x.core.atomResult aop r.val n
  ({ x with wait := .none, atomResp := none, core := { c with pc := c.pc + 4#64, seq := c.seq + 1 } }).retire 1 n

theorem deliverAtomic_value (a : Anat) (w : World) (e aop : Nat) (va : W64) {r : AtomResp} (hcode : r.code = 0#8) :
    deliverAtomic a w e aop va r = { w.modEng e (fun x => x.atomDone aop r w.freeCtr) with freeCtr := w.freeCtr + 1 } := by
  unfold deliverAtomic
  rw [if_pos hcode, modEng_modEng]
  rfl

theorem takeHeldChecks_none {w : World} {e : Nat} (a : Anat) (h : (w.eng e).mcPend = []) :
    takeHeldChecks a w e = w.modEng e (fun x => { x with mcPend := [] }) := by
  unfold takeHeldChecks
  rw [h, List.foldl_nil]

/-- The old value that has arrived is delivered; no machine check has waited for it. -/
theorem exec_atomicResponse_value {s : State} {e : Fin 104} {aop : Nat} {va : W64} {r : AtomResp}
    (hwait : (s.w.eng e.val).wait = .atomic aop va) (hresp : (s.w.eng e.val).atomResp = some r) (hcode : r.code = 0#8)
    (hheld : (s.w.eng e.val).mcPend = []) :
    exec (.atomicResponse e) s = toWorld s { s.w.setEng e.val
      { (s.w.eng e.val).atomDone aop r s.w.freeCtr with mcPend := [] } with freeCtr := s.w.freeCtr + 1 } := by
  have hdone := deliverAtomic_value s.anat s.w e.val aop va hcode
  have hnone : ((deliverAtomic s.anat s.w e.val aop va r).eng e.val).mcPend = [] := by
    rw [hdone]
    exact (congrArg Engine.mcPend (eng_modEng s.w e.val (fun x => x.atomDone aop r s.w.freeCtr))).trans hheld
  show execAtomicResponse e s = _
  simp only [execAtomicResponse, hwait, hresp]
  rw [takeHeldChecks_none s.anat hnone, hdone]
  exact congrArg (fun w : World => toWorld s { w with freeCtr := s.w.freeCtr + 1 })
    (modEng_modEng s.w e.val (fun x => x.atomDone aop r s.w.freeCtr) (fun x => { x with mcPend := [] }))

/-- Settles O35: each instruction is an atomic with its operation of the table, and each command the case that the hypotheses
select. -/
theorem atomicInstructions : Obligations.AtomicInstructions := by
  unfold Obligations.AtomicInstructions
  refine fun s e o w1 w2 p => ⟨fun hi q hq hprep => ?issue, fun idx off t r ht hatom hoff hmay hrun => ?pier,
    fun aop va r hwait hresp hcode hheld haop => ?response⟩
  case issue =>
    have hmeans : exec (q.1 e o) s = atomInstr e o q.2 s := by
      simp only [List.mem_cons, List.not_mem_nil, or_false] at hq
      obtain rfl | rfl | rfl | rfl | rfl | rfl | rfl | rfl | rfl | rfl | rfl | rfl | rfl | rfl | rfl := hq
      all_goals rfl
    rw [hmeans]
    exact ⟨atomInstr_retires hi hprep, atomInstr_waits hi hprep⟩
  case pier =>
    rw [exec_pierAtomic_performs ht hatom hoff hmay hrun]
    refine ⟨fun hret => ?returning, fun old hret hdone => ?done, fun st hret hrefused => ?refused⟩
    case returning => rw [atomEntryEnds, if_pos hret]
    case done => rw [atomEntryEnds, hret, if_neg Bool.false_ne_true, hdone]
    case refused => rw [atomEntryEnds, hret, if_neg Bool.false_ne_true, hrefused]
  case response =>
    rw [exec_atomicResponse_value hwait hresp hcode hheld, Engine.atomDone, atomResult_integer _ _ haop]
    rfl

end Sys2Proof.Machine
end

section
/-!
PROOFS. Turroth ports: training, retraining and loss, lanes and their rotation (R465 to R472, R482, R483, R486, R501, R502).
-/

namespace Sys2Proof.Machine

/-! A port that is changed. -/

/-- Two changes that agree on a port as it stands are one change of the module. -/
theorem modPort_congr {w : World} {p : Nat} {f g : Port → Port} (h : f (w.port p) = g (w.port p)) :
    w.modPort p f = w.modPort p g := congrArg (w.setPort p) h

@[simp] theorem port_modPort (w : World) (p : Nat) (f : Port → Port) : (w.modPort p f).port p = f (w.port p) :=
  port_setPort w p _

theorem rotOk_of_up {a : Anat} {w : World} {p : Nat} (hrun : portRuns a p = true) (hup : (w.port p).state = 3) :
    rotOk a w p = true := by rw [rotOk, hrun, hup]; rfl

/-! Changes of state (R482, R483, R486, R501, R502). -/

theorem portTrain_trains {a : Anat} {w : World} {p : Nat} (hrun : portRuns a p = true) (henabled : bit (lnkCtl w p) 0 = true)
    (hnode : w.nodeId.isSome = true) (hclock : w.pwr.refStop = false) :
    portTrain a w p = w.modPort p (fun y => y.stop 1 y.reason) := by
  simp [portTrain, hrun, henabled, hnode, hclock]

/-- The module after port p has given up its rotations and entered RETRAIN. -/
def retraining (w : World) (p : Nat) : World := lnkEvent (w.modPort p (fun y => { y.rotAbort with state := 4 })) p 2

theorem toRetrain_of_up {w : World} {p : Nat} (hup : (w.port p).state = 3) : toRetrain w p = retraining w p := if_pos hup

section States

variable {s : State} {p : Fin 32} (hrun : portRuns s.anat p.val = true)
include hrun

theorem exec_lnkEnable_on : exec (.lnkEnable p true) s = toWorld s (
    let w1 := s.w.setReg (portBase p.val) (setBit (lnkCtl s.w p.val) 0 true)
    if (s.w.port p.val).state = 0 then portTrain s.anat w1 p.val else w1) := by
  show execLnkEnable p true s = _
  rw [execLnkEnable, if_pos hrun]
  rfl

theorem exec_lnkEnable_off (hon : (s.w.port p.val).state ≠ 0) : exec (.lnkEnable p false) s =
    toWorld s (portLeave s.anat (s.w.setReg (portBase p.val) (setBit (lnkCtl s.w p.val) 0 false)) p.val 0 9) := by
  show execLnkEnable p false s = _
  simp [execLnkEnable, lnkEnable, hrun, hon]

theorem exec_retrain_up (hup : (s.w.port p.val).state = 3) : exec (.retrain p) s = toWorld s (retraining s.w p.val) := by
  show execRetrain p s = _
  rw [execRetrain, if_pos hrun, toRetrain_of_up hup]

theorem exec_laneTrainLocked_negotiates {rx tx : BitVec 9} (htraining : (s.w.port p.val).state = 1)
    (hrx : 4 ≤ ((lanesLocked rx).filter id).length) (htx : 4 ≤ ((lanesLocked tx).filter id).length) :
    exec (.laneTrainLocked p rx tx) s = toWorld s (
      let a := laneLayout (lanesLocked rx)
      let b := laneLayout (lanesLocked tx)
      let w1 := s.w.modPort p.val (fun y => (y.setDir true a.1 a.2.1 a.2.2).setDir false b.1 b.2.1 b.2.2)
      toNegotiate (if a.2.1 || b.2.1 then lnkEvent w1 p.val 4 else w1) p.val) := by
  show execLaneTrainLocked p rx tx s = _
  exact congrArg (toWorld s) (if_pos ⟨htraining, hrun, hrx, htx⟩)

theorem exec_laneTrainTimeout_down (htraining : (s.w.port p.val).state = 1) :
    exec (.laneTrainTimeout p) s = toWorld s (portLeave s.anat s.w p.val 5 0) := by
  show execLaneTrainTimeout p s = _
  simp [execLaneTrainTimeout, hrun, htraining]

theorem exec_negotiateTimeout_down (hnegotiates : (s.w.port p.val).state = 2) :
    exec (.negotiateTimeout p) s = toWorld s (portLeave s.anat s.w p.val 5 10) := by
  show execNegotiateTimeout p s = _
  simp [execNegotiateTimeout, hrun, hnegotiates]

theorem exec_retrainTimeout_down (hretrains : (s.w.port p.val).state = 4) :
    exec (.retrainTimeout p) s = toWorld s (portLeave s.anat s.w p.val 5 3) := by
  show execRetrainTimeout p s = _
  simp [execRetrainTimeout, hrun, hretrains]

theorem exec_silenceTimeout_down (hsession : (s.w.port p.val).state = 3 ∨ (s.w.port p.val).state = 4) :
    exec (.silenceTimeout p) s = toWorld s (portLeave s.anat s.w p.val 5 1) := by
  show execSilenceTimeout p s = _
  simp [execSilenceTimeout, hrun, hsession]

theorem exec_trainingBlock_foreign {v : W64} (hsession : (s.w.port p.val).state = 3 ∨ (s.w.port p.val).state = 4)
    (hown : v ≠ (s.w.port p.val).hs.own) (hpeer : v ≠ (s.w.port p.val).hs.peer) :
    exec (.trainingBlock p v) s = toWorld s (portLeave s.anat s.w p.val 5 11) := by
  show execTrainingBlock p v s = _
  simp [execTrainingBlock, hrun, hown, hpeer, ← not_or, hsession]

theorem exec_trainingBlock_session {v : W64} (hup : (s.w.port p.val).state = 3)
    (hmine : v = (s.w.port p.val).hs.own ∨ v = (s.w.port p.val).hs.peer) :
    exec (.trainingBlock p v) s = toWorld s (retraining s.w p.val) := by
  show execTrainingBlock p v s = _
  simp [execTrainingBlock, hrun, hup, hmine, toRetrain_of_up]

theorem exec_retrainLocked_up (hretrains : (s.w.port p.val).state = 4) : exec (.retrainLocked p) s = toWorld s (
    let x := s.w.port p.val
    let w1 := lnkEvent (s.w.modPort p.val (fun y => { y with state := 3, replays := 0, nakOut := false })) p.val 0
    portDrain p.val x.egress.length (if x.ackIdx < x.txIdx then replayFrom w1 p.val x.ackIdx else w1)) := by
  show execRetrainLocked p s = _
  simp [execRetrainLocked, hrun, hretrains]

section Retry

variable (henabled : bit (lnkCtl s.w p.val) 0 = true) (hnode : s.w.nodeId.isSome = true) (hclock : s.w.pwr.refStop = false)
include henabled hnode hclock

theorem exec_downRetry_trains (hdown : (s.w.port p.val).state = 5) :
    exec (.downRetry p) s = toWorld s (s.w.modPort p.val (fun y => y.stop 1 y.reason)) := by
  show execDownRetry p s = _
  rw [execDownRetry, if_pos hdown, portTrain_trains hrun henabled hnode hclock]

theorem exec_refusedRetry_trains (hrefused : (s.w.port p.val).state = 6) :
    exec (.refusedRetry p) s = toWorld s (s.w.modPort p.val (fun y => y.stop 1 y.reason)) := by
  show execRefusedRetry p s = _
  rw [execRefusedRetry, if_pos hrefused, portTrain_trains hrun henabled hnode hclock]

end Retry

end States

/-! Rotation (R469, R470). -/

@[simp] theorem timeTo_port (w : World) (v : W64) (p : Nat) : (w.timeTo v).port p = w.port p := by
  unfold World.timeTo
  split <;> rfl

@[simp] theorem timeTo_lnkCtl (w : World) (v : W64) (p : Nat) : lnkCtl (w.timeTo v) p = lnkCtl w p := by
  unfold World.timeTo
  split <;> rfl

/-- A port whose transmitter's rotation has ended, and one whose receiver's has. -/
def Port.rotTxEnd (x : Port) : Port := { x with rotTx := (rotEnd x.rotTx x.tx).1, tx := (rotEnd x.rotTx x.tx).2 }
def Port.rotRxEnd (x : Port) : Port := { x with rotRx := (rotEnd x.rotRx x.rx).1, rx := (rotEnd x.rotRx x.rx).2 }

section Rotation

variable {s : State} {p : Fin 32} {k : Fin 8} {b : BitVec 32} (hrun : portRuns s.anat p.val = true)
  (hup : (s.w.port p.val).state = 3)
include hrun hup

theorem exec_laneRotationStart_prepares (hrx : (s.w.port p.val).halfRx = false) (htx : (s.w.port p.val).halfTx = false)
    (hgoes : (s.w.port p.val).rotTx.stopped = false) (hidle : (s.w.port p.val).rotTx.phase = 0)
    (hon : bit (lnkCtl s.w p.val) 1 = true) :
    exec (.laneRotationStart p k b) s = toWorld s (sendRot ((s.w.timeTo (rotTime s.w.time p.val k.val)).modPort p.val (fun y =>
      { y with rotTx := ⟨1, k.val, b.toNat + 64, false⟩, tx := y.tx.set 8 ⟨k.val, 2⟩ })) p.val 0 k.val (b.toNat + 64)) := by
  show execLaneRotationStart p k b s = _
  simp [execLaneRotationStart, hrun, hup, hrx, htx, hgoes, hidle, hon]

theorem exec_rotPrep_takesPart (hrx : (s.w.port p.val).halfRx = false) (hgoes : (s.w.port p.val).rotRx.stopped = false)
    (hidle : (s.w.port p.val).rotRx.phase = 0) :
    exec (.rotPrep p k b true) s = toWorld s (sendRot (s.w.modPort p.val (fun y =>
      { y with rotRx := ⟨2, k.val, b.toNat, false⟩, rx := (y.rx.set k.val ⟨15, 3⟩).set 8 ⟨k.val, 0⟩ })) p.val 1 k.val b.toNat) := by
  show execRotPrep p k b true s = _
  simp [execRotPrep, rotOk_of_up hrun hup, hrx, hgoes, hidle]

theorem exec_rotPrep_badSpare : exec (.rotPrep p k b false) s = toWorld s (sendRot s.w p.val 4 k.val b.toNat) := by
  show execRotPrep p k b false s = _
  simp [execRotPrep, rotOk_of_up hrun hup]

theorem exec_rotAck_moves (hprep : (s.w.port p.val).rotTx.phase = 1) :
    exec (.rotAck p) s = toWorld s (s.w.modPort p.val (fun y => { y with
      rotTx := { y.rotTx with phase := 2 }, tx := (y.tx.set y.rotTx.lane ⟨15, 3⟩).set 8 ⟨y.rotTx.lane, 0⟩ })) := by
  show execRotAck p s = _
  simp [execRotAck, rotOk_of_up hrun hup, hprep]

section Calibrating

variable (hcal : (s.w.port p.val).rotRx.phase = 2)
include hcal

theorem exec_laneCalibrationDone_good : exec (.laneCalibrationDone p true) s = toWorld s (
    sendRot ((s.w.countReg (laneReg p.val (s.w.port p.val).rotRx.lane 4) 1).modPort p.val (fun y => { y with
      rotRx := { y.rotRx with phase := 3 } })) p.val 2 (s.w.port p.val).rotRx.lane (s.w.port p.val).rotRx.block) := by
  show execLaneCalibrationDone p true s = _
  simp [execLaneCalibrationDone, rotOk_of_up hrun hup, hcal]

theorem exec_laneCalibrationDone_bad : exec (.laneCalibrationDone p false) s = toWorld s (
    let x := s.w.port p.val
    let w1 := (s.w.countReg (laneReg p.val x.rotRx.lane 4) 1).countReg (laneReg p.val x.rotRx.lane 5) 1
    sendRot (laneFail s.anat w1 p.val x.rotRx.lane true) p.val 4 x.rotRx.lane x.rotRx.block) := by
  show execLaneCalibrationDone p false s = _
  simp [execLaneCalibrationDone, rotOk_of_up hrun hup, hcal]

end Calibrating

theorem exec_rotReady_returns (hmoved : (s.w.port p.val).rotTx.phase = 2) :
    exec (.rotReady p b) s = toWorld s (portCount ((sendRot s.w p.val 3 (s.w.port p.val).rotTx.lane (b.toNat + 64)).modPort
      p.val Port.rotTxEnd) p.val 12 1) := by
  show execRotReady p b s = _
  simp only [execRotReady, rotOk_of_up hrun hup, hmoved, decide_true, Bool.and_self, if_true]
  rfl

theorem exec_rotReturn_ends (hready : (s.w.port p.val).rotRx.phase = 3) :
    exec (.rotReturn p) s = toWorld s (portCount (s.w.modPort p.val Port.rotRxEnd) p.val 12 1) := by
  show execRotReturn p s = _
  simp only [execRotReturn, rotOk_of_up hrun hup, hready, decide_true, Bool.and_self, if_true]
  rfl

theorem exec_rotAbort_beforeAck (hprep : (s.w.port p.val).rotTx.phase = 1) :
    exec (.rotAbort p) s = toWorld s (s.w.modPort p.val Port.rotTxEnd) := by
  show execRotAbort p s = _
  simp only [execRotAbort, rotOk_of_up hrun hup, hprep]
  rfl

theorem exec_rotAbort_afterAck (hmoved : (s.w.port p.val).rotTx.phase = 2) :
    exec (.rotAbort p) s = toWorld s (laneFail s.anat (s.w.countReg (laneReg p.val (s.w.port p.val).rotTx.lane 5) 1) p.val
      (s.w.port p.val).rotTx.lane false) := by
  show execRotAbort p s = _
  simp [execRotAbort, rotOk_of_up hrun hup, hmoved]

end Rotation

/-! Failure of a lane (R471, R472). -/

/-- Of nine lanes that all work, eight are left when one fails. -/
theorem lanes_left {l : List Lane} {i : Nat} (hlen : l.length = 9) (hworks : ∀ x ∈ l, x.works = true) (hi : i < 9) :
    (((l.map Lane.works).set i false).filter (fun b => b)).length = 8 := by
  have hall : l.map Lane.works = List.replicate 9 true := by
    rw [← hlen]
    exact List.eq_replicate_iff.mpr ⟨List.length_map _, by simpa using hworks⟩
  rw [hall]
  interval_cases i <;> rfl

/-- While lane 8 is free, it takes the data of a lane that fails at full width, and rotation stops. -/
theorem laneFail_spareFree {a : Anat} {w : World} {p k : Nat} (hup : (w.port p).state = 3) (hk : k < 8)
    (hlen : (w.port p).rx.length = 9) (hworks : ∀ l ∈ (w.port p).rx, l.works = true) (hfull : (w.port p).halfRx = false)
    (hspare : ((w.port p).rx.getD 8 Lane.dark).st = 1) (hdata : ((w.port p).rx.getD k Lane.dark).carries ≠ 15) :
    laneFail a w p k true =
      let x := w.port p
      let w1 := (lnkEvent w p 5).modPort p (fun y => y.setDir true
        ((x.rx.set k ⟨15, 4⟩).set 8 ⟨(x.rx.getD k Lane.dark).carries, 0⟩) false true)
      avEvent { w1 with av := { w1.av with lanes := w1.av.minutes :: w1.av.lanes } } 8 := by
  have hleft := lanes_left (i := k) hlen hworks (by omega)
  have hold : ((w.port p).rx.getD k Lane.dark).works = true := by
    rw [List.getD_eq_getElem _ _ (by omega)]
    exact hworks _ (List.getElem_mem _)
  have hlow : k ≠ 8 := by omega
  simp only [laneFail, Port.dir, Port.half, if_true, hup, hold, hleft, hfull, hspare, hdata, hlow]
  rfl

/-- Settles O43: each command is the case of the port's state, and of its lanes, that the hypotheses select. -/
theorem linksAndLanes : Obligations.LinksAndLanes := by
  unfold Obligations.LinksAndLanes
  refine ⟨fun s p hrun => ?states, fun s p k b hrun hup => ?lanes⟩
  case states =>
    exact ⟨exec_lnkEnable_on hrun, exec_lnkEnable_off hrun, exec_retrain_up hrun,
      fun _ _ => exec_laneTrainLocked_negotiates hrun, exec_laneTrainTimeout_down hrun, exec_negotiateTimeout_down hrun,
      exec_retrainTimeout_down hrun, exec_silenceTimeout_down hrun, fun _ => exec_trainingBlock_foreign hrun,
      fun _ => exec_trainingBlock_session hrun, exec_retrainLocked_up hrun,
      fun henabled hnode hclock => ⟨exec_downRetry_trains hrun henabled hnode hclock,
        exec_refusedRetry_trains hrun henabled hnode hclock⟩⟩
  case lanes =>
    refine ⟨exec_laneRotationStart_prepares hrun hup, exec_rotPrep_takesPart hrun hup, exec_rotPrep_badSpare hrun hup,
      exec_rotAck_moves hrun hup,
      fun hcal => ⟨exec_laneCalibrationDone_good hrun hup hcal, exec_laneCalibrationDone_bad hrun hup hcal⟩,
      exec_rotReady_returns hrun hup, exec_rotReturn_ends hrun hup, exec_rotAbort_beforeAck hrun hup,
      exec_rotAbort_afterAck hrun hup, fun ⟨hlen, hworks, hfull, hspare, hdata⟩ => ?fails⟩
    show execLaneFail p (k.castAdd 1) true s = _
    rw [execLaneFail, if_pos hrun, Fin.val_castAdd, laneFail_spareFree hup k.isLt hlen hworks hfull hspare hdata]

end Sys2Proof.Machine
end

section
/-!
PROOFS. Flits, replay, credit and pause of a Turroth port, and the handshake that brings up a session (R473 to R481, R484 to
R491, R503, R506).
-/

namespace Sys2Proof.Machine

/-! The checks of a received flit (R473, R477, R486, R487, R491). -/

@[simp] theorem ackTo_state (x : Port) (n : Nat) : (x.ackTo n).state = x.state := by
  unfold Port.ackTo
  split <;> rfl

/-- A port that has taken the ACK and the key epoch of a valid flit. -/
def Port.takeHeader (x : Port) (f : NetFlit) : Port := (x.ackTo (x.ackOf (fld f.hdr 20 12))).rxEpoch (bit f.hdr 7)

/-- The perturbation of a received flit: only a DATA flit is an eligible event (R593). -/
def flitPert (w : World) (p : Nat) (data : Bool) : Bool × World :=
  if data then pertEvent (portCount w p 1 1) (p / 8) 4 3 [16 * (p % 8) + 15] else (false, portCount w p 1 1)

section FlitCheck

variable {a : Anat} {w w1 : World} {p : Nat} {f : NetFlit} {data : Bool} (hpert : flitPert w p data = (false, w1))
include hpert

theorem flitCheck_valid (hcrc : f.crcOk = true) (hver : fld f.hdr 0 4 = 1) (htag : f.tagOk = true)
    (hup : (w1.port p).state = 3) :
    flitCheck a w p f data = (true, w1.modPort p (fun y => y.takeHeader f)) := by
  have hheader : w1.modPort p (fun x =>
      let y := x.ackTo (x.ackOf (fld f.hdr 20 12))
      if y.state = 3 then y.rxEpoch (bit f.hdr 7) else y) = w1.modPort p (fun y => y.takeHeader f) :=
    modPort_congr (if_pos ((ackTo_state _ _).trans hup))
  unfold flitPert at hpert
  simp only [flitCheck, hpert, hcrc, hver, htag, hheader, Bool.not_true, Bool.or_self, Bool.and_false, ne_eq, not_true,
    Bool.false_eq_true, if_false]

theorem flitCheck_badCrc (hcrc : f.crcOk = false) :
    flitCheck a w p f data = (false, sendNak (portCount w1 p 5 1) p) := by
  unfold flitPert at hpert
  simp only [flitCheck, hpert, hcrc, Bool.not_false, Bool.true_or, if_true]

end FlitCheck

/-! Flits, replay, credit and pause of an UP port (R473 to R481, R491, R503, R506). -/

section Up

variable {s : State} {p : Fin 32} (hrun : portRuns s.anat p.val = true)

include hrun in
theorem exec_nakTimeout_mayNak :
    exec (.nakTimeout p) s = toWorld s (s.w.modPort p.val (fun y => { y with nakOut := false })) := by
  show execNakTimeout p s = _
  rw [execNakTimeout, if_pos hrun]

theorem exec_epochKeyRetire : exec (.epochKeyRetire p) s =
    toWorld s (s.w.modPort p.val (fun y => { y with prevKey := false })) := rfl

include hrun in
theorem exec_lnkVcbufWrite_valid {v : W64} (hsmall : ∀ i < 6, 3 ≤ fld v (10 * i) 10)
    (hsum : ((List.range 6).map (fun i => fld v (10 * i) 10)).foldl (· + ·) 0 ≤ 1024) :
    exec (.lnkVcbufWrite p v) s = toWorld s (s.w.setReg (portBase p.val + 0x18) (setFld v 60 4 0)) := by
  have hnone : ((List.range 6).map (fun i => fld v (10 * i) 10)).any (fun x => decide (x < 3)) = false := by
    simpa [List.any_eq_false] using hsmall
  have hfits : ¬ 1024 < ((List.range 6).map (fun i => fld v (10 * i) 10)).foldl (fun a b => a + b) 0 := Nat.not_lt.mpr hsum
  show execLnkVcbufWrite p v s = _
  simp only [execLnkVcbufWrite, hrun, if_true, vcbufWrite, hnone, hfits, decide_false, Bool.or_self, Bool.false_eq_true, if_false]

include hrun in
theorem exec_controlMessageRepeat_handshake (htx : (s.w.port p.val).rotTx.phase = 0) (hrx : (s.w.port p.val).rotRx.phase = 0) :
    exec (.controlMessageRepeat p) s =
      toWorld s ((s.w.port p.val).hs.due.reverse.foldl (fun v k => v.emit (.hs p.val k)) s.w) := by
  show execControlMessageRepeat p s = _
  simp [execControlMessageRepeat, hrun, htx, hrx]

variable (hup : (s.w.port p.val).state = 3)
include hrun hup

/-- Once the header of a DATA flit has been taken, waiting transactions leave; the flit is accepted where its index is the one
expected, and otherwise asked for again. -/
theorem exec_dataFlit_valid {f : NetFlit} {w1 : World} (hpert : flitPert s.w p.val true = (false, w1)) (hcrc : f.crcOk = true)
    (hver : fld f.hdr 0 4 = 1) (hdata : fld f.hdr 4 3 = 1) (hstill : (w1.port p.val).state = 3) (htag : f.tagOk = true) :
    exec (.dataFlit p f) s = toWorld s (
      let w2 := w1.modPort p.val (fun y => y.takeHeader f)
      let y := w2.port p.val
      let w3 := portDrain p.val y.egress.length w2
      if fld f.hdr 8 12 ≠ y.rxIdx % 4096 then sendNak w3 p.val
      else ctlTakeAll (portCount (w3.modPort p.val (fun z => { z with rxIdx := z.rxIdx + 1, nakOut := false })) p.val 3
        (16 * (((List.range 14).map (fun i => i + 1)).filter (fun j => decide (slotClass f j < 6))).length)) p.val f) := by
  show execDataFlit p f s = _
  simp only [execDataFlit, rotOk_of_up hrun hup, flitCheck_valid hpert hcrc hver htag hstill, hdata]
  rfl

theorem exec_dataFlit_badCrc {f : NetFlit} {w1 : World} (hpert : flitPert s.w p.val true = (false, w1)) (hcrc : f.crcOk = false) :
    exec (.dataFlit p f) s = toWorld s (sendNak (portCount w1 p.val 5 1) p.val) := by
  show execDataFlit p f s = _
  simp only [execDataFlit, rotOk_of_up hrun hup, flitCheck_badCrc hpert hcrc]
  rfl

theorem exec_ctlFlit_valid {f : NetFlit} (hcrc : f.crcOk = true) (hver : fld f.hdr 0 4 = 1) (hctl : fld f.hdr 4 3 = 0)
    (hstill : ((portCount s.w p.val 1 1).port p.val).state = 3) (htag : f.tagOk = true) :
    exec (.ctlFlit p f) s = toWorld s (
      let w2 := (portCount s.w p.val 1 1).modPort p.val (fun y => y.takeHeader f)
      ctlTakeAll (portDrain p.val (w2.port p.val).egress.length w2) p.val f) := by
  have hcheck := flitCheck_valid (a := s.anat) (w := s.w) (data := false) rfl hcrc hver htag hstill
  show execCtlFlit p f s = _
  simp only [execCtlFlit, hrun, hup, hcheck, hctl]
  rfl

theorem exec_credit_taken {c : BitVec 96} :
    exec (.credit p c) s = toWorld s (creditTake s.w p.val ((List.range 6).map (fun v => fld c (16 * v) 16))) := by
  show execCredit p c s = _
  rw [execCredit, if_pos (rotOk_of_up hrun hup)]

theorem exec_nak_replays {i : W64} (hsent : (s.w.port p.val).ackIdx ≤ i.toNat) (hbefore : i.toNat < (s.w.port p.val).txIdx) :
    exec (.nak p i) s = toWorld s (replayFrom s.w p.val i.toNat) := by
  show execNak p i s = _
  rw [execNak, if_pos (rotOk_of_up hrun hup)]
  exact congrArg (toWorld s) (if_pos ⟨hsent, hbefore⟩)

theorem exec_replayTimeout_replays (hout : (s.w.port p.val).ackIdx < (s.w.port p.val).txIdx) :
    exec (.replayTimeout p) s = toWorld s (replayFrom s.w p.val (s.w.port p.val).ackIdx) := by
  show execReplayTimeout p s = _
  simp [execReplayTimeout, rotOk_of_up hrun hup, hout]

theorem exec_pauseSlot_on :
    exec (.pauseSlot p true) s = toWorld s (s.w.modPort p.val (fun y => { y with paused := true })) := by
  show execPauseSlot p true s = _
  rw [execPauseSlot, if_pos (rotOk_of_up hrun hup)]
  rfl

theorem exec_rekey_starts : exec (.rekey p) s = toWorld s (
    let w1 := s.w.modPort p.val (fun y => { y with rekey := true, hs := { y.hs with kem := false, sig := false, frag := [] } })
    if initiator w1 p.val then sendHs w1 p.val 3 else w1) := by
  show execRekey p s = _
  simp [execRekey, rotOk_of_up hrun hup]

end Up

/-! The handshake of a port in NEGOTIATE (R484 to R491). -/

section Negotiate

variable {s : State} {p : Fin 32} (hrun : portRuns s.anat p.val = true) (hst : (s.w.port p.val).state = 2)
include hrun hst

theorem hsRuns_of_negotiate : hsRuns s.anat s.w p.val = true := by simp [hsRuns, hrun, hst]

theorem exec_hs_keeps (k : Byte) (i : BitVec 16) (b : BitVec 96) :
    exec (.hs p k i b) s = toWorld s (s.w.modPort p.val (fun y => { y with
      hs := { y.hs with frag := (k.toNat, i.toNat, leBytes 12 b.toNat) ::
        y.hs.frag.filter (fun f => !(decide (f.1 = k.toNat) && decide (f.2.1 = i.toNat))) } })) := by
  show execHs p k i b s = _
  rw [execHs, if_pos hrun]
  exact congrArg (toWorld s) (modPort_congr (if_pos (.inl hst)))

section Hello

/-- k bytes of a message from byte i on, as a number. -/
def msgAt (b : List Byte) (i k : Nat) : Nat := leNat ((b.drop i).take k)

variable {b : List Byte} (hfirst : (s.w.port p.val).hs.hello = false)
include hfirst

theorem exec_hello_malformed (hbad : b.length ≠ 48 ∨ 32 ≤ msgAt b 4 1) :
    exec (.hello p b) s = toWorld s (portLeave s.anat s.w p.val 6 12) := by
  unfold msgAt at hbad
  show execHello p b s = _
  simp only [execHello, hrun, hst, hfirst, if_pos hbad]
  rfl

variable (hlen : b.length = 48) (hport : msgAt b 4 1 < 32) (hmin : msgAt b 0 1 ≤ 1) (hmax : 1 ≤ msgAt b 1 1)
  (hdev : msgAt b 5 1 / 2 % 2 = 1 → devAllowed s.anat s.w = true)
include hlen hport hmin hmax hdev

/-- A well-formed HELLO of a version that overlaps the module's, from a partner that is allowed: only its node can refuse it. -/
theorem exec_hello_checked : exec (.hello p b) s = toWorld s (
    if msgAt b 2 2 % 4096 = s.w.nodeId.getD 0 then portLeave s.anat s.w p.val 6 7
    else sendHs (hsGot (s.w.modPort p.val (fun y => { y with
        nid := msgAt b 2 2 % 4096, pport := msgAt b 4 1, gen := 1, dev := decide (msgAt b 5 1 / 2 % 2 = 1)
        sw := decide (msgAt b 5 1 % 2 = 1), palloc := (List.range 6).map (fun v => msgAt b (16 + 2 * v) 2) })) p.val 1
      (fun h => { h with hello := true, peer := w64 (msgAt b 8 8) })) p.val 2) := by
  have hformed : ¬ (b.length ≠ 48 ∨ 32 ≤ msgAt b 4 1) := by omega
  have hversion : ¬ (1 < msgAt b 0 1 ∨ msgAt b 1 1 < 1) := by omega
  have hallowed : (decide (msgAt b 5 1 / 2 % 2 = 1) && !devAllowed s.anat s.w) = false := by
    by_cases h : msgAt b 5 1 / 2 % 2 = 1
    · rw [hdev h, Bool.not_true, Bool.and_false]
    · rw [decide_eq_false h, Bool.false_and]
  unfold msgAt at hformed hversion hallowed ⊢
  show execHello p b s = _
  simp only [execHello, hrun, hst, hfirst, if_neg hformed, if_neg hversion, hallowed]
  rfl

end Hello

section Cert

variable {c : CertFacts} (hhello : (s.w.port p.val).hs.hello = true) (hfirst : (s.w.port p.val).hs.cert = false)
include hhello hfirst

theorem exec_cert_refused (hbad : certOk s.w p.val c = false) :
    exec (.cert p c) s = toWorld s (portLeave s.anat s.w p.val 6 5) := by
  show execCert p c s = _
  simp [execCert, hrun, hst, hhello, hfirst, hbad]

theorem exec_cert_accepted (hok : certOk s.w p.val c = true) : exec (.cert p c) s = toWorld s (
    let w1 := hsGot s.w p.val 2 (fun h => { h with cert := true })
    if initiator w1 p.val then sendHs w1 p.val 3 else w1) := by
  show execCert p c s = _
  simp [execCert, hrun, hst, hhello, hfirst, hok]

end Cert

section Kem

variable (hcert : (s.w.port p.val).hs.cert = true) (hfirst : (s.w.port p.val).hs.kem = false)
include hcert hfirst

theorem exec_kemEk_malformed (hrole : initiator s.w p.val = false) :
    exec (.kemEk p false) s = toWorld s (portLeave s.anat s.w p.val 6 12) := by
  show execKemEk p false s = _
  simp [execKemEk, hsRuns_of_negotiate hrun hst, hcert, hfirst, hrole]

theorem exec_kemEk_answered (hrole : initiator s.w p.val = false) : exec (.kemEk p true) s =
    toWorld s (sendHs (sendHs (hsGot s.w p.val 3 (fun h => { h with kem := true })) p.val 4) p.val 5) := by
  show execKemEk p true s = _
  simp [execKemEk, hsRuns_of_negotiate hrun hst, hcert, hfirst, hrole]

theorem exec_kemCt_malformed (hrole : initiator s.w p.val = true) :
    exec (.kemCt p false) s = toWorld s (portLeave s.anat s.w p.val 6 12) := by
  show execKemCt p false s = _
  simp [execKemCt, hsRuns_of_negotiate hrun hst, hcert, hfirst, hrole]

theorem exec_kemCt_answered (hrole : initiator s.w p.val = true) : exec (.kemCt p true) s =
    toWorld s (sendHs (hsGot s.w p.val 4 (fun h => { h with kem := true })) p.val 5) := by
  show execKemCt p true s = _
  simp [execKemCt, hsRuns_of_negotiate hrun hst, hcert, hfirst, hrole]

end Kem

section Sig

variable (hkem : (s.w.port p.val).hs.kem = true) (hfirst : (s.w.port p.val).hs.sig = false)
include hkem hfirst

theorem exec_sig_refused : exec (.sig p false) s = toWorld s (portLeave s.anat s.w p.val 6 5) := by
  show execSig p false s = _
  simp [execSig, hsRuns_of_negotiate hrun hst, hkem, hfirst]

theorem exec_sig_accepted : exec (.sig p true) s =
    toWorld s (sendHs (hsGot s.w p.val 5 (fun h => { h with sig := true })) p.val 6) := by
  show execSig p true s = _
  simp [execSig, hsRuns_of_negotiate hrun hst, hkem, hfirst, hst]

end Sig

/-- A port whose session begins: UP, with every count at 0. -/
def Port.begin (x : Port) : Port :=
  { x with state := 3, hs := { x.hs with due := [] }, txIdx := 0, rxIdx := 0, ackIdx := 0, kept := [], nakOut := false
           replays := 0, sent := List.replicate 6 0, credit := List.replicate 6 0, freed := List.replicate 6 0, epTx := 0
           epRx := 0, prevKey := false, rekey := false, paused := false, egress := [], auth := [], epCount := 0 }

theorem exec_firstEncryptedFlit_begins (hsig : (s.w.port p.val).hs.sig = true) :
    exec (.firstEncryptedFlit p true) s = toWorld s (lnkEvent (s.w.modPort p.val Port.begin) p.val 0) := by
  show execFirstEncryptedFlit p true s = _
  simp only [execFirstEncryptedFlit, hrun, hst, hsig]
  rfl

end Negotiate

/-- Settles O44: each flit, timer and message is the case of the port's state, and of what it carries, that the hypotheses
select. -/
theorem flitsAndHandshake : Obligations.FlitsAndHandshake := by
  unfold Obligations.FlitsAndHandshake
  refine ⟨fun s p hrun hup => ?flits, fun s p hrun => ⟨fun hst => ?handshake, exec_rekey_starts hrun⟩⟩
  case flits =>
    refine ⟨fun f w1 hpert hcrc hver hdata hstill htag => ?data, fun _ _ => exec_dataFlit_badCrc hrun hup,
      fun _ => exec_ctlFlit_valid hrun hup, fun _ => exec_credit_taken hrun hup, fun _ => exec_nak_replays hrun hup,
      exec_nakTimeout_mayNak hrun, exec_replayTimeout_replays hrun hup, exec_pauseSlot_on hrun hup, exec_epochKeyRetire,
      fun _ => exec_lnkVcbufWrite_valid hrun, exec_controlMessageRepeat_handshake hrun⟩
    case data =>
      rw [exec_dataFlit_valid hrun hup hpert hcrc hver hdata hstill htag]
      exact ⟨fun hother => congrArg (toWorld s) (if_pos hother),
        fun hnext => congrArg (toWorld s) (if_neg (not_not.mpr hnext))⟩
  case handshake =>
    refine ⟨exec_hs_keeps hrun hst, fun b hfirst => ⟨exec_hello_malformed hrun hst hfirst,
        fun hlen hport hmin hmax hdev => ?hello⟩,
      fun c hhello hfirst => ⟨exec_cert_refused hrun hst hhello hfirst, exec_cert_accepted hrun hst hhello hfirst⟩,
      fun hcert hfirst => ⟨fun hrole => ⟨exec_kemEk_malformed hrun hst hcert hfirst hrole,
          exec_kemEk_answered hrun hst hcert hfirst hrole⟩,
        fun hrole => ⟨exec_kemCt_malformed hrun hst hcert hfirst hrole, exec_kemCt_answered hrun hst hcert hfirst hrole⟩⟩,
      fun hkem hfirst => ⟨exec_sig_refused hrun hst hkem hfirst, exec_sig_accepted hrun hst hkem hfirst⟩,
      exec_firstEncryptedFlit_begins hrun hst⟩
    case hello =>
      rw [exec_hello_checked hrun hst hfirst hlen hport hmin hmax hdev]
      exact ⟨fun hsame => congrArg (toWorld s) (if_pos hsame), fun hother => congrArg (toWorld s) (if_neg hother)⟩

end Sys2Proof.Machine
end

section
/-!
PROOFS. Transactions that arrive at a port: requests performed at this node, and forwarding (R492, R493, R497 to R499, R549).
-/

namespace Sys2Proof.Machine

/-! Arrival (R492, R493, R497, R498). -/

section Arrive

variable {s : State} {p : Fin 32} {t : NetTxn} {w1 : World}

/-- What has arrived is handed on. -/
theorem arrive_of_arrived (h : Arrived s p t w1) (act : World → World) : arrive s.anat s.w p.val t act = act w1 := by
  obtain ⟨hrun, hup, hpower, hok, hdst, _, hseal⟩ := h
  obtain ⟨hplain, rfl⟩ | ⟨hsealed, hgood, rfl⟩ := hseal
  · simp [arrive, hrun, hup, hpower, hok, hdst, hplain]
  · simp [arrive, hrun, hup, hpower, hok, hdst, hsealed, hgood]

/-- The module once the slots of a request that arrives at port p have been freed. -/
def requestFreed (w : World) (p : Nat) (t : NetTxn) : World := slotsFreed w p (min t.hops.toNat 2) (netSlots t)

/-- A request is answered with a STATUS alone. -/
def answerStatus (w : World) (p : Nat) (t : NetTxn) (st : Byte) : World :=
  sendAnswer w (p / 8) t.src.toNat t.kdom t.tid.toNat st []

section Request

variable (hrun : portRuns s.anat p.val = true) (hup : (s.w.port p.val).state = 3) (hpower : s.w.pwr.gated = false)
  (hreq : t.opc.toNat < 0x10)
include hrun hup hpower hreq

theorem arrive_malformed (act : World → World) (hbad : netOk t = false) : arrive s.anat s.w p.val t act =
    answerStatus (portCount (requestFreed s.w p.val t) p.val 9 1) p.val t 2#8 := by
  simp [arrive, requestFreed, answerStatus, hrun, hup, hpower, Nat.not_le.mpr hreq, hbad]

theorem arrive_elsewhere (act : World → World) (hok : netOk t = true) (hdst : t.dst.toNat ≠ s.w.nodeId.getD 0) :
    arrive s.anat s.w p.val t act = forward (requestFreed s.w p.val t) p.val t := by
  simp [arrive, requestFreed, hrun, hup, hpower, Nat.not_le.mpr hreq, hok, hdst]

end Request

end Arrive

/-! Forwarding (R498). -/

section Forward

variable {w w1 : World} {p : Nat} {t : NetTxn}

theorem forward_thirdHop (hreq : t.opc.toNat < 0x10) (hhops : t.hops = 2#2) : forward w p t = answerStatus w p t 4#8 := by
  simp [forward, answerStatus, Nat.not_le.mpr hreq, hhops]

theorem forward_sends {k : Nat} (hhops : t.hops ≠ 2#2)
    (hport : choosePort w (p / 8) { netTxn t with hops := t.hops.toNat + 1 } = (.ok k, w1)) :
    forward w p t = portSend (portCount w1 p 8 1) k { netTxn t with hops := t.hops.toNat + 1 } := by
  simp only [forward, hhops, if_false, hport]

theorem forward_noRoute {st : Byte} (hreq : t.opc.toNat < 0x10) (hhops : t.hops ≠ 2#2)
    (hport : choosePort w (p / 8) { netTxn t with hops := t.hops.toNat + 1 } = (.error st, w1)) :
    forward w p t = answerStatus w1 p t st := by
  simp [forward, answerStatus, Nat.not_le.mpr hreq, hhops, hport]

end Forward

/-! Requests (R493, R499, R549). -/

section Requests

variable {s : State} {p : Fin 32} {t : NetTxn} {w1 : World}

/-- The command of an operation takes its own transactions. -/
theorem request_own {a : Anat} {w : World} {p opc : Nat} {t : NetTxn} (act : World → Answer) (hopc : t.opc.toNat = opc) :
    request a w p opc t act = arrive a w p t (fun v =>
      sendAnswer (act v).w (p / 8) t.src.toNat t.kdom t.tid.toNat (act v).st (act v).data) := by
  simp [request, hopc]

/-- A request that has arrived is performed, and its answer is sent. -/
theorem request_of_arrived {opc : Nat} (h : Arrived s p t w1) (act : World → Answer) (hopc : t.opc.toNat = opc) :
    request s.anat s.w p.val opc t act =
      sendAnswer (act w1).w (p.val / 8) t.src.toNat t.kdom t.tid.toNat (act w1).st (act w1).data := by
  rw [request_own act hopc, arrive_of_arrived h]

variable {a : Anat} {w : World} {k : Nat} {l : List (Nat × Byte)}

theorem doRead_notMemory (h : region t.addr.toNat = .host ∨ region t.addr.toNat = .regs) : doRead a w t = ⟨2#8, [], w⟩ := by
  obtain hhost | hregs := h
  · simp [doRead, remoteStatus, hhost]
  · simp [doRead, remoteStatus, hregs]

section Write

variable (hhbm : region t.addr.toNat = .hbm) (hpop : populated a.part t.addr.toNat = true)
include hhbm hpop

theorem doWrite_notGranted (hgrant : grantOk w t true [(t.addr.toNat, k)] = false) : doWrite a w t k l = ⟨7#8, [], w⟩ := by
  simp [doWrite, remoteStatus, hhbm, hpop, hgrant]

theorem doWrite_granted (hgrant : grantOk w t true [(t.addr.toNat, k)] = true) (hstack : hbmStatus a w t.addr.toNat = none)
    (hplain : coversSealed w (atOff t.addr.toNat l) = false) :
    doWrite a w t k l =
      ⟨0#8, [], unitCommit w 6 (remotePart w t.addr.toNat) 7 t.kdom .raw (atOff t.addr.toNat l)⟩ := by
  simp [doWrite, remoteStatus, hhbm, hpop, hgrant, hstack, hplain]

end Write

/-- The commands of the requests 1 to 6 hand their own transactions to the arrival. -/
theorem exec_request_arrives {q : Instr × Nat} (hq : q ∈ ([(Instr.rd p t, 1), (Instr.wr p t, 2), (Instr.wrm p t, 3),
      (Instr.atom p t, 4), (Instr.atoml p t, 5), (Instr.msg p t, 6)] : List (Instr × Nat))) (hopc : t.opc.toNat = q.2) :
    t.opc.toNat < 0x10 ∧ ∃ act : World → World, exec q.1 s = toWorld s (arrive s.anat s.w p.val t act) := by
  simp only [List.mem_cons, List.not_mem_nil, or_false] at hq
  obtain rfl | rfl | rfl | rfl | rfl | rfl := hq
  all_goals exact ⟨by omega, _, congrArg (toWorld s) (request_own _ hopc)⟩

end Requests

/-- Settles O45: a request that has arrived is performed and answered, and the others end or go on at the check that the
hypotheses select. -/
theorem remoteRequests : Obligations.RemoteRequests := by
  unfold Obligations.RemoteRequests
  refine ⟨fun s p t o w1 h => ?here, fun s p t hrun hup hpower q hq hopc => ?others⟩
  case here =>
    have hdone {opc : Nat} (act : World → Answer) (hopc : t.opc.toNat = opc) :=
      congrArg (toWorld s) (request_of_arrived h act hopc)
    exact ⟨hdone _, hdone _, hdone _, hdone _, hdone _, hdone _, hdone _,
      fun k l hhbm hpop => ⟨doWrite_notGranted hhbm hpop, doWrite_granted hhbm hpop⟩, doRead_notMemory⟩
  case others =>
    obtain ⟨hreq, act, hexec⟩ := exec_request_arrives (s := s) hq hopc
    rw [hexec]
    refine ⟨fun hbad => congrArg (toWorld s) (arrive_malformed hrun hup hpower hreq act hbad), fun hok hdst hnode => ?_⟩
    rw [arrive_elsewhere hrun hup hpower hreq act hok (hnode ▸ hdst)]
    exact ⟨fun hhops => congrArg (toWorld s) (forward_thirdHop hreq hhops),
      fun hhops => ⟨fun _ _ hport => congrArg (toWorld s) (forward_sends hhops hport),
        fun _ _ hport => congrArg (toWorld s) (forward_noRoute hreq hhops hport)⟩⟩

end Sys2Proof.Machine
end

section
/-!
PROOFS. Responses, timeouts and pair keys (R494 to R497).
-/

namespace Sys2Proof.Machine

/-! Responses and timeouts (R494, R495). -/

section Response

variable {s : State} {p : Fin 32} {t : NetTxn} {w1 : World} {opc : Nat} (h : Arrived s p t w1) (hopc : t.opc.toNat = opc)
include h hopc

theorem response_discarded (hnone : txnOfTid w1 t.tid.toNat = none) : response s.anat s.w p.val opc t = w1 := by
  rw [response, if_neg (not_not.mpr hopc), arrive_of_arrived h]
  simp only [hnone]

theorem response_completes {x : Nat × OutTxn} (hx : txnOfTid w1 t.tid.toNat = some x) :
    response s.anat s.w p.val opc t = completeTxn s.anat w1 x.1 (t.aux.zeroExtend 8)
      (t.slots.take (if opc = 0x10 then netSize t else 0)) := by
  rw [response, if_neg (not_not.mpr hopc), arrive_of_arrived h]
  simp only [hx]

end Response

/-- The commands of the two responses. -/
theorem exec_response_arrives {s : State} {p : Fin 32} {t : NetTxn} {q : Instr × Nat × Nat}
    (hq : q ∈ ([(Instr.rspd p t, 0x10, netSize t), (Instr.cmpTransaction p t, 0x11, 0)] : List (Instr × Nat × Nat))) :
    exec q.1 s = toWorld s (response s.anat s.w p.val q.2.1 t) ∧ (if q.2.1 = 0x10 then netSize t else 0) = q.2.2 := by
  simp only [List.mem_cons, List.not_mem_nil, or_false] at hq
  obtain rfl | rfl := hq
  all_goals exact ⟨rfl, rfl⟩

theorem exec_transactionTimeout_sent {s : State} {tid : BitVec 16} {x : Nat × OutTxn} (hx : txnOfTid s.w tid.toNat = some x) :
    exec (.transactionTimeout tid) s = toWorld s (if (s.w.port x.2.port).paused then s.w
      else completeTxn s.anat (portCount s.w x.2.port 10 1) x.1 4#8 []) := by
  show execTransactionTimeout tid s = _
  simp only [execTransactionTimeout, hx]

/-! Pair keys (R497). -/

theorem exec_pairKeyExchange_new {s : State} (n : BitVec 12) (hready : s.w.ks.ready = true) :
    exec (.pairKeyExchange n true) s = toWorld s (
      let w2 := { s.w with pairKeys := n.toNat :: s.w.pairKeys.filter (fun k => decide (k ≠ n.toNat))
                           seals := sdel s.w.seals n.toNat }
      (keyWaiters w2 n.toNat).foldl txnGo w2) := by
  show execPairKeyExchange n true s = _
  simp [execPairKeyExchange, hready]

theorem exec_pairKeyTimeout_oldest {s : State} {n : BitVec 12} {k : Nat} {r : List Nat}
    (hnokey : s.w.pairKeys.contains n.toNat = false) (hwait : keyWaiters s.w n.toNat = k :: r) :
    exec (.pairKeyTimeout n) s = toWorld s (completeTxn s.anat s.w k 2#8 []) := by
  show execPairKeyTimeout n s = _
  rw [execPairKeyTimeout, hnokey, hwait]
  rfl

/-- Settles O46: a response, a timeout and a pair key each end or release what the list of outstanding transactions names. -/
theorem responsesAndTimeouts : Obligations.ResponsesAndTimeouts := by
  unfold Obligations.ResponsesAndTimeouts
  refine fun s p t w1 => ⟨fun h q hq hopc => ?response, fun _ _ => exec_transactionTimeout_sent, exec_pairKeyExchange_new,
    fun _ _ _ => exec_pairKeyTimeout_oldest⟩
  obtain ⟨hexec, hdata⟩ := exec_response_arrives (s := s) hq
  rw [hexec, ← hdata]
  exact ⟨fun hnone => congrArg (toWorld s) (response_discarded h hopc hnone),
    fun _ hx => congrArg (toWorld s) (response_completes h hopc hx)⟩

end Sys2Proof.Machine
end

section
/-!
PROOFS. What is sealed opens again: AES-256-GCM as the module's key units use it (R513, R537, R541).
-/

namespace Sys2Proof.Machine

/-! Lists of bytes as numbers. -/

/-- A list of n values of a byte. -/
def AreBytes (n : Nat) (l : List Nat) : Prop := l.length = n ∧ ∀ x ∈ l, x < 256

theorem mem_xorL {x : Nat} {a b : List Nat} (h : x ∈ xorL a b) : ∃ y ∈ a, ∃ z ∈ b, x = y ^^^ z := by
  obtain ⟨i, hi, hx⟩ := List.mem_iff_getElem.mp h
  simp only [xorL, List.getElem_zipWith] at hx
  exact ⟨_, List.getElem_mem _, _, List.getElem_mem _, hx.symm⟩

theorem AreBytes.xorL {n : Nat} {a b : List Nat} (ha : AreBytes n a) (hb : AreBytes n b) : AreBytes n (xorL a b) := by
  obtain ⟨hla, hxa⟩ := ha
  obtain ⟨hlb, hxb⟩ := hb
  refine ⟨by simp [Machine.xorL, hla, hlb], fun x hx => ?_⟩
  obtain ⟨y, hy, z, hz, rfl⟩ := mem_xorL hx
  exact Nat.xor_lt_two_pow (n := 8) (hxa y hy) (hxb z hz)

theorem xorL_xorL_same {a k : List Nat} (h : a.length ≤ k.length) : xorL (xorL a k) k = a := by
  refine List.ext_getElem (by simp [xorL, h]) fun i _ _ => ?_
  simp [xorL]

theorem natsOf_areBytes (l : List Byte) : AreBytes l.length (natsOf l) := by
  refine ⟨by simp [natsOf], fun x hx => ?_⟩
  obtain ⟨b, -, rfl⟩ := List.mem_map.mp hx
  exact b.isLt

theorem natsOf_bytesOf {n : Nat} {l : List Nat} (h : AreBytes n l) : natsOf (bytesOf l) = l := by
  rw [natsOf, bytesOf, List.map_map]
  refine (List.map_congr_left fun x hx => ?_).trans (List.map_id l)
  simpa using h.2 x hx

theorem bytesOf_natsOf (l : List Byte) : bytesOf (natsOf l) = l := by simp [natsOf, bytesOf, Function.comp_def]

/-- A first block of at most 16 bytes, after which something follows only where it is whole. -/
theorem take_drop_of_first_block {a b : List Nat} {n : Nat} (ha : a.length = min 16 n) (hb : b.length = n - 16) :
    (a ++ b).take 16 = a ∧ (a ++ b).drop 16 = b := by
  by_cases hwhole : 16 ≤ n
  · have hlen : a.length = 16 := by omega
    exact ⟨List.take_left' hlen, List.drop_left' hlen⟩
  · obtain rfl : b = [] := List.length_eq_zero_iff.mp (by omega)
    have hlen : a.length ≤ 16 := by omega
    simp [List.take_of_length_le hlen, hlen]

/-! The key schedule: 60 words of four bytes, in 15 round keys of 16 bytes. -/

theorem aesSub_lt (b : Nat) : aesSub b < 256 := Nat.mod_lt _ (by decide)

theorem aes256Word_areBytes {k : Nat} {w : List (List Nat)} (hlen : 8 ≤ w.length) (hw : ∀ x ∈ w, AreBytes 4 x) :
    AreBytes 4 (aes256Word k w) := by
  have hat (i : Nat) (hi : i < 8) : AreBytes 4 (w.getD i []) := by
    rw [List.getD_eq_getElem _ _ (by omega)]
    exact hw _ (List.getElem_mem _)
  have hround (i : Nat) : [1, 2, 4, 8, 16, 32, 64].getD i 0 < 256 := by
    rw [List.getD_eq_getElem?_getD]
    cases h : [1, 2, 4, 8, 16, 32, 64][i]? with
    | none => decide
    | some x => exact (by decide : ∀ x ∈ [1, 2, 4, 8, 16, 32, 64], x < 256) x (List.mem_of_getElem? h)
  unfold aes256Word
  refine (hat 7 (by decide)).xorL ?_
  split
  · refine ⟨rfl, fun x hx => ?_⟩
    simp only [List.mem_cons, List.not_mem_nil, or_false] at hx
    obtain rfl | rfl | rfl | rfl := hx
    · exact Nat.xor_lt_two_pow (n := 8) (aesSub_lt _) (hround _)
    all_goals exact aesSub_lt _
  · split
    · refine ⟨by simpa using (hat 0 (by decide)).1, fun x hx => ?_⟩
      obtain ⟨b, -, rfl⟩ := List.mem_map.mp hx
      exact aesSub_lt b
    · exact hat 0 (by decide)

theorem aes256Words_areBytes {key : List Nat} (h : AreBytes 32 key) :
    (aes256Words key).length = 60 ∧ ∀ x ∈ aes256Words key, AreBytes 4 x := by
  obtain ⟨hlen, hkey⟩ := h
  have hgrow (n : Nat) (w : List (List Nat)) (hw : w.length = 8 ∧ ∀ x ∈ w, AreBytes 4 x) :
      (iter (fun i w => aes256Word (8 + i) w :: w) n w).length = 8 + n ∧
        ∀ x ∈ iter (fun i w => aes256Word (8 + i) w :: w) n w, AreBytes 4 x := by
    induction n with
    | zero => exact hw
    | succ n ih =>
      obtain ⟨ihlen, ihw⟩ := ih
      refine ⟨by simp [iter, ihlen]; omega, fun x hx => ?_⟩
      obtain rfl | hx := List.mem_cons.mp hx
      · exact aes256Word_areBytes (by omega) ihw
      · exact ihw x hx
  refine hgrow 52 _ ⟨by simp, fun x hx => ?_⟩
  simp only [List.mem_reverse, List.mem_map, List.mem_range] at hx
  obtain ⟨i, hi, rfl⟩ := hx
  exact ⟨by simp [hlen]; omega, fun y hy => hkey y (List.mem_of_mem_drop (List.mem_of_mem_take hy))⟩

theorem aes256Keys_areBytes {key : List Nat} (h : AreBytes 32 key) :
    aes256Keys key ≠ [] ∧ ∀ k ∈ aes256Keys key, AreBytes 16 k := by
  obtain ⟨hlen, hw⟩ := aes256Words_areBytes h
  refine ⟨by simp [aes256Keys], fun k hk => ?_⟩
  simp only [aes256Keys, List.mem_map, List.mem_range] at hk
  obtain ⟨r, hr, rfl⟩ := hk
  have hword (x : List Nat) (hx : x ∈ ((aes256Words key).reverse.drop (4 * r)).take 4) : AreBytes 4 x :=
    hw x (List.mem_reverse.mp (List.mem_of_mem_drop (List.mem_of_mem_take hx)))
  refine ⟨?_, fun x hx => ?_⟩
  · rw [List.length_flatten, List.map_congr_left (fun x hx => (hword x hx).1), List.map_const', List.sum_replicate]
    simp [hlen]
    omega
  · obtain ⟨y, hy, hx⟩ := List.mem_flatten.mp hx
    exact (hword y hy).2 x hx

theorem length_leBytes (n x : Nat) : (leBytes n x).length = n := by
  induction n generalizing x with
  | zero => rfl
  | succ n ih => simp [leBytes, ih]

theorem keyBytes_areBytes (key : Nat) : AreBytes 32 (keyBytes key) := by
  have h := natsOf_areBytes (leBytes 32 key)
  rwa [length_leBytes] at h

/-! A block encrypted: 16 bytes for 16. -/

theorem aesShift_areBytes (st : List Nat) : AreBytes 16 (aesShift st) := by
  refine ⟨rfl, fun x hx => ?_⟩
  obtain ⟨i, -, rfl⟩ := List.mem_map.mp hx
  exact aesSub_lt _

theorem aes256Rounds_areBytes {ks : List (List Nat)} (hne : ks ≠ []) (hks : ∀ k ∈ ks, AreBytes 16 k) (st : List Nat) :
    AreBytes 16 (aes256Rounds ks st) := by
  induction ks generalizing st with
  | nil => exact absurd rfl hne
  | cons k r ih =>
    cases r with
    | nil => exact (aesShift_areBytes st).xorL (hks k (by simp))
    | cons k' r' => exact ih (by simp) (fun x hx => hks x (by simp [hx])) _

theorem aes256Block_areBytes {ks : List (List Nat)} (hne : ks ≠ []) (hks : ∀ k ∈ ks, AreBytes 16 k) {b : List Nat}
    (hb : AreBytes 16 b) : AreBytes 16 (aes256Block ks b) := by
  cases ks with
  | nil => exact absurd rfl hne
  | cons k r =>
    cases r with
    | nil => exact hb.xorL (hks k (by simp))
    | cons k' r' => exact aes256Rounds_areBytes (by simp) (fun x hx => hks x (by simp [hx])) _

/-! The key stream: applied twice, it gives the bytes back. -/

section Stream

variable {keys : List (List Nat)} {iv : List Nat}

theorem gcmStream_nil (f ctr : Nat) : gcmStream keys iv f ctr [] = [] := by cases f <;> rfl

theorem gcmStream_succ (f ctr : Nat) (l : List Nat) : gcmStream keys iv (f + 1) ctr l =
    xorL (l.take 16) (aes256Block keys (iv ++ beList 4 ctr)) ++ gcmStream keys iv f (ctr + 1) (l.drop 16) := by
  rw [gcmStream]
  split
  case isTrue hempty =>
    obtain rfl : l = [] := by simpa using hempty
    simp [gcmStream_nil, xorL]
  case isFalse => rfl

variable (hblock : ∀ ctr : Nat, AreBytes 16 (aes256Block keys (iv ++ beList 4 ctr)))
include hblock

theorem gcmStream_areBytes {f : Nat} (ctr : Nat) {l : List Nat} (hl : ∀ x ∈ l, x < 256) (hf : l.length < f) :
    AreBytes l.length (gcmStream keys iv f ctr l) := by
  induction f generalizing ctr l with
  | zero => omega
  | succ f ih =>
    obtain rfl | hne := eq_or_ne l []
    · simp [gcmStream_nil, AreBytes]
    have hpos : 0 < l.length := List.length_pos_iff.mpr hne
    have hfuel : (l.drop 16).length < f := by rw [List.length_drop]; omega
    obtain ⟨hblen, hbval⟩ := hblock ctr
    obtain ⟨hrlen, hrval⟩ := ih (ctr + 1) (fun x hx => hl x (List.mem_of_mem_drop hx)) hfuel
    rw [gcmStream_succ]
    refine ⟨?_, fun x hx => ?_⟩
    · simp only [List.length_append, hrlen, xorL, List.length_zipWith, hblen, List.length_take, List.length_drop]
      omega
    · obtain hx | hx := List.mem_append.mp hx
      · obtain ⟨y, hy, z, hz, rfl⟩ := mem_xorL hx
        exact Nat.xor_lt_two_pow (n := 8) (hl y (List.mem_of_mem_take hy)) (hbval z hz)
      · exact hrval x hx

theorem gcmStream_gcmStream {f : Nat} (ctr : Nat) {l : List Nat} (hl : ∀ x ∈ l, x < 256) (hf : l.length < f) :
    gcmStream keys iv f ctr (gcmStream keys iv f ctr l) = l := by
  induction f generalizing ctr l with
  | zero => omega
  | succ f ih =>
    obtain rfl | hne := eq_or_ne l []
    · simp [gcmStream_nil]
    have hpos : 0 < l.length := List.length_pos_iff.mpr hne
    have hrest : ∀ x ∈ l.drop 16, x < 256 := fun x hx => hl x (List.mem_of_mem_drop hx)
    have hfuel : (l.drop 16).length < f := by rw [List.length_drop]; omega
    obtain ⟨hblen, -⟩ := hblock ctr
    have hrlen := (gcmStream_areBytes hblock (ctr + 1) hrest hfuel).1.trans List.length_drop
    have hhead : (xorL (l.take 16) (aes256Block keys (iv ++ beList 4 ctr))).length = min 16 l.length := by
      simp [xorL, hblen]
    have htake := xorL_xorL_same (a := l.take 16) (k := aes256Block keys (iv ++ beList 4 ctr)) (by simp [hblen])
    obtain ⟨hfirst, hafter⟩ := take_drop_of_first_block hhead hrlen
    rw [gcmStream_succ f ctr l, gcmStream_succ, hfirst, hafter, htake, ih (ctr + 1) hrest hfuel, List.take_append_drop]

end Stream

/-- Settles O41: the ciphertext is a list of bytes, so the tag verifies, and the key stream applied again gives the plaintext. -/
theorem sealsOpen : Obligations.SealsOpen := by
  unfold Obligations.SealsOpen
  intro key iv aad pt hiv
  obtain ⟨hne, hkeys⟩ := aes256Keys_areBytes (keyBytes_areBytes key)
  obtain ⟨hptlen, hptval⟩ := natsOf_areBytes pt
  have hblock (ctr : Nat) : AreBytes 16 (aes256Block (aes256Keys (keyBytes key)) (natsOf iv ++ beList 4 ctr)) := by
    refine aes256Block_areBytes hne hkeys ⟨?_, fun x hx => ?_⟩
    · simp [natsOf, beList, length_leBytes, hiv]
    · obtain hx | hx := List.mem_append.mp hx
      · exact (natsOf_areBytes iv).2 x hx
      · exact (natsOf_areBytes _).2 x hx
  have hct := gcmStream_areBytes hblock (f := pt.length + 1) 2 hptval (by omega)
  have hlen : (bytesOf (gcmStream (aes256Keys (keyBytes key)) (natsOf iv) (pt.length + 1) 2 (natsOf pt))).length = pt.length := by
    rw [bytesOf, List.length_map, hct.1, hptlen]
  simp only [gcmOpen, gcmSeal, natsOf_bytesOf hct, hlen, if_true]
  rw [gcmStream_gcmStream hblock 2 hptval (by omega), bytesOf_natsOf]

end Sys2Proof.Machine
end

section
/-!
PROOFS. One step: the command in front, the queue, and the state after reset.
-/

namespace Sys2Proof.Machine

theorem tick_eq (w : World) : w.tick = { w with time := if w.timeRun then w.time + 1#64 else w.time } := by
  unfold World.tick
  split <;> rfl

/-- Settles O1: `step` is a case split on the queue, and the idle step is the tick of `TIME`. -/
theorem stepRunsFront : Obligations.StepRunsFront := by
  unfold Obligations.StepRunsFront
  refine ⟨fun _ _ _ => rfl, fun s hempty => ?_⟩
  have hidle : step s = .next (idle s) := by rw [step, hempty]
  rw [hidle, idle, tick_eq]

/-! Every command answers. -/

theorem WorldAnswer.keeps_queue {s : State} {r : Res} (h : WorldAnswer s r) : ∃ t : State, r = .next t ∧ t.pending = s.pending := by
  obtain ⟨w, rfl⟩ := h
  exact ⟨_, rfl, rfl⟩

/-- Settles O2: every command answers with the tables and the world it computes, and the queue is in neither; a command whose
unit cannot act answers with those it finds (the model's choice, log 2). The reductions and `FENCE_S_DRAINED` choose between
two meanings. -/
theorem everyCommandAnswers : Obligations.EveryCommandAnswers := by
  unfold Obligations.EveryCommandAnswers
  intro c s
  cases c with
  | vredsum | vredmin | vredmax | fenceSDrained => exact (WorldAnswer.ite ⟨_, rfl⟩ ⟨_, rfl⟩).keeps_queue
  | _ => exact ⟨_, rfl, rfl⟩

/-! The state after reset. -/

theorem physOf_reset (l : Nat) : Anat.reset.physOf l = none := by
  unfold Anat.physOf
  split
  case h_1 r hr => rw [List.eq_of_mem_replicate (List.mem_of_getElem? hr)]; rfl
  case h_2 => rfl

theorem logicalOf_reset (p : Nat) : Anat.reset.logicalOf p = none := by
  unfold Anat.logicalOf
  split
  case h_1 x hx => rw [List.eq_of_mem_replicate (List.mem_of_getElem? hx)]; rfl
  case h_2 => rfl

theorem canIssue_reset (e : Nat) : canIssue Anat.reset World.reset e = false := by
  simp [canIssue, logicalOf_reset]

/-- Settles O3: the tables after reset hold absent entries only, and every store of the world is empty. -/
theorem resetState : Obligations.ResetState := by
  unfold Obligations.ResetState
  exact ⟨rfl, sound_reset, Memory.reset_wf, rfl, rfl, rfl, physOf_reset, logicalOf_reset, rfl, rfl, rfl, fun _ _ => rfl,
    canIssue_reset, rfl, rfl, fun _ => rfl, rfl⟩

end Sys2Proof.Machine
end

section
/-!
PROOFS. The choice among the copies of a persistent object (R683).
-/

namespace Sys2Proof.Machine

/-- The highest sequence number among copies. -/
def topSeq (l : List (Nat × DRec)) : Nat := l.foldl (fun m x => max m x.2.seq) 0

/-- The records with the highest sequence number. -/
def topRecs (l : List (Nat × DRec)) : List DRec := (l.filter (fun x => decide (x.2.seq = topSeq l))).map (fun x => x.2)

/-- How many records agree with a value. -/
def agreeing (best : List DRec) (v : List Byte) : Nat := (best.filter (fun q => decide (q.val = v))).length

theorem pickRec_eq (l : List (Nat × DRec)) : pickRec l =
    match (topRecs l).find? (fun r => decide ((topRecs l).length < 2 * agreeing (topRecs l) r.val)) with
    | some r => some (r, false)
    | none => (topRecs l).head?.map (fun r => (r, true)) := rfl

/-! The highest sequence number is a bound, and a copy has it. -/

theorem foldl_max_seq_bounds (l : List (Nat × DRec)) (m : Nat) :
    m ≤ l.foldl (fun m x => max m x.2.seq) m ∧ ∀ x ∈ l, x.2.seq ≤ l.foldl (fun m x => max m x.2.seq) m := by
  induction l generalizing m with
  | nil => simp
  | cons y r ih =>
    obtain ⟨hm, hr⟩ := ih (max m y.2.seq)
    rw [List.foldl_cons]
    refine ⟨by omega, fun x hx => ?_⟩
    obtain rfl | hx := List.mem_cons.mp hx
    · omega
    · exact hr x hx

theorem foldl_max_seq_reached (l : List (Nat × DRec)) (m : Nat) :
    l.foldl (fun m x => max m x.2.seq) m = m ∨ ∃ x ∈ l, x.2.seq = l.foldl (fun m x => max m x.2.seq) m := by
  induction l generalizing m with
  | nil => simp
  | cons y r ih =>
    rw [List.foldl_cons]
    obtain hstart | ⟨x, hx, hseq⟩ := ih (max m y.2.seq)
    · obtain hle | hle := Nat.le_total m y.2.seq
      · exact .inr ⟨y, by simp, by rw [hstart, Nat.max_eq_right hle]⟩
      · exact .inl (by rw [hstart, Nat.max_eq_left hle])
    · exact .inr ⟨x, by simp [hx], hseq⟩

theorem seq_le_topSeq {l : List (Nat × DRec)} {x : Nat × DRec} (hx : x ∈ l) : x.2.seq ≤ topSeq l :=
  (foldl_max_seq_bounds l 0).2 x hx

theorem topSeq_reached {l : List (Nat × DRec)} (hne : l ≠ []) : ∃ x ∈ l, x.2.seq = topSeq l := by
  obtain hzero | hx := foldl_max_seq_reached l 0
  · obtain ⟨y, hy⟩ := List.exists_mem_of_ne_nil l hne
    have hle := seq_le_topSeq hy
    exact ⟨y, hy, by simp only [topSeq, hzero] at hle ⊢; omega⟩
  · exact hx

theorem mem_topRecs {l : List (Nat × DRec)} {r : DRec} : r ∈ topRecs l ↔ (∃ n : Nat, (n, r) ∈ l) ∧ r.seq = topSeq l := by
  simp [topRecs]

theorem topRecs_ne_nil {l : List (Nat × DRec)} (hne : l ≠ []) : topRecs l ≠ [] := by
  obtain ⟨x, hx, hseq⟩ := topSeq_reached hne
  exact List.ne_nil_of_mem (mem_topRecs.mpr ⟨⟨x.1, hx⟩, hseq⟩)

/-! What is chosen. -/

/-- A record that more than half of the highest copies agree with is chosen without conflict; without one the first of them is
chosen, in conflict. -/
theorem pickRec_cases {l : List (Nat × DRec)} (hne : l ≠ []) : ∃ (r : DRec) (c : Bool), pickRec l = some (r, c) ∧ r ∈ topRecs l ∧
    (c = false ∧ (topRecs l).length < 2 * agreeing (topRecs l) r.val ∨
      c = true ∧ ∀ q ∈ topRecs l, 2 * agreeing (topRecs l) q.val ≤ (topRecs l).length) := by
  rw [pickRec_eq]
  split
  case h_1 r hr => exact ⟨r, false, rfl, List.mem_of_find?_eq_some hr, .inl ⟨rfl, by simpa using List.find?_some hr⟩⟩
  case h_2 hnone =>
    obtain ⟨r, rest, hcons⟩ := List.exists_cons_of_ne_nil (topRecs_ne_nil hne)
    refine ⟨r, true, by simp [hcons], by simp [hcons], .inr ⟨rfl, fun q hq => ?_⟩⟩
    simpa using List.find?_eq_none.mp hnone q hq

/-- Where all highest copies have one value, all of them agree with it. -/
theorem agreeing_of_all {best : List DRec} {v : List Byte} (h : ∀ q ∈ best, q.val = v) : agreeing best v = best.length := by
  rw [agreeing, List.filter_eq_self.mpr (fun q hq => by simpa using h q hq)]

theorem agreeing_add_le {best : List DRec} {u v : List Byte} (h : u ≠ v) : agreeing best u + agreeing best v ≤ best.length := by
  induction best with
  | nil => simp [agreeing]
  | cons q r ih =>
    simp only [agreeing, List.filter_cons, List.length_cons] at ih ⊢
    by_cases hu : q.val = u
    · have hv : q.val ≠ v := hu ▸ h
      simp only [hu, h, decide_true, decide_false, if_true, Bool.false_eq_true, if_false, List.length_cons]
      omega
    · simp only [hu, decide_false, Bool.false_eq_true, if_false]
      split
      · rw [List.length_cons]; omega
      · omega

/-- Two copies in different slots with the highest sequence number and one value are two that agree. -/
theorem two_le_agreeing {l : List (Nat × DRec)} {x y : Nat × DRec} (hx : x ∈ l) (hy : y ∈ l) (hslot : x.1 ≠ y.1)
    (hxs : x.2.seq = topSeq l) (hys : y.2.seq = topSeq l) (hval : x.2.val = y.2.val) : 2 ≤ agreeing (topRecs l) x.2.val := by
  rw [agreeing, topRecs, List.filter_map, List.length_map]
  have hnodup : [x, y].Nodup := by simpa using fun h => hslot (congrArg Prod.fst h)
  refine (List.subperm_of_subset hnodup fun z hz => ?_).length_le
  simp only [List.mem_cons, List.not_mem_nil, or_false] at hz
  obtain rfl | rfl := hz
  · simp [hx, hxs]
  · simp [hy, hys, hval]

/-- Settles O58: the chosen record has the highest sequence number, and two of three that agree are the only majority. -/
theorem copyChoice : Obligations.CopyChoice := by
  unfold Obligations.CopyChoice
  intro l hne
  obtain ⟨r, c, hpick, hr, hcase⟩ := pickRec_cases hne
  obtain ⟨hmem, hseq⟩ := mem_topRecs.mp hr
  refine ⟨r, c, hpick, hmem, fun x hx => hseq ▸ seq_le_topSeq hx, fun hsame => ?agree, fun hlen x hx y hy hslot hxs hys hval => ?two⟩
  case agree =>
    obtain ⟨hc, -⟩ | ⟨-, hno⟩ := hcase
    · exact hc
    · have hall : ∀ q ∈ topRecs l, q.val = r.val := fun q hq => by
        obtain ⟨⟨n, hn⟩, hqs⟩ := mem_topRecs.mp hq
        obtain ⟨m, hm⟩ := hmem
        exact hsame _ hn _ hm (hqs.trans hseq.symm)
      have hle := hno r hr
      have hpos := List.length_pos_iff.mpr (topRecs_ne_nil hne)
      rw [agreeing_of_all hall] at hle
      omega
  case two =>
    have htwo := two_le_agreeing hx hy hslot (hxs.trans hseq) (hys.trans hseq) hval
    have hthree : (topRecs l).length ≤ 3 := by
      rw [topRecs, List.length_map, ← hlen]
      exact List.length_filter_le _ _
    obtain ⟨hc, hmajor⟩ | ⟨-, hno⟩ := hcase
    · refine ⟨hc, by_contra fun hdiff => ?_⟩
      have hsum := agreeing_add_le (best := topRecs l) hdiff
      omega
    · have hle := hno x.2 (mem_topRecs.mpr ⟨⟨x.1, hx⟩, hxs.trans hseq⟩)
      omega

end Sys2Proof.Machine
end

section
/-!
PROOFS. Operating points: the target point of a die (R605).
-/

namespace Sys2Proof.Machine

theorem nested_max_largest (a b c d e : Nat) : max a (max b (max c (max d e))) ∈ [a, b, c, d, e] ∧
    ∀ p ∈ [a, b, c, d, e], p ≤ max a (max b (max c (max d e))) := by
  simp only [List.mem_cons, List.not_mem_nil, or_false, forall_eq_or_imp, forall_eq]
  omega

/-- Settles O8: the target point is the maximum of the five values. -/
theorem targetPoint : Obligations.TargetPoint := by
  unfold Obligations.TargetPoint
  exact fun w d => nested_max_largest _ _ _ _ _

end Sys2Proof.Machine
end

section
/-!
PROOFS. Key handles and domains: reset, free, load, drop and inquiry (R515 to R520).
-/

namespace Sys2Proof.Machine

/-! Instructions of the Y format that commit older tile instructions and answer in `ACC`. -/

theorem commitOldest_core (x : Engine) : x.commitOldest.core = x.core := by
  unfold Engine.commitOldest
  split
  · rfl
  · rfl

@[simp] theorem commitAll_core (x : Engine) : x.commitAll.core = x.core := by
  have hfold (l : List TileOp) (y : Engine) : (l.foldl (fun y _ => y.commitOldest) y).core = y.core := by
    induction l generalizing y with
    | nil => rfl
    | cons t l ih => rw [List.foldl_cons, ih, commitOldest_core]
  exact hfold x.tq x

section Answers

variable {s : State} {e : Fin 104} {w w1 w2 : World}

@[simp] theorem core_modEng_commitAll : (w.modEng e.val Engine.commitAll).core e = w.core e := by
  rw [World.core, eng_modEng, commitAll_core]

/-- The state after an instruction that answers v in `ACC`. -/
def answered (s : State) (e : Fin 104) (w : World) (cyc : Nat) (v : W64) : Res :=
  .next (retired s w e 4 cyc { w.core e with acc := ⟨v, 1#4⟩ })

theorem seqInstr_answers {cyc : Nat} {body : EM Unit} {v : W64} (hi : Issues s e w1)
    (hbody : body ⟨s.anat, e.val⟩ w1 = setAcc v 1#4 ⟨s.anat, e.val⟩ w2) :
    seqInstr 0 4 cyc e body s = answered s e w2 cyc v :=
  seqInstr_modC (fun c => { c with acc := ⟨v, 1#4⟩ }) hi hbody

theorem get_does (s : State) (e : Fin 104) (w : World) : Does s e get w w w := rfl
theorem set_does (s : State) (e : Fin 104) (w v : World) : Does s e (set v) w () v := rfl
theorem modify_does (s : State) (e : Fin 104) (w : World) (f : World → World) : Does s e (modify f) w () (f w) := rfl
theorem freshM_does (s : State) (e : Fin 104) (w : World) :
    Does s e freshM w w.freeCtr { w with freeCtr := w.freeCtr + 1 } := rfl

end Answers

/-! What every key instruction does first (R516), and an erase under way (R520). -/

section Keys

variable {s : State} {e : Fin 104} {o : YOp} {w w1 w2 w3 w4 : World}

theorem ksFields_does {fn : BitVec 12} (hopf : o.opf = 0#11) (hfn : o.fn = fn) (hpl : (w1.core e).pl = 0#2) :
    Does s e (ksFields o fn) w1 () (w1.modEng e.val Engine.commitAll) := by
  unfold Does ksFields
  rw [(need_does s e w1 (by simp [hopf, hfn])).bind, (getC_does s e w1).bind, (need_does s e w1 (by simp [hpl])).bind]
  rfl

theorem ksBusy_no_erase (hready : w.ks.ready = true) (hnone : w.ks.erasing = none) : Does s e ksBusy w false w := by
  unfold Does ksBusy
  rw [EM.bind_ok _ (EM.read_run _ _), (get_does s e w).bind, hready, hnone]
  rfl

theorem ksBusy_own_erase (hready : w.ks.ready = true) {x : Erase} (hx : w.ks.erasing = some x) (hown : x.e = e.val) :
    Does s e ksBusy w false w := by
  unfold Does ksBusy
  rw [EM.bind_ok _ (EM.read_run _ _), (get_does s e w).bind, hready, hx]
  exact congrFun (congrFun (if_pos hown) _) _

section Committed

variable (hi : Issues s e w1) (hopf : o.opf = 0#11) (hpl : (w1.core e).pl = 0#2) (hw2 : w2 = w1.modEng e.val Engine.commitAll)
include hi hopf hpl hw2

/-! `kdreset` and `kdfree`. -/

section Erases

variable {fn : BitVec 12} {renew : Bool} (hfn : o.fn = fn) (hacc : Usable (w1.core e) .sub (w1.core e).acc.t)
  (hready : w2.ks.ready = true)
include hfn hacc hready

omit hi hready in
/-- The domain's number, once older tile instructions have committed. -/
theorem kdErase_reaches {α : Type} (rest : W64 → EM α) : (do ksFields o fn; let v ← useAcc .sub; rest v : EM α) ⟨s.anat, e.val⟩ w1 =
    rest (w1.core e).acc.v ⟨s.anat, e.val⟩ w2 := by
  subst hw2
  have hacc' : Does s e (useAcc .sub) (w1.modEng e.val Engine.commitAll) (w1.core e).acc.v (w1.modEng e.val Engine.commitAll) := by
    have huse := useAcc_does (s := s) (e := e) (c := .sub) (w := w1.modEng e.val Engine.commitAll)
    rw [core_modEng_commitAll] at huse
    exact huse hacc
  rw [(ksFields_does hopf hfn hpl).bind, hacc'.bind]

theorem kdErase_domain_zero (hnone : w2.ks.erasing = none) (hk : (w1.core e).acc.v.extractLsb' 0 8 = 0#8) :
    kdErase fn renew e o s = answered s e w2 64 1#64 := by
  refine seqInstr_answers hi ?_
  rw [kdErase_reaches hopf hpl hw2 hfn hacc, (ksBusy_no_erase hready hnone).bind, (get_does s e w2).bind]
  simp only [hnone, hk, if_true, Bool.false_eq_true, if_false]

theorem kdErase_starts (hnone : w2.ks.erasing = none) (hk : (w1.core e).acc.v.extractLsb' 0 8 ≠ 0#8) :
    kdErase fn renew e o s = toWorld s ((eraseStart w2 e.val ((w1.core e).acc.v.extractLsb' 0 8) renew).modEng e.val (fun x =>
      { x with core := (s.w.eng e.val).core })) := by
  refine seqInstr_wait hi ?_
  rw [kdErase_reaches hopf hpl hw2 hfn hacc, (ksBusy_no_erase hready hnone).bind, (get_does s e w2).bind]
  simp only [hnone, hk, Bool.false_eq_true, if_false]
  rfl

theorem kdErase_ends {x : Erase} (hx : w2.ks.erasing = some x) (hown : x.e = e.val) :
    kdErase fn renew e o s = answered s e (eraseEnd w2 x) 64 0#64 := by
  refine seqInstr_answers hi ?_
  rw [kdErase_reaches hopf hpl hw2 hfn hacc, (ksBusy_own_erase hready hx hown).bind, (get_does s e w2).bind]
  simp only [hx, Bool.false_eq_true, if_false]
  rfl

end Erases

/-! `khload`. -/

section Import

variable (hfn : o.fn = 1#12) (h0 : Usable (w1.core e) .addr (w1.core e).ix0.t) (h1 : Usable (w1.core e) .addr (w1.core e).ix1.t)
  {b : List Byte} (hb : Does s e (readBlob (w1.core e).ix0.v) w2 b w3) (hready : w3.ks.ready = true) (hnone : w3.ks.erasing = none)
include hfn h0 h1 hb hready hnone

omit hi in
theorem khload_reaches {α : Type} (rest : Core → List Byte → Bool → EM α) : (do
      ksFields o 1#12
      let c ← getC
      checkTag .addr c.ix0.t 0#64
      checkTag .addr c.ix1.t 0#64
      let b ← readBlob c.ix0.v
      let busy ← ksBusy
      rest c b busy : EM α) ⟨s.anat, e.val⟩ w1 = rest (w1.core e) b false ⟨s.anat, e.val⟩ w3 := by
  subst hw2
  have hget : Does s e getC (w1.modEng e.val Engine.commitAll) (w1.core e) (w1.modEng e.val Engine.commitAll) := by
    have h := getC_does s e (w1.modEng e.val Engine.commitAll)
    rwa [core_modEng_commitAll] at h
  rw [(ksFields_does hopf hfn hpl).bind, hget.bind, (checkTag_does (by rwa [core_modEng_commitAll])).bind,
    (checkTag_does (by rwa [core_modEng_commitAll])).bind, hb.bind, (ksBusy_no_erase hready hnone).bind]

theorem exec_khload_refused {st : Nat} (hst : blobCheck w3 b = .error st) : exec (.khload e o) s = answered s e w3 400 (w64 st) := by
  refine seqInstr_answers hi ?_
  rw [khload_reaches hopf hpl hw2 hfn h0 h1 hb hready hnone, if_neg Bool.false_ne_true, (get_does s e w3).bind, hst]

theorem exec_khload_imports {k slot : Nat} {sl : KSlot} {ctr : W64} (hok : blobCheck w3 b = .ok (k, slot, sl, ctr))
    (hstore : Does s e (storeMemE (w1.core e).ix1.v 8 (handleOf (BitVec.ofNat 8 k) slot sl.use sl.gen) 5#4 false) w3 () w4) :
    let w5 : World := { w4 with freeCtr := w4.freeCtr + 1 }
    let d := w5.ks.get k
    exec (.khload e o) s = answered s e (w5.setDom k { d with
      lastCtr := some ctr, slots := sset d.slots slot { sl with salt := BitVec.ofNat 32 (Config.free w4.freeCtr) } }) 400 0#64 := by
  refine seqInstr_answers hi ?_
  rw [khload_reaches hopf hpl hw2 hfn h0 h1 hb hready hnone, if_neg Bool.false_ne_true, (get_does s e w3).bind, hok]
  refine (hstore.bind _).trans ?_
  rw [(freshM_does s e w4).bind, (modify_does s e _ _).bind]

end Import

/-! `khdrop` and `khinfo`. -/

section Handles

variable {h : W64} (hh : Does s e handleWord w2 h w3) (hready : w3.ks.ready = true) (hnone : w3.ks.erasing = none)
include hh hready hnone

omit hi in
theorem handle_reaches {fn : BitVec 12} (hfn : o.fn = fn) (rest : W64 → Bool → EM Unit) : (do
      ksFields o fn
      let h ← handleWord
      let busy ← ksBusy
      rest h busy : EM Unit) ⟨s.anat, e.val⟩ w1 = rest h false ⟨s.anat, e.val⟩ w3 := by
  subst hw2
  rw [(ksFields_does hopf hfn hpl).bind, hh.bind, (ksBusy_no_erase hready hnone).bind]

theorem exec_khdrop_refused (hfn : o.fn = 2#12) {st : Nat} (hst : handleStatus w3 h = some st) :
    exec (.khdrop e o) s = answered s e w3 64 (w64 st) := by
  refine seqInstr_answers hi ?_
  rw [handle_reaches hopf hpl hw2 hh hready hnone hfn, if_neg Bool.false_ne_true, (get_does s e w3).bind, hst]

theorem exec_khdrop_stale (hfn : o.fn = 2#12) (hst : handleStatus w3 h = none) (hold : handleCurrent w3 h = false) :
    exec (.khdrop e o) s = answered s e w3 64 5#64 := by
  refine seqInstr_answers hi ?_
  rw [handle_reaches hopf hpl hw2 hh hready hnone hfn, if_neg Bool.false_ne_true, (get_does s e w3).bind, hst]
  simp only [hold, Bool.false_eq_true, if_false]

theorem exec_khdrop_current (hfn : o.fn = 2#12) (hst : handleStatus w3 h = none) (hcur : handleCurrent w3 h = true) :
    let d := w3.ks.get (fld h 52 8)
    let slot := fld h 48 4
    exec (.khdrop e o) s = answered s e (w3.setDom (fld h 52 8) { d with
      slots := sset d.slots slot { KSlot.empty with gen := (d.slot slot).gen + 1#32 } }) 64 0#64 := by
  refine seqInstr_answers hi ?_
  rw [handle_reaches hopf hpl hw2 hh hready hnone hfn, if_neg Bool.false_ne_true, (get_does s e w3).bind, hst]
  simp only [hcur, if_true]
  rfl

theorem exec_khinfo_refused (hfn : o.fn = 3#12) {st : Nat} (hst : handleStatus w3 h = some st) :
    exec (.khinfo e o) s = answered s e w3 32 (w64 st) := by
  refine seqInstr_answers hi ?_
  rw [handle_reaches hopf hpl hw2 hh hready hnone hfn, if_neg Bool.false_ne_true, (get_does s e w3).bind, hst]

theorem exec_khinfo_answers (hfn : o.fn = 3#12) (hst : handleStatus w3 h = none) :
    exec (.khinfo e o) s = answered s e w3 32 (setFld h 0 32 (handleCurrent w3 h).toNat) := by
  refine seqInstr_answers hi ?_
  rw [handle_reaches hopf hpl hw2 hh hready hnone hfn, if_neg Bool.false_ne_true, (get_does s e w3).bind, hst]

end Handles

end Committed

end Keys

/-- Settles O37: each instruction is the case of its checks that the hypotheses select. -/
theorem keystone : Obligations.Keystone := by
  unfold Obligations.Keystone
  intro s e o w1 hi hopf hpl
  dsimp only
  refine fun hready => ⟨fun hacc p hp hfn => ?erase, fun hfn h0 h1 b w3 hb hready3 hnone => ⟨fun st => ?_, fun k slot sl ctr w4 => ?_⟩,
    fun _ h w3 hh hready3 hnone => ⟨fun hfn => ⟨fun st => ?_, ?_, ?_⟩, fun hfn => ⟨fun st => ?_, ?_⟩⟩⟩
  case erase =>
    simp only [List.mem_cons, List.not_mem_nil, or_false] at hp
    obtain rfl | rfl := hp
    all_goals exact ⟨kdErase_domain_zero hi hopf hpl rfl hfn hacc hready, kdErase_starts hi hopf hpl rfl hfn hacc hready,
      fun _ => kdErase_ends hi hopf hpl rfl hfn hacc hready⟩
  · exact exec_khload_refused hi hopf hpl rfl hfn h0 h1 hb hready3 hnone
  · exact exec_khload_imports hi hopf hpl rfl hfn h0 h1 hb hready3 hnone
  · exact exec_khdrop_refused hi hopf hpl rfl hh hready3 hnone hfn
  · exact exec_khdrop_stale hi hopf hpl rfl hh hready3 hnone hfn
  · exact exec_khdrop_current hi hopf hpl rfl hh hready3 hnone hfn
  · exact exec_khinfo_refused hi hopf hpl rfl hh hready3 hnone hfn
  · exact exec_khinfo_answers hi hopf hpl rfl hh hready3 hnone hfn

end Sys2Proof.Machine
end

section
/-!
PROOFS. Task queues, completion words, doorbells of task queues, and messages between engines (R546, R547, R549).
-/

namespace Sys2Proof.Machine

section Tasks

variable {s : State} {e : Fin 104} {o : YOp} {w w1 w2 w3 w4 : World}

theorem taskFields_does {fn : BitVec 12} {anyLevel : Bool} (hopf : o.opf = 0#11) (hfn : o.fn = fn)
    (hlevel : anyLevel = true ∨ (w.core e).pl ≠ 2#2) : Does s e (taskFields o fn anyLevel) w () w := by
  unfold Does taskFields
  rw [(need_does s e w (by simp [hopf, hfn])).bind, (getC_does s e w).bind]
  exact need_does s e w (by simpa using hlevel)

theorem tryCatch_does {α : Type} {x : EM α} {r : α} (handler : Exc → EM α) (h : Does s e x w1 r w2) :
    Does s e (tryCatch x handler) w1 r w2 := by
  unfold Does at h ⊢
  show EStateM.tryCatch (x ⟨s.anat, e.val⟩) (fun er => handler er ⟨s.anat, e.val⟩) w1 = _
  rw [EStateM.tryCatch, h]

/-- The world in which v has been written to `ACC`. -/
def accSet (w : World) (e : Fin 104) (v : W64) : World :=
  w.modEng e.val (fun x => { x with core := { x.core with acc := ⟨v, 1#4⟩ } })

theorem status_does (s : State) (e : Fin 104) (w : World) (n : Nat) : Does s e (status n) w () (accSet w e (w64 n)) := rfl

theorem retired_accSet (s : State) (e : Fin 104) (w : World) (cyc : Nat) (v : W64) :
    .next (retired s (accSet w e v) e 4 cyc ((accSet w e v).core e)) = answered s e w cyc v := by
  unfold accSet
  rw [retired_modC s w e 4 cyc (fun c => { c with acc := ⟨v, 1#4⟩ }), core_modC w e (fun c => { c with acc := ⟨v, 1#4⟩ })]
  rfl

/-! `tnext`: the descriptor at the queue's head, read in the queue's context, starts a task (R547). -/

section Next

variable {l : Nat} (hl : s.anat.logicalOf e.val = some l) (hopf : o.opf = 0#11) (hfn : o.fn = 0#12) (hpl : (w1.core e).pl ≠ 2#2)
  (hw2 : w2 = w1.modEng e.val Engine.commitAll)
include hl hopf hfn hpl hw2

theorem tnextBody_empty (hempty : (w2.log l).head = (w2.log l).tail) :
    Does s e (tnextBody o) w1 false (accSet w2 e 1#64) := by
  subst hw2
  unfold Does tnextBody
  rw [(taskFields_does hopf hfn (.inr hpl)).bind, (modE_does s e w1 _).bind, EM.bind_ok _ (EM.read_run _ _), (get_does s e _).bind]
  simp only [hl, hempty, if_true]
  rw [(status_does s e _ 1).bind]
  rfl

section Filled

variable {r : List Byte × Bool} (hsome : (w2.log l).head ≠ (w2.log l).tail)
  (hctx : ∃ x, ctxMatch s.anat w2 (fld (w2.log l).cfg 48 16) (tenantOf (tenantReg w2 e.val)) = .ok x) {va : W64}
  (hva : va = (w2.log l).base + w64 (64 * ((w2.log l).head.toNat % 2 ^ fld (w2.log l).cfg 0 5))) (halign : va.toNat % 64 = 0)
  (hread : Does s e (viaCtx (fld (w2.log l).cfg 48 16) (tenantReg w2 e.val) (readWords ⟨0, false, false, false⟩ va 64)) w2 r w3)
include hsome hctx hva halign hread

/-- The descriptor has been read. -/
theorem tnextBody_reads : tnextBody o ⟨s.anat, e.val⟩ w1 = (
    let d := (List.range 8).map (wordAt r.1)
    if fld (d.getD 0 0#64) 0 4 ≠ 1 then do
      modify (fun v => v.modLog l (fun y => { y with head := y.head + 1#16 }))
      status 2
      return false
    else do
      modify (fun v => taskStart s.anat v e.val l d va (fld (w2.log l).cfg 48 16))
      return true : EM Bool) ⟨s.anat, e.val⟩ w3 := by
  subst hw2
  obtain ⟨x, hx⟩ := hctx
  unfold tnextBody
  rw [(taskFields_does hopf hfn (.inr hpl)).bind, (modE_does s e w1 _).bind, EM.bind_ok _ (EM.read_run _ _), (get_does s e _).bind]
  simp only [hl, hsome, hx, if_false, ← hva, halign, not_true, ne_eq]
  rw [hread.bind]

theorem tnextBody_skips (hver : fld (((List.range 8).map (wordAt r.1)).getD 0 0#64) 0 4 ≠ 1) :
    Does s e (tnextBody o) w1 false (accSet (w3.modLog l (fun y => { y with head := y.head + 1#16 })) e 2#64) := by
  unfold Does
  rw [tnextBody_reads hl hopf hfn hpl hw2 hsome hctx hva halign hread]
  dsimp only
  rw [if_pos hver, (modify_does s e w3 _).bind, (status_does s e _ 2).bind]
  rfl

theorem tnextBody_starts (hver : fld (((List.range 8).map (wordAt r.1)).getD 0 0#64) 0 4 = 1) :
    Does s e (tnextBody o) w1 true
      (taskStart s.anat w3 e.val l ((List.range 8).map (wordAt r.1)) va (fld (w2.log l).cfg 48 16)) := by
  unfold Does
  rw [tnextBody_reads hl hopf hfn hpl hw2 hsome hctx hva halign hread]
  dsimp only
  rw [if_neg (not_not_intro hver), (modify_does s e w3 _).bind]
  rfl

end Filled

end Next

theorem exec_tnext_answers {v : W64} (hi : Issues s e w1) (hbody : Does s e (tnextBody o) w1 false (accSet w e v)) :
    exec (.tnext e o) s = answered s e w 8 v := by
  refine (congrArg (toWorld s) (runWith_ok hi hbody)).trans ?_
  rw [← retired_accSet]
  rfl

theorem exec_tnext_starts (hi : Issues s e w1) (hbody : Does s e (tnextBody o) w1 true w4) :
    let x := w4.eng e.val
    exec (.tnext e o) s = toWorld s { w4.setEng e.val (({ x with core := { x.core with seq := x.core.seq + 1 } }).retire 8
      w4.freeCtr).freshCounts with freeCtr := w4.freeCtr + 1 } :=
  congrArg (toWorld s) (runWith_ok hi hbody)

/-! `tdone` (R548). -/

section Done

variable {l : Nat} (hi : Issues s e w1) (hl : s.anat.logicalOf e.val = some l) (hopf : o.opf = 0#11) (hfn : o.fn = 1#12)
  (hpl : (w1.core e).pl ≠ 2#2) (hw2 : w2 = w1.modEng e.val Engine.commitAll) (hacc : Usable (w1.core e) .sub (w1.core e).acc.t)
include hi hl hopf hfn hpl hw2 hacc

theorem exec_tdone_no_task (hnone : (w2.log l).task = none) : exec (.tdone e o) s = answered s e w2 4 1#64 := by
  subst hw2
  refine seqInstr_answers hi ?_
  rw [(taskFields_does hopf hfn (.inr hpl)).bind, (useAcc_does hacc).bind, (modE_does s e w1 _).bind,
    EM.bind_ok _ (EM.read_run _ _), (get_does s e _).bind]
  simp only [hl, hnone]
  rfl

theorem exec_tdone_ends {t : TaskRec} {b : Bool} (ht : (w2.log l).task = some t)
    (hwrite : Does s e (viaCtx (fld (w2.log l).cfg 48 16) (w2.eng e.val).tenant (doneWrite t.doneAddr
      (packW [(63, 1), (48, fld (w1.core e).acc.v 0 8), (40, l), (0, fld w2.time 0 40)]))) w2 (some b) w3) :
    exec (.tdone e o) s = answered s e (tdoneEnd w3 l b) 4 (w64 (if b then 0 else 2)) := by
  subst hw2
  refine seqInstr_answers hi ?_
  rw [(taskFields_does hopf hfn (.inr hpl)).bind, (useAcc_does hacc).bind, (modE_does s e w1 _).bind,
    EM.bind_ok _ (EM.read_run _ _), (get_does s e _).bind]
  simp only [hl, ht]
  rw [(tryCatch_does _ hwrite).bind]
  rfl

end Done

/-! Doorbells (R528, R529, R544). -/

section Bells

variable (hi : Issues s e w1) (hopf : o.opf = 0#11) (hfn : o.fn = 2#12) (hpl : (w1.core e).pl ≠ 2#2)
  (hw2 : w2 = w1.modEng e.val Engine.commitAll) (hacc : Usable (w1.core e) .sub (w1.core e).acc.t)
  (hix : Usable (w1.core e) .sub (w1.core e).ix0.t)
include hi hopf hfn hpl hw2 hacc hix

omit hi hopf hfn hpl hw2 hacc hix in
theorem bell_wrong_command {cmd : Nat} {r : Nat × World} (h : cmd ≠ 0) :
    (if 5 ≤ cmd then (6, w2) else if 1 ≤ cmd then (5, w2) else r) = (if cmd ≤ 4 then 5 else 6, w2) := by
  obtain hlow | hhigh := Nat.lt_or_ge cmd 5
  · rw [if_neg (by omega), if_pos (by omega), if_pos (by omega)]
  · rw [if_pos hhigh, if_neg (by omega)]

omit hi hopf hfn hpl hw2 hacc hix in
theorem bellEnd_refused {f kind target st : Nat} (h : st ≠ 0) : bellEnd f kind target (st, w2) = dbRefuse w2 f st kind target :=
  if_neg h

/-- A doorbell of a task queue ends with what its checks answered. -/
theorem exec_dbell_task (htask : bit (w1.core e).ix0.v 12 = true) {r : Nat × World}
    (hr : r = let cmd := fld (w1.core e).acc.v 16 3
      if 5 ≤ cmd then (6, w2) else if 1 ≤ cmd then (5, w2)
      else taskBell s.anat w2 (w2.eng e.val).who false (fld (w1.core e).ix0.v 0 12) ((w1.core e).acc.v.extractLsb' 0 16)) :
    exec (.dbell e o) s =
      answered s e (bellEnd (w2.eng e.val).who.fn 1 (fld (w1.core e).ix0.v 0 12) r) 4 (w64 r.1) := by
  subst hw2 hr
  refine seqInstr_answers hi ?_
  rw [(taskFields_does hopf hfn (.inr hpl)).bind, (useAcc_does hacc).bind, (getC_does s e w1).bind, (checkTag_does hix).bind,
    (modE_does s e w1 _).bind, EM.bind_ok _ (EM.read_run _ _), (getE_does s e _).bind, (get_does s e _).bind]
  simp only [htask, if_true]
  rfl

theorem exec_dbell_chan (hchan : bit (w1.core e).ix0.v 12 = false) {r : Nat × World}
    (hr : chanBell s.anat w2 (w2.eng e.val).who false (fld (w1.core e).acc.v 16 3) (fld (w1.core e).ix0.v 0 12)
      ((w1.core e).acc.v.extractLsb' 0 16) = some r) :
    exec (.dbell e o) s =
      answered s e (bellEnd (w2.eng e.val).who.fn 0 (fld (w1.core e).ix0.v 0 12) r) 4 (w64 r.1) := by
  subst hw2
  refine seqInstr_answers hi ?_
  rw [(taskFields_does hopf hfn (.inr hpl)).bind, (useAcc_does hacc).bind, (getC_does s e w1).bind, (checkTag_does hix).bind,
    (modE_does s e w1 _).bind, EM.bind_ok _ (EM.read_run _ _), (getE_does s e _).bind, (get_does s e _).bind]
  simp only [hchan, Bool.false_eq_true, if_false, hr]
  rfl

end Bells

section HostBells

variable {f : Fin 65} {l : BitVec 7} {t : BitVec 16}

theorem exec_dbTask_live (hlive : fnLive s.w f.val = true) (hshut : tdiShut s.w f.val = false) {r : Nat × World}
    (hr : taskBell s.anat s.w (pageTenant f.val) false l.toNat t = r) :
    exec (.dbTask f l t) s = toWorld s (bellEnd f.val 1 l.toNat r) := by
  refine congrArg (toWorld s) ?_
  simp only [dbTask, dbTaskIn, hlive, hshut, hr, Bool.not_true, Bool.false_eq_true, if_false]

theorem taskBell_foreign {a : Anat} {b : Tenant} {n : Nat} (hn : n < 96)
    (hno : reaches b ⟨bit (w.log n).cfg 23, fld (w.log n).cfg 24 6⟩ = false) : taskBell a w b false n t = (1, w) := by
  simp [taskBell, hno, Nat.not_le.mpr hn]

theorem taskBell_accepted {a : Anat} {b : Tenant} {n p : Nat} (hn : n < 96)
    (hyes : reaches b ⟨bit (w.log n).cfg 23, fld (w.log n).cfg 24 6⟩ = true) (hp : a.physOf n = some p)
    (hring : (t - (w.log n).head).toNat ≤ ringLimit (fld (w.log n).cfg 0 5))
    (hahead : ((w.log n).tail - (w.log n).head).toNat ≤ (t - (w.log n).head).toNat) :
    taskBell a w b false n t = (0, w.modLog n (fun x => { x with tail := t })) := by
  have hfits : ¬(ringLimit (fld (w.log n).cfg 0 5) < (t - (w.log n).head).toNat ∨
    (t - (w.log n).head).toNat < ((w.log n).tail - (w.log n).head).toNat) := by omega
  simp only [taskBell, hyes, hp, Nat.not_le.mpr hn, if_neg hfits, Bool.not_true, Bool.or_false, Bool.false_eq_true, if_false,
    Option.isNone_some]

theorem exec_tqCfgWrite_ok {l : Fin 96} {v : W64} (hlive : fnLive s.w 0 = true) (hlo : 4 ≤ fld v 0 5) (hhi : fld v 0 5 ≤ 16) :
    let cfg := (s.w.log l.val).cfg
    exec (.tqCfgWrite l v) s = toWorld s (if tdiLocked s.w ⟨bit cfg 23, fld cfg 24 6⟩ then s.w.countReg 0x2E120 1
      else s.w.modLog l.val (fun q => { q with cfg := v &&& 0xFFFF00003F80001F#64 })) := by
  have hrange : ¬(fld v 0 5 < 4 ∨ 16 < fld v 0 5) := by omega
  refine congrArg (toWorld s) ?_
  simp only [hlive, if_true, tqHost, tqCfgWrite, if_neg hrange]

end HostBells

/-! Messages (R549). -/

section Send

variable {t : TlbEntry} {b : List Byte × Bool} (hi : Issues s e w1) (hopf : o.opf = 0#11) (hfn : o.fn = 3#12)
  (hw2 : w2 = w1.modEng e.val Engine.commitAll) (hix : Usable (w1.core e) .addr (w1.core e).ix0.t)
  (hacc : Usable (w1.core e) .sub (w1.core e).acc.t) (hspec : (w1.eng e.val).speculating = false)
  (halign : (w1.core e).ix0.v.toNat % 64 = 0) (htrans : Does s e (translate (w1.core e).ix0.v .load) w2 t w3)
  (hread : Does s e (readWords ⟨0, false, false, false⟩ (w1.core e).ix0.v 64) w3 b w4)
  (hhere : bit (w1.core e).acc.v 24 = false ∨ fld (w1.core e).acc.v 12 12 = w4.nodeId.getD 0)
include hi hopf hfn hw2 hix hacc hspec halign htrans hread hhere

/-- A message for this module ends with what its delivery answered. -/
theorem exec_msend_here {r : Nat × World} (hr : deliverMsg s.anat w4 (fld (w1.core e).acc.v 0 7)
      { node := BitVec.ofNat 12 (w4.nodeId.getD 0), kdom := t.kdom
        src := BitVec.ofNat 7 ((s.anat.logicalOf e.val).getD 0x7F), body := b.1 } = r) :
    exec (.msend e o) s = answered s e r.2 4 (w64 r.1) := by
  subst hw2
  have hlocal : (bit (w1.core e).acc.v 24 && decide (fld (w1.core e).acc.v 12 12 ≠ w4.nodeId.getD 0)) = false := by
    obtain h | h := hhere
    · simp [h]
    · simp [h]
  refine seqInstr_answers hi ?_
  rw [(taskFields_does hopf hfn (.inl rfl)).bind, (useAcc_does hacc).bind, (getC_does s e w1).bind, (checkTag_does hix).bind,
    if_neg (not_not_intro halign)]
  show (parkIf 5 (w1.core e).ix0.v >>= _) _ w1 = _
  rw [(parkIf_does 5 _ hspec).bind, (modE_does s e w1 _).bind, htrans.bind, hread.bind, EM.bind_ok _ (EM.read_run _ _),
    (get_does s e _).bind]
  simp only [hlocal, Bool.false_eq_true, if_false, hr]
  rfl

end Send

section Deliver

variable {a : Anat} {l p : Nat} {m : Msg} (hp : a.physOf l = some p)

theorem deliverMsg_unbound (hnone : a.physOf l = none) : deliverMsg a w l m = (3, w) := by simp [deliverMsg, hnone]

include hp

theorem deliverMsg_ungranted (hno : kdGranted w m.kdom (w.eng p).who = false) : deliverMsg a w l m = (2, w) := by
  simp [deliverMsg, hp, hno]

theorem deliverMsg_full (hyes : kdGranted w m.kdom (w.eng p).who = true) (hfull : 16 ≤ (w.log l).msgs.length) :
    deliverMsg a w l m = (1, w) := by simp [deliverMsg, hp, hyes, hfull]

theorem deliverMsg_joins (hyes : kdGranted w m.kdom (w.eng p).who = true) (hroom : (w.log l).msgs.length < 16) :
    deliverMsg a w l m = (0, (w.modLog l (fun q => { q with msgs := q.msgs ++ [m] })).raiseIrq p 7) := by
  simp [deliverMsg, hp, hyes, Nat.not_le.mpr hroom]

end Deliver

section Receive

variable {l : Nat} (hi : Issues s e w1) (hopf : o.opf = 0#11) (hfn : o.fn = 4#12) (hpl : (w1.core e).pl ≠ 2#2)
  (hw2 : w2 = w1.modEng e.val Engine.commitAll) (hix : Usable (w1.core e) .addr (w1.core e).ix0.t)
  (hl : s.anat.logicalOf e.val = some l)
include hi hopf hfn hpl hw2 hix hl

theorem exec_mrecv_empty (hempty : (w2.log l).msgs = []) : exec (.mrecv e o) s = answered s e w2 4 0x8000000000000000#64 := by
  subst hw2
  refine seqInstr_answers hi ?_
  rw [(taskFields_does hopf hfn (.inr hpl)).bind, (getC_does s e w1).bind, (checkTag_does hix).bind, (modE_does s e w1 _).bind,
    EM.bind_ok _ (EM.read_run _ _), (get_does s e _).bind]
  simp only [hl, Option.getD_some, hempty]

theorem exec_mrecv_stores {m : Msg} {r : List Msg} {p : Piece} (hmsgs : (w2.log l).msgs = m :: r)
    (halign : (w1.core e).ix0.v.toNat % 64 = 0) (hplace : Does s e (placePiece false (w1.core e).ix0.v m.body) w2 p w3)
    (hroom : (w3.eng e.val).sbRoom ≠ 0) (hstore : Does s e (retirePieces 0 [p]) w3 () w4) :
    exec (.mrecv e o) s = answered s e (w4.modLog l (fun q => { q with msgs := r })) 4
      (packW [(36, m.node.toNat), (28, m.kdom.toNat), (16, m.src.toNat)]) := by
  subst hw2
  refine seqInstr_answers hi ?_
  rw [(taskFields_does hopf hfn (.inr hpl)).bind, (getC_does s e w1).bind, (checkTag_does hix).bind, (modE_does s e w1 _).bind,
    EM.bind_ok _ (EM.read_run _ _), (get_does s e _).bind]
  simp only [hl, Option.getD_some, hmsgs, halign, ne_eq, not_true, if_false]
  rw [hplace.bind, (getE_does s e w3).bind, if_neg hroom, hstore.bind]
  rfl

end Receive

end Tasks

/-- Settles O38: each instruction and command is the case of its checks that the hypotheses select. -/
theorem tasksAndMessages : Obligations.TasksAndMessages := by
  unfold Obligations.TasksAndMessages
  refine ⟨fun s e o w1 l hl => ⟨fun hi hopf hpl => ⟨fun hfn => ⟨?empty, ?next⟩, fun hfn hacc => ⟨?notask, ?done⟩,
    fun hfn hacc hix => ⟨?task, ?wrong, ?chan⟩⟩, ?host, fun _ _ => exec_tqCfgWrite_ok⟩, fun s e o w1 hi hopf => ?messages⟩
  case empty => exact fun hempty => exec_tnext_answers hi (tnextBody_empty hl hopf hfn hpl rfl hempty)
  case next =>
    intro r w3 hsome hctx va halign hread d
    exact ⟨fun hver => exec_tnext_answers hi (tnextBody_skips hl hopf hfn hpl rfl hsome hctx rfl halign hread hver),
      fun hver => exec_tnext_starts hi (tnextBody_starts hl hopf hfn hpl rfl hsome hctx rfl halign hread hver)⟩
  case notask => exact exec_tdone_no_task hi hl hopf hfn hpl rfl hacc
  case done => exact fun t w3 b ht hwrite => exec_tdone_ends hi hl hopf hfn hpl rfl hacc ht hwrite
  case task =>
    intro htask hcmd
    exact exec_dbell_task hi hopf hfn hpl rfl hacc hix htask (by simp [hcmd])
  case wrong =>
    intro htask hcmd
    have hrefused := exec_dbell_task hi hopf hfn hpl rfl hacc hix htask rfl
    simp only [bell_wrong_command hcmd] at hrefused
    rw [hrefused, bellEnd_refused (by split <;> decide)]
    rfl
  case chan => exact fun st w3 hchan hbell => exec_dbell_chan hi hopf hfn hpl rfl hacc hix hchan hbell
  case host =>
    intro f l t p hlive hshut hl96
    exact ⟨fun hno => exec_dbTask_live hlive hshut (taskBell_foreign hl96 hno),
      fun hyes hp hring hahead => exec_dbTask_live hlive hshut (taskBell_accepted hl96 hyes hp hring hahead)⟩
  case messages =>
    intro w2 va answer hix
    refine ⟨?send, fun hfn hpl l hl => ⟨?none, ?stores⟩⟩
    case send =>
      intro hfn hacc hspec halign t b w3 w4 htrans hread v m l hhere
      exact ⟨fun hnone => exec_msend_here hi hopf hfn rfl hix hacc hspec halign htrans hread hhere (deliverMsg_unbound hnone),
        fun p hp => ⟨
          fun hno => exec_msend_here hi hopf hfn rfl hix hacc hspec halign htrans hread hhere (deliverMsg_ungranted hp hno),
          fun hyes hfull =>
            exec_msend_here hi hopf hfn rfl hix hacc hspec halign htrans hread hhere (deliverMsg_full hp hyes hfull),
          fun hyes hroom =>
            exec_msend_here hi hopf hfn rfl hix hacc hspec halign htrans hread hhere (deliverMsg_joins hp hyes hroom)⟩⟩
    case none => exact exec_mrecv_empty hi hopf hfn hpl rfl hix hl
    case stores =>
      exact fun m r p w3 w4 hmsgs halign hplace hroom hstore =>
        exec_mrecv_stores hi hopf hfn hpl rfl hix hl hmsgs halign hplace hroom hstore

end Sys2Proof.Machine
end

section
/-!
PROOFS. Channel doorbells: their checks in order and their effects (R523 to R529).
-/

namespace Sys2Proof.Machine

/-! The checks of a doorbell (R529). -/

section Bell

variable {a : Anat} {w w1 : World} {b : Tenant} {cmd n : Nat} {v : BitVec 16}

theorem chanBell_foreign (hcmd : cmd < 5) (hno : reaches b (bellEntry w cmd n).who = false ∨ (bellEntry w cmd n).type = 4) :
    chanBell a w b false cmd n v = some (1, w) := by
  have hshut : (false || !reaches b (bellEntry w cmd n).who || decide ((bellEntry w cmd n).type = 4)) = true := by
    obtain h | h := hno <;> simp [h]
  unfold chanBell
  dsimp only
  rw [if_neg (Nat.not_le.mpr hcmd), if_pos hshut]

section Allowed

variable (hyes : reaches b (bellEntry w cmd n).who = true) (htype : (bellEntry w cmd n).type ≠ 4)
include hyes htype

theorem bell_not_foreign : ¬(false || !reaches b (bellEntry w cmd n).who || decide ((bellEntry w cmd n).type = 4)) = true := by
  simp [hyes, htype]

/-! START and RELOAD. -/

section Load

variable (hcmd : cmd = 1 ∨ cmd = 3)
include hcmd

theorem chanBell_malformed (hbad : entryOk a (bellEntry w cmd n).words = false) :
    chanBell a w b false cmd n v = some (2, w) := by
  unfold chanBell
  dsimp only
  rw [if_neg (by omega), if_neg (bell_not_foreign hyes htype), if_pos hcmd, if_pos (by simp [hbad])]

variable (hok : entryOk a (bellEntry w cmd n).words = true) (htable : tableBad a w (w.places.ctBase + 128 * n) 128 = false)
include hok htable

theorem chanBell_busy (hbusy : (cmd = 1 ∧ ((w.chan n).st = 1 ∨ (w.chan n).st = 2)) ∨ (cmd = 3 ∧ (w.chan n).st = 2)) :
    chanBell a w b false cmd n v = some (5, w) := by
  unfold chanBell
  dsimp only
  rw [if_neg (by omega), if_neg (bell_not_foreign hyes htype), if_pos hcmd, if_neg (by simp [hok, htable]), if_pos hbusy]

theorem chanBell_loads (hfree : ¬((cmd = 1 ∧ ((w.chan n).st = 1 ∨ (w.chan n).st = 2)) ∨ (cmd = 3 ∧ (w.chan n).st = 2)))
    (hsuper : dieRuns a (26 * a.super) = true) (hdie : dieRuns a (26 * (bellEntry w cmd n).die) = true)
    (hput : ccPut { w with ccache := w.ccache.map (fun p => (p.1, p.2.filter (fun x => decide (x ≠ n)))) }
      (bellEntry w cmd n).die n = some w1) :
    chanBell a w b false cmd n v = some (0, putChan w1 n (chanLoad w n (decide (cmd = 1)))) := by
  unfold chanBell
  dsimp only
  rw [if_neg (by omega), if_neg (bell_not_foreign hyes htype), if_pos hcmd, if_neg (by simp [hok, htable]), if_neg hfree,
    if_neg (by simp [hsuper, hdie])]
  rw [hput]
  rfl

end Load

/-! TAIL, STOP and DCONS. -/

theorem chanBell_disabled (hcmd : cmd = 0 ∨ cmd = 2 ∨ cmd = 4) (hst : (w.chan n).st = 0) :
    chanBell a w b false cmd n v = some (2, w) := by
  unfold chanBell
  dsimp only
  rw [if_neg (by omega), if_neg (bell_not_foreign hyes htype), if_neg (by omega), if_pos hst]

end Allowed

section Loaded

variable (hst : (w.chan n).st ≠ 0)
include hst

theorem chanBell_tail (hyes : reaches b (bellEntry w 0 n).who = true) (htype : (bellEntry w 0 n).type ≠ 4)
    (hdie : dieRuns a (26 * (bellEntry w 0 n).die) = true) (htouch : ccTouch w (bellEntry w 0 n).die n = some w1)
    (hroom : (v - (w.chan n).head).toNat ≤ ringLimit (bellEntry w 0 n).ringLog)
    (hahead : ((w.chan n).tail - (w.chan n).head).toNat ≤ (v - (w.chan n).head).toNat) :
    chanBell a w b false 0 n v = some (0, putChan w1 n { w.chan n with
      tail := v, st := if (w.chan n).st = 1 ∧ v ≠ (w.chan n).head then 2 else (w.chan n).st }) := by
  have hfits : ¬(ringLimit (bellEntry w 0 n).ringLog < (v - (w.chan n).head).toNat ∨
      (v - (w.chan n).head).toNat < ((w.chan n).tail - (w.chan n).head).toNat) := not_or.mpr ⟨Nat.not_lt.mpr hroom, Nat.not_lt.mpr hahead⟩
  unfold chanBell
  dsimp only
  rw [if_neg (by omega), if_neg (bell_not_foreign hyes htype), if_neg (by omega), if_neg hst, if_neg (by simp [hdie])]
  rw [if_neg hfits, htouch]
  rfl

theorem chanBell_stop (hyes : reaches b (bellEntry w 2 n).who = true) (htype : (bellEntry w 2 n).type ≠ 4)
    (hdie : dieRuns a (26 * (bellEntry w 2 n).die) = true) (htouch : ccTouch w (bellEntry w 2 n).die n = some w1)
    (hstop : (w.chan n).st ≠ 3) (hres : (w.chan n).res = none) :
    chanBell a w b false 2 n v = some (0, putChan (clearUbuf w1 n) n { w.chan n with st := 3, staged := none }) := by
  unfold chanBell
  dsimp only
  rw [if_neg (by omega), if_neg (bell_not_foreign hyes htype), if_neg (by omega), if_neg hst, if_neg (by simp [hdie])]
  rw [if_neg hstop, htouch, hres]
  rfl

theorem chanBell_dcons (hyes : reaches b (bellEntry w 4 n).who = true) (htype : (bellEntry w 4 n).type ≠ 4)
    (hdie : dieRuns a (26 * (bellEntry w 4 n).die) = true) (htouch : ccTouch w (bellEntry w 4 n).die n = some w1)
    (hroom : (v - (w.chan n).dcons).toNat ≤ ((w.chan n).dprod - (w.chan n).dcons).toNat) :
    chanBell a w b false 4 n v = some (0, ctStore (w1.setChan n { w.chan n with dcons := v }) n 7
      (packW [(48, (w.chan n).dprod.toNat), (32, v.toNat)])) := by
  unfold chanBell
  dsimp only
  rw [if_neg (by omega), if_neg (bell_not_foreign hyes htype), if_neg (by omega), if_neg hst, if_neg (by simp [hdie])]
  rw [if_neg (Nat.not_lt.mpr hroom), htouch]
  rfl

end Loaded

end Bell

/-! A doorbell that reaches a live page. -/

section Page

variable {a : Anat} {w : World} {f cmd n : Nat} {v : BitVec 16} (hlive : fnLive w f = true)
include hlive

theorem dbChan_locked (hf : f = 0) (hcmd : cmd = 1 ∨ cmd = 2 ∨ cmd = 3) (hlock : tdiLocked w (bellEntry w cmd n).who = true) :
    dbChan a w f cmd n v = w.countReg 0x2E120 1 := by
  rw [dbChan, hlive, if_neg (by decide), if_pos ⟨hf, hcmd, hlock⟩]

theorem dbChan_rings (hshut : tdiShut w f = false)
    (hopen : f = 0 → cmd = 0 ∨ cmd = 4 ∨ tdiLocked w (bellEntry w cmd n).who = false) {st : Nat} {w1 : World}
    (hbell : chanBell a w (pageTenant f) false cmd n v = some (st, w1)) :
    dbChan a w f cmd n v = if st = 0 then w1 else dbRefuse w1 f st 0 n := by
  have hnot : ¬(f = 0 ∧ (cmd = 1 ∨ cmd = 2 ∨ cmd = 3) ∧ tdiLocked w (bellEntry w cmd n).who = true) := by
    rintro ⟨hf, hcmd, hlock⟩
    obtain h | h | h := hopen hf
    · omega
    · omega
    · simp [h] at hlock
  simp only [dbChan, hlive, Bool.not_true, Bool.false_eq_true, if_false, hnot, dbChanIn, hshut, hbell]
  rfl

end Page

/-- The five commands are one doorbell with their number. -/
theorem exec_chan_bell {s : State} {f : Fin 65} {ch : BitVec 12} {v : BitVec 16} {p : Instr × Nat × BitVec 16}
    (hp : p ∈ ([(Instr.tail f ch v, 0, v), (Instr.start f ch, 1, 0#16), (Instr.stop f ch, 2, 0#16), (Instr.reload f ch, 3, 0#16),
      (Instr.dcons f ch v, 4, v)] : List (Instr × Nat × BitVec 16))) :
    exec p.1 s = toWorld s (dbChan s.anat s.w f.val p.2.1 ch.toNat p.2.2) := by
  simp only [List.mem_cons, List.not_mem_nil, or_false] at hp
  obtain rfl | rfl | rfl | rfl | rfl := hp
  all_goals rfl

/-- Settles O39: each doorbell is the case of its checks that the hypotheses select. -/
theorem channelDoorbells : Obligations.ChannelDoorbells := by
  unfold Obligations.ChannelDoorbells
  intro s f ch v hlive hshut
  refine ⟨fun p hp => ⟨fun st w1 hopen hbell => ?rings, fun hf hcmd hlock => ?locked⟩, fun cmd hcmd => ⟨chanBell_foreign hcmd, ?allowed⟩⟩
  case rings =>
    rw [exec_chan_bell hp, dbChan_rings hlive hshut hopen hbell]
    rfl
  case locked => rw [exec_chan_bell hp, dbChan_locked hlive hf hcmd hlock]
  case allowed =>
    intro hyes htype
    refine ⟨chanBell_malformed hyes htype, fun hload hok htable => ⟨chanBell_busy hyes htype hload hok htable,
      fun hfree hsuper hdie w1 => chanBell_loads hyes htype hload hok htable hfree hsuper hdie⟩, chanBell_disabled hyes htype,
      fun hst hdie w1 htouch => ⟨?_, ?_, ?_⟩⟩
    · rintro rfl
      exact chanBell_tail hst hyes htype hdie htouch
    · rintro rfl
      exact chanBell_stop hst hyes htype hdie htouch
    · rintro rfl
      exact chanBell_dcons hst hyes htype hdie htouch

end Sys2Proof.Machine
end

section
/-!
PROOFS. COPY, EGRESS and INGEST descriptors are performed and completed (R524, R530 to R541).
-/

namespace Sys2Proof.Machine

/-! What a descriptor's program leaves. -/

section Run

variable {s : State} {n : Nat} {c : Chan} {w1 : World}

/-- A descriptor whose command runs its program ends with what the program answers. -/
theorem runDesc_ends {act : UM ChanRes} {i : Instr} (hexec : exec i s = toWorld s (runDesc s.anat s.w n c act)) :
    let x := runUnit (chanEnv s.anat n c) act s.w
    (∀ r : ChanRes, x = (some (.ok r), w1) → exec i s = toWorld s (w1.setChan n { c with res := some r })) ∧
    (∀ g : UFault, x = (some (.error g), w1) → exec i s = toWorld s (w1.setChan n { c with res := some (resFail g 0) })) ∧
    (x = (none, w1) → exec i s = toWorld s w1) := by
  rw [hexec, runDesc]
  refine ⟨fun r hr => ?_, fun g hg => ?_, fun hnone => ?_⟩
  · rw [hr]
  · rw [hg]
  · rw [hnone]

theorem exec_copyDescriptor_ready {ch : BitVec 12} (h : chanReady s.anat s.w ch.toNat 1 = some c) :
    exec (.copyDescriptor ch) s = toWorld s (runDesc s.anat s.w ch.toNat c (copyBody c)) := by
  show execCopyDescriptor ch s = _
  rw [execCopyDescriptor, h]

theorem exec_egressDescriptor_ready {ch : BitVec 12} (h : chanReady s.anat s.w ch.toNat 3 = some c) :
    exec (.egressDescriptor ch) s = toWorld s (runDesc s.anat s.w ch.toNat c (egressBody c)) := by
  show execEgressDescriptor ch s = _
  rw [execEgressDescriptor, h]

section Ingest

variable {ch : BitVec 12} (h : chanReady s.anat s.w ch.toNat 2 = some c)
include h

theorem exec_ingestDescriptor_staged {g : Staged}
    (hrun : runUnit (chanEnv s.anat ch.toNat c) (ingestBody c) s.w = (some (.ok (.ok g)), w1)) :
    exec (.ingestDescriptor ch) s = toWorld s (w1.setChan ch.toNat { c with staged := some g }) := by
  show execIngestDescriptor ch s = _
  simp only [execIngestDescriptor, h, hrun]

theorem exec_ingestDescriptor_ends {r : ChanRes}
    (hrun : runUnit (chanEnv s.anat ch.toNat c) (ingestBody c) s.w = (some (.ok (.error r)), w1)) :
    exec (.ingestDescriptor ch) s = toWorld s (w1.setChan ch.toNat { c with res := some r }) := by
  show execIngestDescriptor ch s = _
  simp only [execIngestDescriptor, h, hrun]

end Ingest

/-- A chunk without a fingerprint goes to its buffer when the destination ring has room. -/
theorem exec_ingestDestTake_room {ch : BitVec 12} {g : Staged} (hc : s.w.chan ch.toNat = c) (hstaged : c.staged = some g)
    (hres : c.res = none) (hst : c.st = 2) (hruns : unitRuns s.anat s.w c.die = true)
    (hroom : (c.dprod - c.dcons).toNat < ringLimit c.dringLog) (hfp : g.fp = false) :
    exec (.ingestDestTake ch) s = toWorld s (runDesc s.anat s.w ch.toNat c (destBody c g)) := by
  have htake : (c.res.isSome || decide (c.st ≠ 2) || !unitRuns s.anat s.w c.die ||
      decide (ringLimit c.dringLog ≤ (c.dprod - c.dcons).toNat)) = false := by
    simp only [hres, hst, hruns, decide_eq_false (Nat.not_le.mpr hroom)]
    rfl
  show execIngestDestTake ch s = _
  simp only [execIngestDestTake, hc, hstaged, htake, hfp, Bool.false_and, Bool.false_eq_true, if_false]

end Run

/-! Completion (R524, R530 to R532). -/

section Complete

variable {s : State} {ch : BitVec 12} {r : ChanRes} (hres : (s.w.chan ch.toNat).res = some r)
  (hruns : unitRuns s.anat s.w (s.w.chan ch.toNat).die = true)
include hres hruns

theorem exec_descriptorCompletion_steps : exec (.descriptorCompletion ch) s =
    toWorld s (endSteps s.anat ch.toNat (s.w.chan ch.toNat) 4 r s.w) := by
  show execDescriptorCompletion ch s = _
  simp only [execDescriptorCompletion, hres, hruns, if_true]

theorem exec_descriptorCompletion_waits (hwrites : unitWrites s.w ch.toNat = true) :
    exec (.descriptorCompletion ch) s = toWorld s (s.w.setChan ch.toNat { s.w.chan ch.toNat with res := some r }) := by
  rw [exec_descriptorCompletion_steps hres hruns, endSteps, if_pos hwrites]

theorem exec_descriptorCompletion_ends (hwrites : unitWrites s.w ch.toNat = false) (hphase : r.phase = 2)
    (hlate : (s.w.ubuf ch.toNat).werr = none) :
    exec (.descriptorCompletion ch) s = toWorld s (endDesc s.anat s.w ch.toNat (s.w.chan ch.toNat) r) := by
  have hkept : lateRes s.w ch.toNat r = (r, s.w) := by rw [lateRes, hlate]
  rw [exec_descriptorCompletion_steps hres hruns, endSteps, if_neg (by simp [hwrites])]
  simp only [hkept, hphase]
  rfl

end Complete

/-- A descriptor without notification and destination entry only moves HEAD, keeps its status and sets STATE. -/
theorem endDesc_quiet {a : Anat} {w : World} {n : Nat} {c : Chan} {r : ChanRes} (hmsix : bit (c.word 0) 8 = false)
    (hirq : bit (c.word 0) 9 = false) (hentry : r.entry = none) :
    endDesc a w n c r = putChan (endCount (clearUbuf w n) c r) n { c with
      head := c.head + 1#16, clap := if c.head + 1#16 = 0#16 then !c.clap else c.clap, last := r.status, staged := none, res := none
      st := if c.st = 3 ∨ stops r.status = true then 3 else if c.head + 1#16 = c.tail then 1 else 2 } := by
  simp only [endDesc, hmsix, hirq, hentry, Option.isSome_none, Bool.and_false, Bool.false_eq_true, if_false, if_true, Bool.not_not]

/-- Settles O40: each command runs its descriptor's program, or ends the descriptor, as the hypotheses select. -/
theorem descriptors : Obligations.Descriptors := by
  unfold Obligations.Descriptors
  refine ⟨fun s ch c w1 => ⟨fun hready => runDesc_ends (exec_copyDescriptor_ready hready),
    fun hready => runDesc_ends (exec_egressDescriptor_ready hready),
    fun hready => ⟨fun _ => exec_ingestDescriptor_staged hready, fun _ => exec_ingestDescriptor_ends hready⟩,
    fun g hc hstaged hres hst hruns hroom hfp =>
      runDesc_ends (exec_ingestDestTake_room hc hstaged hres hst hruns hroom hfp)⟩,
    fun s ch r hres hruns => ⟨exec_descriptorCompletion_waits hres hruns, fun hwrites hphase hlate =>
      ⟨exec_descriptorCompletion_ends hres hruns hwrites hphase hlate, fun hmsix hirq hentry => endDesc_quiet hmsix hirq hentry⟩⟩⟩

end Sys2Proof.Machine
end

section
/-!
PROOFS. The host's link and functions: training, loss, resets, configuration, unmasking and failed streams (R553, R555, R562,
R568, R569).
-/

namespace Sys2Proof.Machine

section HostFunctions

variable {s : State}

/-! The link (R553, R569). -/

theorem toNat_decide (p : Prop) [Decidable p] : (decide p).toNat = if p then 1 else 0 := by
  split
  case isTrue h => simp [h]
  case isFalse h => simp [h]

theorem exec_linkUp_trains {sp : BitVec 3} {wd : BitVec 5} (hruns : pcieRuns s.anat s.w = true)
    (hperst : s.w.host.perstHigh = true) (hdown : s.w.pcieUp = false) (hsp : sp = 1#3 ∨ 5#3 ≤ sp) :
    exec (.linkUp sp wd) s = toWorld s ({ s.w with pcieUp := true }.setReg 0x2E000
      (packW [(8, wd.toNat), (4, if sp < 5#3 ∨ wd < 4#5 then 1 else 0), (3, if 6#3 ≤ sp then 1 else 0), (0, sp.toNat)])) := by
  have hrate : (decide (sp.toNat = 1) || decide (5 ≤ sp.toNat)) = true := by
    obtain rfl | h := hsp
    · rfl
    · simpa using .inr (BitVec.le_def.mp h)
  have hdegraded : (decide (sp.toNat < 5) || decide (wd.toNat < 4)).toNat = if sp < 5#3 ∨ wd < 4#5 then 1 else 0 := by
    rw [← Bool.decide_or, toNat_decide]
    rfl
  have hflit : (decide (6 ≤ sp.toNat)).toNat = if 6#3 ≤ sp then 1 else 0 := toNat_decide _
  show execLinkUp sp wd s = _
  simp only [execLinkUp, hruns, hperst, hdown, hrate, Bool.not_true, Bool.or_false, Bool.false_eq_true, if_false, hdegraded, hflit]

theorem linkDown_up {w : World} (hup : w.pcieUp = true) : linkDown w =
    hifEvent ((((mbReset { w with
      pcieUp := false, host := { w.host with fns := [], vfEn := false, bar2Log := 30, ide := [] } }).setReg 0x2E000 0#64).clearRegs
        0x2C000 0x400).countReg 0x2E118 1) 0 := by
  rw [linkDown, hup]
  rfl

theorem exec_linkDown_up {b : Bool} (hup : s.w.pcieUp = true) :
    let w := s.w
    let u := hifEvent ((((mbReset { w with
      pcieUp := false, host := { w.host with fns := [], vfEn := false, bar2Log := 30, ide := [] } }).setReg 0x2E000 0#64).clearRegs
        0x2C000 0x400).countReg 0x2E118 1) 0
    exec (.linkDown b) s = toWorld s (if b then { u with host := { u.host with perstHigh := false } } else u) := by
  intro w u
  show execLinkDown b s = _
  rw [execLinkDown, linkDown_up hup]

/-! Function-level resets (R569). -/

theorem exec_vfFlr_resets {v : Fin 64} (hpresent : fnPresent s.w (1 + v.val) = true) (hflr : (s.w.fn (1 + v.val)).flr = false) :
    exec (.vfFlr v) s = toWorld s (vfReset s.w v.val) := by
  show execVfFlr v s = _
  simp only [execVfFlr, hpresent, hflr, Bool.not_false, Bool.and_true, if_true]

theorem exec_pfFlr_resets (hup : s.w.pcieUp = true) (hflr : (s.w.fn 0).flr = false) :
    let u := (((mbReset (stopOwners s.w (fun t => t.oper))).clearRegs 0x20000 0x1000).clearRegs 0x2C000 0x20).modFn 0 (fun x =>
      { x with msixEn := false, busMaster := false, flr := true })
    exec .pfFlr s = toWorld s (hifEvent ((List.range 64).foldl vfReset { u with host := { u.host with vfEn := false } }) 1) := by
  intro u
  show execPfFlr s = _
  simp only [execPfFlr, hup, hflr, Bool.not_true, Bool.or_false, Bool.false_eq_true, if_false]
  rfl

/-! Configuration requests (R555, R562, R696). -/

/-- The module once a configuration request of a function that is present has been applied. -/
def configured (w : World) (f : Nat) : CfgReq → World
  | .msixEnable b => w.modFn f (fun x => { x with msixEn := b })
  | .busMaster b => w.modFn f (fun x => { x with busMaster := b })
  | .vfEnable b => if f = 0 then { w with host := { w.host with vfEn := b } } else w
  | .bar2Size n => if f = 0 ∧ 30 ≤ n.toNat ∧ n.toNat ≤ 40 then { w with host := { w.host with bar2Log := n.toNat } } else w

section Configuration

variable {f : Fin 65} (hup : s.w.pcieUp = true)
include hup

theorem exec_configurationRequest_retry (r : CfgReq) (hbusy : (s.w.fn f.val).flr = true ∨ s.w.dict.up = false) :
    exec (.configurationRequest f r) s = toWorld s (s.w.emit (.cpl 4 [])) := by
  have h : ((s.w.fn f.val).flr || !s.w.dict.up) = true := by
    obtain h | h := hbusy <;> simp [h]
  show execConfigurationRequest f r s = _
  simp only [execConfigurationRequest, hup, h, Bool.not_true, Bool.false_eq_true, if_false, if_true]

variable (hflr : (s.w.fn f.val).flr = false) (hdict : s.w.dict.up = true)
include hflr hdict

theorem exec_configurationRequest_absent (r : CfgReq) (habsent : fnPresent s.w f.val = false) :
    exec (.configurationRequest f r) s = toWorld s (s.w.emit (.cpl 3 [])) := by
  show execConfigurationRequest f r s = _
  simp only [execConfigurationRequest, hup, hflr, hdict, habsent, Bool.not_true, Bool.or_false, Bool.not_false, Bool.false_eq_true,
    if_false, if_true]

variable (hpresent : fnPresent s.w f.val = true)
include hpresent

theorem exec_configurationRequest_applied (r : CfgReq) :
    exec (.configurationRequest f r) s = toWorld s ((configured s.w f.val r).emit (.cpl 0 [])) := by
  refine congrArg (toWorld s) ((if_neg (by simp [hup])).trans ((if_neg (by simp [hflr, hdict])).trans
    ((if_neg (by simp [hpresent])).trans ?_)))
  cases r with
  | msixEnable b | busMaster b | vfEnable b | bar2Size k => rfl

theorem exec_configurationRequest_msix (b : Bool) : exec (.configurationRequest f (.msixEnable b)) s =
    toWorld s ((s.w.modFn f.val (fun x => { x with msixEn := b })).emit (.cpl 0 [])) := by
  rw [exec_configurationRequest_applied hup hflr hdict hpresent]
  rfl

theorem exec_configurationRequest_busMaster (b : Bool) : exec (.configurationRequest f (.busMaster b)) s =
    toWorld s ((s.w.modFn f.val (fun x => { x with busMaster := b })).emit (.cpl 0 [])) := by
  rw [exec_configurationRequest_applied hup hflr hdict hpresent]
  rfl

theorem exec_configurationRequest_vfEnable (b : Bool) (hf : f.val = 0) : exec (.configurationRequest f (.vfEnable b)) s =
    toWorld s ({ s.w with host := { s.w.host with vfEn := b } }.emit (.cpl 0 [])) := by
  rw [exec_configurationRequest_applied hup hflr hdict hpresent]
  exact congrArg (fun u : World => toWorld s (u.emit (.cpl 0 []))) (if_pos hf)

theorem exec_configurationRequest_bar2Size (k : BitVec 6) (hf : f.val = 0) (hlo : 30 ≤ k.toNat) (hhi : k.toNat ≤ 40) :
    exec (.configurationRequest f (.bar2Size k)) s =
      toWorld s ({ s.w with host := { s.w.host with bar2Log := k.toNat } }.emit (.cpl 0 [])) := by
  rw [exec_configurationRequest_applied hup hflr hdict hpresent]
  exact congrArg (fun u : World => toWorld s (u.emit (.cpl 0 []))) (if_pos ⟨hf, hlo, hhi⟩)

end Configuration

/-! Failed streams (R568) and unmasking (R562). -/

theorem exec_ideErr_keyed {i : Fin 5} (hup : s.w.pcieUp = true) (hi : i.val ∈ s.w.host.ide) :
    exec (.ideErr i) s =
      toWorld s ((((List.range 64).map (fun k => k + 1)).filter (fun f => decide ((s.w.fn f).tdiStream = some i.val) &&
        (decide ((s.w.fn f).tdi = 1) || decide ((s.w.fn f).tdi = 2)))).foldl tdiError (hifEvent s.w 4)) := by
  show execIdeErr i s = _
  rw [execIdeErr, hup, List.contains_iff_mem.mpr hi]
  rfl

theorem exec_msixUnmask_present {f : Fin 65} {v : Byte} (hpresent : fnPresent s.w f.val = true)
    (hlive : hifDegraded s.w = false) (hv : v.toNat < msixCount f.val) :
    exec (.msixUnmask f v) s = toWorld s (msixUnmask s.w f.val v.toNat) := by
  show execMsixUnmask f v s = _
  rw [execMsixUnmask, hpresent, hlive, decide_eq_true hv]
  rfl

theorem msixUnmask_quiet {w : World} {f v : Nat} :
    let p := msixPba f v
    let u := w.setReg (msixEntry f v + 8) (setBit (w.reg (msixEntry f v + 8) 0x100000000#64) 32 false)
    (bit (u.reg p 0#64) (v % 64) = false ∨ (w.fn f).msixEn = false ∨ (w.fn f).busMaster = false) → msixUnmask w f v = u := by
  intro p u hquiet
  refine if_neg ?_
  show ¬(bit (u.reg p 0#64) (v % 64) && (w.fn f).msixEn && (w.fn f).busMaster && fnPresent u f) = true
  obtain h | h | h := hquiet <;> simp [h]

theorem msixUnmask_sends {w : World} {f v : Nat} (hpresent : fnPresent w f = true) :
    let p := msixPba f v
    let u := w.setReg (msixEntry f v + 8) (setBit (w.reg (msixEntry f v + 8) 0x100000000#64) 32 false)
    bit (u.reg p 0#64) (v % 64) = true → (w.fn f).msixEn = true → (w.fn f).busMaster = true →
      msixUnmask w f v = (u.setReg p (setBit (u.reg p 0#64) (v % 64) false)).emit (.msix f v) := by
  intro p u hpend hen hbus
  have hsends : (bit (u.reg p 0#64) (v % 64) && (w.fn f).msixEn && (w.fn f).busMaster && fnPresent w f) = true := by
    simp [hpend, hen, hbus, hpresent]
  exact if_pos hsends

end HostFunctions

/-- Settles O49: each command is the case of the link and the function that the hypotheses select. -/
theorem hostFunctions : Obligations.HostFunctions := by
  unfold Obligations.HostFunctions
  intro s
  refine ⟨fun sp wd => exec_linkUp_trains, fun b => exec_linkDown_up, fun v => exec_vfFlr_resets, exec_pfFlr_resets, fun _ => rfl,
    fun f r hup => ⟨exec_configurationRequest_retry hup r, fun hflr hdict => exec_configurationRequest_absent hup hflr hdict r,
      fun hflr hdict hpresent => ⟨?_, ?_, ?_, ?_⟩⟩, fun i => exec_ideErr_keyed, fun f v hpresent hlive hv => ?unmask⟩
  · rintro b rfl
    exact exec_configurationRequest_msix hup hflr hdict hpresent b
  · rintro b rfl
    exact exec_configurationRequest_busMaster hup hflr hdict hpresent b
  · rintro b rfl
    exact exec_configurationRequest_vfEnable hup hflr hdict hpresent b
  · rintro k rfl
    exact exec_configurationRequest_bar2Size hup hflr hdict hpresent k
  case unmask =>
    rw [exec_msixUnmask_present hpresent hlive hv]
    exact ⟨fun hquiet => congrArg (toWorld s) (msixUnmask_quiet hquiet),
      fun hpend hen hbus => congrArg (toWorld s) (msixUnmask_sends hpresent hpend hen hbus)⟩

end Sys2Proof.Machine
end

section
/-!
PROOFS. SPDM requests in the order of the protocol, and what a session carries (R564 to R568, R595, R596).
-/

namespace Sys2Proof.Machine

section Spdm

variable {s : State} {f : Fin 65}

/-! One request of the connection (R564, R565). -/

section Step

variable {n : Nat} (hup : spdmUp s.w n = true) {p : HostFn → Bool} {good : Bool} {g : HostFn → HostFn}
include hup

theorem spdmStep_unexpected (hp : p (s.w.fn n) = false) : spdmStep s n p good g = toWorld s (spdmAnswer s.w n 4) := by
  refine congrArg (toWorld s) ((if_neg (by simp [hup])).trans (if_pos (by simp [hp])))

variable (hp : p (s.w.fn n) = true)
include hp

theorem spdmStep_bad (hgood : good = false) : spdmStep s n p good g = toWorld s (spdmAnswer s.w n 1) := by
  refine congrArg (toWorld s) ((if_neg (by simp [hup])).trans ((if_neg (by simp [hp])).trans (if_pos (by simp [hgood]))))

theorem spdmStep_good (hgood : good = true) : spdmStep s n p good g = toWorld s (spdmAnswer (s.w.modFn n g) n 0) := by
  refine congrArg (toWorld s) ((if_neg (by simp [hup])).trans ((if_neg (by simp [hp])).trans (if_neg (by simp [hgood]))))

theorem spdmStep_ite {c : Prop} [Decidable c] (hc : good = true ↔ c) : spdmStep s n p good g =
    if c then toWorld s (spdmAnswer (s.w.modFn n g) n 0) else toWorld s (spdmAnswer s.w n 1) := by
  split
  case isTrue h => exact spdmStep_good hup hp (hc.mpr h)
  case isFalse h => exact spdmStep_bad hup hp (Bool.not_eq_true _ ▸ fun hg => h (hc.mp hg))

end Step

/-- A request that needs a connection whose algorithms are negotiated is unexpected before. -/
theorem exec_before_negotiated (hup : spdmUp s.w f.val = true) (hspdm : (s.w.fn f.val).spdm ≠ 3) {i k : BitVec 4} {m : Byte} {g : Bool} :
    ∀ c ∈ ([.getDigests f, .getCertificate f i, .challenge f k, .getMeasurements f m, .keyExchange f g] : List Instr),
      exec c s = toWorld s (spdmAnswer s.w f.val 4) := by
  intro c hc
  simp only [List.mem_cons, List.not_mem_nil, or_false] at hc
  obtain rfl | rfl | rfl | rfl | rfl := hc
  · show execGetDigests f s = _
    exact spdmStep_unexpected hup (by simp [hspdm])
  · show execGetCertificate f i s = _
    exact spdmStep_unexpected hup (by simp [hspdm])
  · show execChallenge f k s = _
    exact spdmStep_unexpected hup (by simp [hspdm])
  · show execGetMeasurements f m s = _
    exact spdmStep_unexpected hup (by simp [hspdm])
  · show execKeyExchange f g s = _
    exact spdmStep_unexpected hup (by simp [hspdm])

/-! The physical function's session (R566). -/

theorem endSession_sess (w : World) (n : Nat) : ((endSession w n).fn n).sess = 0 := by
  have hmod : sget (w.modFn n (fun x => { x with sess := 0, keyUpd := 0 })).host.fns n =
      some { w.fn n with sess := 0, keyUpd := 0 } := sget_sset_same _ _ _
  unfold endSession
  dsimp only
  split
  · refine (congrArg (fun o : Option HostFn => (o.getD HostFn.reset).sess)
      (sget_map_pair _ (fun _ (x : HostFn) => ({ x with tdi := 0, tdiStream := none } : HostFn)) n)).trans ?_
    rw [hmod]
    rfl
  · rw [World.fn, sgetD, hmod]
    rfl

theorem endSession_ide {w : World} (hsess : (w.fn 0).sess = 2) : (endSession w 0).host.ide = [] := by
  rw [endSession, if_pos ⟨rfl, hsess⟩]

theorem exec_finish_ends {good : Bool} (hup : spdmUp s.w f.val = true) (hsess : (s.w.fn f.val).sess = 1) :
    exec (.finish f good) s = toWorld s (if good
      then spdmAnswer (s.w.modFn f.val (fun y => { y with sess := 2 })) f.val 0
      else spdmAnswer (s.w.modFn f.val (fun y => { y with sess := 0 })) f.val 1) :=
  congrArg (toWorld s) ((if_neg (by simp [hup])).trans (if_neg (by simp [hsess])))

theorem exec_endSession_without (hup : spdmUp s.w f.val = true) (hsess : (s.w.fn f.val).sess ≠ 2) :
    exec (.endSession f) s = toWorld s (spdmAnswer s.w f.val 4) :=
  congrArg (toWorld s) ((if_neg (by simp [hup])).trans (if_pos hsess))

theorem exec_endSession_ends (hup : spdmUp s.w f.val = true) (hsess : (s.w.fn f.val).sess = 2) :
    exec (.endSession f) s = toWorld s (spdmAnswer (endSession s.w f.val) f.val 0) :=
  congrArg (toWorld s) ((if_neg (by simp [hup])).trans (if_neg (by simp [hsess])))

/-! Import keys (R567, R596). -/

section ImportKey

variable {v : Fin 64} {k : Byte} (hup : spdmUp s.w (1 + v.val) = true) (hsess : (s.w.fn (1 + v.val)).sess = 2)
include hup hsess

theorem exec_setImportKey_malformed : exec (.setImportKey v k false) s = toWorld s (spdmAnswer s.w (1 + v.val) 2) :=
  congrArg (toWorld s) ((if_neg (by simp [hup])).trans ((if_neg (by simp [hsess])).trans (if_pos rfl)))

theorem exec_setImportKey_unlocked (hunlocked : s.w.host.unlocked = true) :
    exec (.setImportKey v k true) s = toWorld s (spdmAnswer s.w (1 + v.val) 1) :=
  congrArg (toWorld s) ((if_neg (by simp [hup])).trans ((if_neg (by simp [hsess])).trans
    ((if_neg (by decide)).trans (if_pos (by simp [hunlocked])))))

theorem exec_setImportKey_sets (hlocked : s.w.host.unlocked = false) (hk : k ≠ 0#8) (htenant : bit (kdtWord s.w k 0) 8 = false)
    (howner : fld (kdtWord s.w k 0) 16 6 = v.val) (hvalid : fld (kdtWord s.w k 0) 0 4 = 1)
    (hactive : (s.w.ks.get k.toNat).state = 1) :
    exec (.setImportKey v k true) s = toWorld s (spdmAnswer ({ s.w with freeCtr := s.w.freeCtr + 1 }.setDom k.toNat
      { s.w.ks.get k.toNat with imp := some (Config.free s.w.freeCtr % 2 ^ 256), lastCtr := some 0#64 }) (1 + v.val) 0) :=
  congrArg (toWorld s) ((if_neg (by simp [hup])).trans ((if_neg (by simp [hsess])).trans
    ((if_neg (by decide)).trans (if_neg (by simp [hlocked, hk, htenant, howner, hvalid, hactive])))))

end ImportKey

/-! Stream keys, interface locks and the debug unlock, for the physical function (R568, R595). -/

section Physical

variable (hup : spdmUp s.w 0 = true) (hsess : (s.w.fn 0).sess = 2)
include hup hsess

theorem exec_ideKm_set {i : Fin 5} {b : Bool} :
    let l := s.w.host.ide.filter (fun y => y ≠ i.val)
    exec (.ideKm i b) s = toWorld s (spdmAnswer { s.w with host := { s.w.host with ide := if b then i.val :: l else l } } 0 0) :=
  congrArg (toWorld s) ((if_neg (by simp [hup])).trans (if_neg (by simp [hsess])))

/-- A TDISP request changes the interface, or is refused. -/
def tdispGo (s : State) (v : Fin 64) (t : Nat) (st : Option Nat) : Res :=
  toWorld s (spdmAnswer (s.w.modFn (1 + v.val) (fun z => { z with tdi := t, tdiStream := st })) 0 0)

theorem exec_tdisp_lock {v : Fin 64} {i : Fin 5} : exec (.tdisp v (.lock i)) s =
    if (s.w.fn (1 + v.val)).tdi = 0 ∧ 1 ≤ i.val ∧ i.val ∈ s.w.host.ide then tdispGo s v 1 (some i.val)
    else toWorld s (spdmAnswer s.w 0 1) := by
  refine (congrArg (toWorld s) ((if_neg (by simp [hup])).trans (if_neg (by simp [hsess])))).trans ?_
  simp only [List.contains_iff_mem, tdispGo, apply_ite (toWorld s)]

theorem exec_tdisp_start {v : Fin 64} : exec (.tdisp v .start) s =
    if (s.w.fn (1 + v.val)).tdi = 1 then tdispGo s v 2 (s.w.fn (1 + v.val)).tdiStream else toWorld s (spdmAnswer s.w 0 1) := by
  refine (congrArg (toWorld s) ((if_neg (by simp [hup])).trans (if_neg (by simp [hsess])))).trans ?_
  simp only [tdispGo, apply_ite (toWorld s)]

theorem exec_tdisp_stop {v : Fin 64} : exec (.tdisp v .stop) s = tdispGo s v 0 none :=
  congrArg (toWorld s) ((if_neg (by simp [hup])).trans (if_neg (by simp [hsess])))

theorem exec_debugUnlock_refused {good : Bool} (hno : good = false ∨ s.anat.part ≠ .d48) :
    exec (.debugUnlock good) s = toWorld s (spdmAnswer s.w 0 1) :=
  congrArg (toWorld s) ((if_neg (by simp [hup])).trans ((if_neg (by simp [hsess])).trans (if_pos (by simpa using hno))))

theorem exec_debugUnlock_good (hpart : s.anat.part = .d48) :
    let u := endSessions (spdmAnswer (((List.range 255).map (fun i => i + 1)).foldl unlockErase s.w) 0 0)
    exec (.debugUnlock true) s = toWorld s { u with host := { u.host with unlocked := true, aliasKey := u.host.aliasKey + 1 } } :=
  congrArg (toWorld s) ((if_neg (by simp [hup])).trans ((if_neg (by simp [hsess])).trans (if_neg (by simp [hpart]))))

end Physical

end Spdm

/-- Settles O50: each request is the case of the connection and the session that the hypotheses select. -/
theorem secureSessions : Obligations.SecureSessions := by
  unfold Obligations.SecureSessions
  intro s f
  dsimp only
  intro hup
  refine ⟨?version, fun hspdm => ?capabilities, fun hspdm => ⟨?agreed, ?refused⟩, fun i k m g hspdm => exec_before_negotiated hup hspdm,
    fun hspdm => ⟨?digests, ?certificate, ?challenge, ?measurements, fun hsess => ?exchange⟩,
    fun hsess => ⟨exec_finish_ends hup hsess, exec_finish_ends hup hsess⟩,
    fun hsess => ⟨exec_endSession_without hup hsess, ?noUpdate, ?noBeat⟩,
    fun hsess => ⟨exec_endSession_ends hup hsess, endSession_sess s.w f.val, ?ide, ?update, ?beat, ?imports, ?physical⟩⟩
  case version =>
    show execGetVersion f s = _
    exact spdmStep_good hup rfl rfl
  case capabilities =>
    show execGetCapabilities f s = _
    exact spdmStep_good hup (decide_eq_true hspdm) rfl
  case agreed =>
    show execNegotiateAlgorithms f true s = _
    exact spdmStep_good hup (decide_eq_true hspdm) rfl
  case refused =>
    show execNegotiateAlgorithms f false s = _
    exact spdmStep_bad hup (decide_eq_true hspdm) rfl
  case digests =>
    show execGetDigests f s = _
    exact spdmStep_good hup (decide_eq_true hspdm) rfl
  case certificate =>
    intro i
    show execGetCertificate f i s = _
    exact spdmStep_ite hup (decide_eq_true hspdm) decide_eq_true_iff
  case challenge =>
    intro i
    show execChallenge f i s = _
    exact spdmStep_ite hup (decide_eq_true hspdm) decide_eq_true_iff
  case measurements =>
    intro m
    show execGetMeasurements f m s = _
    refine spdmStep_ite hup (decide_eq_true hspdm) ?_
    rw [Bool.or_eq_true, decide_eq_true_iff, decide_eq_true_iff]
    rfl
  case exchange =>
    show execKeyExchange f true s = _
    exact spdmStep_good hup ((Bool.and_eq_true _ _).mpr ⟨decide_eq_true hspdm, decide_eq_true hsess⟩) rfl
  case noUpdate =>
    show execKeyUpdate f s = _
    exact spdmStep_unexpected hup (decide_eq_false hsess)
  case noBeat =>
    show execHeartbeat f s = _
    exact spdmStep_unexpected hup (decide_eq_false hsess)
  case ide =>
    intro hf
    exact endSession_ide (hf ▸ hsess)
  case update =>
    show execKeyUpdate f s = _
    exact spdmStep_good hup (decide_eq_true hsess) rfl
  case beat =>
    show execHeartbeat f s = _
    exact spdmStep_good hup (decide_eq_true hsess) rfl
  case imports =>
    intro v k hf
    rw [hf] at hup hsess ⊢
    exact ⟨exec_setImportKey_malformed hup hsess, exec_setImportKey_unlocked hup hsess, exec_setImportKey_sets hup hsess⟩
  case physical =>
    intro hf
    rw [hf] at hup hsess ⊢
    exact ⟨fun i => ⟨exec_ideKm_set hup hsess, exec_ideKm_set hup hsess⟩,
      fun v => ⟨fun i => exec_tdisp_lock hup hsess, exec_tdisp_start hup hsess, exec_tdisp_stop hup hsess⟩,
      fun hpart => exec_debugUnlock_refused hup hsess (.inr hpart), exec_debugUnlock_refused hup hsess (.inl rfl),
      exec_debugUnlock_good hup hsess⟩

end Sys2Proof.Machine
end

section
/-!
PROOFS. Arbitration (R571 to R584).
-/

namespace Sys2Proof.Machine

section Arbitration

variable {s : State} {i : ArbInst} {rs l : List ArbReq} {w : World} {x : Arb} {o : Nat}

/-! One cycle (R571 to R576). -/

theorem arbCycle_idle (hfree : (w.arb i).owner = none) : arbCycle w i l = (arbNew w i (w.arb i) l, w) := by
  simp only [arbCycle, hfree]

section Owned

variable (ho : (w.arb i).owner = some o)
include ho

section Moving

variable (hmoved : 0 < (w.arb i).moved)
include hmoved

theorem arbCycle_undisturbed (hhigher : arbHigher (w.arb i) l = false) (hpert : arbPertHit w i 4 = (false, w)) :
    arbCycle w i l = ((w.arb i).beat, w) := by
  simp only [arbCycle, ho, if_pos hmoved, hhigher, hpert, ite_self, Bool.and_false, Bool.or_self, Bool.false_eq_true, if_false]

theorem arbCycle_safe (hsafe : o ∈ (w.arb i).prot ∨ (w.arb i).len ≤ (w.arb i).moved + 1) :
    arbCycle w i l = ((w.arb i).beat, w) := by
  have h : ((w.arb i).prot.contains o || decide ((w.arb i).len ≤ (w.arb i).moved + 1)) = true := by simpa using hsafe
  simp only [arbCycle, ho, if_pos hmoved, h, Bool.true_or, if_true, Bool.not_true, Bool.false_and, Bool.false_eq_true, if_false]

theorem arbCycle_preempted (hpre : arbPreempts i = true) (hprot : o ∉ (w.arb i).prot)
    (hlen : (w.arb i).moved + 1 < (w.arb i).len) (hhigher : arbHigher (w.arb i) l = true) (hpert : (arbPertHit w i 4).2 = w) :
    let z := arbAbandon w i (w.arb i) o
    arbCycle w i l = (arbNew z.2 i z.1 (l.filter (fun q => (w.arb i).cls < q.cls.toNat)), z.2) := by
  have h : ((w.arb i).prot.contains o || decide ((w.arb i).len ≤ (w.arb i).moved + 1)) = false := by simp [hprot, hlen]
  simp only [arbCycle, ho, if_pos hmoved, h, hhigher, hpre, apply_ite Prod.snd, hpert, ite_self, Bool.not_false, Bool.and_self,
    Bool.true_or, if_true]

end Moving

section Boundary

variable (hmoved : (w.arb i).moved = 0)
include hmoved

theorem arbCycle_gone (hnone : reqOf l o = none) : arbCycle w i l = (arbNew w i (w.arb i) l, w) := by
  simp only [arbCycle, ho, hmoved, Nat.lt_irrefl, if_false, hnone]

variable {r : ArbReq} (hr : reqOf l o = some r) (htop : ∀ q ∈ l, q.cls.toNat ≤ r.cls.toNat)
include hr htop

omit ho hmoved hr in
theorem none_higher : ¬l.any (fun q => decide (r.cls.toNat < q.cls.toNat)) = true := by
  simpa using htop

theorem arbCycle_continues (hburst : (w.arb i).used + r.beats.toNat ≤ (w.arb i).burst) :
    arbCycle w i l = ((w.arb i).more r, w) := by
  simp only [arbCycle, ho, hmoved, Nat.lt_irrefl, if_false, hr, if_neg (none_higher htop), if_pos hburst]

theorem arbCycle_burst_ends (hburst : (w.arb i).burst < (w.arb i).used + r.beats.toNat) :
    arbCycle w i l = (arbNew w i (w.arb i) l, viaCount w (arbDie i) 2 1) := by
  simp only [arbCycle, ho, hmoved, Nat.lt_irrefl, if_false, hr, if_neg (none_higher htop),
    if_neg (Nat.not_le.mpr hburst)]

end Boundary

end Owned

/-! Presenting the requests of a cycle. -/

/-- The module once an arbiter's cycle has ended with y, in the world u: its state is stored, and a grant is shown. -/
def arbEnds (i : ArbInst) (l : List ArbReq) (y : Arb) (u : World) : World :=
  match y.owner with
  | some k => ((if decide (y.moved ≤ 1) && !l.isEmpty then (arbPertHit u i 1).2 else u).setArb i y).emit
      (.grant (arbKey i) k (turnHints (arbInputs i) y l))
  | none => (if decide (y.moved ≤ 1) && !l.isEmpty then (arbPertHit u i 1).2 else u).setArb i y

/-- Raising the losers' priorities leaves the owner. -/
theorem foldl_losers_owner (g : Arb → Nat → Arb) (hg : ∀ (z : Arb) (q : Nat), (g z q).owner = z.owner) (q : List Nat) (y : Arb) :
    (q.foldl g y).owner = y.owner := by
  induction q generalizing y with
  | nil => rfl
  | cons k q ih => rw [List.foldl_cons, ih, hg]

theorem arbRound_owner {k : Nat} (hpick : arbPick i (w.arb i) (topInputs l) = some k) : (arbRound w i l).1.owner = some k := by
  simp only [arbRound, hpick]
  rw [foldl_losers_owner]
  exact fun _ _ => rfl

section Present

variable (hruns : dieRuns s.anat (26 * arbDie i) = true) (hgated : s.w.pwr.gated = false)
include hruns hgated

theorem exec_arbGrant_cycle (hcycle : ∀ p : Fin 32, i ≠ .queues p) (hback : arbPertHit s.w i 2 = (false, s.w)) {y : Arb}
    {u : World} (hz : arbCycle s.w i (arbSane i rs) = (y, u)) :
    exec (.arbGrant i rs) s = toWorld s (arbEnds i (arbSane i rs) y u) := by
  refine congrArg (toWorld s) ((if_neg (by simp [hruns, hgated])).trans ?_)
  cases i with
  | queues p => exact absurd rfl (hcycle p)
  | router | pier | span | agent | pcie =>
    simp only [hback, ite_self, Bool.false_eq_true, if_false, hz]
    rfl

theorem exec_arbGrant_round {p : Fin 32} {k : Nat} (hi : i = .queues p) (hsome : arbSane i rs ≠ [])
    (hpick : arbPick i (s.w.arb i) (topInputs (arbSane i rs)) = some k) :
    exec (.arbGrant i rs) s = toWorld s
      (((arbRound s.w i (arbSane i rs)).2.setArb i (arbRound s.w i (arbSane i rs)).1).emit (.grant (arbKey i) k [])) := by
  have howner := arbRound_owner hpick
  subst hi
  refine congrArg (toWorld s) ((if_neg (by simp [hruns, hgated])).trans ?_)
  dsimp only
  rw [howner]
  exact if_neg (by simpa using hsome)

end Present

end Arbitration

/-! Operating points (R605 to R607). -/

section Points

variable {s : State} {d : Fin 4}

theorem exec_pwrOpReqWrite_runs (v : W64) (hruns : dieRuns s.anat (26 * d.val) = true) : exec (.pwrOpReqWrite d v) s =
    toWorld s (opSettle s.anat (s.w.setReg (pwrBase d.val + 8) (v &&& 0xF#64)) d.val) :=
  congrArg (toWorld s) (if_pos hruns)

section Step

variable {st : OpStep} (hst : (s.w.die d.val).step = some st)
include hst

theorem exec_opStepPllLocked_step : exec (.opStepPllLocked d) s =
    toWorld s (stepUrgent s.anat (s.w.modDie d.val (fun y => { y with step := some { st with locked := true } })) d.val) := by
  show execOpStepPllLocked d s = _
  simp only [execOpStepPllLocked, hst]

theorem exec_opStepCommit_ready (k : BitVec 32) (hlocked : st.locked = true) (hdone : st.done = false)
    (hstretch : (s.w.die d.val).stretch = 0) (hslew : (s.w.die d.val).slew = false) (hclk : s.w.eclk = true) :
    exec (.opStepCommit d k) s = toWorld s (opSettle s.anat (stepCommit s.anat
      (pwrCount (s.w.modDie d.val (fun y => { y with recent := false })) d.val 4 k.toNat) d.val) d.val) := by
  show execOpStepCommit d k s = _
  simp only [execOpStepCommit, hst]
  rw [if_pos (by simp [hlocked, hdone, hstretch, hslew, hclk])]

theorem exec_opStepCommit_waits (k : BitVec 32) (hwaits : st.locked = false ∨ st.done = true ∨ (s.w.die d.val).stretch ≠ 0 ∨
      (s.w.die d.val).slew = true ∨ s.w.eclk = false) : exec (.opStepCommit d k) s = toWorld s s.w := by
  show execOpStepCommit d k s = _
  simp only [execOpStepCommit, hst]
  rw [if_neg]
  obtain h | h | h | h | h := hwaits <;> simp [h]

end Step

section Slew

variable {v : World} (hv : v = s.w.modDie d.val (fun y => { y with slew := false }))
include hv

theorem exec_vengSlewDone_no_step (hst : (v.die d.val).step = none) : exec (.vengSlewDone d) s = toWorld s v := by
  subst hv
  show execVengSlewDone d s = _
  simp only [execVengSlewDone, hst]

theorem exec_vengSlewDone_step {st : OpStep} (hst : (v.die d.val).step = some st) : exec (.vengSlewDone d) s = toWorld s
    (if st.done then opSettle s.anat (pwrOpSet (v.modDie d.val (fun y => { y with step := none })) d.val 28 1 0) d.val else v) := by
  subst hv
  show execVengSlewDone d s = _
  simp only [execVengSlewDone, hst]

end Slew

/-! Droop and heat (R608, R609, R615). -/

theorem exec_droopDetect_runs (m : Byte) (hruns : dieRuns s.anat (26 * d.val) = true) (hclk : s.w.eclk = true) :
    exec (.droopDetect d m) s = toWorld s
      (pwrCount (s.w.modDie d.val (fun y => { y with stretch := max y.stretch (stretchOf m.toNat) })) d.val 0 1) :=
  congrArg (toWorld s) (if_pos (by simp [hruns, hclk]))

theorem exec_stretchEnd_stretched (k : BitVec 32) (hstretch : (s.w.die d.val).stretch ≠ 0) : exec (.stretchEnd d k) s =
    toWorld s (pwrCount (s.w.modDie d.val (fun y => { y with stretch := 0, recent := true })) d.val 1 k.toNat) :=
  congrArg (toWorld s) (if_neg hstretch)

section Escalate

variable (hstretch : (s.w.die d.val).stretch ≠ 0)
include hstretch

theorem exec_droopEscalate_slowest (hslow : opCur s.w d.val = 7 ∨ 7 ≤ fld (pwrOp s.w d.val) 16 4) :
    exec (.droopEscalate d) s = toWorld s (pwrEvent s.w 12) :=
  congrArg (toWorld s) ((if_neg hstretch).trans (if_pos hslow))

theorem exec_droopEscalate_raises (hcur : opCur s.w d.val ≠ 7) (hceil : fld (pwrOp s.w d.val) 16 4 < 7) :
    exec (.droopEscalate d) s = toWorld s (opSettle s.anat (pwrCount (pwrOpSet (s.w.modDie d.val (fun y => { y with
      urgent := true })) d.val 16 4 (fld (pwrOp s.w d.val) 16 4 + 1)) d.val 2 1) d.val) :=
  congrArg (toWorld s) ((if_neg hstretch).trans (if_neg (by omega)))

end Escalate

section Heat

variable (hruns : dieRuns s.anat (26 * d.val) = true)
include hruns

theorem exec_droopDecay_lowers (hceil : fld (pwrOp s.w d.val) 16 4 ≠ 0) : exec (.droopDecay d) s =
    toWorld s (opSettle s.anat (pwrOpSet s.w d.val 16 4 (fld (pwrOp s.w d.val) 16 4 - 1)) d.val) :=
  congrArg (toWorld s) (if_neg (by simp [hruns, hceil]))

theorem exec_throttle_hot (hhot : 950 ≤ ((s.w.reg (pwrBase d.val + 0x18) 0#64).extractLsb' 0 16).toInt) :
    exec (.throttle d) s = toWorld s
      (opSettle s.anat (pwrEvent (pwrOpSet s.w d.val 12 4 (min 7 (fld (pwrOp s.w d.val) 12 4 + 1))) 5) d.val) :=
  congrArg (toWorld s) (if_pos (by rw [hruns, decide_eq_true hhot]; rfl))

theorem exec_throttleRelease_cool (hcool : ((s.w.reg (pwrBase d.val + 0x18) 0#64).extractLsb' 0 16).toInt < 920) :
    exec (.throttleRelease d) s = toWorld s
      (opSettle s.anat (pwrOpSet s.w d.val 12 4 (fld (pwrOp s.w d.val) 12 4 - 1)) d.val) :=
  congrArg (toWorld s) (if_pos (by rw [hruns, decide_eq_true hcool]; rfl))

end Heat

end Points

/-- Settles O51: each command is the case of the arbiter's owner, or of the die's step and ceilings, that the hypotheses
select. -/
theorem clockingAndPowerPoints : Obligations.ClockingAndPowerPoints := by
  unfold Obligations.ClockingAndPowerPoints
  refine ⟨fun s i rs hruns hgated => ?arbitration, fun s d => ?points, fun s d => ?droop⟩
  case arbitration =>
    intro w x l
    refine ⟨fun hcycle hfree hfresh hback => ?cycle, fun p k hi hsome hpick => exec_arbGrant_round hruns hgated hi hsome hpick,
      fun d v hdie => ⟨congrArg (toWorld s) (if_pos hdie), congrArg (toWorld s) (if_pos hdie),
        fun k hunlocked => congrArg (toWorld s) (if_pos ((Bool.and_eq_true _ _).mpr ⟨hdie, hunlocked⟩))⟩⟩
    case cycle =>
      have hgrant {y : Arb} {u : World} := exec_arbGrant_cycle (rs := rs) (y := y) (u := u) hruns hgated hcycle (Prod.ext hfree hback)
      refine ⟨fun hnone => hgrant (arbCycle_idle hnone), fun o ho => ⟨?_, ?_, ?_, ?_, fun r hmoved hr htop => ⟨?_, ?_⟩⟩⟩
      · exact fun hmoved hhigher hp1 hp2 => hgrant (arbCycle_undisturbed ho hmoved hhigher (Prod.ext hp1 hp2))
      · exact fun hmoved hsafe => hgrant (arbCycle_safe ho hmoved hsafe)
      · exact fun hpre hmoved hprot hlen hhigher hpert => hgrant (arbCycle_preempted ho hmoved hpre hprot hlen hhigher hpert)
      · exact fun hmoved hnone => hgrant (arbCycle_gone ho hmoved hnone)
      · exact fun hburst => hgrant (arbCycle_continues ho hmoved hr htop hburst)
      · exact fun hburst => hgrant (arbCycle_burst_ends ho hmoved hr htop hburst)
  case points =>
    refine ⟨exec_pwrOpReqWrite_runs, fun st hst => ⟨exec_opStepPllLocked_step hst, exec_opStepCommit_ready hst,
      exec_opStepCommit_waits hst⟩, fun v hv => ⟨exec_vengSlewDone_no_step hv, fun st hst => ?slew⟩⟩
    rw [exec_vengSlewDone_step hv hst]
    exact ⟨fun hdone => by rw [hdone]; rfl, fun hdone => by rw [hdone]; rfl⟩
  case droop =>
    exact ⟨exec_droopDetect_runs, exec_stretchEnd_stretched,
      fun hstretch => ⟨exec_droopEscalate_slowest hstretch, exec_droopEscalate_raises hstretch⟩,
      fun hruns => ⟨exec_droopDecay_lowers hruns, exec_throttle_hot hruns, exec_throttleRelease_cool hruns⟩⟩

end Sys2Proof.Machine
end

section
/-!
PROOFS. Telemetry, capping, energy windows, coolant and temperature bands (R600 to R603, R610 to R618).
-/

namespace Sys2Proof.Machine

/-! Bands (R603). -/

section Bands

variable {t : Int} {k : Nat}

/-- How many bands a reading is warm enough for. -/
def bandUp (t : Int) : Nat := ([1, 2, 3].filter (fun b => decide (bandLimit b ≤ t))).length

/-- A band that the reading is too cool for is left for the one below. -/
def bandDown (t : Int) (b : Nat) : Nat := if 0 < b ∧ t ≤ bandLimit b - 20 then b - 1 else b

theorem bandOf_eq (b : Nat) : bandOf b t = if b < bandUp t then bandUp t else iter (fun _ => bandDown t) 3 b := rfl

theorem bandLimit_mono {j : Nat} (hj : 1 ≤ j) (hjk : j ≤ k) (hk : k ≤ 3) : bandLimit j ≤ bandLimit k := by
  interval_cases k <;> interval_cases j <;> decide

theorem bandUp_le : bandUp t ≤ 3 := List.length_filter_le _ _

theorem le_bandUp_iff (hlo : 1 ≤ k) (hhi : k ≤ 3) : k ≤ bandUp t ↔ bandLimit k ≤ t := by
  have hmono1 : bandLimit 1 ≤ bandLimit 2 := by decide
  have hmono2 : bandLimit 2 ≤ bandLimit 3 := by decide
  by_cases h1 : bandLimit 1 ≤ t
  · by_cases h2 : bandLimit 2 ≤ t
    · by_cases h3 : bandLimit 3 ≤ t
      · interval_cases k <;> simp [bandUp, h1, h2, h3]
      · interval_cases k <;> simp [bandUp, h1, h2, h3]
    · have h3 : ¬bandLimit 3 ≤ t := by omega
      interval_cases k <;> simp [bandUp, h1, h2, h3]
  · have h2 : ¬bandLimit 2 ≤ t := by omega
    have h3 : ¬bandLimit 3 ≤ t := by omega
    interval_cases k <;> simp [bandUp, h1, h2, h3]

theorem bandDown_cases (t : Int) (b : Nat) :
    (0 < b ∧ t ≤ bandLimit b - 20 ∧ bandDown t b + 1 = b) ∨ ((b = 0 ∨ bandLimit b - 20 < t) ∧ bandDown t b = b) := by
  unfold bandDown
  split
  case isTrue h => exact .inl ⟨h.1, h.2, by omega⟩
  case isFalse h => exact .inr ⟨by omega, rfl⟩

/-- After n steps down from b: every band left was too warm for the reading, and either a step was taken each time or the
last band stays. -/
theorem iter_bandDown (n b : Nat) : let r := iter (fun _ => bandDown t) n b
    r ≤ b ∧ (r < b → t ≤ bandLimit (r + 1) - 20) ∧ (r + n = b ∨ r = 0 ∨ bandLimit r - 20 < t) := by
  induction n with
  | zero => simp [iter]
  | succ n ih =>
    obtain ⟨hle, hleft, hstays⟩ := ih
    rw [iter]
    obtain ⟨hpos, hcool, hstep⟩ | ⟨hstay, hstep⟩ := bandDown_cases t (iter (fun _ => bandDown t) n b)
    · refine ⟨by omega, fun _ => by rwa [hstep], ?_⟩
      obtain h | h | h := hstays
      · exact .inl (by omega)
      · omega
      · omega
    · rw [hstep]
      exact ⟨hle, hleft, .inr hstay⟩

theorem bandOf_spec {b : Nat} (hb : b ≤ 3) (t : Int) : let r := bandOf b t
    r ≤ 3 ∧ (∀ k : Nat, 1 ≤ k → k ≤ 3 → bandLimit k ≤ t → k ≤ r) ∧ (b < r → bandLimit r ≤ t) ∧
      (r < b → t ≤ bandLimit (r + 1) - 20) ∧ (1 ≤ r → r ≤ b → bandLimit r - 20 < t) := by
  rw [bandOf_eq]
  split
  case isTrue hup =>
    refine ⟨bandUp_le, fun k hlo hhi h => (le_bandUp_iff hlo hhi).mpr h,
      fun _ => (le_bandUp_iff (by omega) bandUp_le).mp le_rfl, fun h => ?_, fun _ h => ?_⟩
    · omega
    · omega
  case isFalse hup =>
    obtain ⟨hle, hleft, hstays⟩ := iter_bandDown (t := t) 3 b
    refine ⟨by omega, fun k hlo hhi h => ?_, fun h => ?_, hleft, fun hpos _ => ?_⟩
    · by_contra hbelow
      have hk := (le_bandUp_iff hlo hhi).mpr h
      have hcool := hleft (by omega)
      have hmono := bandLimit_mono (j := iter (fun _ => bandDown t) 3 b + 1) (by omega) (by omega) hhi
      omega
    · omega
    · obtain h | h | h := hstays
      · omega
      · omega
      · exact h

end Bands

/-! Telemetry and capping (R600, R610, R611, R613). -/

section Power

variable {s : State} (hsupply : s.w.pwr.supply = 2)
include hsupply

theorem exec_telemetryMissing_suspect : exec .telemetryMissing s =
    toWorld s (toSuspect { s.w with pwr := { s.w.pwr with missing := true } }) :=
  congrArg (toWorld s) (if_neg (not_not_intro hsupply))

/-- The three reports of the input stage, VIO and VOPT, and the five of each die that runs. -/
def railsWritten (a : Anat) (w : World) (r vio vopt : RailRep) (l : List (List RailRep)) : World :=
  (liveDies a).foldl (fun v d => ((List.range 5).zip (l.getD d [])).foldl (fun u x =>
    railWrite u (pwrBase d + 0x100 + 8 * x.1) x.2) v) (railWrite (railWrite (railWrite w 0x400010 r) 0x400018 vio) 0x400020 vopt)

/-- A report's energy joins that of the window and of the period, and the supply's voltage the last twenty. -/
def energyAdded (w : World) (p : Nat) (volt : Nat) : World :=
  { w with pwr := { w.pwr with energy := w.pwr.energy + 50 * p, period := w.pwr.period + 50 * p
                               volts := (volt :: w.pwr.volts).take 20, missing := false } }

theorem exec_railSample_powered (r vio vopt : RailRep) (p : BitVec 32) (l : List (List RailRep)) :
    let w3 := energyAdded (railsWritten s.anat s.w r vio vopt l) p.toNat r.volt.toNat
    let w4 := if vIn w3 < 48000 then pwrEvent w3 3 else w3
    let w5 := if 58000 < vIn w3 then pwrEvent w4 4 else w4
    exec (.railSample r p l vio vopt) s =
      toWorld s (if 6500000 < p.toNat ∨ 12000 < r.cur.toNat then powerGuard s.anat w5 else w5) := by
  refine congrArg (toWorld s) ((if_neg (not_not_intro hsupply)).trans ?_)
  simp only [Nat.mul_comm p.toNat 50]
  rfl

/-! A capping period (R610). -/

omit hsupply in
theorem figureOf_eq (w : World) (m : Nat) :
    figureOf w m = if capMode w = 0 then m * 1000000 else if capMode w = 1 then w.pwr.period else m * 1100000 := by
  unfold figureOf
  split
  case h_1 h => rw [if_pos h]
  case h_2 h => rw [h, if_neg (by decide), if_pos rfl]
  case h_3 h0 h1 => rw [if_neg h0, if_neg h1]

/-- `CAP_STAT` once the period's figure f and the cap have been shown, and the period's energy is counted anew. -/
def capShown (w : World) (f : Nat) : World :=
  capSet (capSet { w with pwr := { w.pwr with period := 0 } } 32 16 (capOf w / 1000000 % 65536)) 16 16 (min (f / 1000000) 65535)

section Period

variable {m : BitVec 32} {f : Nat} (hf : figureOf s.w m.toNat = f)
include hf

theorem exec_cappingPeriod_updating (hfw : s.w.av.fw.isSome = true) :
    exec (.cappingPeriod m) s = toWorld s (capShown s.w f) := by
  subst hf
  exact congrArg (toWorld s) ((if_neg (not_not_intro hsupply)).trans (if_pos hfw))

variable (hfw : s.w.av.fw = none)
include hfw

theorem exec_cappingPeriod_over (hover : capOf s.w < f) : exec (.cappingPeriod m) s =
    toWorld s ((liveDies s.anat).foldl (fun v d => if bit (pwrOp v d) 28 = false ∧ fld (pwrOp v d) 8 4 < 7
      then opSettle s.anat (pwrOpSet v d 8 4 (fld (pwrOp v d) 8 4 + 1)) d else v)
      { capShown s.w f with pwr := { (capShown s.w f).pwr with calm := 0 } }) := by
  subst hf
  refine congrArg (toWorld s) ((if_neg (not_not_intro hsupply)).trans ((if_neg (by simp [hfw])).trans ((if_pos hover).trans ?_)))
  simp only [Bool.and_eq_true, Bool.not_eq_true', decide_eq_true_eq]
  rfl

variable (hunder : f ≤ capOf s.w)
include hunder

theorem exec_cappingPeriod_near (hnear : 95 * capOf s.w < 100 * f) : exec (.cappingPeriod m) s =
    toWorld s { capShown s.w f with pwr := { (capShown s.w f).pwr with calm := 0 } } := by
  subst hf
  exact congrArg (toWorld s) ((if_neg (not_not_intro hsupply)).trans ((if_neg (by simp [hfw])).trans
    ((if_neg (Nat.not_lt.mpr hunder)).trans (if_neg (Nat.not_le.mpr hnear)))))

theorem exec_cappingPeriod_calm (hfar : 100 * f ≤ 95 * capOf s.w) (hcalm : (capShown s.w f).pwr.calm < 4) :
    exec (.cappingPeriod m) s =
      toWorld s { capShown s.w f with pwr := { (capShown s.w f).pwr with calm := (capShown s.w f).pwr.calm + 1 } } := by
  subst hf
  exact congrArg (toWorld s) ((if_neg (not_not_intro hsupply)).trans ((if_neg (by simp [hfw])).trans
    ((if_neg (Nat.not_lt.mpr hunder)).trans ((if_pos hfar).trans (if_pos (Nat.succ_lt_succ hcalm))))))

end Period

/-! An energy window (R613, R614). -/

theorem exec_modelWindow_unscaled {sh : List (BitVec 7 × BitVec 48)} (hsh : ∀ x ∈ sh, x.1.toNat ≤ 65) :
    let l := sh.map (fun x => (x.1.toNat, x.2.toNat))
    let m := l.foldl (fun k x => k + x.2) 0
    let e := s.w.pwr.energy / 1000
    let w1 := windowMode { s.w with pwr := { s.w.pwr with energy := s.w.pwr.energy % 1000 } } m e
    capMode w1 ≠ 1 → exec (.modelWindow sh) s =
      toWorld s (accumulate (accumulate (l.foldl (fun v x => accumulate v x.1 x.2) w1) 66 e) 67 m) := by
  intro l m e w1 hmode
  have hall : sh.filter (fun x => decide (x.1.toNat ≤ 65)) = sh :=
    List.filter_eq_self.mpr fun x hx => decide_eq_true (hsh x hx)
  refine congrArg (toWorld s) ((if_neg (not_not_intro hsupply)).trans ?_)
  simp only [hall]
  rw [decide_eq_false hmode]
  rfl

end Power

/-! Coolant (R616, R618). -/

section Coolant

theorem coolantStop_held {w : World} (h : w.held = true) : coolantStop w = w := if_pos h

theorem coolantStop_before_start {w : World} (h : w.held = false) (hrun : w.timeRun = false) :
    coolantStop w = capSet w 1 1 1 := (if_neg (by simp [h])).trans (if_pos (by simp [hrun]))

theorem coolantStop_running {w : World} (h : w.held = false) (hrun : w.timeRun = true) :
    let w1 := sendPause (pwrEvent ((capSet w 1 1 1).countReg 0x400810 1) 7) true
    coolantStop w = { [0, 1, 2, 3].foldl (fun v d => vengSet (pwrOpSet (v.modDie d (fun x => { x with
      step := none, slew := false, stretch := 0, urgent := false })) d 28 1 0) d 5500) w1 with eclk := false } :=
  (if_neg (by simp [h])).trans (if_neg (by simp [hrun]))

variable {s : State}

theorem exec_coolantLoss_powered (hsupply : s.w.pwr.supply = 2) :
    exec .coolantLoss s = toWorld s (coolantStop (s.w.setReg 0x400028 (setBit (s.w.reg 0x400028 0#64) 32 false))) :=
  congrArg (toWorld s) (if_neg (not_not_intro hsupply))

section Held

variable (hheld : s.w.held = true) (hrun : s.w.timeRun = true)
include hheld hrun

theorem exec_coolantHeldStopped_held (hclk : s.w.eclk = false) : exec .coolantHeldStopped s =
    toWorld s { s.w with fes := s.w.fes.map (fun x => (x.1, x.2.quiet)), pwr := { s.w.pwr with gated := true } } :=
  congrArg (toWorld s) (if_neg (by simp [hheld, hrun, hclk]))

theorem exec_holdLimit_held :
    let l := (List.range 32).filter (fun p => bit (lnkCtl s.w p) 0)
    let w1 := l.foldl (fun v p => lnkEnable s.anat v p false) s.w
    exec .holdLimit s = toWorld s { w1 with pwr := { w1.pwr with limited := w1.pwr.limited ++ l } } :=
  congrArg (toWorld s) (if_neg (by simp [hheld, hrun]))

omit hheld hrun in
theorem exec_coolantRestored_refused
    (hno : s.w.pwr.refStop = true ∨ bit (capStat s.w) 0 = true ∧ coolEnough s.anat s.w = false) :
    exec .coolantRestored s = toBoth s (s.anat, s.w) := by
  refine congrArg (toBoth s) (if_pos ?_)
  obtain h | ⟨h, hhot⟩ := hno
  · simp [h]
  · simp [h, hhot]

theorem exec_coolantRestored_resumes (href : s.w.pwr.refStop = false)
    (hcool : bit (capStat s.w) 0 = false ∨ coolEnough s.anat s.w = true) :
    let w1 := (capSet s.w 0 2 0).setReg 0x400028 (setBit (s.w.reg 0x400028 0#64) 32 true)
    let w2 := (liveDies s.anat).foldl (fun v d =>
      vengSet (pwrOpSet (pwrOpSet v d 8 4 7) d 0 4 7) d (setVolt v d 7 (opBand v d))) w1
    let w4 := (liveDies s.anat).foldl (fun v d => opSettle s.anat v d) { w2 with eclk := true, pwr := { w2.pwr with
      gated := false, calm := 0 } }
    let w5 := pwrEvent (sendPause w4 false) 8
    let w6 := w5.pwr.limited.foldl (fun v p => lnkEnable s.anat v p true) { w5 with pwr := { w5.pwr with limited := [] } }
    exec .coolantRestored s = toBoth s (migAll (s.anat, (List.range 32).foldl (fun v p =>
      portDrain p (v.port p).egress.length v) w6)) := by
  refine congrArg (toBoth s) (if_neg ?_)
  obtain h | h := hcool
  · simp [hheld, hrun, href, h]
  · simp [hheld, hrun, href, h]

end Held

/-! A temperature sample (R603, R615 to R617). -/

section Temperature

variable {j h : List (BitVec 16)} {i o : BitVec 16}

/-- The bands and registers of the dies that run, after a sample. -/
def tempsTaken (a : Anat) (w : World) (j h : List (BitVec 16)) (i o : BitVec 16) : World :=
  let w1 := w.setReg 0x400028 (setFld (setFld (w.reg 0x400028 0#64) 0 16 i.toNat) 16 16 o.toNat)
  (liveDies a).foldl (fun v d => tempDie a v d ((j.drop (16 * d)).take 16) ((h.drop (6 * d)).take 6))
    (if 400 < i.toInt then pwrEvent w1 9 else w1)

variable (hsupply : s.w.pwr.supply = 2)
include hsupply

theorem exec_tempSample_below (hcool : ∀ d ∈ liveDies s.anat, ∀ x ∈ (j.drop (16 * d)).take 16 ++ (h.drop (6 * d)).take 6,
    x.toInt < 1050) : exec (.tempSample j h i o) s = toWorld s (tempsTaken s.anat s.w j h i o) := by
  have hnone : ¬(liveDies s.anat).any (fun d => ((j.drop (16 * d)).take 16 ++ (h.drop (6 * d)).take 6).any (fun x =>
      decide (1050 ≤ x.toInt))) = true := by
    simp only [List.any_eq_true, decide_eq_true_eq, not_exists, not_and, not_le]
    exact hcool
  exact congrArg (toWorld s) ((if_neg (not_not_intro hsupply)).trans (if_neg hnone))

theorem exec_tempSample_stops {d : Nat} (hd : d ∈ liveDies s.anat) {x : BitVec 16}
    (hx : x ∈ (j.drop (16 * d)).take 16 ++ (h.drop (6 * d)).take 6) (hhot : 1050 ≤ x.toInt) :
    exec (.tempSample j h i o) s =
      toWorld s (coolantStop (pwrEvent (capSet (tempsTaken s.anat s.w j h i o) 0 1 1) 6)) := by
  have hsome : (liveDies s.anat).any (fun d => ((j.drop (16 * d)).take 16 ++ (h.drop (6 * d)).take 6).any (fun x =>
      decide (1050 ≤ x.toInt))) = true :=
    List.any_eq_true.mpr ⟨d, hd, List.any_eq_true.mpr ⟨x, hx, decide_eq_true hhot⟩⟩
  exact congrArg (toWorld s) ((if_neg (not_not_intro hsupply)).trans (if_pos hsome))

end Temperature

end Coolant

/-- Settles O52: each report and event is the case that the hypotheses select, and a band follows its limits. -/
theorem powerAndCoolant : Obligations.PowerAndCoolant := by
  unfold Obligations.PowerAndCoolant
  dsimp only
  refine ⟨fun s hsupply => ⟨fun r vio vopt p l => exec_railSample_powered hsupply r vio vopt p l, exec_telemetryMissing_suspect hsupply,
    fun m => ?capping, fun sh hsh => exec_modelWindow_unscaled hsupply hsh, accumulate_of_fits s.w⟩,
    fun s => ⟨fun hsupply => ?loss, fun hheld hrun => ⟨exec_coolantHeldStopped_held hheld hrun, exec_holdLimit_held hheld hrun,
      exec_coolantRestored_refused, exec_coolantRestored_resumes hheld hrun⟩,
      fun j h i o hsupply => ⟨exec_tempSample_below hsupply, fun d hd x hx => exec_tempSample_stops hsupply hd hx⟩,
      fun b t hb => bandOf_spec hb t⟩⟩
  case capping =>
    have hf := figureOf_eq s.w m.toNat
    exact ⟨exec_cappingPeriod_updating hsupply hf, exec_cappingPeriod_over hsupply hf, exec_cappingPeriod_near hsupply hf,
      fun hfw hfar => exec_cappingPeriod_calm hsupply hf hfw (by omega) hfar⟩
  case loss =>
    rw [exec_coolantLoss_powered hsupply]
    exact ⟨fun hheld => congrArg (toWorld s) (coolantStop_held hheld),
      fun hheld hrun => congrArg (toWorld s) (coolantStop_before_start hheld hrun),
      fun hheld hrun => congrArg (toWorld s) (coolantStop_running hheld hrun)⟩

end Sys2Proof.Machine
end

section
/-!
PROOFS. The input, the reference clock, the pins and the module reset (R590, R597, R695, R696, R702 to R706).
-/

namespace Sys2Proof.Machine

section StartSignals

/-! What a notification leaves unchanged. -/

/-- The Keystone and the availability state are the same. -/
def SameKept (w v : World) : Prop := v.av = w.av ∧ v.ks = w.ks

theorem SameKept.trans {w u v : World} (h : SameKept w u) (h' : SameKept u v) : SameKept w v :=
  ⟨h'.1.trans h.1, h'.2.trans h.2⟩

theorem sameKept_msixTry (w : World) (f v : Nat) : SameKept w (msixTry w f v).1 := by
  unfold msixTry
  dsimp only
  split
  · exact ⟨rfl, rfl⟩
  · split <;> exact ⟨rfl, rfl⟩

theorem sameKept_msixDropped (w : World) : SameKept w (msixDropped w) := by
  have htry := sameKept_msixTry (w.setReg 0x2E100 (ctrAdd (w.reg 0x2E100 0#64) 1).1) 0 4
  unfold msixDropped
  dsimp only
  split
  · split <;> exact htry
  · exact ⟨rfl, rfl⟩

theorem sameKept_msixSend (w : World) (f v : Nat) : SameKept w (msixSend w f v) := by
  have htry := sameKept_msixTry w f v
  unfold msixSend
  dsimp only
  split
  · exact htry.trans (sameKept_msixDropped _)
  · exact htry

theorem sameKept_event (w : World) (off : Nat) (bits : W64) (vec : Nat) : SameKept w (w.event off bits vec) := by
  unfold World.event
  dsimp only
  split
  · exact sameKept_msixSend (w.setReg off _) 0 vec
  · exact ⟨rfl, rfl⟩

theorem sameKept_countReg (w : World) (off n : Nat) : SameKept w (w.countReg off n) := by
  have hmirror (v : W64) (b : Bool) : SameKept w (match mirrorOf off with
      | some i => if b then (w.setReg off v).note (16 + i / 64 + 1) (w64 (2 ^ (i % 64))) else w.setReg off v
      | none => w.setReg off v) := by
    cases mirrorOf off with
    | none => exact ⟨rfl, rfl⟩
    | some i => cases b <;> exact ⟨rfl, rfl⟩
  unfold World.countReg
  dsimp only
  split
  · exact (hmirror _ _).trans (sameKept_msixSend _ 0 4)
  · exact hmirror _ _

theorem sameKept_mbReset (w : World) : SameKept w (mbReset w) := by
  unfold mbReset
  dsimp only
  split <;> exact ⟨rfl, rfl⟩

theorem sameKept_linkDown (w : World) : SameKept w (linkDown w) := by
  unfold linkDown
  split
  · exact ⟨rfl, rfl⟩
  · dsimp only
    have hreset : SameKept w (mbReset { w with
        pcieUp := false, host := { w.host with fns := [], vfEn := false, bar2Log := 30, ide := [] } }) := sameKept_mbReset _
    have hregs (v : World) : SameKept v ((v.setReg 0x2E000 0#64).clearRegs 0x2C000 0x400) := ⟨rfl, rfl⟩
    exact ((hreset.trans (hregs _)).trans (sameKept_countReg _ _ _)).trans (sameKept_event _ _ _ _)

/-! Resets (R702, R704). -/

theorem moduleReset_keeps (x : Anat × World) : let y := moduleReset x
    y.1.part = x.1.part ∧ y.1.ready = 0 ∧ (∀ l : Nat, y.1.physOf l = none) ∧ y.2.engines = [] ∧ y.2.eclk = false ∧
      y.2.timeRun = false ∧ y.2.av.journal = x.2.av.journal ∧ y.2.av.minutes = x.2.av.minutes ∧ y.2.pwr.supply = 1 ∧
      y.2.ks.base = x.2.ks.base + topGen x.2.ks + 1 := by
  obtain ⟨hav, hks⟩ := sameKept_linkDown x.2
  have hjournal : (linkDown x.2).av.journal = x.2.av.journal := by rw [hav]
  have hminutes : (linkDown x.2).av.minutes = x.2.av.minutes := by rw [hav]
  have hbase : (linkDown x.2).ks.base + topGen (linkDown x.2).ks + 1 = x.2.ks.base + topGen x.2.ks + 1 := by rw [hks]
  exact ⟨rfl, rfl, physOf_reset, rfl, rfl, rfl, hjournal, hminutes, rfl, hbase⟩

/-! The input (R597). -/

variable {s : State}

theorem exec_inputLockout_off (h : s.w.pwr.supply = 0) : exec .inputLockout s = toBoth s (s.anat, s.w) :=
  congrArg (toBoth s) (if_pos h)

theorem exec_inputLockout_on (h : s.w.pwr.supply ≠ 0) : exec .inputLockout s = toBoth s (powerOff (s.anat, s.w)) :=
  congrArg (toBoth s) (if_neg h)

theorem exec_inputQualified_off (h : s.w.pwr.supply = 0) :
    exec .inputQualified s = toWorld s { s.w with pwr := { s.w.pwr with supply := 1 } } :=
  congrArg (toWorld s) (if_pos h)

theorem exec_inputQualified_on (h : s.w.pwr.supply ≠ 0) : exec .inputQualified s = toWorld s s.w :=
  congrArg (toWorld s) (if_neg h)

/-! The resets' pins (R696, R702). -/

theorem exec_modReset_off (h : s.w.pwr.supply = 0) :
    exec .modReset s = toBoth s (s.anat, { s.w with pwr := { s.w.pwr with modReset := true } }) :=
  congrArg (toBoth s) (if_pos h)

theorem exec_modReset_on (h : s.w.pwr.supply ≠ 0) :
    exec .modReset s = toBoth s (moduleReset (s.anat, { s.w with pwr := { s.w.pwr with modReset := true } })) :=
  congrArg (toBoth s) (if_neg h)

theorem exec_modResetRelease (slot : BitVec 7) (h : s.w.pwr.modReset = true) :
    exec (.modResetRelease slot) s = toWorld s (if s.w.pwr.supply = 1 ∧ s.w.pwr.refclk = true
      then { s.w with pwr := { s.w.pwr with modReset := false, supply := 2 }, dict := { s.w.dict with node := slot.toNat } }
      else { s.w with pwr := { s.w.pwr with modReset := false } }) := by
  have hstep : stepTwo { s.w with pwr := { s.w.pwr with modReset := false } } slot =
      if s.w.pwr.supply = 1 ∧ s.w.pwr.refclk = true
      then { s.w with pwr := { s.w.pwr with modReset := false, supply := 2 }, dict := { s.w.dict with node := slot.toNat } }
      else { s.w with pwr := { s.w.pwr with modReset := false } } :=
    if_congr (by simp) rfl rfl
  exact congrArg (toWorld s) ((if_pos h).trans hstep)

/-! The reference clock (R590, R695). -/

theorem exec_refclkPresent_starts (slot : BitVec 7) (hon : s.w.pwr.supply ≠ 0) (hstop : s.w.pwr.refStop = false)
    (hhold : s.w.pwr.holdover = false) : exec (.refclkPresent slot) s =
    toBoth s (s.anat, if s.w.pwr.supply = 1 ∧ s.w.pwr.modReset = false
      then { s.w with pwr := { s.w.pwr with refclk := true, supply := 2 }, dict := { s.w.dict with node := slot.toNat } }
      else { s.w with pwr := { s.w.pwr with refclk := true } }) := by
  have hstep : stepTwo { s.w with pwr := { s.w.pwr with refclk := true } } slot =
      if s.w.pwr.supply = 1 ∧ s.w.pwr.modReset = false
      then { s.w with pwr := { s.w.pwr with refclk := true, supply := 2 }, dict := { s.w.dict with node := slot.toNat } }
      else { s.w with pwr := { s.w.pwr with refclk := true } } :=
    if_congr (by simp) rfl rfl
  have hx : (if s.w.pwr.refStop then moduleReset (s.anat, s.w) else (s.anat, s.w)) = (s.anat, s.w) := if_neg (by simp [hstop])
  refine congrArg (toBoth s) ?_
  dsimp only
  rw [hx]
  exact (if_neg hon).trans (congrArg (Prod.mk s.anat) ((congrArg (stepTwo · slot) (if_neg (by simp [hhold]))).trans hstep))

theorem exec_refclkLoss_before (h : s.w.pwr.supply ≠ 2) :
    exec .refclkLoss s = toBoth s (s.anat, { s.w with pwr := { s.w.pwr with refclk := false } }) :=
  congrArg (toBoth s) (if_pos h)

theorem exec_refclkLoss_running (hon : s.w.pwr.supply = 2) (hhold : s.w.pwr.holdover = false) (hstop : s.w.pwr.refStop = false)
    (hrun : s.w.timeRun = true) : exec .refclkLoss s =
    toBoth s (s.anat, avEvent { s.w with pwr := { s.w.pwr with refclk := false, holdover := true } } 10) :=
  congrArg (toBoth s) ((if_neg (not_not_intro hon)).trans ((if_neg (by simp [hhold, hstop])).trans (if_neg (by simp [hrun]))))

theorem exec_refclkReturn_holdover (h : s.w.pwr.holdover = true) :
    exec .refclkReturn s = toWorld s { s.w with pwr := { s.w.pwr with refclk := true, holdover := false } } :=
  congrArg (toWorld s) (if_pos h)

theorem exec_refclkHoldoverExpire_holdover (h : s.w.pwr.holdover = true) :
    exec .refclkHoldoverExpire s = toWorld s { s.w with
      eclk := false, timeRun := false, pwr := { s.w.pwr with holdover := false, refStop := true, gated := true } } :=
  congrArg (toWorld s) (if_pos h)

end StartSignals

/-- Settles O59: each signal is the case that the supply and the clock's state select, and a module reset keeps what
`resetWorld` names, because the fall of the link before it touches neither the Keystone nor the availability state. -/
theorem startSignals : Obligations.StartSignals := by
  unfold Obligations.StartSignals
  exact ⟨fun s => ⟨fun hoff => ⟨exec_inputLockout_off hoff, exec_inputQualified_off hoff, exec_modReset_off hoff⟩,
      fun hon => ⟨exec_inputLockout_on hon, exec_inputQualified_on hon, exec_modReset_on hon,
        fun slot => exec_refclkPresent_starts slot hon⟩,
      exec_modResetRelease, rfl, moduleReset_keeps (s.anat, s.w), rfl, rfl⟩,
    fun _ => ⟨exec_refclkLoss_before, exec_refclkLoss_running,
      fun hhold => ⟨exec_refclkReturn_holdover hhold, exec_refclkHoldoverExpire_holdover hhold⟩⟩⟩

end Sys2Proof.Machine
end

section
/-!
PROOFS. Step marks (R650): the statement gives `stepmark` the function code 12, and the instruction has none.

R650 defines `stepmark` with bits [22:0] zero, and the model follows it: an instruction word with another value there raises
ILLEGAL, and answers nothing in `ACC`.
-/

namespace Sys2Proof.Machine

/-- The form of `stepmark` that the statement names: function code 12. -/
def markTwelve : YOp := ⟨0#11, 12#12⟩

/-- Logical engine 0 is bound to physical engine 0 of die 0, which runs. -/
def markAnat : Anat := { Anat.reset with
  ready := 4, dies := [⟨true, false, true⟩, ⟨false, true, false⟩, ⟨false, true, false⟩, ⟨false, true, false⟩]
  remap := Anat.reset.remap.set 0 ⟨true, false, 0x7F, 0⟩, phys := Anat.reset.phys.set 0 ⟨0, .active⟩ }

/-- The step 7 in `ACC`, the data position 5 in `IX0`. -/
def markCore : Core := { Core.reset with pc := 0x1000#64, acc := ⟨7#64, 1#4⟩, ix0 := ⟨5#64, 1#4⟩ }

/-- Clocks run, and no slot of Tail lists an engine. -/
def markWorld : World := { World.reset with
  eclk := true, timeRun := true, pwr := { PowerSt.reset with supply := 2, refclk := true }
  engines := [(0, { Engine.reset with core := markCore })] }

def markState : State := { pending := [], anat := markAnat, w := markWorld }

/-- The world in which `stepmark` would answer: `RNG_STEP` is set. -/
def markSet : World := (markWorld.modEng 0 Engine.commitAll).modEng 0 (fun x => { x with
  core := (x.core.sysSet 0x1BE 7#64).sysSet 0x1BF (setFld (x.core.sysGet 0x1BF) 0 52 0) })

/-- The value of `ACC` of engine 0 after a command. -/
def accAfter : Res → Option W64
  | .next t => some (t.w.core 0).acc.v
  | _ => none

theorem markState_issues : Issues markState 0 markWorld := ⟨by rfl, by rfl⟩

theorem markState_usable (t : Tag) (h : t = 1#4) : Usable (markWorld.core 0) .sub t := by
  subst h
  exact ⟨by decide, by rfl⟩

theorem markSet_no_job : tailSlotFor markSet 0 = none := by decide +kernel

/-- With function code 12 the instruction is illegal: the handler is entered, and `ACC` keeps the step. -/
theorem accAfter_stepmark_twelve : accAfter (exec (.stepmark 0 markTwelve) markState) = some 7#64 := by decide +kernel

/-- Refutes O47: its first part requires function code 12 of a `stepmark` and claims that it answers 1 in `ACC` where no slot
lists the engine. In `markState` every hypothesis holds, and the instruction raises ILLEGAL, as R650 says of a word whose bits
[22:0] are not zero: `ACC` is still 7. -/
theorem not_snapshots : ¬ Obligations.Snapshots := by
  unfold Obligations.Snapshots
  intro h
  obtain ⟨hmarks, -⟩ := h
  obtain ⟨-, hbound⟩ := hmarks markState 0 markTwelve markWorld markState_issues rfl rfl (by rfl)
    (markState_usable _ rfl) (markState_usable _ rfl)
  obtain ⟨hjobless, -⟩ := hbound 0 (by rfl)
  have hone := congrArg accAfter (hjobless markSet_no_job)
  rw [accAfter_stepmark_twelve] at hone
  exact absurd hone (by decide +kernel)

end Sys2Proof.Machine
end

section
/-!
PROOFS. Service minutes and the forecast; heartbeats, takeover, activation and the loss of a die (R33, R34, R570, R624, R626,
R643, R644).
-/

namespace Sys2Proof.Machine

section Service

variable {s : State}

/-! Service (R624, R626). -/

theorem exec_serviceMinute_silent (h : ∀ d ∈ s.anat.dies, d.sup = false) : exec .serviceMinute s = toWorld s s.w :=
  congrArg (toWorld s) (if_pos (by simpa using h))

theorem exec_serviceMinute_counts {d : Die} (hd : d ∈ s.anat.dies) (hsup : d.sup = true) :
    let v : World := { s.w with av := { s.w.av with minutes := s.w.av.minutes + 1 } }
    exec .serviceMinute s = toWorld s (if (s.w.av.minutes + 1) % 600000 = 0
      then (liveDies s.anat).foldl (fun u k => opSlew s.anat u k) v else v) := by
  have hany : s.anat.dies.any (fun d => d.sup) = true := List.any_eq_true.mpr ⟨d, hd, hsup⟩
  exact congrArg (toWorld s) (if_neg (by simp [hany]))

section Forecast

variable (hrun : supRuns s.anat s.anat.super = true)
include hrun

/-- The hours left of every class, as the forecast finds them. -/
theorem exec_spareForecast_runs : exec .spareForecast s = toWorld s (
    let h := [1, 2, 3, 4, 5].map (hoursLeft s.anat s.w)
    let v : World := { s.w with av := { s.w.av with hours := h } }
    if h.any (fun x => decide (x < 8760)) then avEvent v 11 else v) :=
  congrArg (toWorld s) (if_neg (by simp [hrun]))

theorem exec_spareForecast_long (hlong : ∀ x ∈ [1, 2, 3, 4, 5].map (hoursLeft s.anat s.w), 8760 ≤ x) :
    exec .spareForecast s =
      toWorld s { s.w with av := { s.w.av with hours := [1, 2, 3, 4, 5].map (hoursLeft s.anat s.w) } } := by
  have hnone : ¬([1, 2, 3, 4, 5].map (hoursLeft s.anat s.w)).any (fun x => decide (x < 8760)) = true := by
    simp only [List.any_eq_true, decide_eq_true_eq, not_exists, not_and, not_lt]
    exact hlong
  exact (exec_spareForecast_runs hrun).trans (congrArg (toWorld s) (if_neg hnone))

theorem exec_spareForecast_short {x : Nat} (hx : x ∈ [1, 2, 3, 4, 5].map (hoursLeft s.anat s.w)) (hshort : x < 8760) :
    exec .spareForecast s =
      toWorld s (avEvent { s.w with av := { s.w.av with hours := [1, 2, 3, 4, 5].map (hoursLeft s.anat s.w) } } 11) := by
  have hsome : ([1, 2, 3, 4, 5].map (hoursLeft s.anat s.w)).any (fun x => decide (x < 8760)) = true :=
    List.any_eq_true.mpr ⟨x, hx, decide_eq_true hshort⟩
  exact (exec_spareForecast_runs hrun).trans (congrArg (toWorld s) (if_pos hsome))

end Forecast

/-! Heartbeats and the loss of a die (R33, R644). -/

section Dies

variable {d : Fin 4}

theorem exec_supervisorHeartbeat_up (hup : (s.anat.dies.getD d.val ⟨false, false, false⟩).up = true)
    (hlost : (s.anat.dies.getD d.val ⟨false, false, false⟩).lost = false) :
    exec (.supervisorHeartbeat d) s =
      toBoth s ({ s.anat with dies := lmod s.anat.dies d.val (fun y => { y with sup := true }) }, s.w) :=
  congrArg (toBoth s) (if_pos (by rw [hup, hlost]; rfl))

theorem exec_dieLost_up (hup : (s.anat.dies.getD d.val ⟨false, false, false⟩).up = true)
    (hlost : (s.anat.dies.getD d.val ⟨false, false, false⟩).lost = false) :
    let y := dieHold (s.anat, s.w) d.val
    exec (.dieLost d) s = toBoth s (y.1, slotLost y.1 (avEvent y.2 7)) :=
  congrArg (toBoth s) (if_pos (by rw [hup, hlost]; rfl))

theorem exec_die_held (h : (s.anat.dies.getD d.val ⟨false, false, false⟩).up = false ∨
      (s.anat.dies.getD d.val ⟨false, false, false⟩).lost = true) :
    exec (.supervisorHeartbeat d) s = toBoth s (s.anat, s.w) ∧ exec (.dieLost d) s = toBoth s (s.anat, s.w) := by
  have hheld : ¬((s.anat.dies.getD d.val ⟨false, false, false⟩).up && !(s.anat.dies.getD d.val ⟨false, false, false⟩).lost) = true := by
    obtain h | h := h
    · rw [h]
      simp
    · rw [h]
      simp
  exact ⟨congrArg (toBoth s) (if_neg hheld), congrArg (toBoth s) (if_neg hheld)⟩

end Dies

/-! Takeover (R34, R570). -/

/-- The tables once the module supervisor is silent. -/
def superSilent (a : Anat) : Anat := { a with dies := lmod a.dies a.super (fun y => { y with sup := false }) }

theorem takeover_finds {x : Anat × World} {d : Nat} (h : [0, 1, 2, 3].find? (supRuns (superSilent x.1)) = some d) :
    takeover x = ({ superSilent x.1 with super := d }, avEvent (endSessions x.2) 9) := by
  unfold takeover
  dsimp only
  rw [show [0, 1, 2, 3].find? (supRuns { x.1 with dies := lmod x.1.dies x.1.super (fun y => { y with sup := false }) }) = some d from h]
  rfl

theorem exec_supervisorTakeover_moves (o : StoreOut) {d : Nat} (h : [0, 1, 2, 3].find? (supRuns (superSilent s.anat)) = some d)
    (hd : d ≠ s.anat.super) :
    let v := avEvent (endSessions s.w) 9
    exec (.supervisorTakeover o) s = toBoth s ({ superSilent s.anat with super := d },
      if v.dict.up then takeoverDict { superSilent s.anat with super := d } v o else v) := by
  refine congrArg (toBoth s) ?_
  dsimp only
  rw [takeover_finds h]
  exact if_neg hd

/-! Firmware activation (R643). -/

section Activation

variable {o : StoreOut} {r : FwRun} (hfw : s.w.av.fw = some r)
include hfw

theorem exec_supervisorRestarted_fails :
    exec (.supervisorRestarted false o) s = toBoth s (migAll (s.anat, fwEnd s.w 2 1)) := by
  refine congrArg (toBoth s) ?_
  rw [hfw]
  rfl

theorem exec_supervisorRestarted_next {d : Nat} (hnext : fwNext s.anat r = some d) :
    exec (.supervisorRestarted true o) s = toBoth s (fwStep (s.anat, s.w) r d o) := by
  refine congrArg (toBoth s) ?_
  rw [hfw]
  dsimp only
  rw [hnext]
  rfl

end Activation

section Steps

variable {x : Anat × World} {r : FwRun} {d : Nat} {o : StoreOut}

theorem fwStep_last (h : fwWaiting x.1 { r with done := d :: r.done } = []) :
    fwStep x r d o = migAll (x.1, fwFinish x.1 x.2 { r with done := d :: r.done } o) := by
  unfold fwStep
  dsimp only
  rw [h]

theorem fwStep_others (hsome : fwWaiting x.1 { r with done := d :: r.done } ≠ [])
    (hothers : fwWaiting x.1 { r with done := d :: r.done } ≠ [x.1.super]) :
    fwStep x r d o = (x.1, { x.2 with av := { x.2.av with fw := some { r with done := d :: r.done } } }) := by
  unfold fwStep
  dsimp only
  split
  case h_1 h => exact absurd h hsome
  case h_2 => exact if_neg hothers

/-- The module supervisor is the next only when it alone waits. -/
theorem fwNext_super_last {a : Anat} (hnext : fwNext a r = some d) (hd : d = a.super) : ∀ k ∈ fwWaiting a r, k = a.super := by
  unfold fwNext at hnext
  split at hnext
  case h_1 k hk =>
    have hother := List.find?_some hk
    obtain rfl := Option.some.inj hnext
    simp [hd] at hother
  case h_2 hnone =>
    intro k hk
    simpa using List.find?_eq_none.mp hnone k hk

end Steps

end Service

/-- Settles O53: each command is the case that the supervisors and dies select; the module supervisor comes last because
`fwNext` looks for another one first. -/
theorem serviceAndSupervisors : Obligations.ServiceAndSupervisors := by
  unfold Obligations.ServiceAndSupervisors
  refine ⟨fun s => ⟨exec_serviceMinute_silent, fun d hd hsup => exec_serviceMinute_counts hd hsup,
      fun hrun => ⟨exec_spareForecast_long hrun, fun x hx => exec_spareForecast_short hrun hx⟩⟩,
    fun s => ⟨fun d => ⟨fun hup hlost => ⟨exec_supervisorHeartbeat_up hup hlost, exec_dieLost_up hup hlost⟩, exec_die_held⟩,
      fun o d hfind hd => exec_supervisorTakeover_moves o hfind hd,
      fun o r hfw => ⟨exec_supervisorRestarted_fails hfw, fun d hnext => ⟨fun hlast => ?last, fun hsome hothers => ?others⟩⟩,
      fun r d hnext hd => fwNext_super_last hnext hd⟩⟩
  case last => exact (exec_supervisorRestarted_next hfw hnext).trans (congrArg (toBoth s) (fwStep_last hlast))
  case others => exact (exec_supervisorRestarted_next hfw hnext).trans (congrArg (toBoth s) (fwStep_others hsome hothers))

end Sys2Proof.Machine
end

section
/-!
PROOFS. Live migration: requested, switched, abandoned; and the reset of an engine (R633 to R637, R703).
-/

namespace Sys2Proof.Machine

section Migrations

variable {s : State}

/-! Requests (R633, R637). -/

section Requests

variable {l : Fin 96} {y : Fin 3}

theorem exec_migrationRequest_unbound (h : s.anat.physOf l.val = none) :
    exec (.migrationRequest l y) s = toBoth s (s.anat, s.w) := by
  refine congrArg (toBoth s) ?_
  dsimp only
  rw [h]

variable {p : Nat} (hp : s.anat.physOf l.val = some p)
include hp

theorem migRequest_queues {w : World} {why : Nat} (hnew : ∀ m ∈ w.av.migs, m.l ≠ l.val) (hruns : dieRuns s.anat p = true) :
    migRequest (s.anat, w) l.val why =
      migNext (s.anat, { w with av := { w.av with migs := w.av.migs ++ [⟨l.val, p, none, why⟩] } }) (l.val / 24) := by
  have hfree : (w.av.migs.any (fun m => decide (m.l = l.val)) || !dieRuns s.anat p) = false := by
    simpa [hruns] using hnew
  unfold migRequest
  dsimp only
  rw [hp]
  exact if_neg (by rw [hfree]; simp)

theorem exec_migrationRequest_queues (hlock : y = 0 → (s.w.eng p).locked ≠ none) (hnew : ∀ m ∈ s.w.av.migs, m.l ≠ l.val)
    (hruns : dieRuns s.anat p = true) :
    exec (.migrationRequest l y) s = toBoth s (migNext (s.anat, { s.w with av := { s.w.av with
      migs := s.w.av.migs ++ [⟨l.val, p, none, y.val + 1⟩] } }) (l.val / 24)) := by
  have hallowed : ¬(y.val + 1 = 1 ∧ (s.w.eng p).locked.isNone = true) := by
    rintro ⟨hy, hnone⟩
    exact hlock (Fin.ext (by simpa using hy)) (Option.isNone_iff_eq_none.mp hnone)
  refine congrArg (toBoth s) ?_
  dsimp only
  rw [hp]
  exact (if_neg hallowed).trans (migRequest_queues hp hnew hruns)

end Requests

/-! A migration that has its engine (R633, R634). -/

section Running

variable {l : Fin 96} {m : Mig} {d : Nat} (hm : s.w.av.migs.find? (fun x => decide (x.l = l.val)) = some m) (hd : m.dst = some d)
include hm hd

theorem exec_migrationAbandon_running : exec (.migrationAbandon l) s =
    toBoth s (migNext (toTest (s.anat.modRemap l.val (fun r => { r with migrating := false }), dropMig s.w l.val) d false)
      (l.val / 24)) := by
  refine congrArg (toBoth s) ?_
  rw [hm]
  dsimp only
  rw [hd]

variable {k : BitVec 13} (hsb : (s.w.eng m.src).sb = [])
include hsb

/-- With no store left to perform, the switch depends on the two engines and on where the source stands. -/
theorem exec_migrationSwitch_drained : exec (.migrationSwitch l k) s = toBoth s (
    if d / 26 ≠ l.val / 24 ∨ m.src = d ∨ 104 ≤ d ∨ 104 ≤ m.src ∨ !(s.w.eng m.src).sb.isEmpty ∨ !s.w.eclk ∨
      !((s.w.eng m.src).locked.isSome || migReady (s.w.eng m.src) k.toNat) then (s.anat, s.w)
    else migSwitch (s.anat, s.w) m d k.toNat) := by
  have hdrain : drainLocal s.anat m.src (s.w.eng m.src).sb.length s.w = s.w := by
    rw [hsb]
    rfl
  refine congrArg (toBoth s) ?_
  rw [hm]
  dsimp only
  rw [hd]
  dsimp only
  rw [hdrain]

theorem exec_migrationSwitch_ready (hdie : d / 26 = l.val / 24) (hother : m.src ≠ d) (hdst : d < 104) (hsrc : m.src < 104)
    (hclk : s.w.eclk = true) (hready : (s.w.eng m.src).locked.isSome = true ∨ migReady (s.w.eng m.src) k.toNat = true) :
    exec (.migrationSwitch l k) s = toBoth s (migSwitch (s.anat, s.w) m d k.toNat) := by
  have hstands : ((s.w.eng m.src).locked.isSome || migReady (s.w.eng m.src) k.toNat) = true := by simpa using hready
  rw [exec_migrationSwitch_drained hm hd hsb]
  exact congrArg (toBoth s) (if_neg (by simp [hdie, hother, Nat.not_le.mpr hdst, Nat.not_le.mpr hsrc, hsb, hclk, hstands]))

theorem exec_migrationSwitch_foreign (h : d / 26 ≠ l.val / 24 ∨ m.src = d) :
    exec (.migrationSwitch l k) s = toBoth s (s.anat, s.w) := by
  rw [exec_migrationSwitch_drained hm hd hsb]
  exact congrArg (toBoth s) (if_pos (h.imp_right .inl))

end Running

/-! Engine reset (R703). -/

section Reset

variable {e : Fin 104} (hruns : dieRuns s.anat e.val = true)
include hruns

theorem exec_engineReset_unbound (h : s.anat.logicalOf e.val = none) :
    exec (.engineReset e) s = toWorld s (engineReset s.anat s.w e.val) :=
  congrArg (toWorld s) ((if_neg (by simp [hruns])).trans (if_neg (by simp [h])))

theorem exec_engineReset_bound {l : Nat} (h : s.anat.logicalOf e.val = some l) :
    exec (.engineReset e) s = toWorld s (engineStart (engineReset s.anat s.w e.val) e.val) :=
  congrArg (toWorld s) ((if_neg (by simp [hruns])).trans (if_pos (by simp [h])))

end Reset

end Migrations

/-- Settles O54: a request joins the queue when the engine has none, and with the source's stores performed the switch tests
only the two engines, the clock and where the source stands. -/
theorem migrations : Obligations.Migrations := by
  unfold Obligations.Migrations
  exact fun s => ⟨fun l y => ⟨exec_migrationRequest_unbound, fun p hp hlock => exec_migrationRequest_queues hp hlock⟩,
    fun l m d hm hd => ⟨exec_migrationAbandon_running hm hd,
      fun k hdie hother hdst hsrc hsb => exec_migrationSwitch_ready hm hd hsb hdie hother hdst hsrc,
      fun k hforeign hsb => exec_migrationSwitch_foreign hm hd hsb hforeign⟩,
    fun e hruns => ⟨exec_engineReset_unbound hruns, fun l => exec_engineReset_bound hruns⟩⟩

end Sys2Proof.Machine
end

section
/-!
PROOFS. The rolling self-test, retirements by class, and the reserves of the stacks (R626 to R632, R638, R639).
-/

namespace Sys2Proof.Machine

section Retirement

variable {s : State}

/-! The self-test's turn (R638). -/

section Turn

variable {p : Nat} (hturn : ((List.range 104).map (fun i => (s.w.av.turn + i) % 104)).find? (fun k =>
  decide (s.anat.stOf k ≠ .retired) && decide (s.anat.stOf k ≠ .absent)) = some p)

/-- The tables and the world once the turn has passed the engine. -/
def turned (s : State) (p : Nat) : Anat × World := (s.anat, { s.w with av := { s.w.av with turn := (p + 1) % 104 } })

/-- What the turn does with the engine that it has come to. -/
def turnEnds (s : State) (p : Nat) : Anat × World :=
  match s.anat.stOf p with
  | .spare => toTest (turned s p) p false
  | .active =>
    if (s.anat.spare (p / 26)).isNone then (s.anat, avEvent (turned s p).2 12)
    else
      match s.anat.logicalOf p with
      | some l => migRequest (turned s p) l 3
      | none => turned s p
  | _ => turned s p

include hturn in
theorem exec_selftestStart_turn : exec .selftestStart s = toBoth s (turnEnds s p) := by
  refine congrArg (toBoth s) ?_
  dsimp only
  rw [hturn]
  rfl

theorem turnEnds_spare (h : s.anat.stOf p = .spare) : turnEnds s p = toTest (turned s p) p false := by
  rw [turnEnds, h]

theorem turnEnds_none_spare (h : s.anat.stOf p = .active) (hnone : s.anat.spare (p / 26) = none) :
    turnEnds s p = (s.anat, avEvent (turned s p).2 12) := by
  rw [turnEnds, h, hnone]
  rfl

theorem turnEnds_migrates {l : Nat} (h : s.anat.stOf p = .active) (hspare : s.anat.spare (p / 26) ≠ none)
    (hl : s.anat.logicalOf p = some l) : turnEnds s p = migRequest (turned s p) l 3 := by
  rw [turnEnds, h, hl]
  exact if_neg (by simpa using hspare)

theorem turnEnds_other (h : s.anat.stOf p = .selfTest ∨ s.anat.stOf p = .target) : turnEnds s p = turned s p := by
  obtain h | h := h
  · rw [turnEnds, h]
  · rw [turnEnds, h]

end Turn

/-! The self-test's end (R639). -/

section Tested

variable {p : Fin 104} (htest : s.anat.stOf p.val = .selfTest) (hlisted : ∃ t ∈ s.w.av.tests, t.1 = p.val)
include htest hlisted

theorem not_idle_test : ¬(s.anat.stOf p.val ≠ .selfTest ∨ !s.w.av.tests.any (fun t => decide (t.1 = p.val))) := by
  obtain ⟨t, ht, hp⟩ := hlisted
  have hany : s.w.av.tests.any (fun t => decide (t.1 = p.val)) = true := List.any_eq_true.mpr ⟨t, ht, decide_eq_true hp⟩
  simp [htest, hany]

theorem exec_selftestDone_passed : exec (.selftestDone p true) s = toBoth s (migNext (s.anat.setPhys p.val 0x7F .spare,
    { s.w with av := { s.w.av with tests := s.w.av.tests.filter (fun t => decide (t.1 ≠ p.val)) } }) (p.val / 26)) :=
  congrArg (toBoth s) (if_neg (not_idle_test htest hlisted))

theorem exec_selftestDone_failed :
    exec (.selftestDone p false) s = toBoth s (toRetired (s.anat, journalAdd s.w 1 [p.val] 2) p.val) :=
  congrArg (toBoth s) (if_neg (not_idle_test htest hlisted))

end Tested

/-! Retirement of an engine (R631). -/

section Engines

variable {p : Fin 104}

theorem exec_retirement_engine (hruns : dieRuns s.anat p.val = true) :
    exec (.retirement (.engine p)) s = toBoth s (engRetire (s.anat, s.w) p.val) :=
  congrArg (toBoth s) (if_pos hruns)

variable {x : Anat × World} {p : Nat}

theorem engRetire_active {l : Nat} (h : x.1.stOf p = .active) (hl : x.1.logicalOf p = some l) :
    engRetire x p = migRequest (x.1, journalAdd x.2 1 [p] 2) l 2 := by
  unfold engRetire
  dsimp only
  rw [h, hl]

theorem engRetire_unbound (h : x.1.stOf p = .spare ∨ x.1.stOf p = .selfTest) :
    engRetire x p = toRetired (x.1, journalAdd x.2 1 [p] 2) p := by
  unfold engRetire
  obtain h | h := h
  · rw [h]
  · rw [h]

theorem engRetire_gone (h : x.1.stOf p = .retired ∨ x.1.stOf p = .absent ∨ x.1.stOf p = .target) : engRetire x p = x := by
  unfold engRetire
  obtain h | h | h := h
  · rw [h]
  · rw [h]
  · rw [h]

end Engines

/-! Ways, stacks, and what a stack is made of (R627 to R630). -/

theorem exec_retirement_way {p : Fin 128} {k : Fin 16} (hup : pierUp s.anat p.val = true) :
    exec (.retirement (.way p k)) s = toBoth s (s.anat, wayRetire s.w p.val k.val) :=
  congrArg (fun w => toBoth s (s.anat, w)) (if_pos hup)

section Stacks

variable {h : Fin 24} {pc : Fin 64}

section Up

variable (hup : stackUp s.anat s.w h.val = true)
include hup

theorem exec_retirement_stack : exec (.retirement (.stack h)) s = toBoth s (s.anat, stackLost s.w h.val) :=
  congrArg (fun w => toBoth s (s.anat, w)) (if_pos hup)

theorem exec_retirement_pc : exec (.retirement (.pc h pc)) s = toBoth s (s.anat, pcRetire s.w h.val pc.val) :=
  congrArg (fun w => toBoth s (s.anat, w)) (if_pos hup)

theorem exec_retirement_row (b : Fin 16) (r : Nat) :
    exec (.retirement (.row h pc b r)) s = toBoth s (s.anat, rowSpare s.w h.val pc.val b.val r) :=
  congrArg (fun w => toBoth s (s.anat, w)) (if_pos hup)

theorem exec_rowSpare_journalled {b : Fin 16} {row : Nat} (hnew : (s.w.stack h.val).copying.contains (pc.val, b.val, row) = false)
    (hroom : (s.w.stack h.val).used < 4096) :
    let r := s.w.stack h.val
    exec (.rowSpare h pc b row) s = toWorld s ((journalAdd s.w 5 [h.val, pc.val, b.val, row] 4).setStack h.val
      { r with used := r.used + 1, copying := (pc.val, b.val, row) :: r.copying }) := by
  have hcopy : ¬(s.w.stack h.val).copying.contains (pc.val, b.val, row) = true := by rw [hnew]; simp
  exact congrArg (toWorld s) ((if_pos hup).trans ((if_neg hcopy).trans (if_neg (Nat.not_le.mpr hroom))))

theorem exec_pcRetire_copies (hcopy : (s.w.stack h.val).pcCopy = none) (hgone : (s.w.stack h.val).pcGone = none) :
    exec (.pcRetire h pc) s = toWorld s ((journalAdd s.w 4 [h.val, pc.val] 5).setStack h.val
      { s.w.stack h.val with pcCopy := some pc.val }) :=
  congrArg (toWorld s) ((if_pos hup).trans ((if_neg (by simp [hcopy, hgone])).trans (if_neg (by simp [hcopy, hgone]))))

theorem exec_pcRetire_second {q : Nat} (hcopy : (s.w.stack h.val).pcCopy = none) (hgone : (s.w.stack h.val).pcGone = some q)
    (hq : q ≠ pc.val) : exec (.pcRetire h pc) s = toWorld s (stackLost s.w h.val) :=
  congrArg (toWorld s) ((if_pos hup).trans ((if_neg (by simp [hcopy, hgone, hq])).trans (if_pos (by simp [hgone]))))

end Up

theorem exec_rowSpareDone_clean {b : Fin 16} {row : Nat}
    (hcopy : (s.w.stack h.val).copying.contains (pc.val, b.val, row) = true) :
    let r := s.w.stack h.val
    let k := (pc.val, b.val, row)
    exec (.rowSpareDone h pc b row []) s = toWorld s (journalDone (s.w.setStack h.val
      { r with copying := r.copying.filter (fun x => decide (x ≠ k)), spared := k :: r.spared })
      (fun j => decide (j.cls = 5) && decide (j.res = [h.val, pc.val, b.val, row]))) :=
  congrArg (toWorld s) (if_neg (by simp only [hcopy, Bool.not_true, Bool.false_eq_true, not_false_eq_true]))

theorem exec_pcRetireDone_clean {q : Nat} (hcopy : (s.w.stack h.val).pcCopy = some q) :
    let w1 := s.w.setStack h.val { s.w.stack h.val with pcCopy := none, pcGone := some q }
    exec (.pcRetireDone h []) s = toWorld s (journalDone (w1.setFe (64 * h.val + q) { w1.fe (64 * h.val + q) with rows := [] })
      (fun j => decide (j.cls = 4) && decide (j.res = [h.val, q]))) := by
  intro w1
  refine congrArg (toWorld s) ?_
  dsimp only
  rw [hcopy]
  rfl

end Stacks

end Retirement

/-- Settles O55: the turn, a trigger and the end of a copy are each decided by the state of the resource that they name. -/
theorem testsAndRetirement : Obligations.TestsAndRetirement := by
  unfold Obligations.TestsAndRetirement
  refine ⟨fun s => ⟨fun p hturn => ?turn, fun p htest hlisted => ⟨exec_selftestDone_passed htest hlisted, exec_selftestDone_failed htest hlisted⟩,
      fun p hruns => ?engine, fun p k hup => exec_retirement_way hup,
      fun h hup => ⟨exec_retirement_stack hup, fun pc => ⟨exec_retirement_pc hup, exec_retirement_row hup⟩⟩⟩,
    fun s h pc => ⟨fun b row hup hnew hroom => exec_rowSpare_journalled hup hnew hroom,
      fun b row hcopy => exec_rowSpareDone_clean hcopy,
      fun hup => ⟨exec_pcRetire_copies hup, fun q => exec_pcRetire_second hup⟩, fun q => exec_pcRetireDone_clean⟩⟩
  case turn =>
    have hexec {y : Anat × World} (hy : turnEnds s p = y) : exec .selftestStart s = toBoth s y :=
      (exec_selftestStart_turn hturn).trans (congrArg (toBoth s) hy)
    exact ⟨fun hspare => hexec (turnEnds_spare hspare), fun hact hnone => hexec (turnEnds_none_spare hact hnone),
      fun l hact hspare hl => hexec (turnEnds_migrates hact hspare hl), fun hother => hexec (turnEnds_other hother)⟩
  case engine =>
    have hexec {y : Anat × World} (hy : engRetire (s.anat, s.w) p.val = y) : exec (.retirement (.engine p)) s = toBoth s y :=
      (exec_retirement_engine hruns).trans (congrArg (toBoth s) hy)
    exact ⟨fun l hact hl => hexec (engRetire_active hact hl), fun hun => hexec (engRetire_unbound hun),
      fun hgone => hexec (engRetire_gone hgone)⟩

end Sys2Proof.Machine
end

section
/-!
PROOFS. Gatemi: frames of the tray, gaps, heartbeats, event frames and bus-off (R671, R674 to R678, R687).
-/

namespace Sys2Proof.Machine

section Gatemi

variable {s : State}

/-! Frames of the tray (R674 to R677, R687). -/

/-- The commands that bring a frame of the tray, with the command code that each is of and the store's answer, share one
meaning. -/
theorem exec_trayFrame {f : CanFrame} {o : StoreOut} {q : Instr × Nat × StoreOut}
    (hq : q ∈ ([(.gatemiRead f, 1, noStore), (.gatemiWrite f o, 2, o), (.seg f o, 4, o), (.segAck f, 5, noStore),
      (.gatemiDescribe f, 6, noStore), (.gatemiAbort f, 7, noStore)] : List (Instr × Nat × StoreOut))) :
    exec q.1 s = toWorld s (gArrive s.anat s.w q.2.1 f q.2.2) := by
  simp only [List.mem_cons, List.not_mem_nil, or_false] at hq
  obtain rfl | rfl | rfl | rfl | rfl | rfl := hq <;> rfl

section Arrive

variable {a : Anat} {w : World} {cmd : Nat} {f : CanFrame} {o : StoreOut}

theorem gArrive_not_taken (h : gTaken w f = false ∨ canUp a w = false ∨ w.dict.up = false) : gArrive a w cmd f o = w := by
  refine if_pos ?_
  obtain h | h | h := h
  · simp [h]
  · simp [h]
  · simp [h]

variable (htaken : gTaken w f = true) (hcan : canUp a w = true) (hup : w.dict.up = true) (hready : a.ready ≠ 6)
include htaken hcan hup hready

/-- A frame that the controller takes, and that is of this command or of another version. -/
theorem gArrive_taken (hcmd : fld (f.bytes.getD 0 0#8) 0 4 = cmd ∨ fld (f.bytes.getD 0 0#8) 4 4 ≠ 1) : gArrive a w cmd f o =
    if serving a w then gServe a w 2 f.bytes o
    else if w.dict.frames.length < 32 then w.modDict (fun d => { d with frames := d.frames ++ [f.bytes] })
    else w := by
  refine if_neg ?_
  obtain h | h := hcmd
  · simp [htaken, hcan, hup, hready, h, -List.getD_eq_getElem?_getD]
  · simp [htaken, hcan, hup, hready, h, -List.getD_eq_getElem?_getD]

theorem gArrive_served (hcmd : fld (f.bytes.getD 0 0#8) 0 4 = cmd) (hserve : serving a w = true) :
    gArrive a w cmd f o = gServe a w 2 f.bytes o :=
  (gArrive_taken htaken hcan hup hready (.inl hcmd)).trans (if_pos hserve)

theorem gArrive_kept (hcmd : fld (f.bytes.getD 0 0#8) 0 4 = cmd) (hserve : serving a w = false) (hroom : w.dict.frames.length < 32) :
    gArrive a w cmd f o = { w with dict := { w.dict with frames := w.dict.frames ++ [f.bytes] } } :=
  (gArrive_taken htaken hcan hup hready (.inl hcmd)).trans ((if_neg (by simp [hserve])).trans (if_pos hroom))

theorem gArrive_full (hcmd : fld (f.bytes.getD 0 0#8) 0 4 = cmd) (hserve : serving a w = false) (hfull : 32 ≤ w.dict.frames.length) :
    gArrive a w cmd f o = w :=
  (gArrive_taken htaken hcan hup hready (.inl hcmd)).trans ((if_neg (by simp [hserve])).trans (if_neg (Nat.not_lt.mpr hfull)))

theorem gArrive_version (hver : fld (f.bytes.getD 0 0#8) 4 4 ≠ 1) (hserve : serving a w = true) : gArrive a w cmd f o =
    gAbort a w 2 (f.bytes.getD 1 0#8) ((f.bytes.drop 2).take 3) (0xD + 128 * (bit (f.bytes.getD 5 0#8) 0).toNat) :=
  (gArrive_taken htaken hcan hup hready (.inr hver)).trans ((if_pos hserve).trans (if_pos hver))

end Arrive

/-! Gaps (R671, R677). -/

theorem exec_segmentGapTimeout_idle {p : SegPath} (h : sget s.w.dict.segs (segKey p) = none) :
    exec (.segmentGapTimeout p) s = toWorld s s.w := by
  refine congrArg (toWorld s) ?_
  rw [segEnd, h]

theorem exec_segmentGapTimeout_open {p : SegPath} {x : DSeg} (h : sget s.w.dict.segs (segKey p) = some x) :
    exec (.segmentGapTimeout p) s = toWorld s (if segKey p < 2 then mbReport (dropSeg s.w (segKey p)) (segKey p) 0xA 0
      else gAbort s.anat (dropSeg s.w (segKey p)) (segKey p) x.tid (gObj x.obj) 0xA) := by
  refine congrArg (toWorld s) ?_
  rw [segEnd, h]

/-! Heartbeats, event frames and bus-off (R674, R678). -/

theorem canSend_up {a : Anat} {w : World} (h : canUp a w = true) (fn : Nat) (b : List Byte) :
    canSend a w fn b = w.emit (.can (fn * 128 + w.dict.node) b) := if_pos h

theorem canSend_down {a : Anat} {w : World} (h : canUp a w = false) (fn : Nat) (b : List Byte) : canSend a w fn b = w :=
  if_neg (by simp [h])

section Heartbeat

variable {t : BitVec 32}

/-- The heartbeat's flags: capping, a lost die, a conflict in the store. -/
def heartFlags (a : Anat) (w : World) : Nat :=
  (bit (capStat w) 1).toNat + 2 * (a.dies.any (fun d => d.lost)).toNat + 4 * (!w.dict.conflicts.isEmpty).toNat

theorem exec_gatemiHeartbeat_sends (hrun : supRuns s.anat s.anat.super = true ∨ s.anat.ready = 6) (hcan : canUp s.anat s.w = true) :
    exec (.gatemiHeartbeat t) s = toWorld s (s.w.emit (.can (14 * 128 + s.w.dict.node)
      ([BitVec.ofNat 8 s.anat.ready, BitVec.ofNat 8 (heartFlags s.anat s.w), 0#8, 0#8] ++ leBytes 4 t.toNat))) :=
  congrArg (toWorld s) ((if_pos (by simpa using hrun)).trans (canSend_up hcan 14 _))

theorem exec_gatemiHeartbeat_down (hcan : canUp s.anat s.w = false) : exec (.gatemiHeartbeat t) s = toWorld s s.w := by
  refine congrArg (toWorld s) ?_
  dsimp only
  split
  · exact canSend_down hcan 14 _
  · rfl

end Heartbeat

section EventFrame

variable {e : EvSrc} (hserve : serving s.anat s.w = true)
include hserve

omit hserve in
theorem exec_eventFrame_quiet (h : sgetD s.w.dict.evPend (evtKey e) 0#64 = 0#64) : exec (.eventFrame e) s = toWorld s s.w :=
  congrArg (toWorld s) (if_pos (by simp [h]))

variable (hbits : sgetD s.w.dict.evPend (evtKey e) 0#64 ≠ 0#64)
include hbits

theorem exec_eventFrame_masked (hmask : bit (evtMask s.anat s.w) (evtVector (evtKey e)) = false) :
    exec (.eventFrame e) s = toWorld s (s.w.modDict (fun d => { d with evPend := sdel d.evPend (evtKey e) })) :=
  congrArg (toWorld s) ((if_neg (by simp [hserve, hbits])).trans (if_neg (by simp [hmask])))

theorem exec_eventFrame_sends (hmask : bit (evtMask s.anat s.w) (evtVector (evtKey e)) = true) :
    exec (.eventFrame e) s = toWorld s (canSend s.anat (s.w.modDict (fun d => { d with evPend := sdel d.evPend (evtKey e) })) 1
      (gObj (evtObj e) ++ [0#8] ++ leBytes 4 (sgetD s.w.dict.evPend (evtKey e) 0#64).toNat ++ leBytes 8 s.w.time.toNat)) :=
  congrArg (toWorld s) ((if_neg (by simp [hserve, hbits])).trans (if_pos hmask))

end EventFrame

theorem exec_busOff_up (h : canUp s.anat s.w = true) :
    exec .busOff s = toWorld s { s.w with dict := { s.w.dict with busOff := (ctrAdd s.w.dict.busOff 1).1 } } :=
  congrArg (toWorld s) (if_pos h)

end Gatemi

/-- Settles O57: the six commands bring one kind of frame each and share `gArrive`, which serves, keeps or refuses it. -/
theorem gatemi : Obligations.Gatemi := by
  unfold Obligations.Gatemi
  refine ⟨fun s f o q hq => ?frames,
    fun s => ⟨fun p => ⟨exec_segmentGapTimeout_idle, fun x => exec_segmentGapTimeout_open⟩,
      fun t => ⟨exec_gatemiHeartbeat_sends, exec_gatemiHeartbeat_down⟩,
      fun e hserve => ⟨exec_eventFrame_quiet, exec_eventFrame_masked hserve, exec_eventFrame_sends hserve⟩, exec_busOff_up⟩⟩
  case frames =>
    have hexec {v : World} (hv : gArrive s.anat s.w q.2.1 f q.2.2 = v) : exec q.1 s = toWorld s v :=
      (exec_trayFrame hq).trans (congrArg (toWorld s) hv)
    exact ⟨fun hnot => hexec (gArrive_not_taken hnot), fun htaken hcan hup hready =>
      ⟨fun _ hcmd => ⟨fun hserve => hexec (gArrive_served htaken hcan hup hready hcmd hserve),
        fun hserve hroom => hexec (gArrive_kept htaken hcan hup hready hcmd hserve hroom),
        fun hserve hfull => hexec (gArrive_full htaken hcan hup hready hcmd hserve hfull)⟩,
        fun hver hserve => hexec (gArrive_version htaken hcan hup hready hver hserve)⟩⟩

end Sys2Proof.Machine
end

section
/-!
PROOFS. The mailbox windows, and the dictionary writes that name one object (R643, R667, R669 to R672, R680, R682 to R685, R690).
-/

namespace Sys2Proof.Machine

section Dictionary

variable {s : State}

/-! The mailbox windows (R669 to R672). -/

section Windows

variable {win : MbWin} {o : StoreOut} {r : MbReq}

theorem exec_mbRead_answers {z : Nat × List Byte × Option Nat} (h : mbNext s.anat s.w (winPath win) 1 = some (r, false))
    (hz : mbReadOf s.anat s.w (winPath win) r = z) :
    exec (.mbRead win) s = toWorld s (mbAnswer s.w (winPath win) z.1 z.2.1 z.2.2) := by
  subst hz
  refine congrArg (toWorld s) ?_
  dsimp only
  rw [h]

section Read

variable {a : Anat} {w : World} {p : Nat} {v : List Byte}

theorem mbReadOf_error {c : Nat} (h : dictRead a w p r.obj = .error c) : mbReadOf a w p r = (c, [], none) := by
  rw [mbReadOf, h]

theorem mbReadOf_beyond (h : dictRead a w p r.obj = .ok v) (hlen : v.length < r.offset) : mbReadOf a w p r = (5, [], some v.length) := by
  rw [mbReadOf, h]
  exact if_pos hlen

theorem mbReadOf_reads (h : dictRead a w p r.obj = .ok v) (hlen : r.offset ≤ v.length) (hheld : objHeld w r.obj = false) :
    mbReadOf a w p r = (0, (v.drop r.offset).take r.len, some v.length) := by
  rw [mbReadOf, h]
  exact (if_neg (Nat.not_lt.mpr hlen)).trans (if_neg (by simp [hheld]))

end Read

theorem exec_mbRead_reset (h : mbNext s.anat s.w (winPath win) 1 = some (r, true)) :
    exec (.mbRead win) s = toWorld s (dropOrphan s.w) := by
  refine congrArg (toWorld s) ?_
  dsimp only
  rw [h]

section Write

variable {gone : Bool} (h : mbNext s.anat s.w (winPath win) 2 = some (r, gone))
include h

theorem exec_mbWrite_next : exec (.mbWrite win o) s = toWorld s (let z := mbWriteOf s.anat s.w (winPath win) r o
    if z.cut then z.w else if gone then dropSeg (dropOrphan z.w) (winPath win) else mbReport z.w (winPath win) z.code 1) := by
  refine congrArg (toWorld s) ?_
  dsimp only
  rw [h]

theorem exec_mbWrite_ends (hcut : (mbWriteOf s.anat s.w (winPath win) r o).cut = false) :
    let z := mbWriteOf s.anat s.w (winPath win) r o
    exec (.mbWrite win o) s =
      toWorld s (if gone then dropSeg (dropOrphan z.w) (winPath win) else mbReport z.w (winPath win) z.code 1) :=
  (exec_mbWrite_next h).trans (congrArg (toWorld s) (if_neg (by simp [hcut])))

theorem exec_mbWrite_cut (hcut : (mbWriteOf s.anat s.w (winPath win) r o).cut = true) :
    exec (.mbWrite win o) s = toWorld s (mbWriteOf s.anat s.w (winPath win) r o).w :=
  (exec_mbWrite_next h).trans (congrArg (toWorld s) (if_pos hcut))

end Write

section Describe

variable (h : mbNext s.anat s.w (winPath win) 6 = some (r, false))
include h

theorem exec_mbDescribe_aborts {c : Nat} (hc : objAbort s.w r.obj = some c) :
    exec (.mbDescribe win) s = toWorld s (mbAnswer s.w (winPath win) c [] none) := by
  refine congrArg (toWorld s) ?_
  dsimp only
  rw [h]
  dsimp only
  rw [hc]

theorem exec_mbDescribe_describes (hnone : objAbort s.w r.obj = none) : exec (.mbDescribe win) s =
    toWorld s (mbAnswer s.w (winPath win) 0 (describe s.anat s.w (winPath win) r.obj) none) := by
  refine congrArg (toWorld s) ?_
  dsimp only
  rw [h]
  dsimp only
  rw [hnone]

end Describe

theorem exec_mbDescribe_reset (h : mbNext s.anat s.w (winPath win) 6 = some (r, true)) :
    exec (.mbDescribe win) s = toWorld s (dropOrphan s.w) := by
  refine congrArg (toWorld s) ?_
  dsimp only
  rw [h]

end Windows

/-! What an allowed write reaches (R664 to R666). -/

section Allowed

variable {a : Anat} {w : World} {p obj : Nat} {v : List Byte} {o : StoreOut}

theorem dictWrite_allowed (hobj : objAbort w obj = none) (hright : 2 ≤ rightOf a p obj) (hheld : objHeld w obj = false)
    (hseg : (specOf a obj).seg = false) : dictWrite a w p obj v o = objWrite a w p obj v o := by
  have hwrite : writeRefused a w p obj = none := by
    rw [writeRefused, hobj]
    exact if_neg (Nat.not_lt.mpr hright)
  rw [dictWrite, hwrite]
  exact (if_neg (by simp [hheld])).trans (if_neg (by simp [hseg]))

theorem objWrite_out_of_range (hlen : lengthOk a obj v.length = true) (hval : valueOk a obj v = false) :
    objWrite a w p obj v o = .fail w 4 :=
  (if_neg (by simp [hlen])).trans (if_pos (by simp [hval]))

theorem leNat_singleton (b : Byte) : leNat [b] = b.toNat := by simp [leNat]

theorem leNat_two (n : Nat) (h : n < 65536) : leNat (leBytes 2 n) = n := by
  simp only [leBytes, leNat, BitVec.toNat_ofNat]
  omega

end Allowed

variable {o : StoreOut}

/-! `GEN_SEL` (R667). -/

section Generation

variable {a : Anat} {w : World} {p : DictPath}

theorem rightOf_gen (a : Anat) (p : DictPath) : rightOf a (pathKey p) 0x100103 = 3 := by cases p <;> rfl

theorem valueOk_gen (a : Anat) (v : Byte) : valueOk a 0x100103 [v] = decide (v = 1#8) := by
  have hrange : valueOk a 0x100103 [v] = (decide (1 ≤ leNat [v]) && decide (leNat [v] ≤ 1)) := rfl
  rw [hrange, leNat_singleton, ← Bool.decide_and, decide_eq_decide, BitVec.toNat_eq]
  exact ⟨fun h => Nat.le_antisymm h.2 h.1, fun h => ⟨h.ge, h.le⟩⟩

theorem dictWrite_gen {v : Byte} (hheld : objHeld w 0x100103 = false) : (dictWrite a w (pathKey p) 0x100103 [v] o).w =
    if v = 1#8 then w.modDict (fun d => { d with gen := d.gen.set (pathKey p) 1#8 }) else w := by
  rw [dictWrite_allowed rfl (by rw [rightOf_gen]; decide) hheld rfl]
  split
  case isTrue hv =>
    subst hv
    rfl
  case isFalse hv => rw [objWrite_out_of_range rfl (by rw [valueOk_gen]; simp [hv])]; rfl

end Generation

/-! `RESTORE_DEFAULTS` (R682, R690). -/

section Defaults

variable {a : Anat} {w : World}

theorem valueOk_defaults (a : Anat) (v : BitVec 16) : valueOk a 0x101001 (leBytes 2 v.toNat) = true := by
  have hrange : valueOk a 0x101001 (leBytes 2 v.toNat) =
      (decide (0 ≤ leNat (leBytes 2 v.toNat)) && decide (leNat (leBytes 2 v.toNat) ≤ 65535)) := rfl
  have hv := v.isLt
  rw [hrange, leNat_two _ (by omega), decide_eq_true (Nat.zero_le _), decide_eq_true (by omega)]
  rfl

theorem rightOf_defaults (a : Anat) : rightOf a 0 0x101001 = 2 := rfl

theorem dictWrite_defaults {v : BitVec 16} (hheld : objHeld w 0x101001 = false) :
    dictWrite a w 0 0x101001 (leBytes 2 v.toNat) o = restoreDefaults a w v.toNat o := by
  have hlength : lengthOk a 0x101001 (leBytes 2 v.toNat).length = true := rfl
  rw [dictWrite_allowed rfl (rightOf_defaults a).ge hheld rfl, objWrite, hlength, valueOk_defaults, leNat_two _ v.isLt]
  rfl

theorem restoreDefaults_unnamed {n : Nat} (h : rangeNamed n = false) : (restoreDefaults a w n o).w = w := by
  rw [restoreDefaults, h]
  rfl

theorem restoreDefaults_refused {n : Nat} (h : rangeNamed n = true) (hno : persistRefused a w = true) :
    (restoreDefaults a w n o).w = slotLost a w := by
  rw [restoreDefaults, h, hno]
  rfl

theorem restoreDefaults_writes {n : Nat} (h : rangeNamed n = true) (hyes : persistRefused a w = false) :
    restoreDefaults a w n o = (restoreObjs n).foldl (fun r obj => if r.cut then r else
      let z := storeValue a r.w obj (specOf a obj).dflt o
      ⟨if r.code = 0 then z.code else r.code, z.cut, z.w⟩) (WrRes.fail w 0) := by
  rw [restoreDefaults, h, hyes]
  rfl

end Defaults

/-! `FW_ACTIVATE` (R643). -/

section Activation

variable {a : Anat} {w : World} {b : Byte}

theorem two_le_rightOf_activate (a : Anat) : 2 ≤ rightOf a 0 0x303301 := Nat.le_succ 2

theorem valueOk_activate (a : Anat) (b : Byte) : valueOk a 0x303301 [b] = decide (b.toNat ≤ 1) := by
  have hrange : valueOk a 0x303301 [b] = (decide (0 ≤ leNat [b]) && decide (leNat [b] ≤ 1)) := rfl
  rw [hrange, leNat_singleton]
  simp

variable (hheld : objHeld w 0x303301 = false)
include hheld

theorem dictWrite_activate_out_of_range (hb : 1 < b.toNat) : dictWrite a w 0 0x303301 [b] o = .fail w 4 := by
  rw [dictWrite_allowed rfl (two_le_rightOf_activate a) hheld rfl,
    objWrite_out_of_range rfl (by rw [valueOk_activate, decide_eq_false (Nat.not_le.mpr hb)])]

theorem dictWrite_activate (hb : b.toNat ≤ 1) : dictWrite a w 0 0x303301 [b] o = fwActivate a w b.toNat o := by
  have hlength : lengthOk a 0x303301 [b].length = true := rfl
  rw [dictWrite_allowed rfl (two_le_rightOf_activate a) hheld rfl, objWrite, hlength, valueOk_activate, decide_eq_true hb, leNat_singleton]
  rfl

theorem dictWrite_activate_refused (h : 1 < b.toNat ∨ w.av.fw.isSome = true) : (dictWrite a w 0 0x303301 [b] o).w = w := by
  obtain hb | hb := Nat.lt_or_ge 1 b.toNat
  · rw [dictWrite_activate_out_of_range hheld hb]
    rfl
  · rw [dictWrite_activate hheld hb, fwActivate, h.resolve_left (Nat.not_lt.mpr hb)]
    rfl

/-- The world in which an activation begins: the object holds the bank. -/
def bankNamed (w : World) (b : Byte) : World := w.modDict (fun d => { d with cur := sset d.cur 0x303301 [b] })

theorem dictWrite_activate_starts (hb : b.toNat ≤ 1) (hfw : w.av.fw = none) (hready : a.ready ≠ 6) :
    (dictWrite a w 0 0x303301 [b] o).w = fwStart a (bankNamed w b) b.toNat o := by
  have hnotFailed (w1 : World) : ¬(a.ready = 6 ∧ 2 ≤ validCopies a w1 b.toNat o) := fun h => hready h.1
  rw [dictWrite_activate hheld hb, fwActivate, hfw, BitVec.ofNat_toNat, BitVec.setWidth_eq]
  exact congrArg WrRes.w (if_neg (hnotFailed _))

end Activation

/-! `STORE_RESOLVE` (R683, R685). -/

section Resolve

variable {a : Anat} {w : World} {n : Byte}

theorem rightOf_resolve (a : Anat) : rightOf a 0 0x304201 = 2 := rfl

theorem valueOk_resolve (a : Anat) (n : Byte) : valueOk a 0x304201 [n] = decide (n.toNat ≤ 2) := by
  have hrange : valueOk a 0x304201 [n] = (decide (0 ≤ leNat [n]) && decide (leNat [n] ≤ 2)) := rfl
  rw [hrange, leNat_singleton]
  simp

theorem le_two_of_mem_slotsPresent {k : Nat} (h : k ∈ slotsPresent a w) : k ≤ 2 := by
  have hcases : k = 0 ∨ k = 1 ∨ k = 2 := by simpa using List.mem_of_mem_filter h
  omega

variable (hheld : objHeld w 0x304201 = false)
include hheld

theorem dictWrite_resolve (hn : n.toNat ≤ 2) : dictWrite a w 0 0x304201 [n] o = storeResolve a w n.toNat o := by
  have hlength : lengthOk a 0x304201 [n].length = true := rfl
  rw [dictWrite_allowed rfl (rightOf_resolve a).ge hheld rfl, objWrite, hlength, valueOk_resolve, decide_eq_true hn, leNat_singleton]
  rfl

theorem dictWrite_resolve_absent (h : n.toNat ∉ slotsPresent a w) : (dictWrite a w 0 0x304201 [n] o).w = w := by
  obtain hn | hn := Nat.lt_or_ge 2 n.toNat
  · rw [dictWrite_allowed rfl (rightOf_resolve a).ge hheld rfl,
      objWrite_out_of_range rfl (by rw [valueOk_resolve, decide_eq_false (Nat.not_le.mpr hn)])]
    rfl
  · rw [dictWrite_resolve hheld hn, storeResolve, if_pos (by simp [h])]
    rfl

theorem dictWrite_resolve_present (h : n.toNat ∈ slotsPresent a w) :
    let z := w.dict.conflicts.foldl (resolveOne a n.toNat o) (WrRes.fail w 0)
    (dictWrite a w 0 0x304201 [n] o).w = if z.cut ∨ z.code ≠ 0 then z.w
      else z.w.modDict (fun d => { d with conflicts := [], storeEvt := setBit d.storeEvt 0 false }) := by
  rw [dictWrite_resolve hheld (le_two_of_mem_slotsPresent h), storeResolve, if_neg (by simp [h])]
  exact apply_ite WrRes.w _ _ _

end Resolve

end Dictionary

/-- Settles O56: a window reports what its request answers; a write that names one object is allowed to its path, so its effect
is that of the object's range and of what the object's case of `objWrite` does. -/
theorem dictionaryRequests : Obligations.DictionaryRequests := by
  unfold Obligations.DictionaryRequests
  dsimp only
  refine ⟨fun s win o => ⟨fun r hnext => ?read, fun r gone hnext => exec_mbWrite_ends hnext, fun r hnext => exec_mbWrite_cut hnext,
      fun r hnext => ⟨fun c => exec_mbDescribe_aborts hnext, exec_mbDescribe_describes hnext⟩, fun r => exec_mbRead_reset,
      fun r => exec_mbDescribe_reset⟩, fun s o hserve => ?writes⟩
  case read =>
    have hread {z : Nat × List Byte × Option Nat} (hz : mbReadOf s.anat s.w (winPath win) r = z) := exec_mbRead_answers hnext hz
    exact ⟨fun c herr => hread (z := (c, [], none)) (mbReadOf_error herr),
      fun v hok => ⟨fun hlen => hread (z := (5, [], some v.length)) (mbReadOf_beyond hok hlen),
        fun hlen hheld => hread (z := (0, (v.drop r.offset).take r.len, some v.length)) (mbReadOf_reads hok hlen hheld)⟩⟩
  case writes =>
    have hexec {z v : World} (hz : z = v) : toWorld s (if serving s.anat s.w then z else s.w) = toWorld s v :=
      congrArg (toWorld s) ((if_pos hserve).trans hz)
    refine ⟨fun p v hheld => hexec (dictWrite_gen hheld), fun v hheld => ?defaults, fun b hheld => ?activate,
      fun n hheld => ⟨fun habsent => hexec (dictWrite_resolve_absent hheld habsent),
        fun hpresent => hexec (dictWrite_resolve_present hheld hpresent)⟩⟩
    case defaults =>
      have hwrite {u : World} (hu : (restoreDefaults s.anat s.w v.toNat o).w = u) : exec (.restoreDefaults v o) s = toWorld s u :=
        hexec ((congrArg WrRes.w (dictWrite_defaults hheld)).trans hu)
      exact ⟨fun hno => hwrite (restoreDefaults_unnamed hno), fun hyes href => hwrite (restoreDefaults_refused hyes href),
        fun hyes hok => hwrite (congrArg WrRes.w (restoreDefaults_writes hyes hok))⟩
    case activate =>
      refine ⟨fun href => hexec (dictWrite_activate_refused hheld href), fun hb hfw hready => ?_⟩
      have hstart {u : World} (hu : fwStart s.anat (bankNamed s.w b) b.toNat o = u) : exec (.fwActivate b o) s = toWorld s u :=
        hexec ((dictWrite_activate_starts hheld hb hfw hready).trans hu)
      exact ⟨fun hfew => hstart (if_pos hfew), fun henough => hstart (if_neg (Nat.not_lt.mpr henough))⟩

end Sys2Proof.Machine
end

section
/-!
PROOFS. What the fetch of an instruction may change (R63, R414, R415, R430).
-/

namespace Sys2Proof.Machine

/-- Two states of one engine agree in the registers, the store buffer and the tile queue. -/
def SameWork (x y : Engine) : Prop := x.core = y.core ∧ x.sb = y.sb ∧ x.tq = y.tq

section SameWork

variable {x y z : Engine}

theorem sameWork_refl (x : Engine) : SameWork x x := ⟨rfl, rfl, rfl⟩

theorem SameWork.count (h : SameWork x z) (k n : Nat) : SameWork (x.count k n) z := h

theorem SameWork.ite {p : Prop} [Decidable p] (hx : SameWork x z) (hy : SameWork y z) : SameWork (if p then x else y) z := by
  split
  · exact hx
  · exact hy

end SameWork

/-- The world v is w but for memory, the free-value counter, and what engine e holds beside its registers, store buffer and tile
queue. -/
def Fetched (w : World) (e : Nat) (v : World) : Prop :=
  ∃ (x : Engine) (m : Memory) (n : Nat), v = { w.setEng e x with mem := m, freeCtr := n } ∧ SameWork x (w.eng e)

/-- The accessed mark of a leaf is a word written to memory; it makes no entry in the dirty log (R430, R649). -/
theorem writeMarks_accessed (w : World) (t : TlbEntry) :
    ∃ (m : Memory) (n : Nat), writeMarks w t (t.w0 ||| 0x100#64) = { w with mem := m, freeCtr := n } := by
  unfold writeMarks
  split
  · exact ⟨w.mem, w.freeCtr, rfl⟩
  · have hdirty : (bit (t.w0 ||| 0x100#64) 15 && !bit t.w0 15) = false := by
      simp [bit]
    rw [if_neg (by simp only [hdirty, Bool.false_eq_true, not_false_eq_true])]
    exact ⟨_, _, rfl⟩

theorem fetched_writeMarks (w : World) (e n : Nat) {x : Engine} (t : TlbEntry) (hx : SameWork x (w.eng e)) :
    Fetched w e (writeMarks (({ w with freeCtr := n } : World).setEng e x) t (t.w0 ||| 0x100#64)) := by
  obtain ⟨m, k, hm⟩ := writeMarks_accessed (({ w with freeCtr := n } : World).setEng e x) t
  exact ⟨x, m, k, hm, hx⟩

/-- A translation for a fetch that raises nothing: at level 0 nothing changes, and elsewhere the translation caches and
counters of the engine and the accessed mark of the leaf (R415, R430, R433). -/
theorem engTranslate_fetch {a : Anat} {w v : World} {e : Nat} {pl : BitVec 2} {va : W64} {t : TlbEntry}
    (h : engTranslate a w e pl va .fetch = (.ok t, v)) : (pl = 0#2 ∧ v = w) ∨ (pl ≠ 0#2 ∧ Fetched w e v) := by
  unfold engTranslate at h
  extract_lets x ctx u l1 n1 hit1 x1 hit done x2 w2 r x3 at h
  split at h
  · cases h
  split at h
  case isTrue hpl =>
    refine .inl ⟨hpl, ?_⟩
    split at h
    · cases h
    · split at h
      · cases h
      · exact (Prod.mk.inj h).2.symm
  case isFalse hpl =>
    refine .inr ⟨hpl, ?_⟩
    split at h
    · cases h
    have hx1 : SameWork x1 x := (sameWork_refl x).ite ((sameWork_refl x).count _ _)
    have hdone (n : Nat) (y : Engine) (q : TlbEntry) (hy : SameWork y x) : Fetched w e (done { w with freeCtr := n } y q).2 :=
      fetched_writeMarks w e n q (SameWork.ite hy hy)
    clear_value hit r
    split at h
    · split at h
      · cases h
      · exact (congrArg (fun p => Fetched w e p.2) h).mp (hdone w.freeCtr x1 _ hx1)
    · split at h
      · cases h
      · exact (congrArg (fun p => Fetched w e p.2) h).mp (hdone (w.freeCtr + 1) x3 _ hx1)

theorem translate_ok {a : Anat} {w v : World} {e : Nat} {va : W64} {k : Acc} {t : TlbEntry}
    (h : translate va k ⟨a, e⟩ w = .ok t v) : engTranslate a w e (w.eng e).core.pl va k = (.ok t, v) := by
  unfold translate at h
  rw [EM.bind_ok _ (EM.read_run _ _), EM.bind_ok _ (EM.get_run _ _)] at h
  dsimp only at h
  cases hr : engTranslate a w e (w.eng e).core.pl va k with | mk r u =>
  rw [hr] at h
  cases r with
  | error f =>
    dsimp only at h
    rw [EM.ite_run] at h
    split at h <;> cases h
  | ok t' =>
    dsimp only at h
    rw [EM.ite_run] at h
    split at h
    · cases h
    · cases h
      rfl

/-- A fetch that raises nothing has an aligned address and leaves what its translation leaves. -/
theorem fetchCheck_ok {a : Anat} {w v : World} {e : Nat} (h : fetchCheck ⟨a, e⟩ w = .ok () v) :
    fld (w.eng e).core.pc 0 2 = 0 ∧
      ∃ t, engTranslate a w e (w.eng e).core.pl (w.eng e).core.pc .fetch = (.ok t, v) := by
  unfold fetchCheck at h
  rw [EM.bind_ok _ (getC_run _ _)] at h
  dsimp only at h
  by_cases halign : fld (w.eng e).core.pc 0 2 = 0
  · rw [if_neg (not_not_intro halign)] at h
    refine ⟨halign, ?_⟩
    cases ht : translate (w.eng e).core.pc .fetch ⟨a, e⟩ w with
    | error er u =>
      rw [EM.bind_error _ ht] at h
      cases h
    | ok t u =>
      rw [EM.bind_ok _ ht, EM.bind_ok _ (EM.read_run _ _), EM.bind_ok _ (EM.get_run _ _)] at h
      refine ⟨t, (translate_ok ht).trans (congrArg (Prod.mk _) ?_)⟩
      generalize localOff u _ = place at h
      cases place with
      | none =>
        cases h
        rfl
      | some off =>
        dsimp only at h
        generalize hbmStatus _ u off = status at h
        generalize poisonIn u.mem u.ks u.places off 4 = poison at h
        rw [EM.ite_run] at h
        split at h
        · cases h
        · cases status with
          | some c => cases h
          | none =>
            cases poison with
            | some c => cases h
            | none =>
              cases h
              rfl
  · rw [if_pos halign] at h
    cases h

/-- Settles O5: a fetch changes what its translation changes. -/
theorem fetchFrame : Obligations.FetchFrame := by
  unfold Obligations.FetchFrame
  intro s e w1 ⟨_, hfetch⟩
  obtain ⟨halign, t, ht⟩ := fetchCheck_ok hfetch
  refine ⟨halign, ?_⟩
  obtain ⟨_, rfl⟩ | ⟨hpl, x, m, n, rfl, hcore, hsb, htq⟩ := engTranslate_fetch ht
  · exact ⟨fun _ => rfl, rfl, rfl, rfl, fun _ _ => rfl, rfl⟩
  · have heng : ({ s.w.setEng e.val x with mem := m, freeCtr := n } : World).eng e.val = x := eng_setEng s.w e.val x
    refine ⟨fun h0 => absurd h0 hpl, ?_, ?_, ?_, fun k hk => eng_setEng_other s.w x hk, rfl⟩
    · rw [World.core, heng, hcore]
    · rw [heng, hsb]
    · rw [heng, htq]

end Sys2Proof.Machine
end

section
/-!
PROOFS. Scalar instructions that raise an exception or cannot issue (R61, R63, R78, R84, R117).
-/

namespace Sys2Proof.Machine

section Faults

variable {s : State} {e : Fin 104} {o : SOp} {w1 w2 : World}

/-! Engines that cannot issue. -/

/-- The answer r is that of an instruction of engine e. -/
def IsInstr (s : State) (e : Fin 104) (r : Res) : Prop :=
  ∃ (unit len cyc : Nat) (body : EM (Option W64)), r = instr unit len cyc e body s

theorem IsInstr.idle {r : Res} (h : IsInstr s e r) (hcan : canIssue s.anat s.w e.val = false) : r = toWorld s s.w := by
  obtain ⟨unit, len, cyc, body, rfl⟩ := h
  exact congrArg (toWorld s) (runWith_idle hcan)

/-! Instructions that use the accumulator as an integer. -/

/-- The answer r is that of an instruction that decodes its operand, uses `ACC` as an integer, and goes on with `rest`. -/
def UsesAcc (s : State) (e : Fin 104) (o : SOp) (r : Res) : Prop :=
  ∃ rest : W64 → EM Unit, r = seqInstr 0 (lenOf o) 1 e (do let _ ← form o; let a ← useAcc .int; rest a) s

/-- A reserved operand form raises ILLEGAL (R78). -/
theorem UsesAcc.illegal {r : Res} (h : UsesAcc s e o r) (hi : Issues s e w1) (hspec : (s.w.eng e.val).speculating = false)
    (hform : formOf o = none) : r = toWorld s (takeTrap s.anat s.w w1 e.val 0 (lenOf o) (trapOf 1#8 0#8 0#64)) := by
  obtain ⟨rest, rfl⟩ := h
  exact seqInstr_trap hi hspec (EM.bind_error _ (form_illegal hform))

/-- An accumulator whose tag the integer column refuses raises TAG (R61, R63). -/
theorem UsesAcc.tagFault {r : Res} (h : UsesAcc s e o r) (hi : Issues s e w1) (hspec : (s.w.eng e.val).speculating = false)
    (hform : formOf o ≠ none) (htag : (w1.core e).acc.t.toNat < 8)
    (hcol : Col.int.accepts (w1.core e).acc.t (w1.core e).pl = false) :
    r = toWorld s (takeTrap s.anat s.w w1 e.val 0 (lenOf o) (trapOf 3#8 0#8 0#64)) := by
  obtain ⟨rest, rfl⟩ := h
  obtain ⟨f, hf⟩ := Option.ne_none_iff_exists'.mp hform
  refine seqInstr_trap hi hspec ?_
  rw [(form_does hf).bind]
  refine EM.bind_error rest ?_
  unfold useAcc
  rw [(getC_does s e w1).bind, EM.bind_error _ (checkTag_refused (n := ⟨s.anat, e.val⟩) (w := w1) htag hcol)]

/-- Settles O6: each of these instructions is run by `instr`, and the integer ones check their operand's form and then `ACC`. -/
theorem operandFaults : Obligations.OperandFaults := by
  unfold Obligations.OperandFaults
  refine fun s e o w1 => ⟨fun f hf hcan => ?idle, fun hi hspec f hf => ?faults⟩
  case idle =>
    have hinstr : ∀ f ∈ ([Instr.add, .adc, .sub, .sbb, .and, .or, .xor, .mul, .mulu, .div, .divu, .ld, .st, .cmp, .lea, .fadd,
        .jmp, .call] : List (Fin 104 → SOp → Instr)), IsInstr s e (exec (f e o) s) := by
      simp only [List.forall_mem_cons, List.not_mem_nil, false_imp_iff, implies_true, and_true]
      refine ⟨?_, ?_, ?_, ?_, ?_, ?_, ?_, ?_, ?_, ?_, ?_, ?_, ?_, ?_, ?_, ?_, ?_, ?_⟩ <;> exact ⟨_, _, _, _, rfl⟩
    exact (hinstr f hf).idle hcan
  case faults =>
    have huses : ∀ f ∈ ([Instr.add, .adc, .sub, .sbb, .and, .or, .xor, .mul, .mulu, .div, .divu] :
        List (Fin 104 → SOp → Instr)), UsesAcc s e o (exec (f e o) s) := by
      simp only [List.forall_mem_cons, List.not_mem_nil, false_imp_iff, implies_true, and_true]
      refine ⟨?_, ?_, ?_, ?_, ?_, ?_, ?_, ?_, ?_, ?_, ?_⟩ <;> exact ⟨_, rfl⟩
    exact ⟨(huses f hf).illegal hi hspec, (huses f hf).tagFault hi hspec⟩

/-! Division corners (R84). -/

theorem divide_by_zero {q r : W64 → W64 → W64} {y : TWord} (hi : Issues s e w1)
    (hacc : Usable (w1.core e) .int (w1.core e).acc.t) (hr : Reads s e o .int w1 y w2) (hzero : y.v = 0#64)
    (hspec : (s.w.eng e.val).speculating = false) :
    divide e o q r s = toWorld s (takeTrap s.anat s.w w2 e.val 0 (lenOf o) (trapOf 5#8 0#8 0#64)) := by
  obtain ⟨f, hf⟩ := operand_form hr
  refine seqInstr_trap hi hspec ?_
  rw [(form_does hf).bind, (useAcc_does hacc).bind, hr.bind, if_pos hzero]
  rfl

theorem deliverDiv_seq (c : Core) : c.deliverDiv.seq = c.seq := by
  unfold Core.deliverDiv
  split
  · rfl
  · rfl

/-- A divide that issues joins the queue of deliveries under its own place in program order (R55, R88). -/
theorem divide_pends {y : TWord} (q r : W64 → W64 → W64) (hi : Issues s e w1)
    (hacc : Usable (w1.core e) .int (w1.core e).acc.t) (hr : Reads s e o .int w1 y w2) (hne : y.v ≠ 0#64) :
    divide e o q r s = .next (retired s w2 e (lenOf o) 1 { (w2.core e).deliverDiv with
      pend := (w2.core e).deliverDiv.pend ++
        [⟨(w2.core e).seq, q (w1.core e).acc.v y.v, r (w1.core e).acc.v y.v, true⟩] }) := by
  rw [divide_ok q r hi hacc hr hne]
  dsimp only
  rw [deliverDiv_seq]

theorem min_div_minus_one :
    BitVec.ofInt 64 ((0x8000000000000000#64).toInt.tdiv (0xFFFFFFFFFFFFFFFF#64).toInt) = 0x8000000000000000#64 := by decide

theorem min_mod_minus_one :
    BitVec.ofInt 64 ((0x8000000000000000#64).toInt.tmod (0xFFFFFFFFFFFFFFFF#64).toInt) = 0#64 := by decide

/-- Settles O9: the divide checks its divisor before it delivers, and the quotient that does not fit wraps to the dividend. -/
theorem divideCorners : Obligations.DivideCorners := by
  unfold Obligations.DivideCorners
  refine fun s e o w1 w2 y hi hacc hr => ⟨fun hzero hspec => ?zero, fun ha hy => ?wraps⟩
  case zero =>
    show execDiv e o s = _ ∧ execDivu e o s = _
    exact ⟨divide_by_zero hi hacc hr hzero hspec, divide_by_zero hi hacc hr hzero hspec⟩
  case wraps =>
    have hne : y.v ≠ 0#64 := by rw [hy]; decide
    show execDiv e o s = _
    rw [execDiv, divide_pends _ _ hi hacc hr hne, ha, hy, min_div_minus_one, min_mod_minus_one]

end Faults

end Sys2Proof.Machine
end

section
/-!
PROOFS. Scalar loads, stores, the stack and effective addresses (R81, R83).
-/

namespace Sys2Proof.Machine

section LoadsAndStores

variable {s : State} {e : Fin 104} {o : SOp} {w1 w2 : World}

/-! Sub-word loads (R83). -/

theorem low_bits_zero_extended (x : W64) (k : Nat) : w64 (x.toNat % 2 ^ k) = (x.extractLsb' 0 k).setWidth 64 := by
  apply BitVec.eq_of_toNat_eq
  simp [w64, BitVec.extractLsb'_toNat]

/-- Below the number of the top bit a sign extension adds nothing, from there on the ones above the field. -/
theorem low_bits_sign_extended (x : W64) {k : Nat} (hpos : 0 < k) (hle : k ≤ 64) :
    (if 2 ^ k / 2 ≤ x.toNat % 2 ^ k then w64 (2 ^ 64 + x.toNat % 2 ^ k - 2 ^ k) else w64 (x.toNat % 2 ^ k)) =
      (x.extractLsb' 0 k).signExtend 64 := by
  apply BitVec.eq_of_toNat_eq
  have hlow : (x.extractLsb' 0 k).toNat = x.toNat % 2 ^ k := by simp [BitVec.extractLsb'_toNat]
  have hk : 2 ^ k ≤ 2 ^ 64 := Nat.pow_le_pow_right (by decide) hle
  have hlt : x.toNat % 2 ^ k < 2 ^ k := Nat.mod_lt _ (Nat.two_pow_pos k)
  have hhalf : 2 ^ k / 2 = 2 ^ (k - 1) := by
    rw [← Nat.pow_div hpos (by decide), Nat.pow_one]
  rw [BitVec.toNat_signExtend, BitVec.msb_eq_decide, BitVec.toNat_setWidth, hlow, hhalf]
  simp only [decide_eq_true_eq]
  split
  · rw [w64, BitVec.toNat_ofNat]
    omega
  · rw [w64, BitVec.toNat_ofNat]
    rfl

theorem loadSub_zero_ok {n : Nat} {x : TWord} {a : W64} (hi : Issues s e w1)
    (hr : Does s e (operandAt o .sub n) w1 (x, a) w2) :
    let z : W64 := (x.v.extractLsb' 0 (8 * n)).setWidth 64
    loadSub e o n false s = .next (retired s w2 e (lenOf o) 1 (({ w2.core e with acc := ⟨z, 1#4⟩ } : Core).setZN z)) := by
  dsimp only
  rw [loadSub_ok hi hr, ← low_bits_zero_extended, Nat.pow_mul]
  rfl

theorem loadSub_sign_ok {n : Nat} {x : TWord} {a : W64} (hn : 0 < n) (hle : n ≤ 8) (hi : Issues s e w1)
    (hr : Does s e (operandAt o .sub n) w1 (x, a) w2) :
    let g : W64 := (x.v.extractLsb' 0 (8 * n)).signExtend 64
    loadSub e o n true s = .next (retired s w2 e (lenOf o) 1 (({ w2.core e with acc := ⟨g, 1#4⟩ } : Core).setZN g)) := by
  dsimp only
  rw [loadSub_ok hi hr, ← low_bits_sign_extended x.v (by omega) (by omega), Nat.pow_mul]
  simp only [Bool.true_and, decide_eq_true_eq]

/-- Settles O10: each load is a shared operation of the model, used for the width, the extension and the register of its name. -/
theorem scalarLoads : Obligations.ScalarLoads := by
  unfold Obligations.ScalarLoads
  refine ⟨fun s e o w1 w2 hi => ⟨fun x hr => ?moves, fun x hr => ?stack, fun x a hr => ?bytes, fun x a hr => ?halves,
    fun x a hr => ?words⟩, fun s e o w1 w2 l hi hform hl ht => ?pops⟩
  case moves =>
    have hld : execLd e o s = .next (retired s w2 e (lenOf o) 1 (({ w2.core e with acc := x } : Core).setZN x.v)) := by
      refine seqInstr_modC (fun c => ({ c with acc := x } : Core).setZN x.v) hi ?_
      rw [hr.bind]
    show execLd e o s = _ ∧ execLdIx0 e o s = _ ∧ execLdIx1 e o s = _
    exact ⟨hld, loadIndex_ok _ hi hr, loadIndex_ok _ hi hr⟩
  case stack =>
    refine seqInstr_modC (fun c => c.setSp x.v) hi ?_
    rw [hr.bind]
  case bytes => exact ⟨loadSub_zero_ok hi hr, loadSub_sign_ok (by decide) (by decide) hi hr⟩
  case halves => exact ⟨loadSub_zero_ok hi hr, loadSub_sign_ok (by decide) (by decide) hi hr⟩
  case words => exact ⟨loadSub_zero_ok hi hr, loadSub_sign_ok (by decide) (by decide) hi hr⟩
  case pops =>
    obtain ⟨f, hf⟩ := Option.ne_none_iff_exists'.mp hform
    show execPop e o s = _ ∧ execPopIx0 e o s = _ ∧ execPopIx1 e o s = _
    exact ⟨popReg_ok _ hi hf hl ht, popReg_ok _ hi hf hl ht, popReg_ok _ hi hf hl ht⟩

/-- Settles O11: each store, push and address is a shared operation of the model, used for the width and the register of its
name. -/
theorem scalarStores : Obligations.ScalarStores := by
  unfold Obligations.ScalarStores
  refine ⟨fun s e o w1 w2 w3 hi => ⟨fun p hp a ht ha hs => ?stores, fun p hp => ?pushes⟩,
    fun s e o w1 w2 hi => ⟨fun a ha => ?addresses, fun n hf hn => ?frames⟩⟩
  case stores =>
    have hstore : ∀ p ∈ ([(Instr.st, 8, Core.acc), (Instr.stb, 1, Core.acc), (Instr.sth, 2, Core.acc),
        (Instr.stw, 4, Core.acc), (Instr.stIx0, 8, Core.ix0), (Instr.stIx1, 8, Core.ix1)] :
        List ((Fin 104 → SOp → Instr) × Nat × (Core → TWord))),
        exec (p.1 e o) s = storeReg e o p.2.1 p.2.2 s := by
      simp only [List.forall_mem_cons, List.not_mem_nil, false_imp_iff, implies_true, and_true]
      exact ⟨rfl, rfl, rfl, rfl, rfl, rfl⟩
    exact (hstore p hp).trans (storeReg_ok p.2.2 hi ht ha hs)
  case pushes =>
    intro a hform ht hs
    have hpush : ∀ p ∈ ([(Instr.push, Core.acc), (Instr.pushIx0, Core.ix0), (Instr.pushIx1, Core.ix1)] :
        List ((Fin 104 → SOp → Instr) × (Core → TWord))), exec (p.1 e o) s = pushReg e o p.2 s := by
      simp only [List.forall_mem_cons, List.not_mem_nil, false_imp_iff, implies_true, and_true]
      exact ⟨rfl, rfl, rfl⟩
    obtain ⟨f, hf⟩ := Option.ne_none_iff_exists'.mp hform
    exact (hpush p hp).trans (pushReg_ok p.2 hi hf ht hs)
  case addresses =>
    show execLea e o s = _ ∧ execLeaIx0 e o s = _ ∧ execLeaIx1 e o s = _
    exact ⟨loadAddr_ok _ hi ha, loadAddr_ok _ hi ha, loadAddr_ok _ hi ha⟩
  case frames =>
    have hsize : Does s e (frameSize o) w1 n w1 := frameSize_does hf ((fld_low_three n).trans hn)
    refine ⟨seqInstr_modC (fun c => c.setSp (c.sp - n)) hi ?_, seqInstr_modC (fun c => c.setSp (c.sp + n)) hi ?_⟩
    · rw [hsize.bind]
    · rw [hsize.bind]

end LoadsAndStores

end Sys2Proof.Machine
end

section
/-!
PROOFS. Scalar integer arithmetic, multiplies and divides with their deliveries (R58, R81, R84, R87, R88).
-/

namespace Sys2Proof.Machine

/-! Sums and differences in the word's own arithmetic. -/

theorem w64_add (m n : Nat) : w64 (m + n) = w64 m + w64 n := BitVec.ofNat_add m n

theorem w64_toNat (a : W64) : w64 a.toNat = a := by
  rw [w64, BitVec.ofNat_toNat, BitVec.setWidth_eq]

theorem aluAdd_eq (a b : W64) (cin : Bool) :
    aluAdd a b cin = ⟨a + b + w64 cin.toNat, decide (2 ^ 64 ≤ a.toNat + b.toNat + cin.toNat),
      decide ((a + b + w64 cin.toNat).toInt ≠ a.toInt + b.toInt + (cin.toNat : Int))⟩ := by
  have hsum : w64 (a.toNat + b.toNat + cin.toNat) = a + b + w64 cin.toNat := by
    rw [w64_add, w64_add, w64_toNat, w64_toNat]
  rw [aluAdd, hsum]

theorem aluAdd_false (a b : W64) :
    aluAdd a b false = ⟨a + b, decide (2 ^ 64 ≤ a.toNat + b.toNat), decide ((a + b).toInt ≠ a.toInt + b.toInt)⟩ := by
  have hzero : a + b + w64 false.toNat = a + b := BitVec.add_zero _
  rw [aluAdd_eq, hzero]
  simp only [Bool.toNat_false, Nat.add_zero, Int.natCast_zero, Int.add_zero]

theorem aluSub_false (a b : W64) :
    aluSub a b false = ⟨a - b, decide (a.toNat < b.toNat), decide ((a - b).toInt ≠ a.toInt - b.toInt)⟩ := by
  have hzero : a - b - w64 false.toNat = a - b := BitVec.sub_zero _
  rw [aluSub, hzero]
  simp only [Bool.toNat_false, Nat.add_zero, Int.natCast_zero, Int.sub_zero]

theorem aluSub_zero_left (a : W64) :
    aluSub 0#64 a false = ⟨-a, decide (0 < a.toNat), decide ((-a).toInt ≠ -a.toInt)⟩ := by
  rw [aluSub_false, BitVec.zero_sub, BitVec.toInt_zero, Int.zero_sub]
  rfl

/-! Products and quotients in the word's own arithmetic. -/

theorem ofInt_mul_toInt (a b : W64) : BitVec.ofInt 128 (a.toInt * b.toInt) = a.signExtend 128 * b.signExtend 128 := by
  apply BitVec.eq_of_toInt_eq
  rw [BitVec.toInt_mul, BitVec.toInt_ofInt, BitVec.toInt_signExtend_of_le (by decide), BitVec.toInt_signExtend_of_le (by decide)]

theorem ofNat_mul_toNat (a b : W64) : BitVec.ofNat 128 (a.toNat * b.toNat) = a.setWidth 128 * b.setWidth 128 := by
  rw [BitVec.ofNat_mul, BitVec.ofNat_toNat, BitVec.ofNat_toNat]

theorem ofInt_tdiv_toInt (a b : W64) : BitVec.ofInt 64 (a.toInt.tdiv b.toInt) = a.sdiv b := by
  apply BitVec.eq_of_toInt_eq
  rw [BitVec.toInt_sdiv, BitVec.toInt_ofInt]

theorem ofInt_tmod_toInt (a b : W64) : BitVec.ofInt 64 (a.toInt.tmod b.toInt) = a.srem b := by
  rw [← BitVec.toInt_srem, BitVec.ofInt_toInt]

theorem w64_div_toNat (a b : W64) : w64 (a.toNat / b.toNat) = a.udiv b := by
  rw [← BitVec.toNat_udiv, w64_toNat]
  rfl

theorem w64_mod_toNat (a b : W64) : w64 (a.toNat % b.toNat) = a.umod b := by
  rw [← BitVec.toNat_umod, w64_toNat]
  rfl

section Arithmetic

variable {s : State} {e : Fin 104} {o : SOp} {w1 w2 : World}

/-! `neg` (R81). -/

theorem execNeg_ok (hi : Issues s e w1) (hm : o.mode = 0#3) (ho : o.opnd = 0#20)
    (hacc : Usable (w1.core e) .int (w1.core e).acc.t) :
    execNeg e o s = .next (retired s w1 e (lenOf o) 1
      (let r := aluSub 0#64 (w1.core e).acc.v false
       ({ w1.core e with acc := ⟨r.r, 1#4⟩ } : Core).setAll r.r r.c r.v)) := by
  refine seqInstr_modC (fun c => let r := aluSub 0#64 (w1.core e).acc.v false
    ({ c with acc := ⟨r.r, 1#4⟩ } : Core).setAll r.r r.c r.v) hi ?_
  rw [(noOperand_does hm ho).bind, (useAcc_does hacc).bind]

/-! Deliveries (R87, R88). -/

theorem filter_ne_front {p : Pend} {q : List Pend} (hp : p ∉ q) : (p :: q).filter (fun r => decide (r ≠ p)) = q := by
  rw [List.filter_cons_of_neg (by simp)]
  exact List.filter_eq_self.mpr (fun r hr => decide_eq_true (fun h => hp (h ▸ hr)))

theorem deliverDiv_front {c : Core} {p : Pend} {q : List Pend} (hc : c.pend = p :: q) (hp : p ∉ q) (hdiv : p.div = true) :
    c.deliverDiv = { c.deliver p with pend := q } := by
  have hfind : (p :: q).find? (fun r => r.div) = some p := List.find?_cons_of_pos hdiv
  rw [Core.deliverDiv, hc]
  simp only [hfind, filter_ne_front hp]

/-- The state after engine e has delivered p, and q is still pending. -/
def delivered (s : State) (e : Fin 104) (p : Pend) (q : List Pend) : Res :=
  toWorld s (s.w.modEng e.val (fun x =>
    { x with core := { x.core with prl := ⟨p.lo, 1#4⟩, prh := ⟨p.hi, 1#4⟩, pend := q } }))

/-- Two changes of engine e that agree on its present state lead to one state. -/
theorem toWorld_modEng {f g : Engine → Engine} (h : f (s.w.eng e.val) = g (s.w.eng e.val)) :
    toWorld s (s.w.modEng e.val f) = toWorld s (s.w.modEng e.val g) :=
  congrArg (fun y => toWorld s (s.w.setEng e.val y)) h

section Front

variable {p : Pend} {q : List Pend} (hpend : (s.w.core e).pend = p :: q) (hp : p ∉ q)
include hpend hp

theorem exec_mulDelivery_front (hdiv : p.div = false) : exec (.mulDelivery e false) s = delivered s e p q := by
  have hfind : (p :: q).find? (fun r => !r.div) = some p := List.find?_cons_of_pos (by rw [hdiv]; rfl)
  refine toWorld_modEng ?_
  simp only [show (s.w.eng e.val).core.pend = p :: q from hpend, hfind, Bool.false_and, Bool.false_eq_true,
    if_false, Core.deliver, filter_ne_front hp]

theorem exec_divDelivery_front (hdiv : p.div = true) : exec (.divDelivery e false) s = delivered s e p q := by
  have hfind : (p :: q).find? (fun r => r.div) = some p := List.find?_cons_of_pos hdiv
  refine toWorld_modEng ?_
  simp only [show (s.w.eng e.val).core.pend = p :: q from hpend, hfind, Bool.false_and, Bool.false_eq_true, if_false,
    deliverDiv_front (c := (s.w.eng e.val).core) hpend hp hdiv]
  split
  · rfl
  · rfl

end Front

section Tie

variable {d p : Pend} (hpend : (s.w.core e).pend = [d, p]) (hd : d.div = true) (hp : p.div = false)
include hpend hd hp

theorem deliverDiv_tie : (s.w.core e).deliverDiv = { (s.w.core e).deliver d with pend := [p] } := by
  refine deliverDiv_front hpend (fun hmem => ?_) hd
  rw [List.mem_singleton.mp hmem, hp] at hd
  cases hd

/-- The divide delivers, and after it the later multiply. -/
theorem exec_mulDelivery_tie (hseq : d.seq < p.seq) : exec (.mulDelivery e true) s = delivered s e p [] := by
  have hdeliver := deliverDiv_tie hpend hd hp
  refine toWorld_modEng ?_
  simp [show (s.w.eng e.val).core.pend = [d, p] from hpend, hd, hp, hseq, hdeliver, Core.deliver]

theorem exec_divDelivery_tie (hseq : d.seq < p.seq) : exec (.divDelivery e true) s = delivered s e p [] := by
  have hdeliver := deliverDiv_tie hpend hd hp
  refine toWorld_modEng ?_
  simp [show (s.w.eng e.val).core.pend = [d, p] from hpend, hd, hp, hseq, hdeliver, Core.deliver]

end Tie

/-- Settles O12: the sums and differences are those of the adder in the word's own arithmetic, the products and quotients those of
the integers, and a delivery takes the oldest entry of its kind. -/
theorem arithmetic : Obligations.Arithmetic := by
  unfold Obligations.Arithmetic
  refine ⟨fun s e o w1 w2 hi => ⟨fun y hacc hr => ?sums, fun hm ho hacc => ?negates,
      fun y hr => ⟨fun hix => ?ix0, fun hix => ?ix1⟩⟩,
    fun s e o w1 w2 y => ⟨fun hi hacc hr => ?products, fun p q hpend hp => ?deliveries, fun d p hpend hd hp hseq => ?ties⟩⟩
  case sums =>
    show execAdd e o s = _ ∧ execAdc e o s = _ ∧ execSub e o s = _ ∧ execSbb e o s = _
    rw [execAdd, execAdc, execSub, execSbb, arith_ok _ hi hacc hr, arith_ok _ hi hacc hr, arith_ok _ hi hacc hr,
      arith_ok _ hi hacc hr, aluAdd_false, aluAdd_eq, aluSub_false]
    exact ⟨rfl, rfl, rfl, rfl⟩
  case negates => exact (execNeg_ok hi hm ho hacc).trans (by rw [aluSub_zero_left])
  case ix0 =>
    show execAddxIx0 e o s = _
    rw [execAddxIx0, addIndex_ok _ _ hi hix hr, aluAdd_false]
  case ix1 =>
    show execAddxIx1 e o s = _
    rw [execAddxIx1, addIndex_ok _ _ hi hix hr, aluAdd_false]
  case products =>
    show execMul e o s = _ ∧ execMulu e o s = _ ∧ (_ → execDiv e o s = _) ∧ (_ → execDivu e o s = _)
    refine ⟨?_, ?_, fun hb => ?_, fun hb => ?_⟩
    · rw [execMul, multiply_ok _ hi hacc hr, ofInt_mul_toInt]
      rfl
    · rw [execMulu, multiply_ok _ hi hacc hr, ofNat_mul_toNat]
      rfl
    · rw [execDiv, divide_pends _ _ hi hacc hr hb, ofInt_tdiv_toInt, ofInt_tmod_toInt]
    · rw [execDivu, divide_pends _ _ hi hacc hr hb, w64_div_toNat, w64_mod_toNat]
  case deliveries => exact ⟨exec_mulDelivery_front hpend hp, exec_divDelivery_front hpend hp⟩
  case ties => exact ⟨exec_mulDelivery_tie hpend hd hp hseq, exec_divDelivery_tie hpend hd hp hseq⟩

end Arithmetic

end Sys2Proof.Machine
end

section
/-!
PROOFS. Bitwise operations, counts, shifts and rotates (R81).
-/

namespace Sys2Proof.Machine

/-- The low bits of a word as a remainder. -/
theorem fld_zero_eq_mod {w : Nat} (x : BitVec w) (n : Nat) : fld x 0 n = x.toNat % 2 ^ n := by
  rw [fld_eq_div_mod, Nat.pow_zero, Nat.div_one]

/-! A shift by 0 keeps the word and the carry. -/

theorem shiftRes_shl (a : W64) (n : Nat) (c : Bool) :
    shiftRes .shl a n c = (a <<< n, if n = 0 then c else a.getLsbD (64 - n)) := by
  cases n with
  | zero => rw [shiftRes, if_pos rfl, if_pos rfl, BitVec.shiftLeft_zero]
  | succ k => rfl

theorem shiftRes_shr (a : W64) (n : Nat) (c : Bool) :
    shiftRes .shr a n c = (a >>> n, if n = 0 then c else a.getLsbD (n - 1)) := by
  cases n with
  | zero => rw [shiftRes, if_pos rfl, if_pos rfl, BitVec.ushiftRight_zero]
  | succ k => rfl

theorem shiftRes_sar (a : W64) (n : Nat) (c : Bool) :
    shiftRes .sar a n c = (a.sshiftRight n, if n = 0 then c else a.getLsbD (n - 1)) := by
  cases n with
  | zero => rw [shiftRes, if_pos rfl, if_pos rfl, BitVec.sshiftRight_zero]
  | succ k => rfl

theorem shiftRes_rol (a : W64) {n : Nat} (hn : n < 64) (c : Bool) :
    shiftRes .rol a n c = (a.rotateLeft n, if n = 0 then c else a.getLsbD (64 - n)) := by
  cases n with
  | zero =>
    rw [shiftRes, if_pos rfl, if_pos rfl]
    simp [BitVec.rotateLeft_def, BitVec.ushiftRight_eq_zero]
  | succ k =>
    rw [BitVec.rotateLeft_def, Nat.mod_eq_of_lt hn]
    rfl

theorem shiftRes_ror (a : W64) {n : Nat} (hn : n < 64) (c : Bool) :
    shiftRes .ror a n c = (a.rotateRight n, if n = 0 then c else a.getLsbD (n - 1)) := by
  cases n with
  | zero =>
    rw [shiftRes, if_pos rfl, if_pos rfl]
    simp [BitVec.rotateRight_def]
  | succ k =>
    rw [BitVec.rotateRight_def, Nat.mod_eq_of_lt hn]
    rfl

/-- Settles O13: every bitwise operation and count is one shared operation with its own function, and every shift is `shiftRes`
by the count of the operand. -/
theorem bitwiseAndShifts : Obligations.BitwiseAndShifts := by
  unfold Obligations.BitwiseAndShifts
  refine ⟨fun s e o w1 w2 hi hacc => ⟨fun p hp y hr => ?bitwise, fun p hp hm ho => ?counts⟩,
    fun s e o w1 w2 y hi hacc hr => ?shifts⟩
  case bitwise =>
    have hop : ∀ p ∈ ([(Instr.and, fun a b => a &&& b), (Instr.or, fun a b => a ||| b), (Instr.xor, fun a b => a ^^^ b)] :
        List ((Fin 104 → SOp → Instr) × (W64 → W64 → W64))), exec (p.1 e o) s = bitwise e o p.2 s := by
      simp only [List.forall_mem_cons, List.not_mem_nil, false_imp_iff, implies_true, and_true]
      exact ⟨rfl, rfl, rfl⟩
    exact (hop p hp).trans (bitwise_ok p.2 hi hacc hr)
  case counts =>
    have hop : ∀ p ∈ ([(Instr.not, fun a => ~~~ a), (Instr.clz, fun a => w64 (clz64 a)), (Instr.ctz, fun a => w64 (ctz64 a)),
        (Instr.popc, fun a => w64 (popc64 a)), (Instr.bswap, bswap64)] : List ((Fin 104 → SOp → Instr) × (W64 → W64))),
        exec (p.1 e o) s = unary e o p.2 s := by
      simp only [List.forall_mem_cons, List.not_mem_nil, false_imp_iff, implies_true, and_true]
      exact ⟨rfl, rfl, rfl, rfl, rfl⟩
    exact (hop p hp).trans (unary_ok p.2 hi hm ho hacc)
  case shifts =>
    have hfield : fld y.v 0 6 = y.v.toNat % 64 := fld_zero_eq_mod y.v 6
    have hcount : y.v.toNat % 64 < 64 := Nat.mod_lt _ (by decide)
    show execShl e o s = _ ∧ execShr e o s = _ ∧ execSar e o s = _ ∧ execRol e o s = _ ∧ execRor e o s = _
    rw [execShl, execShr, execSar, execRol, execRor, shiftBy_ok .shl hi hacc hr, shiftBy_ok .shr hi hacc hr,
      shiftBy_ok .sar hi hacc hr, shiftBy_ok .rol hi hacc hr, shiftBy_ok .ror hi hacc hr, hfield, shiftRes_shl, shiftRes_shr,
      shiftRes_sar, shiftRes_rol _ hcount, shiftRes_ror _ hcount]
    exact ⟨rfl, rfl, rfl, rfl, rfl⟩

end Sys2Proof.Machine
end

section
/-!
PROOFS. Comparisons and scalar floating point (R81, R82, R85, R104).
-/

namespace Sys2Proof.Machine

theorem subFlags_eq (c : Core) (a b : W64) :
    subFlags c a b = c.setAll (a - b) (decide (a.toNat < b.toNat)) (decide ((a - b).toInt ≠ a.toInt - b.toInt)) := by
  rw [subFlags, aluSub_false]

section Float

variable {s : State} {e : Fin 104} {o : SOp} {w1 w2 : World}

/-- The state after an instruction that reads its operands in w and answers the exact value x, rounded into binary64 (R85). -/
def floated (s : State) (e : Fin 104) (o : SOp) (w : World) (x : Exact) : Res :=
  let c := w.core e
  let r := finish fmt64 c.fcsrMode x
  if isNanV x.v then
    .next (retired s { w with freeCtr := w.freeCtr + 1 } e (lenOf o) 1
      (({ c with acc := ⟨quietNan (Config.nanBits w.freeCtr), 2#4⟩ } : Core).fcsrOr r.2))
  else .next (retired s w e (lenOf o) 1 (({ c with acc := ⟨w64 r.1, 2#4⟩ } : Core).fcsrOr r.2))

theorem seqInstr_putFloat {body : EM Unit} (x : Exact) (hi : Issues s e w1)
    (hbody : body ⟨s.anat, e.val⟩ w1 = putFloat x ⟨s.anat, e.val⟩ w2) :
    seqInstr 0 (lenOf o) 1 e body s = floated s e o w2 x := by
  unfold floated
  dsimp only
  split
  case isTrue hnan =>
    refine seqInstr_modC (fun k => ({ k with acc := ⟨quietNan (Config.nanBits w2.freeCtr), 2#4⟩ } : Core).fcsrOr
      (finish fmt64 (w2.core e).fcsrMode x).2) hi ?_
    rw [hbody, putFloat, (getC_does s e w2).bind]
    rw [if_pos hnan]
    rfl
  case isFalse hnum =>
    refine seqInstr_modC (fun k => ({ k with acc := ⟨w64 (finish fmt64 (w2.core e).fcsrMode x).1, 2#4⟩ } : Core).fcsrOr
      (finish fmt64 (w2.core e).fcsrMode x).2) hi ?_
    rw [hbody, putFloat, (getC_does s e w2).bind]
    rw [if_neg hnum]
    rfl

theorem floatOp_ok {y : TWord} (f : FVal → FVal → Exact) (hi : Issues s e w1)
    (hacc : Usable (w1.core e) .flt (w1.core e).acc.t) (hr : Reads s e o .flt w1 y w2) :
    floatOp e o f s = floated s e o w2 (f (dec64 (w1.core e).acc.v) (dec64 y.v)) := by
  obtain ⟨fm, hf⟩ := operand_form hr
  refine seqInstr_putFloat _ hi ?_
  rw [(form_does hf).bind, (useAcc_does hacc).bind, hr.bind]

/-- The registers after `fcmp` of a and b (R81, R271). -/
def Core.fcompared (c : Core) (a b : FVal) : Core :=
  let un := isNanV a || isNanV b
  ({ c with st := stFlags c.st (!un && decide (cmpF a b = Ordering.eq)) (!un && decide (cmpF a b = Ordering.lt)) false un } :
    Core).fcsrOr (if isSNan a || isSNan b then FFlags.inval else FFlags.none)

theorem execFcmp_ok {y : TWord} (hi : Issues s e w1) (hacc : Usable (w1.core e) .flt (w1.core e).acc.t)
    (hr : Reads s e o .flt w1 y w2) :
    execFcmp e o s = .next (retired s w2 e (lenOf o) 1 ((w2.core e).fcompared (dec64 (w1.core e).acc.v) (dec64 y.v))) := by
  obtain ⟨fm, hf⟩ := operand_form hr
  refine seqInstr_modC (fun c => c.fcompared (dec64 (w1.core e).acc.v) (dec64 y.v)) hi ?_
  rw [(form_does hf).bind, (useAcc_does hacc).bind, hr.bind]
  rfl

section Unary

variable (hi : Issues s e w1) (hm : o.mode = 0#3) (ho : o.opnd = 0#20)
include hi hm ho

theorem execFcvtIf_ok (hacc : Usable (w1.core e) .int (w1.core e).acc.t) :
    execFcvtIf e o s = floated s e o w1 (exact (intF (w1.core e).acc.v.toInt)) := by
  refine seqInstr_putFloat _ hi ?_
  rw [(noOperand_does hm ho).bind, (useAcc_does hacc).bind]

theorem execFsqrt_ok (hacc : Usable (w1.core e) .flt (w1.core e).acc.t) :
    execFsqrt e o s = floated s e o w1 (sqrtF (dec64 (w1.core e).acc.v)) := by
  refine seqInstr_putFloat _ hi ?_
  rw [(noOperand_does hm ho).bind, (useAcc_does hacc).bind]

theorem execFcvtFi_ok (hacc : Usable (w1.core e) .flt (w1.core e).acc.t) :
    let r := toIntF 64 (dec64 (w1.core e).acc.v)
    execFcvtFi e o s = .next (retired s w1 e (lenOf o) 1
      (({ w1.core e with acc := ⟨BitVec.ofInt 64 r.1, 1#4⟩ } : Core).fcsrOr r.2)) := by
  intro r
  refine seqInstr_modC (fun k => ({ k with acc := ⟨BitVec.ofInt 64 r.1, 1#4⟩ } : Core).fcsrOr r.2) hi ?_
  rw [(noOperand_does hm ho).bind, (useAcc_does hacc).bind]

end Unary

end Float

/-- Settles O14: a comparison is one shared operation with the register and the flags of its name, and every floating-point result
goes through `putFloat`. -/
theorem comparisonsAndFloat : Obligations.ComparisonsAndFloat := by
  unfold Obligations.ComparisonsAndFloat
  refine ⟨fun s e o w1 w2 b at' hi hr => ⟨fun hfits => ?acc, fun hfits => ?ix0, fun hfits => ?ix1⟩,
    fun s e o w1 w2 hi => ⟨fun y hacc hr => ?binary, fun hm ho hacc => execFcvtIf_ok hi hm ho hacc,
      fun hm ho hacc => ⟨execFsqrt_ok hi hm ho hacc, execFcvtFi_ok hi hm ho hacc⟩⟩⟩
  case acc =>
    obtain ⟨hacc, hptr, hdesc⟩ := hfits
    show execCmp e o s = _ ∧ execTst e o s = _
    rw [execCmp, execTst, compareReg_ok _ _ hi hr hacc hptr hdesc, compareReg_ok _ _ hi hr hacc hptr hdesc, subFlags_eq]
    exact ⟨rfl, rfl⟩
  case ix0 =>
    obtain ⟨hix, hptr, hdesc⟩ := hfits
    show execCmpxIx0 e o s = _
    rw [execCmpxIx0, compareReg_ok _ _ hi hr hix hptr hdesc, subFlags_eq]
  case ix1 =>
    obtain ⟨hix, hptr, hdesc⟩ := hfits
    show execCmpxIx1 e o s = _
    rw [execCmpxIx1, compareReg_ok _ _ hi hr hix hptr hdesc, subFlags_eq]
  case binary =>
    show execFadd e o s = _ ∧ execFsub e o s = _ ∧ execFmul e o s = _ ∧ execFdiv e o s = _ ∧ execFcmp e o s = _
    exact ⟨floatOp_ok addF hi hacc hr, floatOp_ok (fun a b => addF a (negF b)) hi hacc hr, floatOp_ok mulF hi hacc hr,
      floatOp_ok divF hi hacc hr, execFcmp_ok hi hacc hr⟩

end Sys2Proof.Machine
end

section
/-!
PROOFS. Tags, flag moves, counters, `nop` and `pause` (R63, R64, R81, R103).
-/

namespace Sys2Proof.Machine

section Tags

variable {s : State} {e : Fin 104} {o : SOp} {w1 w2 w3 : World}

/-! `gtag` (R63). -/

/-- The registers after `gtag` has found the tag t. -/
def Core.tagFound (c : Core) (t : Tag) : Core := ({ c with acc := ⟨w64 t.toNat, 1#4⟩ } : Core).setZNclr (w64 t.toNat)

/-- The tag of an operand of `gtag`. -/
def tagOf (o : SOp) (c : Core) : EM Tag := do
  match ← form o with
  | .imm _ => return 0#4
  | .immHi _ => return 0#4
  | .reg r => return (c.readReg r).t
  | .mem b d => do
    let a ← effAddr b d
    tagOfWord a

theorem execGtag_ok {t : Tag} (hi : Issues s e w1) (ht : Does s e (tagOf o (w1.core e)) w1 t w2) :
    execGtag e o s = .next (retired s w2 e (lenOf o) 1 ((w2.core e).tagFound t)) := by
  refine seqInstr_modC (fun c => c.tagFound t) hi ?_
  rw [(getC_does s e w1).bind]
  exact ht.bind _

theorem tagOf_imm {v : W64} (h : formOf o = some (.imm v) ∨ formOf o = some (.immHi v)) (c : Core) :
    Does s e (tagOf o c) w1 0#4 w1 := by
  unfold Does tagOf
  obtain hf | hf := h
  · rw [(form_does hf).bind]
    rfl
  · rw [(form_does hf).bind]
    rfl

theorem tagOf_reg {r : Nat} (hf : formOf o = some (.reg r)) (c : Core) : Does s e (tagOf o c) w1 (c.readReg r).t w1 := by
  unfold Does tagOf
  rw [(form_does hf).bind]
  rfl

/-- An operand that has an address is in memory. -/
theorem memAddr_form {a : W64} (ha : Does s e (memAddr o) w1 a w2) :
    ∃ b d, formOf o = some (.mem b d) ∧ Does s e (effAddr b d) w1 a w2 := by
  unfold Does memAddr form at ha
  cases hf : formOf o with
  | none => simp [hf, EM.bind_run, illegal] at ha
  | some f =>
    rw [hf] at ha
    cases f with
    | mem b d => exact ⟨b, d, rfl, ha⟩
    | imm v | immHi v => cases ha
    | reg r => cases ha

theorem tagOf_word {a : W64} {t : Tag} (ha : Does s e (memAddr o) w1 a w2) (ht : Does s e (tagOfWord a) w2 t w3) (c : Core) :
    Does s e (tagOf o c) w1 t w3 := by
  obtain ⟨b, d, hf, haddr⟩ := memAddr_form ha
  unfold Does tagOf
  rw [(form_does hf).bind]
  exact (haddr.bind _).trans ht

/-! `stag`, `chk` and `setf` (R64). -/

theorem tagImm_does {t : W64} (hf : formOf o = some (.imm t)) (ht : t.toNat ≤ 15) : Does s e (tagImm o) w1 t.toNat w1 := by
  unfold Does tagImm
  rw [(form_does hf).bind]
  exact (need_does s e w1 (decide_eq_true ht)).bind _

theorem execStag_ok {t : W64} (hi : Issues s e w1) (hf : formOf o = some (.imm t)) (ht : t.toNat < 5) :
    execStag e o s = .next (retired s w1 e (lenOf o) 1 { w1.core e with acc := ⟨(w1.core e).acc.v, t.setWidth 4⟩ }) := by
  have hlegal : (decide (t.toNat < 8) || decide (t.toNat = 15)) = true := by
    rw [decide_eq_true (by omega)]
    rfl
  refine seqInstr_modC (fun c => { c with acc := ⟨c.acc.v, t.setWidth 4⟩ }) hi ?_
  rw [(tagImm_does hf (by omega)).bind, (need_does s e w1 hlegal).bind, if_neg (by omega), BitVec.ofNat_toNat]

theorem execChk_ok {t : W64} (hi : Issues s e w1) (hf : formOf o = some (.imm t)) (ht : t.toNat < 8 ∨ t.toNat = 15)
    (hacc : (w1.core e).acc.t.toNat = t.toNat) : execChk e o s = .next (retired s w1 e (lenOf o) 1 (w1.core e)) := by
  have hlegal : (decide (t.toNat < 8) || decide (t.toNat = 15)) = true := by simpa using ht
  refine seqInstr_ok hi ?_
  unfold Does
  rw [(tagImm_does hf (by omega)).bind, (need_does s e w1 hlegal).bind, (getC_does s e w1).bind, if_neg (not_not_intro hacc)]
  rfl

/-- The flags of the status word are its low four bits (R58). -/
theorem setFld_flags (st v : W64) : setFld st 0 4 (fld v 0 4) = (st &&& ~~~ 0xF#64) ||| (v &&& 0xF#64) := by
  have hones : ones 64 0 4 = 0xF#64 := rfl
  have hlow : BitVec.ofNat 64 (fld v 0 4 % 2 ^ 4 * 2 ^ 0) = v &&& 0xF#64 := by
    apply BitVec.eq_of_toNat_eq
    have hand : v.toNat &&& 0xF = v.toNat % 2 ^ 4 := Nat.and_two_pow_sub_one_eq_mod v.toNat 4
    rw [fld_zero_eq_mod, BitVec.toNat_and, BitVec.toNat_ofNat, BitVec.toNat_ofNat]
    simp only [Nat.reducePow, Nat.reduceMod] at hand ⊢
    rw [hand]
    omega
  rw [setFld, hones, hlow]

theorem execSetf_ok (hi : Issues s e w1) (hm : o.mode = 0#3) (ho : o.opnd = 0#20)
    (hacc : Usable (w1.core e) .int (w1.core e).acc.t) :
    execSetf e o s = .next (retired s w1 e (lenOf o) 1
      { w1.core e with st := ((w1.core e).st &&& ~~~ 0xF#64) ||| ((w1.core e).acc.v &&& 0xF#64) }) := by
  refine seqInstr_modC (fun c => { c with st := (c.st &&& ~~~ 0xF#64) ||| ((w1.core e).acc.v &&& 0xF#64) }) hi ?_
  rw [(noOperand_does hm ho).bind, (useAcc_does hacc).bind]
  simp only [setFld_flags]

end Tags

/-! Instructions without operand (R81, R103). -/

section NoOperand

variable {s : State} {e : Fin 104} {o : SOp} {w1 : World} (hi : Issues s e w1) (hm : o.mode = 0#3) (ho : o.opnd = 0#20)
include hi hm ho

theorem execNop_ok : execNop e o s = .next (retired s w1 e (lenOf o) 1 (w1.core e)) :=
  seqInstr_ok hi (noOperand_does hm ho)

theorem execRdcyc_ok : execRdcyc e o s = .next (retired s w1 e (lenOf o) 1
    { w1.core e with acc := ⟨sgetD (w1.eng e.val).ctrs 0x11 0#64, 1#4⟩ }) := by
  refine seqInstr_modC (fun c => { c with acc := ⟨sgetD (w1.eng e.val).ctrs 0x11 0#64, 1#4⟩ }) hi ?_
  rw [(noOperand_does hm ho).bind]
  rfl

theorem execRdinst_ok : execRdinst e o s = .next (retired s w1 e (lenOf o) 1
    { w1.core e with acc := ⟨(w1.core e).instret, 1#4⟩ }) := by
  refine seqInstr_modC (fun c => { c with acc := ⟨(w1.core e).instret, 1#4⟩ }) hi ?_
  rw [(noOperand_does hm ho).bind]
  rfl

theorem execPause_ok : execPause e o s =
    .next (retired s (w1.modEng e.val (fun x => { x with wait := .pause })) e (lenOf o) 32 (w1.core e)) := by
  have hcore : (w1.modEng e.val (fun x => { x with wait := .pause })).core e = w1.core e := by
    rw [World.core, eng_modEng]
  rw [← hcore]
  refine seqInstr_ok hi ?_
  unfold Does
  rw [(noOperand_does hm ho).bind]
  rfl

end NoOperand

theorem exec_pauseExpire_ends {s : State} {e : Fin 104} (hwait : (s.w.eng e.val).wait = .pause) :
    exec (.pauseExpire e) s = toWorld s (s.w.modEng e.val (fun x => { x with wait := .none })) :=
  toWorld_modEng (if_pos hwait)

/-- Settles O15: each of these instructions reads what its name says once its operand form is legal. -/
theorem tagsAndCounters : Obligations.TagsAndCounters := by
  unfold Obligations.TagsAndCounters
  refine ⟨fun s e o w1 w2 hi => ⟨fun v hf => execGtag_ok hi (tagOf_imm hf _), fun r hf => execGtag_ok hi (tagOf_reg hf _),
      fun a t w3 ha ht => execGtag_ok hi (tagOf_word ha ht _), fun t hf ht => execStag_ok hi hf ht,
      fun t hf ht hacc => execChk_ok hi hf ht hacc, fun hm ho hacc => execSetf_ok hi hm ho hacc⟩,
    fun s e o w1 => ⟨fun hi hm ho => ⟨execNop_ok hi hm ho, execRdcyc_ok hi hm ho, execRdinst_ok hi hm ho,
      execPause_ok hi hm ho⟩,
      exec_pauseExpire_ends⟩⟩

end Sys2Proof.Machine
end

section
/-!
PROOFS. Branches, jumps, calls and returns, service calls, and the interrupt enable (R56, R81, R82, R86, R117 to R119, R131,
R132).
-/

namespace Sys2Proof.Machine

/-! Instructions that answer the next `PC`. -/

section Next

variable {s : State} {e : Fin 104} {w1 w2 : World}

@[simp] theorem retiredTo_modC (w : World) (e : Fin 104) (pc : W64) (cy : Nat) (f : Core → Core) (c : Core) :
    retiredTo (w.modEng e.val (fun x => { x with core := f x.core })) e pc cy c = retiredTo w e pc cy c := by
  rw [World.modEng, retiredTo_setEng]
  rfl

/-- An instruction whose body ends by changing the registers and answers r. -/
theorem instr_modC {u l cy : Nat} {x : EM (Option W64)} (f : Core → Core) (r : Option W64) (hi : Issues s e w1)
    (h : x ⟨s.anat, e.val⟩ w1 = (do modC f; return r : EM (Option W64)) ⟨s.anat, e.val⟩ w2) :
    instr u l cy e x s =
      .next { s with w := retiredTo w2 e (r.getD ((f (w2.core e)).pc + w64 l)) cy (f (w2.core e)) } := by
  have hdoes : Does s e x w1 r (w2.modEng e.val (fun y => { y with core := f y.core })) := h
  rw [instr_ok hi hdoes, core_modC, retiredTo_modC]

/-- A target that is a multiple of 4 is accepted (R56, R82). -/
theorem target_does {v : W64} (h : v.toNat % 4 = 0) : Does s e (target v) w1 (some v) w1 := by
  unfold Does target
  rw [if_neg (not_not_intro ((fld_zero_eq_mod v 2).trans h))]
  rfl

end Next

/-! Branches (R56, R86). -/

section Branches

variable {s : State} {e : Fin 104} {b : BOp} {w1 : World}

/-- The destination of a branch that reads the registers c. -/
def branchTo (c : Core) (b : BOp) : W64 := c.pc + b.disp.signExtend 64 * 4#64

theorem execBcc_taken (hi : Issues s e w1) (hsame : condition (s.w.core e) b.sel = condition (w1.core e) b.sel)
    (hcond : condition (w1.core e) b.sel = some true) (halign : (branchTo (w1.core e) b).toNat % 4 = 0) :
    execBcc e b s = .next { s with w := retiredTo w1 e (branchTo (w1.core e) b) 2 (w1.core e) } := by
  rw [hcond] at hsame
  unfold execBcc
  rw [show condition (s.w.eng e.val).core b.sel = some true from hsame]
  refine instr_ok hi (r := some (branchTo (w1.core e) b)) ?_
  unfold Does
  rw [(getC_does s e w1).bind, hcond]
  exact target_does halign

theorem execBcc_passed (hi : Issues s e w1) (hsame : condition (s.w.core e) b.sel = condition (w1.core e) b.sel)
    (hcond : condition (w1.core e) b.sel = some false) : execBcc e b s = .next (retired s w1 e 4 1 (w1.core e)) := by
  rw [hcond] at hsame
  unfold execBcc
  rw [show condition (s.w.eng e.val).core b.sel = some false from hsame]
  refine instr_ok hi (r := none) ?_
  unfold Does
  rw [(getC_does s e w1).bind, hcond]
  rfl

end Branches

/-! Loops (R86). -/

section Loops

variable {s : State} {e : Fin 104} {b : BOp} {w1 : World}

/-- The index register that a `loop` counts in. -/
def loopIx (sel : BitVec 4) (c : Core) : TWord := if sel = 0#4 then c.ix0 else c.ix1

/-- The registers with that index register set. -/
def setLoopIx (sel : BitVec 4) (c : Core) (x : TWord) : Core := if sel = 0#4 then { c with ix0 := x } else { c with ix1 := x }

/-- The registers after a `loop` has counted. -/
def looped (sel : BitVec 4) (c : Core) : Core := setLoopIx sel c ⟨(loopIx sel c).v - 1#64, 1#4⟩

/-- What a `loop` does in the registers c. -/
def loopFrom (b : BOp) (c : Core) : EM (Option W64) := do
  need (decide (b.sel.toNat ≤ 1))
  checkTag .sub (loopIx b.sel c).t 0#64
  modC (fun k => setLoopIx b.sel k ⟨(loopIx b.sel c).v - 1#64, 1#4⟩)
  if (loopIx b.sel c).v - 1#64 = 0#64 then return none else target (branchTo c b)

theorem execLoop_eq : execLoop e b s =
    instr 0 4 (if (loopIx b.sel (s.w.core e)).v = 1#64 then 1 else 2) e (getC >>= loopFrom b) s := rfl

theorem execLoop_ok (hi : Issues s e w1) (hsel : b.sel.toNat ≤ 1)
    (hsame : loopIx b.sel (s.w.core e) = loopIx b.sel (w1.core e))
    (hu : Usable (w1.core e) .sub (loopIx b.sel (w1.core e)).t) (halign : (branchTo (w1.core e) b).toNat % 4 = 0) :
    execLoop e b s = .next (if (loopIx b.sel (w1.core e)).v = 1#64 then retired s w1 e 4 1 (looped b.sel (w1.core e))
      else { s with w := retiredTo w1 e (branchTo (w1.core e) b) 2 (looped b.sel (w1.core e)) }) := by
  have hlast : (loopIx b.sel (w1.core e)).v - 1#64 = 0#64 ↔ (loopIx b.sel (w1.core e)).v = 1#64 :=
    ⟨fun h => by bv_omega, fun h => by bv_omega⟩
  rw [execLoop_eq, hsame]
  split
  case isTrue hone =>
    refine instr_modC (fun k => setLoopIx b.sel k ⟨(loopIx b.sel (w1.core e)).v - 1#64, 1#4⟩) none hi (w2 := w1) ?_
    rw [(getC_does s e w1).bind, loopFrom, (need_does s e w1 (decide_eq_true hsel)).bind, (checkTag_does hu).bind,
      if_pos (hlast.mpr hone)]
  case isFalse hmore =>
    refine instr_modC (fun k => setLoopIx b.sel k ⟨(loopIx b.sel (w1.core e)).v - 1#64, 1#4⟩)
      (some (branchTo (w1.core e) b)) hi (w2 := w1) ?_
    rw [(getC_does s e w1).bind, loopFrom, (need_does s e w1 (decide_eq_true hsel)).bind, (checkTag_does hu).bind,
      if_neg (fun h => hmore (hlast.mp h)), (modC_does s e w1 _).bind]
    exact target_does halign

end Loops

/-! Jumps, calls and returns (R81, R82). -/

section Jumps

variable {s : State} {e : Fin 104} {o : SOp} {w1 w2 w3 : World} {t : W64}

theorem execJmp_ok (hi : Issues s e w1) (ht : Does s e (jumpTarget o) w1 t w2) (halign : t.toNat % 4 = 0) :
    execJmp e o s = .next { s with w := retiredTo w2 e t 2 (w2.core e) } := by
  refine instr_ok hi (r := some t) ?_
  unfold Does
  rw [ht.bind]
  exact target_does halign

theorem execCall_ok (hi : Issues s e w1) (ht : Does s e (jumpTarget o) w1 t w2) (halign : t.toNat % 4 = 0)
    (hs : Does s e (storeMemE ((w2.core e).sp - 8#64) 8 ((w2.core e).pc + w64 (lenOf o)) 7#4 false) w2 () w3) :
    execCall e o s = .next { s with w := retiredTo w3 e t 2 ((w3.core e).setSp ((w2.core e).sp - 8#64)) } := by
  refine instr_modC (fun k => k.setSp ((w2.core e).sp - 8#64)) (some t) hi ?_
  rw [ht.bind, (target_does halign).bind, (getC_does s e w2).bind, hs.bind]

theorem execRet_ok {l : Loaded} (hi : Issues s e w1) (hm : o.mode = 0#3) (ho : o.opnd = 0#20)
    (hl : Does s e (loadMem (w1.core e).sp 8 scalarLoad) w1 l w2) (htag : l.tag = 7#4)
    (halign : (w64 (leNat l.bytes)).toNat % 4 = 0) :
    execRet e o s =
      .next { s with w := retiredTo w2 e (w64 (leNat l.bytes)) 6 ((w2.core e).setSp ((w1.core e).sp + 8#64)) } := by
  refine instr_modC (fun k => k.setSp ((w1.core e).sp + 8#64)) (some (w64 (leNat l.bytes))) hi ?_
  rw [(noOperand_does hm ho).bind, (getC_does s e w1).bind, hl.bind, if_neg (not_not_intro htag)]
  exact (target_does halign).bind _

end Jumps

/-! Service calls (R117, R131). -/

section Services

variable {s : State} {e : Fin 104} {w1 : World}

/-- The exception of a service call with a number. -/
def serviceTrap (code : Byte) (n : BitVec 12) : Trap := { trapOf code 0#8 0#64 with info := n.setWidth 16, next := true }

/-- The registers with which a service call of four bytes enters its handler: those before it, but for the following `PC`,
`TFAULT_INFO` and the reuse latches, which its fetch may have changed. -/
def afterCall (before now : Core) : Core :=
  { before with pc := before.pc + 4#64, sys := sset before.sys 0x305 (now.sysGet 0x305)
                tf := { before.tf with latch0 := now.tf.latch0, latch1 := now.tf.latch1 } }

/-- A service call without tile instructions in flight retires and enters its handler. -/
theorem takeTrap_service (a : Anat) {w0 w1 : World} {e : Nat} (code : Byte) (n : BitVec 12) (htq : (w1.eng e).tq = []) :
    let c := afterCall (w0.eng e).core (w1.eng e).core
    takeTrap a w0 w1 e 0 4 (serviceTrap code n) =
      enterEvent a (w1.setEng e (({ w1.eng e with core := c }).retire 14 w1.freeCtr)) e (eventOf c 0 (serviceTrap code n))
        (lateChoice w1) := by
  intro c
  have hcommit : ({ w1.eng e with core := c } : Engine).commitAll = { w1.eng e with core := c } := by
    unfold Engine.commitAll
    rw [htq]
    rfl
  unfold takeTrap
  show enterEvent a (w1.setEng e (({ ({ w1.eng e with core := c } : Engine).commitAll with core := c } : Engine).retire 14
    w1.freeCtr)) e _ _ = _
  rw [hcommit]
  rfl

theorem notTask_does (h : (w1.core e).pl ≠ 2#2) : Does s e notTask w1 () w1 := by
  unfold Does notTask
  rw [(getC_does s e w1).bind, if_neg h]
  rfl

/-- A service call is taken, in a speculation too where it is `svc`. -/
theorem seqInstr_service {body : EM Unit} {code : Byte} {n : BitVec 12} (hi : Issues s e w1)
    (hspec : code ≠ 0x0D#8 → (s.w.eng e.val).speculating = false)
    (hb : body ⟨s.anat, e.val⟩ w1 = .error (.trap (serviceTrap code n)) w1) :
    seqInstr 0 4 1 e body s = toWorld s (takeTrap s.anat s.w w1 e.val 0 4 (serviceTrap code n)) := by
  obtain ⟨hcan, hfetch⟩ := hi
  have hprog : (do fetchCheck; body; return none : EM (Option W64)) ⟨s.anat, e.val⟩ s.w =
      .error (.trap (serviceTrap code n)) w1 := by
    rw [EM.bind_ok _ hfetch, EM.bind_error _ hb]
  have hpark : ((s.w.eng e.val).speculating && decide ((serviceTrap code n).code ≠ 0x0D#8)) = false := by
    by_cases hcode : code = 0x0D#8
    · rw [show decide ((serviceTrap code n).code ≠ 0x0D#8) = false from decide_eq_false (not_not_intro hcode), Bool.and_false]
    · rw [hspec hcode, Bool.false_and]
  unfold seqInstr instr runInstr runWith
  rw [if_pos hcan]
  simp only [hprog, hpark]
  rfl

theorem exec_svc {n : BitVec 12} (hi : Issues s e w1) :
    exec (.svc e ⟨0#11, n⟩) s = toWorld s (takeTrap s.anat s.w w1 e.val 0 4 (serviceTrap 0x0D#8 n)) := by
  refine seqInstr_service hi (fun hcode => absurd rfl hcode) ?_
  rw [(need_does s e w1 (by simp)).bind]
  rfl

theorem exec_mon {n : BitVec 12} (hi : Issues s e w1) (hpl : (w1.core e).pl ≠ 2#2)
    (hspec : (s.w.eng e.val).speculating = false) :
    exec (.mon e ⟨0#11, n⟩) s = toWorld s (takeTrap s.anat s.w w1 e.val 0 4 (serviceTrap 0x0E#8 n)) := by
  refine seqInstr_service hi (fun _ => hspec) ?_
  rw [(need_does s e w1 (by simp)).bind, (notTask_does hpl).bind]
  rfl

end Services

/-! Returns from exceptions, and the interrupt enable (R118, R119, R132). -/

section Levels

variable {s : State} {e : Fin 104} {w1 w2 : World}

theorem noFields_does (s : State) (e : Fin 104) (w : World) : Does s e (noFields ⟨0#11, 0#12⟩) w () w := rfl

theorem execRte_ok {l : List TWord} (hi : Issues s e w1) (hpl : (w1.core e).pl ≠ 2#2)
    (hl : Does s e (frameWords ((w1.modEng e.val Engine.commitAll).core e).sp) (w1.modEng e.val Engine.commitAll) l w2)
    (hst : (l.getD 1 TWord.zero).t = 6#4) (hpc : (l.getD 0 TWord.zero).t = 7#4)
    (hlevel : ((w1.modEng e.val Engine.commitAll).core e).pl.toNat ≤ fld (l.getD 1 TWord.zero).v 8 2)
    (hthree : fld (l.getD 1 TWord.zero).v 8 2 ≠ 3) (hrest : (l.getD 1 TWord.zero).v &&& ~~~ stMask = 0#64) :
    execRte e ⟨0#11, 0#12⟩ s =
      .next { s with w := retiredTo w2 e (l.getD 0 TWord.zero).v 14 ((w2.core e).restore l) } := by
  refine instr_modC (fun k => k.restore l) (some (l.getD 0 TWord.zero).v) hi ?_
  rw [(noFields_does s e w1).bind, (notTask_does hpl).bind, (modE_does s e w1 _).bind, (getC_does s e _).bind, hl.bind]
  dsimp only
  rw [if_neg (not_not_intro hst), if_neg (not_not_intro hpc), if_neg (Nat.not_lt.mpr hlevel),
    if_neg (not_or.mpr ⟨hthree, not_not_intro hrest⟩)]

theorem setIe_ok (b : Bool) (hi : Issues s e w1) (hpl : (w1.core e).pl ≠ 2#2) :
    setIe e ⟨0#11, 0#12⟩ b s =
      let w := w1.modEng e.val Engine.commitAll
      .next (retired s w e 4 1 { w.core e with st := setBit (w.core e).st 7 b }) := by
  refine seqInstr_modC (fun c => { c with st := setBit c.st 7 b }) hi ?_
  rw [(noFields_does s e w1).bind, (notTask_does hpl).bind, (modE_does s e w1 _).bind]

theorem setBit_ie_true (st : W64) : setBit st 7 true = st ||| 0x80#64 := by
  show (st &&& ~~~ 0x80#64) ||| 0x80#64 = st ||| 0x80#64
  ext i hlt
  simp only [BitVec.getElem_or, BitVec.getElem_and, BitVec.getElem_not]
  cases (0x80#64)[i] <;> simp

theorem setBit_ie_false (st : W64) : setBit st 7 false = st &&& ~~~ 0x80#64 := BitVec.or_zero

end Levels

/-- Settles O16: a branch or a jump answers its target as the next `PC`, a service call is a trap whose frame holds the following
instruction, and a return restores the frame that it has read. -/
theorem controlFlow : Obligations.ControlFlow := by
  unfold Obligations.ControlFlow
  refine ⟨fun s e o b w1 w2 w3 hi => ⟨fun hsame => ⟨fun hcond halign => execBcc_taken hi hsame hcond halign,
        fun hcond => execBcc_passed hi hsame hcond⟩, fun hsel hsame hu halign => ?loop0, fun hsel hsame hu halign => ?loop1,
      fun t ht halign => ⟨execJmp_ok hi ht halign, fun hs => execCall_ok hi ht halign hs⟩,
      fun l hm ho hl htag halign => execRet_ok hi hm ho hl htag halign⟩,
    fun s e n w1 w2 hi => ⟨fun p hp hcond htq hsame => ?service,
      fun l hpl hl hst hpc hlevel hthree hrest => execRte_ok hi hpl hl hst hpc hlevel hthree hrest, fun hpl => ?enable⟩⟩
  case loop0 =>
    obtain ⟨sel, disp⟩ := b
    subst hsel
    exact execLoop_ok (b := ⟨0#4, disp⟩) hi (Nat.zero_le 1) hsame hu halign
  case loop1 =>
    obtain ⟨sel, disp⟩ := b
    subst hsel
    exact execLoop_ok (b := ⟨1#4, disp⟩) hi (Nat.le_refl 1) hsame hu halign
  case service =>
    have hcall : ∀ p ∈ ([(Instr.svc, 0x0D#8), (Instr.mon, 0x0E#8)] : List ((Fin 104 → YOp → Instr) × Byte)),
        (p.2 = 0x0E#8 → (w1.core e).pl ≠ 2#2 ∧ (s.w.eng e.val).speculating = false) →
        exec (p.1 e ⟨0#11, n⟩) s = toWorld s (takeTrap s.anat s.w w1 e.val 0 4 (serviceTrap p.2 n)) := by
      simp only [List.forall_mem_cons, List.not_mem_nil, false_imp_iff, implies_true, and_true]
      refine ⟨fun _ => exec_svc hi, fun hmon => ?_⟩
      obtain ⟨hpl, hspec⟩ := hmon trivial
      exact exec_mon hi hpl hspec
    intro at'
    have hlevel : at'.pl = (w1.core e).pl := (congrArg Core.pl hsame.symm : (s.w.core e).pl = _)
    rw [hcall p hp hcond, takeTrap_service s.anat p.2 n htq, ← hlevel]
    rfl
  case enable =>
    rw [← setBit_ie_true, ← setBit_ie_false]
    exact ⟨setIe_ok true hi hpl, setIe_ok false hi hpl⟩

end Sys2Proof.Machine
end

section
/-!
PROOFS. Reads and writes of the system registers (R80, R99 to R101, R104, R152, R157, R202, R263, R302, R306, R392, R425).
-/

namespace Sys2Proof.Machine

/-! Registers that only hold their value. -/

/-- The registers that a write changes by their access codes alone. -/
def heldRegs : List Nat :=
  [0x102, 0x104, 0x108, 0x140, 0x141, 0x142, 0x143, 0x198, 0x1A0, 0x1A1, 0x1A2, 0x1A3, 0x1A4, 0x1A5, 0x1A8, 0x1B9, 0x1BA, 0x1BB,
    0x1BC, 0x1BD, 0x1BE, 0x1BF, 0x1C0, 0x203, 0x204, 0x205, 0x206, 0x207, 0x212, 0x213, 0x219, 0x21A, 0x240, 0x304, 0x305, 0x340,
    0x341, 0x342, 0x343, 0x344, 0x360]

theorem outsideCore_held : ∀ n ∈ heldRegs, outsideCore n = false := by decide

theorem sysStore_held (k : SysAct) (v new : W64) : ∀ n ∈ heldRegs, sysStore n k v new = modC (fun q => q.sysSet n new) := by
  intro n hn
  fin_cases hn <;> rfl

section Writes

variable {s : State} {e : Fin 104} {w1 w2 : World}

theorem writeReached_inside {n : Nat} (h : outsideCore n = false) : writeReached n w1 e = tileReached n w1 e := by
  rw [writeReached, h]
  rfl

theorem sysWrite_held {m : BitVec 12} {l : Nat} {k : SysAct} {r : SysReg} (hi : Issues s e w1) (hm : m.toNat ∈ heldRegs)
    (hreg : sysReg m.toNat = some r) (hwr : r.wr = some l) (hpl : (w1.core e).pl.toNat ≤ l)
    (hacc : Usable (w1.core e) .addr (w1.core e).acc.t) :
    let w := tileReached m.toNat w1 e
    let new := k.apply r.spec (sysValue s.anat w e.val m.toNat) (w1.core e).acc.v
    sysAccepts m.toNat k (w1.core e).acc.v new = true →
      sysInstr e ⟨0#11, m⟩ (fun q => sysWriteE q k) s = .next (retired s w e 4 3 ((w.core e).sysSet m.toNat new)) := by
  intro w new haccepts
  have hreach := writeReached_inside (w1 := w1) (e := e) (outsideCore_held m.toNat hm)
  have hwrite := sysWrite_modC (s := s) (k := k) (fun q => q.sysSet m.toNat new) rfl hi hreg hwr hpl hacc
    (by rw [hreach]; exact haccepts) (by rw [hreach]; exact sysStore_held k _ _ _ hm)
  rw [hreach] at hwrite
  exact hwrite

/-! Writes of one register. -/

/-- A whole write of register n that changes only the core; whether it is accepted depends on the written value alone. -/
theorem swriteOf_core {n l : Nat} {r : SysReg} (g : Core → Core) (hn : n < 2 ^ 12) (hi : Issues s e w1)
    (hreg : sysReg n = some r) (hwr : r.wr = some l) (hpl : (w1.core e).pl.toNat ≤ l)
    (hacc : Usable (w1.core e) .addr (w1.core e).acc.t) (haccepts : ∀ new, sysAccepts n .write (w1.core e).acc.v new = true)
    (hstore : sysStore n .write (w1.core e).acc.v
      (regWrite r.spec (sysValue s.anat (writeReached n w1 e) e.val n) (w1.core e).acc.v) = modC g) :
    swriteOf e n 0#11 s = .next (retired s (writeReached n w1 e) e 4 3 (g ((writeReached n w1 e).core e))) :=
  sysWrite_modC g (Nat.mod_eq_of_lt hn) hi hreg hwr hpl hacc (haccepts _) hstore

/-- A write of a register that has RW bits only (R6). -/
theorem regWrite_regRW (reset m old v : W64) : regWrite (regRW reset m) old v = (old &&& ~~~ m) ||| (v &&& m) := by
  show (((old &&& ~~~ m) ||| (v &&& m)) &&& ~~~ (v &&& 0#64)) ||| (v &&& 0#64) = _
  rw [BitVec.and_zero, BitVec.or_zero, BitVec.not_zero, BitVec.and_allOnes]

/-- The low bits of a register whose low bits can be written are those of the written value. -/
theorem regWrite_low {n : Nat} (hn : n ≤ 64) (reset old v : W64) :
    fld (regWrite (regRW reset (ones 64 0 n)) old v) 0 n = v.toNat % 2 ^ n := by
  have hbits : (regWrite (regRW reset (ones 64 0 n)) old v).extractLsb' 0 n = v.extractLsb' 0 n := by
    rw [regWrite_regRW]
    apply BitVec.eq_of_getLsbD_eq
    intro i hi
    have hi64 : i < 64 := by omega
    have hone : (ones 64 0 n).getLsbD i = true := by simp [ones_getLsbD 0 n i hi64, hi]
    simp only [BitVec.getLsbD_extractLsb', Nat.zero_add, BitVec.getLsbD_or, BitVec.getLsbD_and, BitVec.getLsbD_not, hone]
    simp
  calc
    fld (regWrite (regRW reset (ones 64 0 n)) old v) 0 n = fld v 0 n := congrArg BitVec.toNat hbits
    _ = v.toNat % 2 ^ n := fld_zero_eq_mod v n

/-! `VL` (R152). -/

theorem exec_vlWrite_ok (hi : Issues s e w1) (hpl : (w1.core e).pl.toNat ≤ 2)
    (hacc : Usable (w1.core e) .addr (w1.core e).acc.t) :
    exec (.vlWrite e 0#11) s = .next (retired s w1 e 4 3
      (((w1.core e).sysSet 0x100 (w64 (min ((w1.core e).acc.v.toNat % 2 ^ 14) (w1.core e).vt.vlmax))).sticky 0x104 0)) := by
  have hlow : fld (regWrite (regRW 0#64 0x3FFF#64) (sysValue s.anat w1 e.val 0x100) (w1.core e).acc.v) 0 14 =
      (w1.core e).acc.v.toNat % 2 ^ 14 := regWrite_low (n := 14) (by decide) _ _ _
  rw [← hlow]
  exact swriteOf_core (n := 0x100) (fun c => (c.sysSet 0x100 (w64 (min (fld (regWrite (regRW 0#64 0x3FFF#64)
    (sysValue s.anat w1 e.val 0x100) (w1.core e).acc.v) 0 14) c.vt.vlmax))).sticky 0x104 0) (by decide) hi rfl rfl hpl hacc
    (fun _ => rfl) rfl

/-! The shapes of tiles and accumulators (R202, R204, R206). -/

theorem sysReg_tileShape : ∀ n : BitVec 4, sysReg (0x180 + n.toNat) = some ⟨2, some 2, regRW 0#64 0x1FFFFF#64⟩ := by decide

theorem sysReg_accShape : ∀ n : BitVec 2, sysReg (0x190 + n.toNat) = some ⟨2, some 2, regRW 0#64 0xFFFF#64⟩ := by decide

theorem outsideCore_tileShape : ∀ n : BitVec 4, outsideCore (0x180 + n.toNat) = false := by decide

theorem outsideCore_accShape : ∀ n : BitVec 2, outsideCore (0x190 + n.toNat) = false := by decide

theorem sysAccepts_tileShape {n : Nat} (hlo : 0x180 ≤ n) (hhi : n < 0x190) (v new : W64) :
    sysAccepts n .write v new = tsOk v := by
  unfold sysAccepts
  exact if_pos ⟨hlo, hhi⟩

theorem sysAccepts_accShape {n : Nat} (hlo : 0x190 ≤ n) (hhi : n < 0x194) (v new : W64) :
    sysAccepts n .write v new = asOk v := by
  unfold sysAccepts
  exact (if_neg (by omega)).trans (if_pos ⟨hlo, hhi⟩)

/-- A shape is reached after the tile instructions in flight, and its change marks `TSTAT.DIRTY`. -/
theorem swriteOf_shape {n : Nat} {m : W64} (hlo : 0x180 ≤ n) (hhi : n < 0x194) (hi : Issues s e w1)
    (hpl : (w1.core e).pl.toNat ≤ 2) (hacc : Usable (w1.core e) .addr (w1.core e).acc.t)
    (hreg : sysReg n = some ⟨2, some 2, regRW 0#64 m⟩) (hin : outsideCore n = false)
    (haccepts : ∀ new, sysAccepts n .write (w1.core e).acc.v new = true) :
    let w := w1.modEng e.val Engine.commitAll
    swriteOf e n 0#11 s = .next (retired s w e 4 3
      (((w.core e).sysSet n (regWrite (regRW 0#64 m) (sysValue s.anat w e.val n) (w1.core e).acc.v)).sticky 0x198 0)) := by
  intro w
  have hreach : writeReached n w1 e = w := by
    rw [writeReached_inside hin, tileReached, if_pos (by omega)]
  rw [← hreach]
  refine swriteOf_core (fun q => (q.sysSet n _).sticky 0x198 0) (by omega) hi hreg rfl hpl hacc haccepts ?_
  unfold sysStore
  exact if_pos (by omega)

/-! `TRANS_CTX` (R425). -/

theorem trySetCtx_does {v : W64} {n : Nat} (hn : fld v 0 16 = n)
    (h : (n = 0 ∧ (w1.core e).pl = 0#2) ∨ ∃ x, ctxMatch s.anat w1 n (w1.eng e.val).who = .ok x) :
    Does s e (trySetCtx v) w1 () (w1.modEng e.val (fun x => { x with core := x.core.sysSet 0x300 (w64 n) })) := by
  subst hn
  unfold Does trySetCtx
  rw [EM.bind_ok _ (EM.read_run _ _), EM.bind_ok _ (EM.get_run _ _), (getE_does s e w1).bind]
  by_cases hzero : fld v 0 16 = 0 ∧ (w1.core e).pl = 0#2
  · rw [if_pos (by simpa using hzero), hzero.1]
    rfl
  · obtain ⟨x, hx⟩ := h.resolve_left hzero
    rw [if_neg (by simpa using hzero)]
    simp only [hx]
    rfl

theorem exec_transCtxWrite_ok (hi : Issues s e w1) (hpl : (w1.core e).pl.toNat ≤ 1)
    (hacc : Usable (w1.core e) .addr (w1.core e).acc.t) {n : Nat} (hn : (w1.core e).acc.v.toNat % 2 ^ 16 = n)
    (h : (n = 0 ∧ (w1.core e).pl = 0#2) ∨ ∃ x, ctxMatch s.anat w1 n (w1.eng e.val).who = .ok x) :
    exec (.transCtxWrite e 0#11) s = .next (retired s w1 e 4 3 ((w1.core e).sysSet 0x300 (w64 n))) := by
  have hlow : fld (regWrite (regRW 0#64 0xFFFF#64) (sysValue s.anat w1 e.val 0x300) (w1.core e).acc.v) 0 16 = n :=
    (regWrite_low (n := 16) (by decide) _ _ _).trans hn
  have hwrite : swriteOf e 0x300 0#11 s = _ :=
    sysWrite_ok (n := 0x300) (k := .write) rfl hi rfl rfl hpl hacc rfl (trySetCtx_does hlow h)
  rw [show writeReached 0x300 w1 e = w1 from rfl, core_modC w1 e (fun c => c.sysSet 0x300 (w64 n)),
    retired_modC s w1 e 4 3 (fun c => c.sysSet 0x300 (w64 n))] at hwrite
  exact hwrite

/-! `PF_TDESC` (R392). -/

section Prefetch

variable {w : World} {v : W64}

/-- The registers in which bit `mark` of `PF_STAT` tells why a descriptor was not taken. -/
def Core.pfRefused (c : Core) (mark : W64) : Core := c.sysSet 0x362 (c.sysGet 0x362 ||| mark)

theorem pfTdesc_full (h : 4 ≤ (w.eng e.val).pfd.length) :
    Does s e (pfTdesc v) w () (w.modEng e.val (fun y => { y with core := y.core.pfRefused 0x40#64 })) := by
  unfold Does pfTdesc
  rw [EM.bind_ok _ (EM.read_run _ _), EM.bind_ok _ (EM.get_run _ _), (getE_does s e w).bind, if_pos h]
  rfl

theorem pfTdesc_joins {d : PfDesc} (h : ¬ 4 ≤ (w.eng e.val).pfd.length) (hd : readPfDesc s.anat w (w.eng e.val) v = some d) :
    Does s e (pfTdesc v) w () (w.modEng e.val (fun y => { y with pfd := y.pfd ++ [d] })) := by
  unfold Does pfTdesc
  rw [EM.bind_ok _ (EM.read_run _ _), EM.bind_ok _ (EM.get_run _ _), (getE_does s e w).bind, if_neg h]
  simp only [hd]
  rfl

theorem pfTdesc_malformed (h : ¬ 4 ≤ (w.eng e.val).pfd.length) (hd : readPfDesc s.anat w (w.eng e.val) v = none) :
    Does s e (pfTdesc v) w () (w.modEng e.val (fun y => { y with core := y.core.pfRefused 0x80#64 })) := by
  unfold Does pfTdesc
  rw [EM.bind_ok _ (EM.read_run _ _), EM.bind_ok _ (EM.get_run _ _), (getE_does s e w).bind, if_neg h]
  simp only [hd]
  rfl

theorem exec_pfTdesc_ok (hi : Issues s e w1) (hpl : (w1.core e).pl.toNat ≤ 1)
    (hacc : Usable (w1.core e) .addr (w1.core e).acc.t) :
    let w := w1.modEng e.val Engine.commitAll
    let x := w.eng e.val
    exec (.pfTdesc e 0#11) s = .next (
      if 4 ≤ x.pfd.length then retired s w e 4 3 (x.core.pfRefused 0x40#64)
      else match readPfDesc s.anat w x (w1.core e).acc.v with
        | some d => retired s (w.modEng e.val (fun y => { y with pfd := y.pfd ++ [d] })) e 4 3 x.core
        | none => retired s w e 4 3 (x.core.pfRefused 0x80#64)) := by
  intro w x
  have hwrite {w2 : World} (hdo : Does s e (pfTdesc (w1.core e).acc.v) w () w2) :
      swriteOf e 0x361 0#11 s = .next (retired s w2 e 4 3 (w2.core e)) :=
    sysWrite_ok (n := 0x361) rfl hi rfl rfl hpl hacc rfl hdo
  have hmarked (m : W64) : retired s (w.modEng e.val (fun y => { y with core := y.core.pfRefused m })) e 4 3
      ((w.modEng e.val (fun y => { y with core := y.core.pfRefused m })).core e) = retired s w e 4 3 (x.core.pfRefused m) := by
    rw [core_modC w e (fun c => c.pfRefused m), retired_modC s w e 4 3 (fun c => c.pfRefused m)]
  by_cases hfull : 4 ≤ x.pfd.length
  · rw [if_pos hfull, ← hmarked]
    exact hwrite (pfTdesc_full hfull)
  · rw [if_neg hfull]
    cases hd : readPfDesc s.anat w x (w1.core e).acc.v with
    | some d =>
      have hcore : (w.modEng e.val (fun y => { y with pfd := y.pfd ++ [d] })).core e = x.core := by rw [World.core, eng_modEng]
      dsimp only
      rw [← hcore]
      exact hwrite (pfTdesc_joins hfull hd)
    | none =>
      dsimp only
      rw [← hmarked]
      exact hwrite (pfTdesc_malformed hfull hd)

end Prefetch

/-! The mask window (R157). -/

/-- What a whole write, a set and a clear leave in a register whose every bit can be written. -/
theorem mwin_change (k : BitVec 2) (old v : W64) :
    (if k = 1#2 then SysAct.write else if k = 2#2 then .setBits else .clrBits).apply (regRW 0#64 0xFFFFFFFFFFFFFFFF#64) old v =
      if k = 1#2 then v else if k = 2#2 then old ||| v else old &&& ~~~ v := by
  have hall : v &&& 0xFFFFFFFFFFFFFFFF#64 = v := BitVec.and_allOnes
  split
  · show regWrite (regRW 0#64 (BitVec.allOnes 64)) old v = v
    rw [regWrite_regRW, BitVec.not_allOnes, BitVec.and_zero, BitVec.zero_or, BitVec.and_allOnes]
  split
  · show old ||| (v &&& 0xFFFFFFFFFFFFFFFF#64) = old ||| v
    rw [hall]
  · show old &&& ~~~ (v &&& 0xFFFFFFFFFFFFFFFF#64) = old &&& ~~~ v
    rw [hall]

section Window

variable (hi : Issues s e w1) (hpl : (w1.core e).pl.toNat ≤ 2)
include hi hpl

theorem exec_mwinData_read : exec (.mwinData e 0#2 0#11) s =
    .next (retired s w1 e 4 3 (({ w1.core e with acc := ⟨(w1.core e).mwinGet, 1#4⟩ } : Core).mwinNext)) := by
  have hl : ¬ 2 < (w1.core e).pl.toNat := Nat.not_lt.mpr hpl
  refine seqInstr_modC2 (fun c => { c with acc := ⟨(w1.core e).mwinGet, 1#4⟩ }) Core.mwinNext hi (w2 := w1) ?_
  rw [(need_does s e w1 (by simp)).bind]
  show sysReadE 0x109 _ _ = _
  unfold sysReadE
  rw [(show Does s e (sysFind 0x109) w1 ⟨2, some 2, regRW 0#64 0xFFFFFFFFFFFFFFFF#64⟩ w1 from rfl).bind,
    (getC_does s e w1).bind, if_neg hl]
  exact (tileWait_does s e 0x109 w1).bind _

/-- The registers c after a change of `MWIN_DATA` to new. -/
def Core.mwinPut (c : Core) (new : W64) : Core :=
  let q := c.sysGet 0x108
  ((c.setMreg (fld q 8 3) (setFld (c.mreg (fld q 8 3)) (64 * fld q 0 7) 64 new.toNat)).mwinNext).sticky 0x104 0

theorem exec_mwinData_change {k : BitVec 2} (hk : k ≠ 0#2) (hacc : Usable (w1.core e) .addr (w1.core e).acc.t) :
    let c := w1.core e
    exec (.mwinData e k 0#11) s = .next (retired s w1 e 4 3 (c.mwinPut
      (if k = 1#2 then c.acc.v else if k = 2#2 then c.mwinGet ||| c.acc.v else c.mwinGet &&& ~~~ c.acc.v))) := by
  intro c
  rw [← mwin_change k c.mwinGet c.acc.v]
  show execMwinData e k 0#11 s = _
  unfold execMwinData
  simp only [if_neg hk]
  exact sysWrite_modC (n := 0x109) (fun q => q.mwinPut _) rfl hi rfl rfl hpl hacc rfl rfl

end Window

end Writes

/-- Settles O17: a register is read and changed through its access codes once the level and the value allow it, and a register with
a rule of its own is stored by the case of `sysStore` that names it. -/
theorem systemRegisters : Obligations.SystemRegisters := by
  unfold Obligations.SystemRegisters
  refine ⟨fun s e n w1 r hi hreg => ?access,
    fun s e w1 hi hpl hacc => ⟨fun hv => ?fcsr, fun hv => ?vtype, ?vl, fun hv => ?routeCfg, fun hv => ?routeRows,
      fun n hv => ?ts, fun n hv => ?as, fun hv => ?trnd, fun hpl1 hv => ?pfCtl, fun hpl1 hctx => ?transCtx, fun hpl1 => ?pfTdesc,
      ?mwinRead, fun k hk => ?mwinWrite⟩⟩
  case access =>
    have hreach : (if (decide (0x180 ≤ n.toNat) && decide (n.toNat < 0x1C0)) = true
        then w1.modEng e.val Engine.commitAll else w1) =
        tileReached n.toNat w1 e := by simp [tileReached]
    intro c tile w
    rw [show w = tileReached n.toNat w1 e from hreach]
    refine ⟨fun hrd hn => sysRead_ok hi hreg hrd (fun h => hn (BitVec.eq_of_toNat_eq h)), fun l hwr hpl hacc hn => ?_⟩
    intro old p hp haccepts
    have hact : ∀ p ∈ ([(Instr.swrite, SysAct.write, regWrite r.spec old c.acc.v),
        (Instr.sset, SysAct.setBits, regSset r.spec old c.acc.v), (Instr.sclr, SysAct.clrBits, regSclr r.spec old c.acc.v)] :
        List ((Fin 104 → YOp → Instr) × SysAct × W64)),
        exec (p.1 e ⟨0#11, n⟩) s = sysInstr e ⟨0#11, n⟩ (fun q => sysWriteE q p.2.1) s ∧
          p.2.2 = p.2.1.apply r.spec old c.acc.v := by
      simp only [List.forall_mem_cons, List.not_mem_nil, false_imp_iff, implies_true, and_true]
      exact ⟨⟨rfl, rfl⟩, ⟨rfl, rfl⟩, ⟨rfl, rfl⟩⟩
    obtain ⟨hexec, hnew⟩ := hact p hp
    rw [hexec, hnew]
    rw [hnew] at haccepts
    exact sysWrite_held hi hn hreg hwr hpl hacc haccepts
  case fcsr =>
    exact swriteOf_core (n := 0x1C0) (fun c => c.sysSet 0x1C0 _) (by decide) hi rfl rfl hpl hacc
      (fun _ => decide_eq_true ((fld_zero_eq_mod _ 2).trans_le hv)) rfl
  case vtype =>
    exact swriteOf_core (n := 0x101) (fun c => (c.setVtype _).sticky 0x104 0) (by decide) hi rfl rfl hpl hacc (fun _ => hv) rfl
  case vl => exact exec_vlWrite_ok hi hpl hacc
  case routeCfg =>
    exact swriteOf_core (n := 0x140) (fun c => c.sysSet 0x140 _) (by decide) hi rfl rfl hpl hacc (fun _ => hv) rfl
  case routeRows =>
    exact swriteOf_core (n := 0x142) (fun c => c.sysSet 0x142 _) (by decide) hi rfl rfl hpl hacc (fun _ => hv) rfl
  case ts =>
    have hlt := n.isLt
    exact swriteOf_shape (by omega) (by omega) hi hpl hacc (sysReg_tileShape n) (outsideCore_tileShape n)
      (fun new => (sysAccepts_tileShape (by omega) (by omega) _ new).trans hv)
  case as =>
    have hlt := n.isLt
    exact swriteOf_shape (by omega) (by omega) hi hpl hacc (sysReg_accShape n) (outsideCore_accShape n)
      (fun new => (sysAccepts_accShape (by omega) (by omega) _ new).trans hv)
  case trnd =>
    exact swriteOf_core (n := 0x1BC) (fun c => c.sysSet 0x1BC _) (by decide) hi rfl rfl hpl hacc (fun _ => hv) rfl
  case pfCtl =>
    exact swriteOf_core (n := 0x360) (fun c => c.sysSet 0x360 _) (by decide) hi rfl rfl hpl1 hacc (fun _ => hv) rfl
  case transCtx => exact exec_transCtxWrite_ok hi hpl1 hacc rfl hctx
  case pfTdesc => exact exec_pfTdesc_ok hi hpl1 hacc
  case mwinRead => exact exec_mwinData_read hi hpl
  case mwinWrite => exact exec_mwinData_change hi hpl hk hacc

end Sys2Proof.Machine
end
